-- ==== Sys2Proof/Word.lean ====
section
/-! DEFINITION. The word types of the Damrun 3240 and its sparse tables: bytes, 64-bit g values, and the keyed table
that holds one entry for each object that differs from its reset value. -/

namespace Sys2Proof

/-- A byte (spec/00_scope.md R2). -/
abbrev Byte := BitVec 8

/-- A 32-bit instruction or parameter word (spec/03_encodings.md R61). -/
abbrev Word32 := BitVec 32

/-- A g register, a w register, a vp register, a configuration register (spec/01_machine_state.md R11, R13, R29). -/
abbrev Word64 := BitVec 64

/-- A keyed table in rising key order. A key that is not listed has the table's default, which the reader names. -/
abbrev Tbl (α : Type) := List (Nat × α)

/-- The entry of key `k`, if one is listed. -/
def Tbl.get? {α : Type} (t : Tbl α) (k : Nat) : Option α :=
  match t with
  | [] => none
  | (k', v) :: rest => if k' = k then some v else Tbl.get? rest k

/-- The entry of key `k`, or the default. -/
def Tbl.getD {α : Type} (t : Tbl α) (k : Nat) (dflt : α) : α :=
  (Tbl.get? t k).getD dflt

/-- The table with the entry of key `k` set. -/
def Tbl.set {α : Type} (t : Tbl α) (k : Nat) (v : α) : Tbl α :=
  match t with
  | [] => [(k, v)]
  | (k', v') :: rest =>
    if k < k' then (k, v) :: (k', v') :: rest
    else if k = k' then (k, v) :: rest
    else (k', v') :: Tbl.set rest k v

/-- The table without an entry of key `k`. -/
def Tbl.erase {α : Type} (t : Tbl α) (k : Nat) : Tbl α :=
  t.filter (fun e => e.1 != k)

end Sys2Proof
end

