-- ==== Sys2Proof/Syntax.lean ====
section
/-! DEFINITION. The instructions of the Damrun 3240: one constructor of `Instr` for each row of
spec/opcode_table.json. Rows of the five instruction sets carry the fields of their words
(spec/03_encodings.md R66 to R80); rows that are events of the device, or commands of the system cores, the host and
the links, carry what the event is about. -/

namespace Sys2Proof

/-- g0–g31. -/
abbrev GReg := Fin 32
/-- v0–v31 as written (R71). -/
abbrev VReg := Fin 32
/-- w0–w15. -/
abbrev WReg := Fin 16
/-- vp0–vp3. -/
abbrev VpReg := Fin 4
/-- k0–k7. -/
abbrev Tok := Fin 8
/-- sh0–sh31. -/
abbrev ShReg := Fin 32
/-- tt0–tt63. -/
abbrev TtReg := Fin 64
/-- t0–t7. -/
abbrev TileReg := Fin 8
/-- iq0–iq3 or oq0–oq3. -/
abbrev QReg := Fin 4

/-- Scopes of fn<10:9> (R69). -/
inductive Scope where
  | core | die | package | system
  deriving DecidableEq, Repr

/-- Element types of field t (R71). -/
inductive ElemType where
  | f32 | f16 | b16 | i32 | i16 | i8 | n32 | n8
  deriving DecidableEq, Repr

/-- Role R of field x (R72): `dyn` uses the run's copy of `frm`. -/
inductive Rnd where
  | dyn | rne | rtz | rdn | rup
  deriving DecidableEq, Repr

/-- Role C of field x (R72). -/
inductive Cond where
  | eq | ne | lt | le | gt | ge | un | ord
  deriving DecidableEq, Repr

/-- The modifier word (R73). -/
structure Modifier where
  sat   : Bool
  clamp : Bool
  neg   : Bool
  abs   : Bool
  sc    : BitVec 6
  c     : VReg
  deriving DecidableEq, Repr

/-- Field h of a vector word (R71). -/
abbrev Hold := BitVec 3

/-- The four engines, in the numbering of `run` (R70) and `faultinfo` less 1 (R29). -/
inductive Engine where
  | vector | matrix | transfer | walker
  deriving DecidableEq, Repr

/-- Element formats of banks, tiles and slots (spec/01_machine_state.md R18). -/
inductive Fmt where
  | raw | fp32 | fp16 | bf16 | t8 | t6 | i32 | i16 | i8 | n32 | n8
  deriving DecidableEq, Repr

/-- Source variants of `vsplat` (R139). -/
inductive Splat where
  | elem | row | col | vp
  deriving DecidableEq, Repr

/-- Conditions of `vskip` (R151). -/
inductive SkipCond where
  | empty | full | sg (s : Fin 8)
  deriving DecidableEq, Repr

/-- Variants of `viota` (R147). -/
inductive Iota where
  | lin | row | col
  deriving DecidableEq, Repr

/-- Directions of the reductions (R159). -/
inductive Dir where
  | all | row | col
  deriving DecidableEq, Repr

/-- Element grain variants of `vperm`, `vgath` and `vscat` (R163, R164). -/
inductive Grain where
  | lin | row
  deriving DecidableEq, Repr

/-- Variants of `vrand` and `vqrs` (R167). -/
inductive RandVar where
  | bits | unif
  deriving DecidableEq, Repr

/-- The scratchpad address word of matrix and transfer steps (spec/08_matrix_steps.md R178). -/
structure SpadAddr where
  off  : BitVec 17
  bank : BitVec 4
  tile : TtReg
  tf   : Bool
  deriving DecidableEq, Repr

/-- The common fields of a transfer step (R79, R197). -/
structure XHdr where
  k  : Tok
  kv : Bool
  wm : BitVec 8
  deriving DecidableEq, Repr

/-- Operations of `xred` (R209). -/
inductive RedOp where
  | add | fadd | max | min
  deriving DecidableEq, Repr

/-- Access sizes of walker words (R221). -/
inductive WSize where
  | b | h | w | d
  deriving DecidableEq, Repr

/-- Conditions of `wskip` (R221). -/
inductive WCond where
  | eq | ne | lt | ge | ltn | gen
  deriving DecidableEq, Repr

/-- Kinds of gather lists (R235). -/
inductive ListKind where
  | bag | idx
  deriving DecidableEq, Repr

/-- Caches named by `code` (R70). -/
inductive CacheSel where
  | seq | vec | mat | xfr | wlk | data
  deriving DecidableEq, Repr

/-- Who issues: the sequencer of a slot, or an engine of the core. -/
inductive Agent where
  | seq | eng (e : Engine)
  deriving DecidableEq, Repr

/-- A task slot of the package: the logical core number die·64 + core, and the slot 0–3 (R5, R7). -/
structure TaskRef where
  core : Nat
  slot : Fin 4
  deriving DecidableEq, Repr

/-- The five functions of `bar` (R115). -/
inductive BarFn where
  | init | arr | wait | arrw | query
  deriving DecidableEq, Repr

/-- A barrier request on its way to its home (R115). -/
structure BarReq where
  fn    : BarFn
  who   : TaskRef
  home  : Nat
  num   : Nat
  arg   : Word64
  dst   : GReg
  stamp : Nat
  deriving DecidableEq, Repr

/-- What kind of access a translation is for (spec/19_faults_translation.md R336, R351). -/
inductive AccKind where
  | read | write | readWrite | fetch
  deriving DecidableEq, Repr

/-- Who a table walk is for (spec/19_faults_translation.md R351). -/
inductive WalkFor where
  | core | picker | frontEnd
  deriving DecidableEq, Repr

/-- A stream of requests: source die, source station, virtual channel (spec/16_fabric.md R325). -/
structure Stream where
  die     : Nat
  station : Nat
  vc      : Nat
  deriving DecidableEq, Repr

/-- A row the Picker returns: its bytes, or the cause and first failing address of a faulting row (R187, R318). -/
inductive RowResult where
  | bytes (b : List Byte)
  | faulting (cause why addr : Nat)
  deriving DecidableEq, Repr

/-- A task on its way to a slot (spec/14_scheduling.md R299, spec/05_sequencer_sync.md R119): its registers, the stamp
of its launching message, its mailbox, packet and join record, the tick in which it reaches its core, and the tick before
which it does not issue. -/
structure Launch where
  pc      : Word64
  g       : List Word64
  stamp   : Nat
  stage   : Nat
  mbox    : Nat
  pkt     : Option Nat
  join    : Word64
  arrive  : Nat
  startAt : Nat
  deriving DecidableEq, Repr

/-- A delivery that a switched-out core's station holds (spec/14_scheduling.md R292, R293). -/
inductive Delivery where
  | launch (l : Launch)
  | sev (slot : Fin 4) (stamp : Nat)
  | barrier (r : BarReq)
  | landing (sender : Nat) (step : Nat)
  | row (producer : Nat) (q : QReg)      -- a queue row that stays in its result queue (R378)
  deriving DecidableEq, Repr

/-- How the system cores resume a stopped task (spec/05_sequencer_sync.md R130; 19 R337). -/
inductive ResumeHow where
  | retry                     -- at the word that stopped: a mapped page, or a `brk`
  | next                      -- at the word after `syscall`
  | handler (pc : Word64)     -- in trap mode, at a handler
  deriving DecidableEq, Repr

/-- One code section of an image as the loader places it (spec/11_assembly_object.md R251, R262): its base virtual
address and its words. -/
structure CodeImage where
  base  : Nat
  words : List Word32
  deriving DecidableEq, Repr

/-- A placed data section: its bytes at consecutive physical addresses. -/
structure DataImage where
  pa    : Nat
  bytes : List Byte
  deriving DecidableEq, Repr

/-- A safe-map record (R254). -/
structure SafeRec where
  woff  : Nat
  num   : Nat
  span  : Nat
  gmask : BitVec 32
  vmask : BitVec 32
  amask : BitVec 64
  smask : BitVec 32
  tmask : BitVec 8
  bmask : BitVec 16
  dir   : Bool
  deriving DecidableEq, Repr

/-- A mailbox record of an image (R256), with the package mailbox the system cores bind it to. -/
structure MboxRec where
  idx    : Nat
  pkg    : Nat
  areaVa : Nat
  entry  : Nat
  x0     : Nat
  x1     : Nat
  y0     : Nat
  y1     : Nat
  core   : Nat
  cntm1  : Nat
  stage  : Nat
  area   : Nat
  wdog   : Nat
  deriving DecidableEq, Repr

/-- A queue-binding record (R257). -/
structure QbindRec where
  x    : Nat
  y    : Nat
  core : Nat
  n    : Fin 4
  val  : BitVec 18
  deriving DecidableEq, Repr

/-- What the loader reads from an image file (R250 to R258) and places as R262 says. `bindsClean` and `safesClean` say
that the bits of the mailbox and binding records, and of the safe map, that must be 0 are 0. -/
structure Image where
  mode       : Nat
  spacing    : Nat
  signed     : Bool
  digest     : Nat
  seq        : CodeImage
  vec        : CodeImage
  mat        : CodeImage
  xfr        : CodeImage
  wlk        : CodeImage
  codePa     : List (Nat × Nat)      -- virtual page to physical page of each placed page
  data       : List DataImage
  banks      : List (Nat × Nat × List Byte)   -- bank, format code, bytes
  syms       : List Nat              -- word offsets of the `.seq` symbols
  safes      : List SafeRec
  mboxes     : List MboxRec
  qbinds     : List QbindRec
  bindsClean : Bool
  safesClean : Bool
  deriving DecidableEq, Repr

/-- A 64 KiB page on which the loader places a section: its virtual and its physical page number, and the physical address
of its leaf descriptor (spec/19_faults_translation.md R349, R350). -/
structure PlacedPage where
  va   : Nat
  pa   : Nat
  leaf : Nat
  deriving DecidableEq, Repr

/-- A package mailbox that the system cores bind to an image's mailbox index, with the address of its area (R256). -/
structure PlacedMbox where
  idx    : Nat
  pkg    : Nat
  areaVa : Nat
  deriving DecidableEq, Repr

/-- What the loader and the system cores choose for an image (R256, R262): the base virtual address of each section, in the
order of the section table, the pages, and the mailboxes. -/
structure Placement where
  bases  : List Nat
  pages  : List PlacedPage
  mboxes : List PlacedMbox
  deriving DecidableEq, Repr

/-- A router output of a die's mesh router, or its local output (spec/16_fabric.md R311, R322). -/
inductive Port where
  | west | east | south | north | loc
  deriving DecidableEq, Repr

/-- A link that trains: a mesh link by its die and output, or a scale-up port (spec/22_platform.md R360). -/
inductive LinkRef where
  | mesh (die : Nat) (out : Port)
  | port (p : Nat)
  deriving DecidableEq, Repr

/-- An ECDSA signature on P-256 (spec/11_assembly_object.md R258): r and s. -/
structure EcSig where
  r : Nat
  s : Nat
  deriving DecidableEq, Repr

/-- A boot image as a flash device holds it (spec/22_platform.md R365): its bytes, the SHA-256 digest that it states, its
signature over that digest, and its version. -/
structure BootImage where
  bytes   : List Byte
  digest  : Nat
  sig     : EcSig
  version : Nat
  deriving DecidableEq, Repr

/-- What stage 1 finds and loads (R360 to R365): the working physical cores by die, failed ways by slice and set, failed ring
lanes, mesh and port lanes and DRAM data lanes, the Hatbox bank map's entries, the common ring-table entries, `meshcfg` by die,
and the base of each site's shadow reserve. -/
structure BootReport where
  cores     : List (Nat × List Nat)
  ways      : List (Nat × Nat × Nat)
  ringLanes : List (Nat × Fin 4)
  links     : List LinkRef
  dataLanes : List (Nat × Nat)
  banks     : List (Nat × Nat × BitVec 6)
  rings     : List (Nat × Nat × BitVec 32)
  mesh      : List (Nat × BitVec 26)
  reserves  : List (Nat × Nat)
  deriving DecidableEq, Repr

/-- Where an uncorrectable error lies: at a physical address, or in a Hatbox slot or what the shadow reserve holds with it
(spec/19_faults_translation.md R340, R347). -/
inductive ErrPlace where
  | phys (pa : Nat)
  | hatbox (die : Nat) (set : Bool) (core : Nat)
  deriving DecidableEq, Repr

/-- A copy of a Hatbox slot (R345): out, under a number that the system cores choose, leaving the slot or freeing it (R364), or
one of their copies back. `altered` says that its bytes are no longer those that its check word covers. -/
inductive SlotCopy where
  | out (id : Nat) (free : Bool)
  | back (id : Nat) (altered : Bool)
  deriving DecidableEq, Repr

/-- An error of a ring table or lane (spec/16_fabric.md R312, R316, R317). -/
inductive RingErr where
  | corrected | uncorrectable | laneFailure
  deriving DecidableEq, Repr

/-- Why a spare of memory is brought in: a failed test, or one more corrected error; and the end of the copy that moves what
was there (spec/22_platform.md R360, R362). -/
inductive SpareCause where
  | failed | corrected | copied
  deriving DecidableEq, Repr

/-- Registers of package management with no row of their own (spec/95_what_each_step_holds.md, PM_REGISTER_WRITE):
the fields of `budget` and `qbind` that only the system cores write (R29), from inside the partition or outside it, resident
ways of R269, the host base and opened host pages of R330, the signed key list of R367, the acknowledgement of R343, and the
update of the flash device not in use (R365). -/
inductive PmReg where
  | budget (core : Nat) (cap refill low : Nat)
  | qbind (core : Nat) (n : Fin 4) (v : Word64)
  | residentWays (die : Nat) (rw : Nat)
  | hostBase (base : Nat)
  | hostPage (page : Nat) (opened : Bool)
  | keyList (keys : List Nat) (sig : EcSig)
  | swapAck (p : Nat)
  | flashUpdate (img : BootImage)
  deriving DecidableEq, Repr

/-- One power and temperature reading of the firmware (spec/22_platform.md R370), in watts and degrees Celsius: the
package, each die, and each partition's power by die. -/
structure PowerReading where
  package   : Nat
  dieWatts  : List (Nat × Nat)
  dieDeg    : List (Nat × Nat)
  partWatts : List (Nat × Nat × Nat)   -- die, partition, watts
  deriving DecidableEq, Repr

/-- The header fields of a Chegen flit (R326) with its payload and its check word. -/
structure ChegenFlit where
  type    : Nat
  vc      : Nat
  seq     : Nat
  ackn    : Nat
  cred    : Nat
  resv    : Nat
  payload : List Byte
  check   : BitVec 64
  deriving DecidableEq, Repr

/-- An event of the device, or a command of the system cores, the host or a link, with what it is about. The rows of
spec/opcode_table.json without words name these; a row's constructor of `Instr` carries no field, and its arguments
stand in the state (`State.ev`). -/
inductive Ev where
  | none
  | barrierRequestArrival (r : BarReq)
  | barrierReply (r : BarReq) (v : Option Word64) (stamp : Nat)
  | sevArrival (target : TaskRef) (stamp : Nat)
  | retryResponse (who : TaskRef)
  | requestRetry (who : TaskRef)
  | storeStamped (who : TaskRef)
  | loadReply (who : TaskRef)
  | leasePush (die line : Nat) (p : Option Nat) (data : BitVec 512) (wts rts : Nat)
  | ownershipReturn (line : Nat)
  | vectorWriteback
  | queueRowDelivery (core : Nat) (q : QReg)
  | runEnd (core : Nat) (e : Engine)
  | rowPassLand (core : Nat)
  | bagRowArrival (core : Nat) (pos : Nat) (r : RowResult)
  | tileClaim (core : Nat) (tt : TtReg)
  | shadowFilled (core step : Nat)
  | publishReserve (core step : Nat)
  | publishCommit (core step : Nat)
  | scratchpadPublish (core step : Nat)
  | stepComplete (core step : Nat)
  | xredLineApply (core step line : Nat)
  | multicastLanding (core step target : Nat)
  | sectorPageFault (core step : Nat)
  | stepResume (core step : Nat)
  | packetParse (m : Nat)
  | launchQueueAccept (core : Nat)
  | timedLaunchStart (who : TaskRef)
  | watchdogExpiry (m : Nat)
  | partitionReset (p : Nat)
  | partitionReopen (p : Nat)
  | uncorrectableMemoryError (p : Nat) (at_ : ErrPlace)
  | timeSliceSwitch (core : Nat)
  | heldDelivery (core : Nat) (dl : Delivery)
  | coreSave (core : Nat)
  | swapSave (p : Nat) (set : Bool)
  | swapRestore (p : Nat) (set : Bool)
  | swapDone (p : Nat)
  | taskResume (who : TaskRef) (how : ResumeHow)
  | taskEnd (who : TaskRef)
  | faultRecordRemove (p : Nat)
  | partitionDescriptorWrite (p : Nat) (w0 w1 w2 w3 : Word64)
  | remapTableWrite (die core : Nat) (v : BitVec 16)
  | mailboxStateWrite (m : Nat) (field : Fin 8) (v : Word64)
  | ringTableWrite (die i : Nat) (v : BitVec 32)
  | ringctlWrite (die : Nat) (v : Word64)
  | meshcfgWrite (die : Nat) (v : Word64)
  | portChannelBind (ch : Nat) (w0 w1 w2 w3 : Word64)
  | translationBlockWrite (p : Nat) (w0 : Word64)
  | invalidateVa (p : Nat) (va : Nat) (again : Bool)  -- `again`: the device looks whether it is complete
  | invalidateAsid (p : Nat) (again : Bool)
  | hatboxBankMapWrite (die i : Nat) (bank : BitVec 6)
  | hatboxSlotCopy (die : Nat) (set : Bool) (core : Nat) (way : SlotCopy)
  | pmRegisterWrite (r : PmReg)
  | imageLoad (p : Nat) (file : List Byte) (place : Placement)
  | doorbell (off : Nat) (v : Option Word64)   -- a write, or a read, of BAR0
  | hostDramAccess (q : Nat) (write : Option (List Byte)) (len : Nat)
  | tableWalkComplete (core va : Nat) (w : WalkFor)
  | pickerRowDelivery (core : Nat) (row : Nat)
  | flitPromotion (die : Nat) (out : Port) (vc : Nat)
  | requestReplay (st : Stream) (seq : Nat)
  | requestAtHome (st : Stream) (seq : Nat)
  | linkProtocolError (p : Nat)
  | data (port : Nat) (f : ChegenFlit)
  | nak (port : Nat) (f : ChegenFlit)
  | ack (port : Nat) (f : ChegenFlit)
  | credit (port : Nat) (f : ChegenFlit)
  | linkRetrain (port : Nat) (laneFailed : Bool)
  | portWindowCommit (core step : Nat) (accepted : Bool)
  | peerCommit (port : Nat) (cells : List (Nat × Byte))
  | ringTableError (die i : Nat) (lane : Fin 4) (kind : RingErr)
  | ringLaneFailure (die : Nat) (lane : Fin 4)
  | meshLaneFailure (l : LinkRef)
  | sliceWayReplace (slice set way : Nat) (why : SpareCause)
  | dramRowSpare (die bank row : Nat) (why : SpareCause)
  | bootStage0 (a b : BootImage)
  | bootStage1 (next : BootImage) (found : BootReport)
  | bootStage2 (next : BootImage)
  | quoteRequest (p : Nat) (nonce : BitVec 256)
  | powerLevelUpdate (r : PowerReading)
  | thermalTrip (die : Nat)
  | deliveredTick (p : Nat)
  | wallPeriod
  | ringCycle
  | meshCycle
  | idle (port : Nat) (f : ChegenFlit)
  | requestAcknowledgement (st : Stream) (seq : Nat)
  | linkRetrainDone (l : LinkRef) (up : Bool)
  | refreshWindowCalibration (die channel : Nat) (laneFailed : Bool)
  | dieTemperatureRecovery (die : Nat)
  | codeCacheFill (core : Nat) (c : CacheSel) (va : Nat) (pin : Option Bool)   -- none: a fetch waits; else a `code` word, and whether it pins
  deriving DecidableEq, Repr

/-- One constructor for each row of spec/opcode_table.json: first the words of the five instruction sets, in the table's
order, then the events and commands. -/
inductive Instr where
  -- sequencer: register arithmetic (R87)
  | add (d a b : GReg) | sub (d a b : GReg) | and (d a b : GReg) | or (d a b : GReg) | xor (d a b : GReg)
  | andn (d a b : GReg) | sll (d a b : GReg) | srl (d a b : GReg) | sra (d a b : GReg) | slt (d a b : GReg)
  | sltn (d a b : GReg) | min (d a b : GReg) | max (d a b : GReg) | minn (d a b : GReg) | maxn (d a b : GReg)
  | mul (d a b : GReg) | mulh (d a b : GReg) | mulhn (d a b : GReg) | div (d a b : GReg) | divn (d a b : GReg)
  | rem (d a b : GReg) | remn (d a b : GReg) | clz (d a : GReg) | ctz (d a : GReg) | popc (d a : GReg)
  -- immediate arithmetic (R89)
  | addi (d a : GReg) (imm : BitVec 16) | andi (d a : GReg) (imm : BitVec 16) | ori (d a : GReg) (imm : BitVec 16)
  | xori (d a : GReg) (imm : BitVec 16) | slli (d a : GReg) (sh : BitVec 6) | srli (d a : GReg) (sh : BitVec 6)
  | srai (d a : GReg) (sh : BitVec 6) | lui (d : GReg) (imm : BitVec 16) | slti (d a : GReg) (imm : BitVec 16)
  | sltni (d a : GReg) (imm : BitVec 16)
  -- loads and stores (R90), speculative load and check (R95, R97)
  | ldB (d a : GReg) (imm : BitVec 16) | ldH (d a : GReg) (imm : BitVec 16) | ldW (d a : GReg) (imm : BitVec 16)
  | ldD (d a : GReg) (imm : BitVec 16) | ldBn (d a : GReg) (imm : BitVec 16) | ldHn (d a : GReg) (imm : BitVec 16)
  | ldWn (d a : GReg) (imm : BitVec 16) | stB (d a : GReg) (imm : BitVec 16) | stH (d a : GReg) (imm : BitVec 16)
  | stW (d a : GReg) (imm : BitVec 16) | stD (d a : GReg) (imm : BitVec 16) | ldS (d a : GReg) (imm : BitVec 16)
  | chk (d : GReg)
  -- branches and jumps (R98 to R100)
  | beq (a b : GReg) (off : BitVec 16) | bne (a b : GReg) (off : BitVec 16) | blt (a b : GReg) (off : BitVec 16)
  | bge (a b : GReg) (off : BitVec 16) | bltn (a b : GReg) (off : BitVec 16) | bgen (a b : GReg) (off : BitVec 16)
  | jal (d : GReg) (off : BitVec 21) | jalr (d a : GReg) (imm : BitVec 16)
  -- scoped memory operations (R106 to R111)
  | amoSwap (sc : Scope) (d a b : GReg) | amoAdd (sc : Scope) (d a b : GReg) | amoAnd (sc : Scope) (d a b : GReg)
  | amoOr (sc : Scope) (d a b : GReg) | amoXor (sc : Scope) (d a b : GReg) | amoMax (sc : Scope) (d a b : GReg)
  | amoMin (sc : Scope) (d a b : GReg) | amoMaxn (sc : Scope) (d a b : GReg) | amoMinn (sc : Scope) (d a b : GReg)
  | cas (sc : Scope) (d a b : GReg) | redAdd (sc : Scope) (a b : GReg) | redFadd32 (sc : Scope) (a b : GReg)
  | redMax (sc : Scope) (a b : GReg) | redMin (sc : Scope) (a b : GReg) | lda (sc : Scope) (d a : GReg)
  | stl (sc : Scope) (a b : GReg)
  -- fences, barriers, events (R113 to R117)
  | fenceMem | fenceEngines | fenceBoth
  | barInit (d a b : GReg) | barArr (d a b : GReg) | barWait (d a b : GReg) | barArrw (d a b : GReg)
  | barQuery (d a b : GReg)
  | sev (a : GReg) | wfe | clrev
  -- tasks, messages, engines, system (R118 to R131)
  | spawn (d a b : GReg) | join (d a : GReg) | send (d a b : GReg)
  | runV (d a : GReg) (n : BitVec 3) | runM (d a : GReg) (n : BitVec 3) | runX (d a : GReg) (n : BitVec 3)
  | runW (d a : GReg) (n : BitVec 3)
  | ewaitE (mask : BitVec 4) | ewaitK (mask : BitVec 8) | atTick (a : GReg)
  | codePf (a : GReg) (c : CacheSel) | codePin (a : GReg) (c : CacheSel) | codeUnpin (a : GReg) (c : CacheSel)
  | safe (num : BitVec 12) | cfgr (d : GReg) (num : BitVec 12) | cfgw (a : GReg) (num : BitVec 12)
  | syscall (code : BitVec 12) | brk (code : BitVec 12) | eret | halt
  | qdepth (d : GReg) (q : BitVec 3) | tstate (d : GReg) (t : TtReg)
  -- vector: shape, memory, moves, arithmetic (R132 to R148)
  | vshape (h : Hold) (vp : VpReg)
  | vld (h : Hold) (t : ElemType) (inc : Bool) (d : VReg) (vp : VpReg)
  | vst (h : Hold) (t : ElemType) (inc : Bool) (d : VReg) (vp : VpReg)
  | vldacc (h : Hold) (t : ElemType) (inc exact : Bool) (d : VReg) (vp : VpReg)
  | vstacc (h : Hold) (t : ElemType) (inc exact : Bool) (d : VReg) (vp : VpReg)
  | vmov (h : Hold) (t : ElemType) (d a : VReg)
  | vsplat (h : Hold) (t : ElemType) (x : Splat) (d a : VReg)
  | vadd (h : Hold) (m : Option Modifier) (t : ElemType) (r : Rnd) (d a b : VReg)
  | vsub (h : Hold) (m : Option Modifier) (t : ElemType) (r : Rnd) (d a b : VReg)
  | vmul (h : Hold) (m : Option Modifier) (t : ElemType) (r : Rnd) (d a b : VReg)
  | vfma (h : Hold) (m : Option Modifier) (t : ElemType) (r : Rnd) (d a b : VReg)
  | vmax (h : Hold) (m : Option Modifier) (t : ElemType) (d a b : VReg)
  | vmin (h : Hold) (m : Option Modifier) (t : ElemType) (d a b : VReg)
  | vdiv (h : Hold) (m : Option Modifier) (t : ElemType) (r : Rnd) (d a b : VReg)
  | vcvt (h : Hold) (m : Option Modifier) (t : ElemType) (r : Rnd) (d a : VReg) (src : ElemType)
  | vand (h : Hold) (t : ElemType) (d a b : VReg) | vor (h : Hold) (t : ElemType) (d a b : VReg)
  | vxor (h : Hold) (t : ElemType) (d a b : VReg) | vshl (h : Hold) (t : ElemType) (d a b : VReg)
  | vshrSrl (h : Hold) (t : ElemType) (d a b : VReg) | vshrSra (h : Hold) (t : ElemType) (d a b : VReg)
  -- masks and loops (R149 to R152)
  | vmpush (h : Hold) (t : ElemType) (c : Cond) (a b : VReg) | vminv (h : Hold) | vmpop (h : Hold)
  | vskip (h : Hold) (c : SkipCond) (n : BitVec 15)
  | vsel (h : Hold) (t : ElemType) (d a b : VReg)
  | vloop (h : Hold) (sm1 : BitVec 3) (l : BitVec 10) (vp : VpReg)
  -- special functions (R157)
  | vexp2 (h : Hold) (m : Option Modifier) (t : ElemType) (r : Rnd) (d a : VReg)
  | vlog2 (h : Hold) (m : Option Modifier) (t : ElemType) (r : Rnd) (d a : VReg)
  | vrcp (h : Hold) (m : Option Modifier) (t : ElemType) (r : Rnd) (d a : VReg)
  | vrsqrt (h : Hold) (m : Option Modifier) (t : ElemType) (r : Rnd) (d a : VReg)
  | vtanh (h : Hold) (m : Option Modifier) (t : ElemType) (r : Rnd) (d a : VReg)
  | vsig (h : Hold) (m : Option Modifier) (t : ElemType) (r : Rnd) (d a : VReg)
  -- reductions, selection, indexing, random numbers, queues (R159 to R172)
  | vredsum (h : Hold) (t : ElemType) (r : Rnd) (dir : Dir) (d a : VReg)
  | vredmax (h : Hold) (t : ElemType) (dir : Dir) (d a : VReg)
  | vredmin (h : Hold) (t : ElemType) (dir : Dir) (d a : VReg)
  | vtopk (h : Hold) (t : ElemType) (max byId : Bool) (vpk : VpReg) (d a b : VReg)
  | vtopm (h : Hold) (t : ElemType) (max byId : Bool) (vpk : VpReg) (d a b : VReg)
  | vperm (h : Hold) (t : ElemType) (g : Grain) (d a b : VReg)
  | vgath (h : Hold) (t : ElemType) (g : Grain) (d : VReg) (vp : VpReg) (b : VReg)
  | vscat (h : Hold) (t : ElemType) (g : Grain) (d : VReg) (vp : VpReg) (b : VReg)
  | vrand (h : Hold) (t : ElemType) (x : RandVar) (d : VReg) (vpa vpb : VpReg)
  | vqrs (h : Hold) (t : ElemType) (x : RandVar) (d : VReg) (vpa vpb : VpReg)
  | vqdir (h : Hold) (vpa vpb : VpReg)
  | vpchk (h : Hold) (t : ElemType) (vp : VpReg) (d a b : VReg)
  | vpush (h : Hold) (t : ElemType) (q : QReg) (a : VReg) (vpb : VpReg)
  | vpop (h : Hold) (t : ElemType) (d : VReg) (q : QReg)
  | vtrans (h : Hold) (t : ElemType) (d a : VReg)
  | viota (h : Hold) (t : ElemType) (x : Iota) (d : VReg)
  | vclass (h : Hold) (t : ElemType) (d a : VReg)
  | vexit (h : Hold)
  -- matrix (R177)
  | mfmt (af bf : BitVec 4) (ex : Bool)
  | mldb (tn : TileReg)
  | mldbScaled (tn : TileReg) (sc : SpadAddr)
  | mrows (st : Bool) (n : BitVec 11) (dst : BitVec 10) (a : SpadAddr) (pitch : Option (BitVec 17))
  | mbag (st : Bool) (sl : ShReg) (list : SpadAddr) (n e : BitVec 13) (rep : SpadAddr)
  | mfeed (st tg : Bool) (q : QReg) (n : BitVec 11) (dst : BitVec 10)
  | mclose
  | mclr (vw : Bool) (n : BitVec 11) (first : BitVec 10)
  | mdrain (clr h vw : Bool) (n : BitVec 11) (first : BitVec 10) (a : SpadAddr)
  | mfill (h vw : Bool) (n : BitVec 11) (first : BitVec 10) (a : SpadAddr)
  | mtagb (base : BitVec 10)
  | msync (kv : Bool) (k : Tok)
  | mflags (clear : BitVec 5) (a : SpadAddr)
  | mcharge (fx : Bool) (units : BitVec 4)
  | mexit
  -- transfer (R197)
  | xcopyG2s (x : XHdr) (dfr : Bool) (sl : ShReg) (sp : SpadAddr) (off : Word32)
  | xcopyS2g (x : XHdr) (dfr drain : Bool) (sl : ShReg) (sp : SpadAddr) (off : Word32)
  | xcopyS2s (x : XHdr) (dfr drain : Bool) (sl : ShReg) (src dst : SpadAddr)
  | xcopy2 (x : XHdr) (dfr : Bool) (sl dl : ShReg)
  | xgath (x : XHdr) (dfr : Bool) (sl : ShReg) (list : SpadAddr) (n : BitVec 13) (dst : SpadAddr)
  | xmcast (x : XHdr) (vp : VpReg) (src : SpadAddr) (g : BitVec 10) (set : BitVec 22)
  | xred (x : XHdr) (op : RedOp) (sl : ShReg) (sp : SpadAddr) (off : Word32)
  | xcomp (x : XHdr) (dfr : Bool) (sl : ShReg) (list : SpadAddr) (n : BitVec 13) (dl : ShReg)
  | xtile (x : XHdr) (tn : TileReg) (sp : SpadAddr)
  | xscale (x : XHdr) (sp : SpadAddr) (n : BitVec 7)
  | xslot (x : XHdr) (sl : ShReg) (vp : VpReg) (off : Word32)
  | xslev (x : XHdr) (sl : ShReg) (vp : VpReg) (off : Word32)
  | xpub (x : XHdr)
  | xsend (x : XHdr) (sp : SpadAddr) (mbox : BitVec 12)
  | xfillDef (x : XHdr) (tt : TtReg) (sp : SpadAddr) (len : BitVec 13)
  | xfillRel (x : XHdr) (tt : TtReg)
  | xwait (x : XHdr)
  | xbusySet (x : XHdr) (sp : SpadAddr) (g : BitVec 10)
  | xbusyClr (x : XHdr) (sp : SpadAddr) (g : BitVec 10)
  | xexit (wm : BitVec 8)
  -- walker (R221)
  | wli (d : WReg) (imm : BitVec 15) | wliHi (d : WReg) (imm : BitVec 15) | wliVp (d : WReg) (n : VpReg)
  | wadd (d a b : WReg) (imm : BitVec 15) | wsub (d a b : WReg) (imm : BitVec 15)
  | wmul (d a b : WReg) (imm : BitVec 15) | wand (d a b : WReg) (imm : BitVec 15)
  | wor (d a b : WReg) (imm : BitVec 15) | wshl (d a b : WReg) (imm : BitVec 15)
  | wshr (d a b : WReg) (imm : BitVec 15) | wmin (d a b : WReg) (imm : BitVec 15)
  | wld (sz : WSize) (d a : WReg) (imm : BitVec 15) | wbit (d a b : WReg) (imm : BitVec 15)
  | wloop (a : WReg) (off : BitVec 15) | wnext (d a : WReg) (off : BitVec 15)
  | wskip (c : WCond) (a b : WReg) (off : BitVec 15)
  | wpos (kind : ListKind) (a b : WReg)
  | wemitE (a b : WReg) (imm : BitVec 15) | wemitL (a b : WReg) | wemitW (a b : WReg) (imm : BitVec 15)
  | wtile (a : WReg) | wrow (a : WReg) (imm : BitVec 15)
  | wgo (a : WReg) (sl : ShReg) (kv : Bool) (k : Tok)
  | wmove (sz : WSize) (d a b : WReg)
  | wexit (kv : Bool) (k : Tok)
  -- events and commands (spec/95_what_each_step_holds.md): their arguments are those of `Ev`
  | barrierRequestArrival | barrierReply | sevArrival | retryResponse | requestRetry | storeStamped | loadReply
  | leasePush | ownershipReturn | vectorWriteback | queueRowDelivery | runEnd | rowPassLand | bagRowArrival
  | tileClaim | shadowFilled | publishReserve | publishCommit | scratchpadPublish | stepComplete | xredLineApply
  | multicastLanding | sectorPageFault | stepResume | packetParse | launchQueueAccept | timedLaunchStart
  | watchdogExpiry | partitionReset | partitionReopen | uncorrectableMemoryError | timeSliceSwitch | heldDelivery
  | coreSave | swapSave | swapRestore | swapDone | taskResume | taskEnd | faultRecordRemove
  | partitionDescriptorWrite | remapTableWrite | mailboxStateWrite | ringTableWrite | ringctlWrite | meshcfgWrite
  | portChannelBind | translationBlockWrite | invalidateVa | invalidateAsid | hatboxBankMapWrite | hatboxSlotCopy
  | pmRegisterWrite | imageLoad | doorbell | hostDramAccess | tableWalkComplete | pickerRowDelivery | flitPromotion
  | requestReplay | requestAtHome | linkProtocolError | data | nak | ack | credit | linkRetrain | portWindowCommit
  | ringTableError | ringLaneFailure | meshLaneFailure | sliceWayReplace | dramRowSpare | bootStage0 | bootStage1
  | bootStage2 | quoteRequest | powerLevelUpdate | thermalTrip | deliveredTick | wallPeriod | ringCycle | meshCycle
  | illegalWord | idle | requestAcknowledgement | linkRetrainDone | refreshWindowCalibration
  | dieTemperatureRecovery | codeCacheFill
  deriving DecidableEq, Repr

/-- The row of an event. Without an event the clock runs on. -/
def Ev.instr (e : Ev) : Instr :=
  match e with
  | .none => .wallPeriod
  | .barrierRequestArrival _ => .barrierRequestArrival
  | .barrierReply _ _ _ => .barrierReply
  | .sevArrival _ _ => .sevArrival
  | .retryResponse _ => .retryResponse
  | .requestRetry _ => .requestRetry
  | .storeStamped _ => .storeStamped
  | .loadReply _ => .loadReply
  | .leasePush _ _ _ _ _ _ => .leasePush
  | .ownershipReturn _ => .ownershipReturn
  | .vectorWriteback => .vectorWriteback
  | .queueRowDelivery _ _ => .queueRowDelivery
  | .runEnd _ _ => .runEnd
  | .rowPassLand _ => .rowPassLand
  | .bagRowArrival _ _ _ => .bagRowArrival
  | .tileClaim _ _ => .tileClaim
  | .shadowFilled _ _ => .shadowFilled
  | .publishReserve _ _ => .publishReserve
  | .publishCommit _ _ => .publishCommit
  | .scratchpadPublish _ _ => .scratchpadPublish
  | .stepComplete _ _ => .stepComplete
  | .xredLineApply _ _ _ => .xredLineApply
  | .multicastLanding _ _ _ => .multicastLanding
  | .sectorPageFault _ _ => .sectorPageFault
  | .stepResume _ _ => .stepResume
  | .packetParse _ => .packetParse
  | .launchQueueAccept _ => .launchQueueAccept
  | .timedLaunchStart _ => .timedLaunchStart
  | .watchdogExpiry _ => .watchdogExpiry
  | .partitionReset _ => .partitionReset
  | .partitionReopen _ => .partitionReopen
  | .uncorrectableMemoryError _ _ => .uncorrectableMemoryError
  | .timeSliceSwitch _ => .timeSliceSwitch
  | .heldDelivery _ _ => .heldDelivery
  | .coreSave _ => .coreSave
  | .swapSave _ _ => .swapSave
  | .swapRestore _ _ => .swapRestore
  | .swapDone _ => .swapDone
  | .taskResume _ _ => .taskResume
  | .taskEnd _ => .taskEnd
  | .faultRecordRemove _ => .faultRecordRemove
  | .partitionDescriptorWrite _ _ _ _ _ => .partitionDescriptorWrite
  | .remapTableWrite _ _ _ => .remapTableWrite
  | .mailboxStateWrite _ _ _ => .mailboxStateWrite
  | .ringTableWrite _ _ _ => .ringTableWrite
  | .ringctlWrite _ _ => .ringctlWrite
  | .meshcfgWrite _ _ => .meshcfgWrite
  | .portChannelBind _ _ _ _ _ => .portChannelBind
  | .translationBlockWrite _ _ => .translationBlockWrite
  | .invalidateVa _ _ _ => .invalidateVa
  | .invalidateAsid _ _ => .invalidateAsid
  | .hatboxBankMapWrite _ _ _ => .hatboxBankMapWrite
  | .hatboxSlotCopy _ _ _ _ => .hatboxSlotCopy
  | .pmRegisterWrite _ => .pmRegisterWrite
  | .imageLoad _ _ _ => .imageLoad
  | .doorbell _ _ => .doorbell
  | .hostDramAccess _ _ _ => .hostDramAccess
  | .tableWalkComplete _ _ _ => .tableWalkComplete
  | .pickerRowDelivery _ _ => .pickerRowDelivery
  | .flitPromotion _ _ _ => .flitPromotion
  | .requestReplay _ _ => .requestReplay
  | .requestAtHome _ _ => .requestAtHome
  | .linkProtocolError _ => .linkProtocolError
  | .data _ _ => .data
  | .nak _ _ => .nak
  | .ack _ _ => .ack
  | .credit _ _ => .credit
  | .linkRetrain _ _ => .linkRetrain
  | .portWindowCommit _ _ _ => .portWindowCommit
  | .peerCommit _ _ => .portWindowCommit
  | .ringTableError _ _ _ _ => .ringTableError
  | .ringLaneFailure _ _ => .ringLaneFailure
  | .meshLaneFailure _ => .meshLaneFailure
  | .sliceWayReplace _ _ _ _ => .sliceWayReplace
  | .dramRowSpare _ _ _ _ => .dramRowSpare
  | .bootStage0 _ _ => .bootStage0
  | .bootStage1 _ _ => .bootStage1
  | .bootStage2 _ => .bootStage2
  | .quoteRequest _ _ => .quoteRequest
  | .powerLevelUpdate _ => .powerLevelUpdate
  | .thermalTrip _ => .thermalTrip
  | .deliveredTick _ => .deliveredTick
  | .wallPeriod => .wallPeriod
  | .ringCycle => .ringCycle
  | .meshCycle => .meshCycle
  | .idle _ _ => .idle
  | .requestAcknowledgement _ _ => .requestAcknowledgement
  | .linkRetrainDone _ _ => .linkRetrainDone
  | .refreshWindowCalibration _ _ _ => .refreshWindowCalibration
  | .dieTemperatureRecovery _ => .dieTemperatureRecovery
  | .codeCacheFill _ _ _ _ => .codeCacheFill

end Sys2Proof
end

