-- ==== Sys2Proof/Decode.lean ====
section
/-! DEFINITION. Decoding and encoding of the words of the five instruction sets (spec/03_encodings.md R61 to R80;
field use in R132, R156, R177, R178, R197, R221). A decoder answers `none` exactly where the encoding is not an
instruction (R64). -/

namespace Sys2Proof

/-! ## Fields -/

/-- The slice `w<lo+len-1:lo>` (spec/00_scope.md R2). -/
def fld (w lo len : Nat) : Nat := w / 2 ^ lo % 2 ^ len

/-- A field value placed at bit `lo`. -/
def put (v lo : Nat) : Nat := v * 2 ^ lo

/-- One bit as a Bool. -/
def bit (w lo : Nat) : Bool := fld w lo 1 == 1

/-- A Bool as a one-bit field value. -/
def b2n (b : Bool) : Nat := if b then 1 else 0

/-- A register number of five bits. -/
def reg5 (w lo : Nat) : Fin 32 := Fin.ofNat 32 (fld w lo 5)

/-- A walker register number. -/
def reg4 (w lo : Nat) : Fin 16 := Fin.ofNat 16 (fld w lo 4)

/-- A three-bit number. -/
def reg3 (w lo : Nat) : Fin 8 := Fin.ofNat 8 (fld w lo 3)

/-- A two-bit number. -/
def reg2 (w lo : Nat) : Fin 4 := Fin.ofNat 4 (fld w lo 2)

/-- `x` when the condition holds, otherwise no instruction. -/
def only (c : Bool) (x : Instr) : Option Instr := if c then some x else none

/-! ## Code numbers of the enumerations -/

/-- Field t (R71). -/
def ElemType.code : ElemType → Nat
  | .f32 => 0 | .f16 => 1 | .b16 => 2 | .i32 => 3 | .i16 => 4 | .i8 => 5 | .n32 => 6 | .n8 => 7

/-- Field t (R71). -/
def ElemType.ofCode : Nat → ElemType
  | 0 => .f32 | 1 => .f16 | 2 => .b16 | 3 => .i32 | 4 => .i16 | 5 => .i8 | 6 => .n32 | _ => .n8

/-- f32, f16 and b16. -/
def ElemType.isFloat : ElemType → Bool
  | .f32 => true | .f16 => true | .b16 => true
  | .i32 => false | .i16 => false | .i8 => false | .n32 => false | .n8 => false

/-- The signed integer types (R140). -/
def ElemType.isSigned : ElemType → Bool
  | .i32 => true | .i16 => true | .i8 => true
  | .f32 => false | .f16 => false | .b16 => false | .n32 => false | .n8 => false

/-- Scopes (R69). -/
def Scope.code : Scope → Nat
  | .core => 0 | .die => 1 | .package => 2 | .system => 3

/-- Scopes (R69). -/
def Scope.ofCode : Nat → Scope
  | 0 => .core | 1 => .die | 2 => .package | _ => .system

/-- Role R (R72). -/
def Rnd.code : Rnd → Nat
  | .dyn => 0 | .rne => 1 | .rtz => 2 | .rdn => 3 | .rup => 4

/-- Role R (R72): 5–15 are illegal. -/
def Rnd.ofCode? : Nat → Option Rnd
  | 0 => some .dyn | 1 => some .rne | 2 => some .rtz | 3 => some .rdn | 4 => some .rup | _ => none

/-- Role C (R72). -/
def Cond.code : Cond → Nat
  | .eq => 0 | .ne => 1 | .lt => 2 | .le => 3 | .gt => 4 | .ge => 5 | .un => 6 | .ord => 7

/-- Role C (R72): 8–15 are illegal. -/
def Cond.ofCode? : Nat → Option Cond
  | 0 => some .eq | 1 => some .ne | 2 => some .lt | 3 => some .le | 4 => some .gt | 5 => some .ge
  | 6 => some .un | 7 => some .ord | _ => none

/-- The conditions only float types take (R132). -/
def Cond.floatOnly : Cond → Bool
  | .un => true | .ord => true
  | .eq => false | .ne => false | .lt => false | .le => false | .gt => false | .ge => false

/-- Engines, as field k of `run` (R70). -/
def Engine.code : Engine → Nat
  | .vector => 0 | .matrix => 1 | .transfer => 2 | .walker => 3

/-- Engines, as field k of `run` (R70). -/
def Engine.ofCode : Nat → Engine
  | 0 => .vector | 1 => .matrix | 2 => .transfer | _ => .walker

/-- Format codes (R18). -/
def Fmt.code : Fmt → Nat
  | .raw => 0 | .fp32 => 1 | .fp16 => 2 | .bf16 => 3 | .t8 => 4 | .t6 => 5 | .i32 => 6 | .i16 => 7 | .i8 => 8
  | .n32 => 9 | .n8 => 10

/-- Format codes (R18); 0xB–0xF are reserved. -/
def Fmt.ofCode? : Nat → Option Fmt
  | 0 => some .raw | 1 => some .fp32 | 2 => some .fp16 | 3 => some .bf16 | 4 => some .t8 | 5 => some .t6
  | 6 => some .i32 | 7 => some .i16 | 8 => some .i8 | 9 => some .n32 | 10 => some .n8 | _ => none

/-- The formats R18 allows in tile registers, as codes. -/
def tileFmtCode (c : Nat) : Bool := 2 ≤ c && c ≤ 5

/-- Variants of `vsplat` (R139). -/
def Splat.code : Splat → Nat
  | .elem => 0 | .row => 1 | .col => 2 | .vp => 3

/-- Variants of `vsplat` (R139). -/
def Splat.ofCode : Nat → Splat
  | 0 => .elem | 1 => .row | 2 => .col | _ => .vp

/-- Conditions of `vskip` (R151). -/
def SkipCond.code : SkipCond → Nat
  | .empty => 0 | .full => 1 | .sg s => 8 + s.val

/-- Conditions of `vskip` (R151); 2–7 are illegal. -/
def SkipCond.ofCode? (x : Nat) : Option SkipCond :=
  if x = 0 then some .empty else if x = 1 then some .full
  else if 8 ≤ x then some (.sg (Fin.ofNat 8 (x - 8))) else none

/-- Variants of `viota` (R147). -/
def Iota.code : Iota → Nat
  | .lin => 0 | .row => 1 | .col => 2

/-- Variants of `viota` (R147). -/
def Iota.ofCode? : Nat → Option Iota
  | 0 => some .lin | 1 => some .row | 2 => some .col | _ => none

/-- dir (R156). -/
def Dir.code : Dir → Nat
  | .all => 0 | .row => 1 | .col => 2

/-- dir (R156); 3 is illegal. -/
def Dir.ofCode? : Nat → Option Dir
  | 0 => some .all | 1 => some .row | 2 => some .col | _ => none

/-- The codes of `vgath` and `vscat` (R156): 0 .lin, 1 .row. -/
def Grain.gatherCode : Grain → Nat
  | .lin => 0 | .row => 1

/-- The codes of `vperm` (R156): 0 .row, 1 .lin. -/
def Grain.permCode : Grain → Nat
  | .row => 0 | .lin => 1

/-- `.bits` and `.unif` (R156). -/
def RandVar.code : RandVar → Nat
  | .bits => 0 | .unif => 1

/-- The types of the two variants (R156). -/
def RandVar.accepts : RandVar → ElemType → Bool
  | .bits, t => !t.isFloat
  | .unif, t => t.isFloat

/-- Operations of `xred` (R197). -/
def RedOp.code : RedOp → Nat
  | .add => 0 | .fadd => 1 | .max => 2 | .min => 3

/-- Operations of `xred` (R197). -/
def RedOp.ofCode : Nat → RedOp
  | 0 => .add | 1 => .fadd | 2 => .max | _ => .min

/-- Size codes of the walker (R221). -/
def WSize.code : WSize → Nat
  | .b => 0 | .h => 1 | .w => 2 | .d => 3

/-- Size codes of the walker (R221). -/
def WSize.ofCode : Nat → WSize
  | 0 => .b | 1 => .h | 2 => .w | _ => .d

/-- Bytes of a walker access (R221). -/
def WSize.bytes : WSize → Nat
  | .b => 1 | .h => 2 | .w => 4 | .d => 8

/-- Conditions of `wskip` (R221). -/
def WCond.code : WCond → Nat
  | .eq => 0 | .ne => 1 | .lt => 2 | .ge => 3 | .ltn => 4 | .gen => 5

/-- Conditions of `wskip` (R221). -/
def WCond.ofCode? : Nat → Option WCond
  | 0 => some .eq | 1 => some .ne | 2 => some .lt | 3 => some .ge | 4 => some .ltn | 5 => some .gen | _ => none

/-- List kinds (R221). -/
def ListKind.code : ListKind → Nat
  | .bag => 0 | .idx => 1

/-- Caches of `code` (R70). -/
def CacheSel.code : CacheSel → Nat
  | .seq => 0 | .vec => 1 | .mat => 2 | .xfr => 3 | .wlk => 4 | .data => 5

/-- Caches of `code` (R70); 6 and 7 are illegal. -/
def CacheSel.ofCode? : Nat → Option CacheSel
  | 0 => some .seq | 1 => some .vec | 2 => some .mat | 3 => some .xfr | 4 => some .wlk | 5 => some .data | _ => none

/-! ## Sequencer words (R66 to R70) -/

/-- Op 0x01 (R68). -/
def decodeAlu (w : Nat) : Option Instr :=
  let d := reg5 w 21; let a := reg5 w 16; let b := reg5 w 11
  let unary := fld w 11 5 == 0
  match fld w 0 11 with
  | 0 => some (.add d a b) | 1 => some (.sub d a b) | 2 => some (.and d a b) | 3 => some (.or d a b)
  | 4 => some (.xor d a b) | 5 => some (.andn d a b) | 6 => some (.sll d a b) | 7 => some (.srl d a b)
  | 8 => some (.sra d a b) | 9 => some (.slt d a b) | 10 => some (.sltn d a b) | 11 => some (.min d a b)
  | 12 => some (.max d a b) | 13 => some (.minn d a b) | 14 => some (.maxn d a b) | 15 => some (.mul d a b)
  | 16 => some (.mulh d a b) | 17 => some (.mulhn d a b) | 18 => some (.div d a b) | 19 => some (.divn d a b)
  | 20 => some (.rem d a b) | 21 => some (.remn d a b)
  | 22 => only unary (.clz d a) | 23 => only unary (.ctz d a) | 24 => only unary (.popc d a)
  | _ => none

/-- Op 0x1F (R69). -/
def decodeAmo (w : Nat) : Option Instr :=
  let d := reg5 w 21; let a := reg5 w 16; let b := reg5 w 11; let sc := Scope.ofCode (fld w 9 2)
  match fld w 0 9 with
  | 0 => some (.amoSwap sc d a b) | 1 => some (.amoAdd sc d a b) | 2 => some (.amoAnd sc d a b)
  | 3 => some (.amoOr sc d a b) | 4 => some (.amoXor sc d a b) | 5 => some (.amoMax sc d a b)
  | 6 => some (.amoMin sc d a b) | 7 => some (.amoMaxn sc d a b) | 8 => some (.amoMinn sc d a b)
  | _ => none

/-- Op 0x21 (R69). -/
def decodeRed (w : Nat) : Option Instr :=
  let a := reg5 w 16; let b := reg5 w 11; let sc := Scope.ofCode (fld w 9 2)
  if fld w 21 5 = 0 then
    match fld w 0 9 with
    | 0 => some (.redAdd sc a b) | 1 => some (.redFadd32 sc a b) | 2 => some (.redMax sc a b)
    | 3 => some (.redMin sc a b) | _ => none
  else none

/-- Op 0x25 (R67). -/
def decodeBar (w : Nat) : Option Instr :=
  let d := reg5 w 21; let a := reg5 w 16; let b := reg5 w 11
  match fld w 0 11 with
  | 0 => some (.barInit d a b) | 1 => some (.barArr d a b) | 2 => some (.barWait d a b)
  | 3 => some (.barArrw d a b) | 4 => some (.barQuery d a b) | _ => none

/-- Op 0x2A (R70): n is 0–4 and d + n − 1 at most 31. With n = 0 no register is named, and d may be any number (DESIGN CHOICE,
log 135). -/
def decodeRun (w : Nat) : Option Instr :=
  let d := reg5 w 21; let a := reg5 w 16; let n := BitVec.ofNat 3 (fld w 0 3)
  if fld w 3 9 = 0 ∧ fld w 0 3 ≤ 4 ∧ fld w 21 5 + fld w 0 3 ≤ 32 then
    match fld w 12 4 with
    | 0 => some (.runV d a n) | 1 => some (.runM d a n) | 2 => some (.runX d a n) | 3 => some (.runW d a n)
    | _ => none
  else none

/-- Op 0x2D (R70). -/
def decodeCode (w : Nat) : Option Instr :=
  let a := reg5 w 16
  if fld w 21 5 = 0 ∧ fld w 3 9 = 0 then
    match CacheSel.ofCode? (fld w 0 3) with
    | none => none
    | some c =>
      match fld w 12 4 with
      | 0 => some (.codePf a c) | 1 => some (.codePin a c) | 2 => some (.codeUnpin a c) | _ => none
  else none

/-- Op 0x30 (R67). -/
def decodeSys (w : Nat) : Option Instr :=
  if fld w 16 10 = 0 then
    match fld w 12 4 with
    | 0 => some (.syscall (BitVec.ofNat 12 (fld w 0 12))) | 1 => some (.brk (BitVec.ofNat 12 (fld w 0 12)))
    | 2 => only (fld w 0 12 == 0) .eret | 3 => only (fld w 0 12 == 0) .halt | _ => none
  else none

/-- A sequencer word (R67). -/
def decodeSeq (w : Nat) : Option Instr :=
  let d := reg5 w 21; let a := reg5 w 16; let b := reg5 w 11
  let imm := BitVec.ofNat 16 (fld w 0 16)
  match fld w 26 6 with
  | 0x01 => decodeAlu w
  | 0x02 => some (.addi d a imm) | 0x03 => some (.andi d a imm) | 0x04 => some (.ori d a imm)
  | 0x05 => some (.xori d a imm)
  | 0x06 =>
    match fld w 6 10 with
    | 0 => some (.slli d a (BitVec.ofNat 6 (fld w 0 6))) | 1 => some (.srli d a (BitVec.ofNat 6 (fld w 0 6)))
    | 2 => some (.srai d a (BitVec.ofNat 6 (fld w 0 6))) | _ => none
  | 0x07 => only (fld w 16 5 == 0) (.lui d imm)
  | 0x08 => some (.slti d a imm) | 0x09 => some (.sltni d a imm)
  | 0x0A => some (.ldB d a imm) | 0x0B => some (.ldH d a imm) | 0x0C => some (.ldW d a imm)
  | 0x0D => some (.ldD d a imm) | 0x0E => some (.ldBn d a imm) | 0x0F => some (.ldHn d a imm)
  | 0x10 => some (.ldWn d a imm) | 0x11 => some (.stB d a imm) | 0x12 => some (.stH d a imm)
  | 0x13 => some (.stW d a imm) | 0x14 => some (.stD d a imm) | 0x15 => some (.ldS d a imm)
  | 0x16 => only (fld w 0 21 == 0) (.chk d)
  | 0x17 => some (.beq d a imm) | 0x18 => some (.bne d a imm) | 0x19 => some (.blt d a imm)
  | 0x1A => some (.bge d a imm) | 0x1B => some (.bltn d a imm) | 0x1C => some (.bgen d a imm)
  | 0x1D => some (.jal d (BitVec.ofNat 21 (fld w 0 21)))
  | 0x1E => some (.jalr d a imm)
  | 0x1F => decodeAmo w
  | 0x20 => only (fld w 0 9 == 0) (.cas (Scope.ofCode (fld w 9 2)) d a b)
  | 0x21 => decodeRed w
  | 0x22 => only (fld w 0 9 == 0 && fld w 11 5 == 0) (.lda (Scope.ofCode (fld w 9 2)) d a)
  | 0x23 => only (fld w 0 9 == 0 && fld w 21 5 == 0) (.stl (Scope.ofCode (fld w 9 2)) a b)
  | 0x24 =>
    match fld w 0 26 with
    | 0 => some .fenceMem | 1 => some .fenceEngines | 2 => some .fenceBoth | _ => none
  | 0x25 => decodeBar w
  | 0x26 =>
    if fld w 21 5 = 0 ∧ fld w 11 5 = 0 then
      match fld w 0 11 with
      | 0 => some (.sev a) | 1 => only (fld w 16 5 == 0) .wfe | 2 => only (fld w 16 5 == 0) .clrev | _ => none
    else none
  | 0x27 => only (fld w 0 11 == 0) (.spawn d a b)
  | 0x28 => only (fld w 0 16 == 0) (.join d a)
  | 0x29 => only (fld w 0 11 == 0) (.send d a b)
  | 0x2A => decodeRun w
  | 0x2B =>
    if fld w 16 10 = 0 then
      match fld w 12 4 with
      | 0 => only (fld w 4 8 == 0) (.ewaitE (BitVec.ofNat 4 (fld w 0 4)))
      | 1 => only (fld w 8 4 == 0) (.ewaitK (BitVec.ofNat 8 (fld w 0 8)))
      | _ => none
    else none
  | 0x2C => only (fld w 21 5 == 0 && fld w 0 16 == 0) (.atTick a)
  | 0x2D => decodeCode w
  | 0x2E => only (fld w 12 14 == 0) (.safe (BitVec.ofNat 12 (fld w 0 12)))
  | 0x2F =>
    match fld w 12 4 with
    | 0 => only (fld w 16 5 == 0) (.cfgr d (BitVec.ofNat 12 (fld w 0 12)))
    | 1 => only (fld w 21 5 == 0) (.cfgw a (BitVec.ofNat 12 (fld w 0 12)))
    | _ => none
  | 0x30 => decodeSys w
  | 0x31 => only (fld w 3 18 == 0) (.qdepth d (BitVec.ofNat 3 (fld w 0 3)))
  | 0x32 => only (fld w 6 15 == 0) (.tstate d (Fin.ofNat 64 (fld w 0 6)))
  | _ => none

/-! ## Vector words (R71 to R74, R132, R156) -/

/-- A modifier word (R73). -/
def decodeModifier (w : Nat) : Option Modifier :=
  if fld w 28 4 = 0 ∧ fld w 22 6 = 0x3E ∧ fld w 0 7 = 0 then
    some { sat := bit w 21, clamp := bit w 20, neg := bit w 19, abs := bit w 18,
           sc := BitVec.ofNat 6 (fld w 12 6), c := reg5 w 7 }
  else none

/-- The ops that accept a modifier (column Mod of R74). -/
def takesModifier (op : Nat) : Bool :=
  (0x08 ≤ op && op ≤ 0x0F) || (0x1B ≤ op && op ≤ 0x20)

/-- For every op but `vfma`, field c of the modifier must be 0 (R73). -/
def modOk (vfma : Bool) (m : Option Modifier) : Bool :=
  match m with
  | none => true
  | some m => vfma || m.c == 0

/-- The op, type and fields of a vector word once its modifier is known. -/
def decodeVecBody (w : Nat) (m : Option Modifier) : Option Instr :=
  let h := BitVec.ofNat 3 (fld w 29 3)
  let op := fld w 22 6
  let tn := fld w 19 3; let t := ElemType.ofCode tn
  let d := reg5 w 14; let a := reg5 w 9; let b := reg5 w 4
  let dn := fld w 14 5; let an := fld w 9 5; let bn := fld w 4 5; let x := fld w 0 4
  let vpa := reg2 w 9; let vpb := reg2 w 4
  let aVp := an < 4; let bVp := bn < 4
  let rounded (mk : Rnd → Instr) : Option Instr := (Rnd.ofCode? x).map mk
  match op with
  | 0x01 => only (tn == 0 && x == 0 && dn == 0 && aVp && bn == 0) (.vshape h vpa)
  | 0x02 => only (x < 2 && aVp && bn == 0) (.vld h t (bit w 0) d vpa)
  | 0x03 => only (x < 2 && aVp && bn == 0) (.vst h t (bit w 0) d vpa)
  | 0x04 => only (x < 4 && aVp && bn == 0 && t.isFloat) (.vldacc h t (bit w 0) (bit w 1) d vpa)
  | 0x05 => only (x < 4 && aVp && bn == 0 && t.isFloat) (.vstacc h t (bit w 0) (bit w 1) d vpa)
  | 0x06 => only (x == 0 && bn == 0) (.vmov h t d a)
  | 0x07 => only (x < 4 && bn == 0 && (x != 3 || aVp)) (.vsplat h t (Splat.ofCode x) d a)
  | 0x08 => if modOk false m then rounded (fun r => .vadd h m t r d a b) else none
  | 0x09 => if modOk false m then rounded (fun r => .vsub h m t r d a b) else none
  | 0x0A => if modOk false m then rounded (fun r => .vmul h m t r d a b) else none
  | 0x0B => rounded (fun r => .vfma h m t r d a b)
  | 0x0C => only (modOk false m && x == 0) (.vmax h m t d a b)
  | 0x0D => only (modOk false m && x == 0) (.vmin h m t d a b)
  | 0x0E => if modOk false m && t.isFloat then rounded (fun r => .vdiv h m t r d a b) else none
  | 0x0F => if modOk false m && fld w 7 2 == 0 then
              rounded (fun r => .vcvt h m t r d a (ElemType.ofCode (fld w 4 3))) else none
  | 0x10 => only (x == 0) (.vand h t d a b) | 0x11 => only (x == 0) (.vor h t d a b)
  | 0x12 => only (x == 0) (.vxor h t d a b)
  | 0x13 => only (x == 0 && !t.isFloat) (.vshl h t d a b)
  | 0x14 =>
    match x with
    | 0 => only (!t.isFloat) (.vshrSrl h t d a b)
    | 1 => only t.isSigned (.vshrSra h t d a b)
    | _ => none
  | 0x15 =>
    match Cond.ofCode? x with
    | none => none
    | some c => only (dn == 0 && (!c.floatOnly || t.isFloat)) (.vmpush h t c a b)
  | 0x16 => only (tn == 0 && x == 0 && dn == 0 && an == 0 && bn == 0) (.vminv h)
  | 0x17 => only (tn == 0 && x == 0 && dn == 0 && an == 0 && bn == 0) (.vmpop h)
  | 0x18 =>
    match SkipCond.ofCode? x with
    | none => none
    | some c => only (tn == 0) (.vskip h c (BitVec.ofNat 15 (fld w 4 15)))
  | 0x19 => only (x == 0) (.vsel h t d a b)
  | 0x1A => only (tn == 0 && x < 8 && aVp)
              (.vloop h (BitVec.ofNat 3 (fld w 0 3)) (BitVec.ofNat 10 (dn * 32 + bn)) vpa)
  | 0x1B => if modOk false m && t.isFloat && bn == 0 then rounded (fun r => .vexp2 h m t r d a) else none
  | 0x1C => if modOk false m && t.isFloat && bn == 0 then rounded (fun r => .vlog2 h m t r d a) else none
  | 0x1D => if modOk false m && t.isFloat && bn == 0 then rounded (fun r => .vrcp h m t r d a) else none
  | 0x1E => if modOk false m && t.isFloat && bn == 0 then rounded (fun r => .vrsqrt h m t r d a) else none
  | 0x1F => if modOk false m && t.isFloat && bn == 0 then rounded (fun r => .vtanh h m t r d a) else none
  | 0x20 => if modOk false m && t.isFloat && bn == 0 then rounded (fun r => .vsig h m t r d a) else none
  | 0x21 =>
    match Dir.ofCode? bn, Rnd.ofCode? x with
    | some dir, some r => only (t.isFloat || x == 0) (.vredsum h t r dir d a)
    | _, _ => none
  | 0x22 =>
    match Dir.ofCode? bn with
    | some dir => only (x == 0) (.vredmax h t dir d a)
    | none => none
  | 0x23 =>
    match Dir.ofCode? bn with
    | some dir => only (x == 0) (.vredmin h t dir d a)
    | none => none
  | 0x24 => only (bit w 1 || bn == 0) (.vtopk h t (!bit w 0) (bit w 1) (reg2 w 2) d a b)
  | 0x25 => only (tn == 0 || tn == 3 || tn == 6) (.vtopm h t (!bit w 0) (bit w 1) (reg2 w 2) d a b)
  | 0x26 =>
    match x with
    | 0 => some (.vperm h t .row d a b) | 1 => some (.vperm h t .lin d a b) | _ => none
  | 0x27 =>
    match x with
    | 0 => only aVp (.vgath h t .lin d vpa b) | 1 => only aVp (.vgath h t .row d vpa b) | _ => none
  | 0x28 =>
    match x with
    | 0 => only aVp (.vscat h t .lin d vpa b) | 1 => only aVp (.vscat h t .row d vpa b) | _ => none
  | 0x29 =>
    match x with
    | 0 => only (aVp && bVp && !t.isFloat) (.vrand h t .bits d vpa vpb)
    | 1 => only (aVp && bVp && t.isFloat) (.vrand h t .unif d vpa vpb)
    | _ => none
  | 0x2A =>
    match x with
    | 0 => only (aVp && bVp && !t.isFloat) (.vqrs h t .bits d vpa vpb)
    | 1 => only (aVp && bVp && t.isFloat) (.vqrs h t .unif d vpa vpb)
    | _ => none
  | 0x2B => only (tn == 0 && x == 0 && dn == 0 && aVp && bVp) (.vqdir h vpa vpb)
  | 0x2C => only (x < 4 && t.isFloat) (.vpchk h t (reg2 w 0) d a b)
  | 0x2D => only (x == 0 && dn < 4 && bVp) (.vpush h t (reg2 w 14) a vpb)
  | 0x2E => only (x == 0 && an < 4 && bn == 0) (.vpop h t d (reg2 w 9))
  | 0x2F => only (x == 0 && bn == 0) (.vtrans h t d a)
  | 0x30 =>
    match Iota.ofCode? x with
    | none => none
    | some v => only (an == 0 && bn == 0 && (!t.isFloat || tn == 0)) (.viota h t v d)
  | 0x31 => only (x == 0 && bn == 0 && t.isFloat) (.vclass h t d a)
  | 0x32 => only (tn == 0 && x == 0 && dn == 0 && an == 0 && bn == 0) (.vexit h)
  | _ => none

/-- A vector word and, where m = 1, the word after it (R73). Answers the instruction and its length in words. -/
def decodeVec (w : Nat) (next : Option Nat) : Option (Instr × Nat) :=
  if bit w 28 then
    if takesModifier (fld w 22 6) then
      match next with
      | none => none
      | some w2 =>
        match decodeModifier w2 with
        | none => none
        | some m => (decodeVecBody w (some m)).map (fun i => (i, 2))
    else none
  else (decodeVecBody w none).map (fun i => (i, 1))

/-! ## Matrix steps (R78, R177, R178) -/

/-- A scratchpad address word (R178). In bank form the tile field is not used and not checked. -/
def decodeSpad (w : Nat) : Option SpadAddr :=
  if fld w 21 4 = 0 ∧ (fld w 31 1 = 0 ∨ fld w 17 4 = 0) then
    some { off := BitVec.ofNat 17 (fld w 0 17), bank := BitVec.ofNat 4 (fld w 17 4),
           tile := Fin.ofNat 64 (fld w 25 6), tf := bit w 31 }
  else none

/-- A count of 1 to `hi`. -/
def countOk (n hi : Nat) : Bool := 1 ≤ n && n ≤ hi

/-- The number of parameter words p of a matrix or transfer step (R78, R79). -/
def stepParams (w : Nat) : Nat := fld w 25 2

/-- A matrix step and its p parameter words. -/
def decodeMat (w : Nat) (ps : List Nat) : Option Instr :=
  let n11 := BitVec.ofNat 11 (fld w 10 11); let first := BitVec.ofNat 10 (fld w 0 10)
  match fld w 27 5, ps with
  | 0x01, [] => only (fld w 0 16 == 0 && tileFmtCode (fld w 21 4) && tileFmtCode (fld w 17 4))
      (.mfmt (BitVec.ofNat 4 (fld w 21 4)) (BitVec.ofNat 4 (fld w 17 4)) (bit w 16))
  | 0x02, [] => only (fld w 0 22 == 0) (.mldb (reg3 w 22))
  | 0x02, [p1] =>
    match decodeSpad p1 with
    | some a => only (fld w 0 21 == 0 && bit w 21) (.mldbScaled (reg3 w 22) a)
    | none => none
  | 0x03, p1 :: rest =>
    match decodeSpad p1 with
    | none => none
    | some a =>
      if fld w 0 3 = 0 ∧ countOk (fld w 14 11) 1024 then
        match rest with
        | [] => some (.mrows (bit w 3) (BitVec.ofNat 11 (fld w 14 11)) (BitVec.ofNat 10 (fld w 4 10)) a none)
        | [p2] => only (fld p2 17 15 == 0)
            (.mrows (bit w 3) (BitVec.ofNat 11 (fld w 14 11)) (BitVec.ofNat 10 (fld w 4 10)) a
              (some (BitVec.ofNat 17 (fld p2 0 17))))
        | _ => none
      else none
  | 0x04, [p1, p2, p3] =>
    match decodeSpad p1, decodeSpad p3 with
    | some l, some r =>
      only (fld w 0 19 == 0 && fld p2 13 3 == 0 && fld p2 29 3 == 0 && countOk (fld p2 0 13) 4096
          && countOk (fld p2 16 13) 4096)
        (.mbag (bit w 19) (reg5 w 20) l (BitVec.ofNat 13 (fld p2 0 13)) (BitVec.ofNat 13 (fld p2 16 13)) r)
    | _, _ => none
  | 0x05, [] => only (countOk (fld w 12 11) 1024 && (!bit w 10 || fld w 0 10 == 0))
      (.mfeed (bit w 11) (bit w 10) (reg2 w 23) (BitVec.ofNat 11 (fld w 12 11)) first)
  | 0x06, [] => only (fld w 0 25 == 0) .mclose
  | 0x07, [] => only (fld w 22 3 == 0 && countOk (fld w 10 11) 1024) (.mclr (bit w 21) n11 first)
  | 0x08, [p1] =>
    match decodeSpad p1 with
    | some a => only (fld w 24 1 == 0 && countOk (fld w 10 11) 1024)
        (.mdrain (bit w 23) (bit w 22) (bit w 21) n11 first a)
    | none => none
  | 0x09, [p1] =>
    match decodeSpad p1 with
    | some a => only (fld w 23 2 == 0 && countOk (fld w 10 11) 1024) (.mfill (bit w 22) (bit w 21) n11 first a)
    | none => none
  | 0x0A, [] => only (fld w 10 15 == 0) (.mtagb first)
  | 0x0B, [] => only (fld w 4 21 == 0) (.msync (bit w 3) (reg3 w 0))
  | 0x0C, [p1] =>
    match decodeSpad p1 with
    | some a => only (fld w 5 20 == 0) (.mflags (BitVec.ofNat 5 (fld w 0 5)) a)
    | none => none
  | 0x0D, [] => only (fld w 5 20 == 0 && (bit w 4 || fld w 0 4 == 0)) (.mcharge (bit w 4) (BitVec.ofNat 4 (fld w 0 4)))
  | 0x0E, [] => only (fld w 0 25 == 0) .mexit
  | _, _ => none

/-! ## Transfer steps (R79, R197) -/

/-- The common fields of a transfer step. -/
def decodeXHdr (w : Nat) : XHdr :=
  { k := reg3 w 22, kv := bit w 8, wm := BitVec.ofNat 8 (fld w 14 8) }

/-- When kv = 0, k must be 0 (R197). -/
def XHdr.ok (x : XHdr) : Bool := x.kv || x.k == 0

/-- A transfer step and its p parameter words. R197 takes a tile form where the step's own entry allows it; where the entry is silent
the word is decoded: the list words of `xgath` and `xcomp`, and `xred`, `xtile`, `xscale` and `xsend`. `xbusy`, which names
granules of a bank, takes none (DESIGN CHOICE, log 134). -/
def decodeXfr (w : Nat) (ps : List Nat) : Option Instr :=
  let x := decodeXHdr w
  let sl := reg5 w 9; let sn := fld w 9 5; let f := fld w 0 8
  let hdr (c : Bool) (i : Instr) : Option Instr := only (x.ok && c) i
  let dfr := bit w 2
  match fld w 27 5, ps with
  | 0x01, [p1, p2] =>
    match decodeSpad p1 with
    | none => none
    | some a =>
      match fld w 0 2 with
      | 0 => hdr (fld w 3 5 == 0) (.xcopyG2s x dfr sl a (BitVec.ofNat 32 p2))
      | 1 => hdr (fld w 4 4 == 0 && (!bit w 3 || a.tf)) (.xcopyS2g x dfr (bit w 3) sl a (BitVec.ofNat 32 p2))
      | 2 =>
        match decodeSpad p2 with
        | none => none
        | some b => hdr (fld w 4 4 == 0 && (!bit w 3 || a.tf)) (.xcopyS2s x dfr (bit w 3) sl a b)
      | _ => none
  | 0x02, [p1] => hdr (fld w 0 2 == 0 && fld w 3 5 == 0 && fld p1 5 27 == 0) (.xcopy2 x dfr sl (reg5 p1 0))
  | 0x03, [p1, p2, p3] =>
    match decodeSpad p1, decodeSpad p3 with
    | some l, some b => hdr (fld w 0 2 == 0 && fld w 3 5 == 0 && fld p2 13 19 == 0 && countOk (fld p2 0 13) 4096)
        (.xgath x dfr sl l (BitVec.ofNat 13 (fld p2 0 13)) b)
    | _, _ => none
  | 0x04, [p1, p2, p3] =>
    match decodeSpad p1 with
    | some a => hdr (sn == 0 && fld w 2 6 == 0 && !a.tf && fld p2 10 22 == 0 && countOk (fld p2 0 10) 512
          && fld p3 22 10 == 0)
        (.xmcast x (reg2 w 0) a (BitVec.ofNat 10 (fld p2 0 10)) (BitVec.ofNat 22 (fld p3 0 22)))
    | none => none
  | 0x05, [p1, p2] =>
    match decodeSpad p1 with
    | some a => hdr (fld w 2 6 == 0) (.xred x (RedOp.ofCode (fld w 0 2)) sl a (BitVec.ofNat 32 p2))
    | none => none
  | 0x06, [p1, p2, p3] =>
    match decodeSpad p1 with
    | some l => hdr (fld w 0 2 == 0 && fld w 3 5 == 0 && fld p2 13 19 == 0 && countOk (fld p2 0 13) 4096
          && fld p3 5 27 == 0)
        (.xcomp x dfr sl l (BitVec.ofNat 13 (fld p2 0 13)) (reg5 p3 0))
    | none => none
  | 0x07, [p1] =>
    match decodeSpad p1 with
    | some a => hdr (sn == 0 && fld w 3 5 == 0) (.xtile x (reg3 w 0) a)
    | none => none
  | 0x08, [p1, p2] =>
    match decodeSpad p1 with
    | some a => hdr (sn == 0 && f == 0 && fld p2 7 25 == 0 && countOk (fld p2 0 7) 64)
        (.xscale x a (BitVec.ofNat 7 (fld p2 0 7)))
    | none => none
  | 0x09, [p1] => hdr (fld w 2 6 == 0) (.xslot x sl (reg2 w 0) (BitVec.ofNat 32 p1))
  | 0x0A, [p1] => hdr (fld w 2 6 == 0) (.xslev x sl (reg2 w 0) (BitVec.ofNat 32 p1))
  | 0x0B, [] => hdr (sn == 0 && f == 0) (.xpub x)
  | 0x0C, [p1, p2] =>
    match decodeSpad p1 with
    | some a => hdr (sn == 0 && f == 0 && fld p2 12 20 == 0) (.xsend x a (BitVec.ofNat 12 (fld p2 0 12)))
    | none => none
  | 0x0D, [p1, p2] =>
    match fld w 6 2 with
    | 0 =>
      match decodeSpad p1 with
      | some a => hdr (sn == 0 && !a.tf && fld p2 13 19 == 0)
          (.xfillDef x (Fin.ofNat 64 (fld w 0 6)) a (BitVec.ofNat 13 (fld p2 0 13)))
      | none => none
    | 1 => hdr (sn == 0 && p1 == 0 && p2 == 0) (.xfillRel x (Fin.ofNat 64 (fld w 0 6)))
    | _ => none
  | 0x0E, [] => hdr (sn == 0 && f == 0) (.xwait x)
  | 0x0F, [p1, p2] =>
    match decodeSpad p1 with
    | some a =>
      if sn = 0 ∧ fld w 1 7 = 0 ∧ a.tf = false ∧ fld p2 10 22 = 0 ∧ countOk (fld p2 0 10) 512 then
        if bit w 0 then hdr true (.xbusySet x a (BitVec.ofNat 10 (fld p2 0 10)))
        else hdr true (.xbusyClr x a (BitVec.ofNat 10 (fld p2 0 10)))
      else none
    | none => none
  | 0x10, [] => only (fld w 0 14 == 0 && fld w 22 3 == 0) (.xexit (BitVec.ofNat 8 (fld w 14 8)))
  | _, _ => none

/-! ## Walker words (R80, R221) -/

/-- A walker word. -/
def decodeWlk (w : Nat) : Option Instr :=
  let d := reg4 w 23; let a := reg4 w 19; let b := reg4 w 15
  let dn := fld w 23 4; let an := fld w 19 4; let bn := fld w 15 4
  let imm := BitVec.ofNat 15 (fld w 0 15); let immn := fld w 0 15
  match fld w 27 5 with
  | 0x01 =>
    if an = 0 then
      match bn with
      | 0 => some (.wli d imm) | 1 => some (.wliHi d imm)
      | 2 => only (fld w 2 13 == 0) (.wliVp d (reg2 w 0)) | _ => none
    else none
  | 0x02 => some (.wadd d a b imm) | 0x03 => some (.wsub d a b imm) | 0x04 => some (.wmul d a b imm)
  | 0x05 => some (.wand d a b imm) | 0x06 => some (.wor d a b imm) | 0x07 => some (.wshl d a b imm)
  | 0x08 => some (.wshr d a b imm) | 0x09 => some (.wmin d a b imm)
  | 0x0A => only (bn < 4) (.wld (WSize.ofCode bn) d a imm)
  | 0x0B => some (.wbit d a b imm)
  | 0x0C => only (dn == 0 && bn == 0) (.wloop a imm)
  | 0x0D => only (bn == 0) (.wnext d a imm)
  | 0x0E =>
    match WCond.ofCode? dn with
    | some c => some (.wskip c a b imm)
    | none => none
  | 0x0F =>
    if dn = 0 then
      match immn with
      | 0 => some (.wpos .bag a b) | 1 => some (.wpos .idx a b) | _ => none
    else none
  | 0x10 =>
    match dn with
    | 0 => some (.wemitE a b imm) | 1 => only (immn == 0) (.wemitL a b) | 2 => some (.wemitW a b imm) | _ => none
  | 0x11 => only (dn == 0 && bn == 0 && immn == 0) (.wtile a)
  | 0x12 => only (dn == 0 && bn == 0) (.wrow a imm)
  | 0x13 => only (dn == 0 && bn == 0 && fld w 9 6 == 0 && (bit w 8 || fld w 5 3 == 0))
      (.wgo a (reg5 w 0) (bit w 8) (reg3 w 5))
  | 0x14 => only (fld w 2 13 == 0) (.wmove (WSize.ofCode (fld w 0 2)) d a b)
  | 0x15 => only (dn == 0 && an == 0 && bn == 0 && fld w 4 11 == 0 && (bit w 3 || fld w 0 3 == 0))
      (.wexit (bit w 3) (reg3 w 0))
  | _ => none

/-! ## One decoder for the words at a unit's program counter -/

/-- The instruction at the head of the words a unit fetches, and its length in words (R62). A step's parameter words
must all be there (R63). -/
def decode (u : Agent) (ws : List Nat) : Option (Instr × Nat) :=
  match ws with
  | [] => none
  | w :: rest =>
    match u with
    | .seq => (decodeSeq w).map (fun i => (i, 1))
    | .eng .vector => decodeVec w rest.head?
    | .eng .matrix =>
      let p := stepParams w
      if p ≤ rest.length then (decodeMat w (rest.take p)).map (fun i => (i, 1 + p)) else none
    | .eng .transfer =>
      let p := stepParams w
      if p ≤ rest.length then (decodeXfr w (rest.take p)).map (fun i => (i, 1 + p)) else none
    | .eng .walker => (decodeWlk w).map (fun i => (i, 1))

/-! ## Encoding -/

/-- A register format word. -/
def encReg (op : Nat) (d a b : Fin 32) (fn : Nat) : Nat :=
  put op 26 + put d.val 21 + put a.val 16 + put b.val 11 + fn

/-- An immediate or branch format word. -/
def encImm (op : Nat) (d a : Fin 32) (imm : BitVec 16) : Nat :=
  put op 26 + put d.val 21 + put a.val 16 + imm.toNat

/-- A system format word. -/
def encSys (op d a k imm12 : Nat) : Nat :=
  put op 26 + put d 21 + put a 16 + put k 12 + imm12

/-- A vector word without its modifier. -/
def encVec (h : Hold) (m : Bool) (op t d a b x : Nat) : Nat :=
  put h.toNat 29 + put (b2n m) 28 + put op 22 + put t 19 + put d 14 + put a 9 + put b 4 + x

/-- A modifier word (R73). -/
def encMod (m : Modifier) : Nat :=
  put 0x3E 22 + put (b2n m.sat) 21 + put (b2n m.clamp) 20 + put (b2n m.neg) 19 + put (b2n m.abs) 18
    + put m.sc.toNat 12 + put m.c.val 7

/-- A vector word that may carry a modifier. -/
def encVecM (h : Hold) (m : Option Modifier) (op t d a b x : Nat) : List Nat :=
  match m with
  | none => [encVec h false op t d a b x]
  | some m => [encVec h true op t d a b x, encMod m]

/-- A scratchpad address word (R178). -/
def encSpad (a : SpadAddr) : Nat :=
  a.off.toNat + put a.bank.toNat 17 + put a.tile.val 25 + put (b2n a.tf) 31

/-- A matrix step word. -/
def encMat (op p low : Nat) : Nat := put op 27 + put p 25 + low

/-- A transfer step word. -/
def encXfr (op p : Nat) (x : XHdr) (sl f : Nat) : Nat :=
  put op 27 + put p 25 + put x.k.val 22 + put x.wm.toNat 14 + put sl 9 + put (b2n x.kv) 8 + f

/-- A walker word. -/
def encWlk (op d a b imm : Nat) : Nat :=
  put op 27 + put d 23 + put a 19 + put b 15 + imm

/-- The words of an instruction; an event has none. -/
def encode (i : Instr) : List Nat :=
  match i with
  | .add d a b => [encReg 1 d a b 0] | .sub d a b => [encReg 1 d a b 1] | .and d a b => [encReg 1 d a b 2]
  | .or d a b => [encReg 1 d a b 3] | .xor d a b => [encReg 1 d a b 4] | .andn d a b => [encReg 1 d a b 5]
  | .sll d a b => [encReg 1 d a b 6] | .srl d a b => [encReg 1 d a b 7] | .sra d a b => [encReg 1 d a b 8]
  | .slt d a b => [encReg 1 d a b 9] | .sltn d a b => [encReg 1 d a b 10] | .min d a b => [encReg 1 d a b 11]
  | .max d a b => [encReg 1 d a b 12] | .minn d a b => [encReg 1 d a b 13] | .maxn d a b => [encReg 1 d a b 14]
  | .mul d a b => [encReg 1 d a b 15] | .mulh d a b => [encReg 1 d a b 16] | .mulhn d a b => [encReg 1 d a b 17]
  | .div d a b => [encReg 1 d a b 18] | .divn d a b => [encReg 1 d a b 19] | .rem d a b => [encReg 1 d a b 20]
  | .remn d a b => [encReg 1 d a b 21] | .clz d a => [encReg 1 d a 0 22] | .ctz d a => [encReg 1 d a 0 23]
  | .popc d a => [encReg 1 d a 0 24]
  | .addi d a imm => [encImm 2 d a imm] | .andi d a imm => [encImm 3 d a imm] | .ori d a imm => [encImm 4 d a imm]
  | .xori d a imm => [encImm 5 d a imm]
  | .slli d a sh => [encReg 6 d a 0 sh.toNat] | .srli d a sh => [encReg 6 d a 0 (put 1 6 + sh.toNat)]
  | .srai d a sh => [encReg 6 d a 0 (put 2 6 + sh.toNat)]
  | .lui d imm => [encImm 7 d 0 imm] | .slti d a imm => [encImm 8 d a imm] | .sltni d a imm => [encImm 9 d a imm]
  | .ldB d a imm => [encImm 0x0A d a imm] | .ldH d a imm => [encImm 0x0B d a imm]
  | .ldW d a imm => [encImm 0x0C d a imm] | .ldD d a imm => [encImm 0x0D d a imm]
  | .ldBn d a imm => [encImm 0x0E d a imm] | .ldHn d a imm => [encImm 0x0F d a imm]
  | .ldWn d a imm => [encImm 0x10 d a imm] | .stB d a imm => [encImm 0x11 d a imm]
  | .stH d a imm => [encImm 0x12 d a imm] | .stW d a imm => [encImm 0x13 d a imm]
  | .stD d a imm => [encImm 0x14 d a imm] | .ldS d a imm => [encImm 0x15 d a imm]
  | .chk d => [encReg 0x16 d 0 0 0]
  | .beq a b off => [encImm 0x17 a b off] | .bne a b off => [encImm 0x18 a b off]
  | .blt a b off => [encImm 0x19 a b off] | .bge a b off => [encImm 0x1A a b off]
  | .bltn a b off => [encImm 0x1B a b off] | .bgen a b off => [encImm 0x1C a b off]
  | .jal d off => [put 0x1D 26 + put d.val 21 + off.toNat] | .jalr d a imm => [encImm 0x1E d a imm]
  | .amoSwap sc d a b => [encReg 0x1F d a b (put sc.code 9)]
  | .amoAdd sc d a b => [encReg 0x1F d a b (put sc.code 9 + 1)]
  | .amoAnd sc d a b => [encReg 0x1F d a b (put sc.code 9 + 2)]
  | .amoOr sc d a b => [encReg 0x1F d a b (put sc.code 9 + 3)]
  | .amoXor sc d a b => [encReg 0x1F d a b (put sc.code 9 + 4)]
  | .amoMax sc d a b => [encReg 0x1F d a b (put sc.code 9 + 5)]
  | .amoMin sc d a b => [encReg 0x1F d a b (put sc.code 9 + 6)]
  | .amoMaxn sc d a b => [encReg 0x1F d a b (put sc.code 9 + 7)]
  | .amoMinn sc d a b => [encReg 0x1F d a b (put sc.code 9 + 8)]
  | .cas sc d a b => [encReg 0x20 d a b (put sc.code 9)]
  | .redAdd sc a b => [encReg 0x21 0 a b (put sc.code 9)]
  | .redFadd32 sc a b => [encReg 0x21 0 a b (put sc.code 9 + 1)]
  | .redMax sc a b => [encReg 0x21 0 a b (put sc.code 9 + 2)]
  | .redMin sc a b => [encReg 0x21 0 a b (put sc.code 9 + 3)]
  | .lda sc d a => [encReg 0x22 d a 0 (put sc.code 9)]
  | .stl sc a b => [encReg 0x23 0 a b (put sc.code 9)]
  | .fenceMem => [encReg 0x24 0 0 0 0] | .fenceEngines => [encReg 0x24 0 0 0 1] | .fenceBoth => [encReg 0x24 0 0 0 2]
  | .barInit d a b => [encReg 0x25 d a b 0] | .barArr d a b => [encReg 0x25 d a b 1]
  | .barWait d a b => [encReg 0x25 d a b 2] | .barArrw d a b => [encReg 0x25 d a b 3]
  | .barQuery d a b => [encReg 0x25 d a b 4]
  | .sev a => [encReg 0x26 0 a 0 0] | .wfe => [encReg 0x26 0 0 0 1] | .clrev => [encReg 0x26 0 0 0 2]
  | .spawn d a b => [encReg 0x27 d a b 0] | .join d a => [encReg 0x28 d a 0 0] | .send d a b => [encReg 0x29 d a b 0]
  | .runV d a n => [encSys 0x2A d.val a.val 0 n.toNat] | .runM d a n => [encSys 0x2A d.val a.val 1 n.toNat]
  | .runX d a n => [encSys 0x2A d.val a.val 2 n.toNat] | .runW d a n => [encSys 0x2A d.val a.val 3 n.toNat]
  | .ewaitE mask => [encSys 0x2B 0 0 0 mask.toNat] | .ewaitK mask => [encSys 0x2B 0 0 1 mask.toNat]
  | .atTick a => [encSys 0x2C 0 a.val 0 0]
  | .codePf a c => [encSys 0x2D 0 a.val 0 c.code] | .codePin a c => [encSys 0x2D 0 a.val 1 c.code]
  | .codeUnpin a c => [encSys 0x2D 0 a.val 2 c.code]
  | .safe num => [encSys 0x2E 0 0 0 num.toNat]
  | .cfgr d num => [encSys 0x2F d.val 0 0 num.toNat] | .cfgw a num => [encSys 0x2F 0 a.val 1 num.toNat]
  | .syscall code => [encSys 0x30 0 0 0 code.toNat] | .brk code => [encSys 0x30 0 0 1 code.toNat]
  | .eret => [encSys 0x30 0 0 2 0] | .halt => [encSys 0x30 0 0 3 0]
  | .qdepth d q => [encSys 0x31 d.val 0 0 q.toNat] | .tstate d t => [encSys 0x32 d.val 0 0 t.val]
  | .vshape h vp => [encVec h false 0x01 0 0 vp.val 0 0]
  | .vld h t inc d vp => [encVec h false 0x02 t.code d.val vp.val 0 (b2n inc)]
  | .vst h t inc d vp => [encVec h false 0x03 t.code d.val vp.val 0 (b2n inc)]
  | .vldacc h t inc ex d vp => [encVec h false 0x04 t.code d.val vp.val 0 (b2n inc + put (b2n ex) 1)]
  | .vstacc h t inc ex d vp => [encVec h false 0x05 t.code d.val vp.val 0 (b2n inc + put (b2n ex) 1)]
  | .vmov h t d a => [encVec h false 0x06 t.code d.val a.val 0 0]
  | .vsplat h t x d a => [encVec h false 0x07 t.code d.val a.val 0 x.code]
  | .vadd h m t r d a b => encVecM h m 0x08 t.code d.val a.val b.val r.code
  | .vsub h m t r d a b => encVecM h m 0x09 t.code d.val a.val b.val r.code
  | .vmul h m t r d a b => encVecM h m 0x0A t.code d.val a.val b.val r.code
  | .vfma h m t r d a b => encVecM h m 0x0B t.code d.val a.val b.val r.code
  | .vmax h m t d a b => encVecM h m 0x0C t.code d.val a.val b.val 0
  | .vmin h m t d a b => encVecM h m 0x0D t.code d.val a.val b.val 0
  | .vdiv h m t r d a b => encVecM h m 0x0E t.code d.val a.val b.val r.code
  | .vcvt h m t r d a src => encVecM h m 0x0F t.code d.val a.val src.code r.code
  | .vand h t d a b => [encVec h false 0x10 t.code d.val a.val b.val 0]
  | .vor h t d a b => [encVec h false 0x11 t.code d.val a.val b.val 0]
  | .vxor h t d a b => [encVec h false 0x12 t.code d.val a.val b.val 0]
  | .vshl h t d a b => [encVec h false 0x13 t.code d.val a.val b.val 0]
  | .vshrSrl h t d a b => [encVec h false 0x14 t.code d.val a.val b.val 0]
  | .vshrSra h t d a b => [encVec h false 0x14 t.code d.val a.val b.val 1]
  | .vmpush h t c a b => [encVec h false 0x15 t.code 0 a.val b.val c.code]
  | .vminv h => [encVec h false 0x16 0 0 0 0 0] | .vmpop h => [encVec h false 0x17 0 0 0 0 0]
  | .vskip h c n => [put h.toNat 29 + put 0x18 22 + put n.toNat 4 + c.code]
  | .vsel h t d a b => [encVec h false 0x19 t.code d.val a.val b.val 0]
  | .vloop h s l vp => [encVec h false 0x1A 0 (l.toNat / 32) vp.val (l.toNat % 32) s.toNat]
  | .vexp2 h m t r d a => encVecM h m 0x1B t.code d.val a.val 0 r.code
  | .vlog2 h m t r d a => encVecM h m 0x1C t.code d.val a.val 0 r.code
  | .vrcp h m t r d a => encVecM h m 0x1D t.code d.val a.val 0 r.code
  | .vrsqrt h m t r d a => encVecM h m 0x1E t.code d.val a.val 0 r.code
  | .vtanh h m t r d a => encVecM h m 0x1F t.code d.val a.val 0 r.code
  | .vsig h m t r d a => encVecM h m 0x20 t.code d.val a.val 0 r.code
  | .vredsum h t r dir d a => [encVec h false 0x21 t.code d.val a.val dir.code r.code]
  | .vredmax h t dir d a => [encVec h false 0x22 t.code d.val a.val dir.code 0]
  | .vredmin h t dir d a => [encVec h false 0x23 t.code d.val a.val dir.code 0]
  | .vtopk h t mx id vpk d a b =>
    [encVec h false 0x24 t.code d.val a.val b.val (b2n (!mx) + put (b2n id) 1 + put vpk.val 2)]
  | .vtopm h t mx id vpk d a b =>
    [encVec h false 0x25 t.code d.val a.val b.val (b2n (!mx) + put (b2n id) 1 + put vpk.val 2)]
  | .vperm h t g d a b => [encVec h false 0x26 t.code d.val a.val b.val g.permCode]
  | .vgath h t g d vp b => [encVec h false 0x27 t.code d.val vp.val b.val g.gatherCode]
  | .vscat h t g d vp b => [encVec h false 0x28 t.code d.val vp.val b.val g.gatherCode]
  | .vrand h t x d va vb => [encVec h false 0x29 t.code d.val va.val vb.val x.code]
  | .vqrs h t x d va vb => [encVec h false 0x2A t.code d.val va.val vb.val x.code]
  | .vqdir h va vb => [encVec h false 0x2B 0 0 va.val vb.val 0]
  | .vpchk h t vp d a b => [encVec h false 0x2C t.code d.val a.val b.val vp.val]
  | .vpush h t q a vb => [encVec h false 0x2D t.code q.val a.val vb.val 0]
  | .vpop h t d q => [encVec h false 0x2E t.code d.val q.val 0 0]
  | .vtrans h t d a => [encVec h false 0x2F t.code d.val a.val 0 0]
  | .viota h t x d => [encVec h false 0x30 t.code d.val 0 0 x.code]
  | .vclass h t d a => [encVec h false 0x31 t.code d.val a.val 0 0]
  | .vexit h => [encVec h false 0x32 0 0 0 0 0]
  | .mfmt af bf ex => [encMat 0x01 0 (put af.toNat 21 + put bf.toNat 17 + put (b2n ex) 16)]
  | .mldb tn => [encMat 0x02 0 (put tn.val 22)]
  | .mldbScaled tn sc => [encMat 0x02 1 (put tn.val 22 + put 1 21), encSpad sc]
  | .mrows st n dst a pitch =>
    match pitch with
    | none => [encMat 0x03 1 (put n.toNat 14 + put dst.toNat 4 + put (b2n st) 3), encSpad a]
    | some p => [encMat 0x03 2 (put n.toNat 14 + put dst.toNat 4 + put (b2n st) 3), encSpad a, p.toNat]
  | .mbag st sl l n e r =>
    [encMat 0x04 3 (put sl.val 20 + put (b2n st) 19), encSpad l, n.toNat + put e.toNat 16, encSpad r]
  | .mfeed st tg q n dst =>
    [encMat 0x05 0 (put q.val 23 + put n.toNat 12 + put (b2n st) 11 + put (b2n tg) 10 + dst.toNat)]
  | .mclose => [encMat 0x06 0 0]
  | .mclr vw n first => [encMat 0x07 0 (put (b2n vw) 21 + put n.toNat 10 + first.toNat)]
  | .mdrain clr h vw n first a =>
    [encMat 0x08 1 (put (b2n clr) 23 + put (b2n h) 22 + put (b2n vw) 21 + put n.toNat 10 + first.toNat), encSpad a]
  | .mfill h vw n first a =>
    [encMat 0x09 1 (put (b2n h) 22 + put (b2n vw) 21 + put n.toNat 10 + first.toNat), encSpad a]
  | .mtagb base => [encMat 0x0A 0 base.toNat]
  | .msync kv k => [encMat 0x0B 0 (put (b2n kv) 3 + k.val)]
  | .mflags c a => [encMat 0x0C 1 c.toNat, encSpad a]
  | .mcharge fx u => [encMat 0x0D 0 (put (b2n fx) 4 + u.toNat)]
  | .mexit => [encMat 0x0E 0 0]
  | .xcopyG2s x dfr sl sp off => [encXfr 0x01 2 x sl.val (put (b2n dfr) 2), encSpad sp, off.toNat]
  | .xcopyS2g x dfr dr sl sp off =>
    [encXfr 0x01 2 x sl.val (1 + put (b2n dfr) 2 + put (b2n dr) 3), encSpad sp, off.toNat]
  | .xcopyS2s x dfr dr sl a b =>
    [encXfr 0x01 2 x sl.val (2 + put (b2n dfr) 2 + put (b2n dr) 3), encSpad a, encSpad b]
  | .xcopy2 x dfr sl dl => [encXfr 0x02 1 x sl.val (put (b2n dfr) 2), dl.val]
  | .xgath x dfr sl l n b => [encXfr 0x03 3 x sl.val (put (b2n dfr) 2), encSpad l, n.toNat, encSpad b]
  | .xmcast x vp src g set => [encXfr 0x04 3 x 0 vp.val, encSpad src, g.toNat, set.toNat]
  | .xred x op sl sp off => [encXfr 0x05 2 x sl.val op.code, encSpad sp, off.toNat]
  | .xcomp x dfr sl l n dl => [encXfr 0x06 3 x sl.val (put (b2n dfr) 2), encSpad l, n.toNat, dl.val]
  | .xtile x tn sp => [encXfr 0x07 1 x 0 tn.val, encSpad sp]
  | .xscale x sp n => [encXfr 0x08 2 x 0 0, encSpad sp, n.toNat]
  | .xslot x sl vp off => [encXfr 0x09 1 x sl.val vp.val, off.toNat]
  | .xslev x sl vp off => [encXfr 0x0A 1 x sl.val vp.val, off.toNat]
  | .xpub x => [encXfr 0x0B 0 x 0 0]
  | .xsend x sp mb => [encXfr 0x0C 2 x 0 0, encSpad sp, mb.toNat]
  | .xfillDef x tt sp len => [encXfr 0x0D 2 x 0 tt.val, encSpad sp, len.toNat]
  | .xfillRel x tt => [encXfr 0x0D 2 x 0 (put 1 6 + tt.val), 0, 0]
  | .xwait x => [encXfr 0x0E 0 x 0 0]
  | .xbusySet x sp g => [encXfr 0x0F 2 x 0 1, encSpad sp, g.toNat]
  | .xbusyClr x sp g => [encXfr 0x0F 2 x 0 0, encSpad sp, g.toNat]
  | .xexit wm => [put 0x10 27 + put wm.toNat 14]
  | .wli d imm => [encWlk 0x01 d.val 0 0 imm.toNat] | .wliHi d imm => [encWlk 0x01 d.val 0 1 imm.toNat]
  | .wliVp d n => [encWlk 0x01 d.val 0 2 n.val]
  | .wadd d a b imm => [encWlk 0x02 d.val a.val b.val imm.toNat]
  | .wsub d a b imm => [encWlk 0x03 d.val a.val b.val imm.toNat]
  | .wmul d a b imm => [encWlk 0x04 d.val a.val b.val imm.toNat]
  | .wand d a b imm => [encWlk 0x05 d.val a.val b.val imm.toNat]
  | .wor d a b imm => [encWlk 0x06 d.val a.val b.val imm.toNat]
  | .wshl d a b imm => [encWlk 0x07 d.val a.val b.val imm.toNat]
  | .wshr d a b imm => [encWlk 0x08 d.val a.val b.val imm.toNat]
  | .wmin d a b imm => [encWlk 0x09 d.val a.val b.val imm.toNat]
  | .wld sz d a imm => [encWlk 0x0A d.val a.val sz.code imm.toNat]
  | .wbit d a b imm => [encWlk 0x0B d.val a.val b.val imm.toNat]
  | .wloop a off => [encWlk 0x0C 0 a.val 0 off.toNat]
  | .wnext d a off => [encWlk 0x0D d.val a.val 0 off.toNat]
  | .wskip c a b off => [encWlk 0x0E c.code a.val b.val off.toNat]
  | .wpos k a b => [encWlk 0x0F 0 a.val b.val k.code]
  | .wemitE a b imm => [encWlk 0x10 0 a.val b.val imm.toNat]
  | .wemitL a b => [encWlk 0x10 1 a.val b.val 0]
  | .wemitW a b imm => [encWlk 0x10 2 a.val b.val imm.toNat]
  | .wtile a => [encWlk 0x11 0 a.val 0 0]
  | .wrow a imm => [encWlk 0x12 0 a.val 0 imm.toNat]
  | .wgo a sl kv k => [encWlk 0x13 0 a.val 0 (sl.val + put k.val 5 + put (b2n kv) 8)]
  | .wmove sz d a b => [encWlk 0x14 d.val a.val b.val sz.code]
  | .wexit kv k => [encWlk 0x15 0 0 0 (k.val + put (b2n kv) 3)]
  | .barrierRequestArrival | .barrierReply | .sevArrival | .retryResponse | .requestRetry | .storeStamped
  | .loadReply | .leasePush | .ownershipReturn | .vectorWriteback | .queueRowDelivery | .runEnd | .rowPassLand
  | .bagRowArrival | .tileClaim | .shadowFilled | .publishReserve | .publishCommit | .scratchpadPublish
  | .stepComplete | .xredLineApply | .multicastLanding | .sectorPageFault | .stepResume | .packetParse
  | .launchQueueAccept | .timedLaunchStart | .watchdogExpiry | .partitionReset | .partitionReopen
  | .uncorrectableMemoryError | .timeSliceSwitch | .heldDelivery | .coreSave | .swapSave | .swapRestore | .swapDone
  | .taskResume | .taskEnd | .faultRecordRemove | .partitionDescriptorWrite | .remapTableWrite | .mailboxStateWrite
  | .ringTableWrite | .ringctlWrite | .meshcfgWrite | .portChannelBind | .translationBlockWrite | .invalidateVa
  | .invalidateAsid | .hatboxBankMapWrite | .hatboxSlotCopy | .pmRegisterWrite | .imageLoad | .doorbell
  | .hostDramAccess | .tableWalkComplete | .pickerRowDelivery | .flitPromotion | .requestReplay | .requestAtHome
  | .linkProtocolError | .data | .nak | .ack | .credit | .linkRetrain | .portWindowCommit | .ringTableError
  | .ringLaneFailure | .meshLaneFailure | .sliceWayReplace | .dramRowSpare | .bootStage0 | .bootStage1
  | .bootStage2 | .quoteRequest | .powerLevelUpdate | .thermalTrip | .deliveredTick | .wallPeriod | .ringCycle
  | .meshCycle | .illegalWord | .idle | .requestAcknowledgement | .linkRetrainDone | .refreshWindowCalibration
  | .dieTemperatureRecovery | .codeCacheFill => []

/-! ## The words of the opcode table -/

/-- The 32-bit words of an instruction whose bits are numbered as spec/opcode_table.json numbers them, `n` of them. -/
def tableWords (w : Nat) : Nat → List Nat
  | 0 => []
  | n + 1 => w % 2 ^ 32 :: tableWords (w / 2 ^ 32) n

/-- The units in the order in which `decodeTableWord` tries them. A bare word does not say which unit's section it
stands in. -/
def tableUnits : List Agent :=
  [.eng .matrix, .eng .vector, .seq, .eng .walker, .eng .transfer]

/-- The first unit whose decoder accepts the words, with the instruction. -/
def decodeAny (us : List Agent) (ws : List Nat) : Option (Agent × Instr) :=
  match us with
  | [] => none
  | u :: rest =>
    match decode u ws with
    | some (i, _) => some (u, i)
    | none => decodeAny rest ws

/-- The words laid out for `nbits` table bits: every word beyond them, up to the longest instruction of four words, is
zero. -/
def tableLayout (nbits w : Nat) : List Nat := tableWords (w % 2 ^ nbits) 4

/-- The instruction this decoder reads from an instruction whose bits are `w` (the host's fixed name). -/
def decodeTableWord (nbits w : Nat) : Option Instr :=
  (decodeAny tableUnits (tableLayout nbits w)).map (·.2)

end Sys2Proof
end

