-- ==== Sys2Proof/Machine/State.lean ====
section
/-! DEFINITION. The state of the Damrun 3240 package as plain data: the partitions, the logical cores with their task
slots and engines, the dies with their tables, global memory with its lines and stamps, the mailboxes, ports and the
endpoint, and the lists that say who acts next (spec/01_machine_state.md R7 to R31 and the rules each field cites). -/

namespace Sys2Proof.Machine

/-- A byte memory: rising addresses, no entry equal to 0, which an unlisted address reads as (DESIGN CHOICE, log 8). -/
abbrev Memory := List Host.Cell

/-! ## Task slots -/

/-- One entry of the address table of `ld.s` and `chk` (spec/04_sequencer_compute.md R94). `reg = none` is empty. -/
structure TabEntry where
  v   : Bool
  reg : Option GReg
  ea  : Word64
  f   : Bool
  pa  : Nat       -- where the read was performed (R96; model's own)
  deriving DecidableEq, Repr

/-- The launch value of an address-table entry (R94). -/
def TabEntry.empty : TabEntry := { v := false, reg := none, ea := 0, f := false, pa := 0 }

/-- What a scoped or plain access does at the place that performs it (R90, R108 to R111). -/
inductive MemOp where
  | load (bytes : Nat) (signed : Bool) | loadS | reload (e : Fin 8) | lda
  | swap | add | and | or | xor | max | min | maxn | minn | cas
  | store (bytes : Nat) | stl | redAdd | redFadd | redMax | redMin
  deriving DecidableEq, Repr

/-- How far an access has come. -/
inductive AccPhase where
  | waiting      -- for the task's earlier stores to be stamped (R275)
  | failed       -- an `ld.s` whose checks have failed waits for them: its time counts from then (R95)
  | sent         -- its request is on its way, or its reply is
  | refused      -- by a pin (R112)
  deriving DecidableEq, Repr

/-- An access on its way: a load or read-and-write that its task waits for, or a store-queue entry (R275, R281). -/
structure Access where
  op    : MemOp
  dst   : GReg
  va    : Nat
  pa    : Nat
  scope : Option Scope
  a     : Word64          -- the store data, or operand b
  b     : Word64          -- the expected value of `cas`
  lease : Nat
  slot  : Fin 4
  due   : Nat             -- the tick at which it is performed and answers (R281, R282); 0 while the mesh carries it
  pad   : Nat             -- what its translation adds (R281)
  phase : AccPhase
  seq   : Nat             -- its number in its stream (R325)
  value : Option Word64   -- the reply, once performed
  stamp : Nat
  old   : Bool            -- in flight when the invalidation in progress began (spec/19_faults_translation.md R355)
  deriving DecidableEq, Repr

/-- What a fault says of itself (R336). -/
structure FaultInfo where
  cause : Nat
  unit  : Nat
  loc   : Nat
  acc   : Nat
  why   : Nat
  addr  : Nat
  sect  : Nat
  code  : Nat
  deriving DecidableEq, Repr

/-- Why a task does not issue its next word. -/
inductive SlotHold where
  | none                      -- it may issue from `readyAt` on
  | access                    -- a reply of its pending access (R86)
  | barrier                   -- the reply of its barrier request (R115)
  | fetch                     -- an instruction-cache fill (R284)
  | launch                    -- its first word's tick (R301)
  | spawn                     -- children that no slot or queue has accepted yet (R119)
  | refused                   -- a retry response: it repeats the request every 16 ticks (R278)
  | tick                      -- an `at` that waits: it may issue from `readyAt` on (R126)
  | stopped (cause : Nat)     -- stopped by 0x08, 0x20 or 0x21 until the system cores act (R337)
  | ending (f : Option FaultInfo)   -- it has ended; a store of it or its join record is refused or reserved (R112, R280)
  deriving DecidableEq, Repr

/-- The fault record of R336. -/
structure FaultRec where
  cause : BitVec 8
  unit  : BitVec 3
  cls   : BitVec 2
  res   : Bool
  who   : BitVec 22
  acc   : BitVec 2
  why   : BitVec 8
  mbox  : BitVec 12
  loc   : BitVec 48
  addr  : Word64
  sect  : BitVec 16
  code  : BitVec 12
  part  : BitVec 6
  deriving DecidableEq, Repr

/-- One task slot (R11, R29; tokens spec/09_transfer_steps.md R199; stamps spec/12_memory_consistency.md R276). -/
structure Slot where
  occupied  : Bool
  pc        : Word64
  g         : Vector Word64 32
  tokens    : BitVec 8
  pend      : Vector (BitVec 8) 8
  tokStamp  : Vector Nat 8
  tokSet    : Vector Nat 8      -- tick in which each token was last set: a step's wait sees it from the next (R79, R264)
  latch     : Bool
  latchStamp : Nat
  ts        : Nat
  tab       : Vector TabEntry 8
  fflags    : BitVec 6
  frm       : BitVec 2
  trapen    : BitVec 6
  holdchk   : Bool
  leaselen  : BitVec 16
  clamplo   : Word64
  clamphi   : Word64
  tagbase   : BitVec 10
  faultinfo : Word64
  trapMode  : Bool
  epc       : BitVec 48
  stage     : BitVec 3
  mbox      : BitVec 12
  pkt       : Option Nat
  join      : Word64
  pins      : List Nat
  readyAt   : Nat
  hold      : SlotHold
  est       : Nat
  readyFor  : Nat
  lastStore : Nat
  doneStamp : Nat
  accReq    : Option Access
  pendRecs  : List FaultRec     -- records that found the partition's queue full, oldest first (R336)
  faultTick : Option Nat        -- tick of its latest fault: a tick records one at most (R338)
  started   : Bool              -- its first word has issued (R302)
  pendSpawn : List (Nat × Launch)   -- children not yet accepted, with their cores (R119)
  merged    : Nat × BitVec 6    -- the tick of the latest flag merge, and the flags merged in it (R31)
  deriving DecidableEq, Repr

/-- A slot at its launch values (R11, R29), and the value of a slot that holds no task at power-on (DESIGN CHOICE, log 7). -/
def Slot.launchState : Slot where
  occupied := false
  pc := 0
  g := Vector.replicate 32 0
  tokens := 0
  pend := Vector.replicate 8 0
  tokStamp := Vector.replicate 8 0
  tokSet := Vector.replicate 8 0
  latch := false
  latchStamp := 0
  ts := 0
  tab := Vector.replicate 8 TabEntry.empty
  fflags := 0
  frm := 0
  trapen := 0
  holdchk := false
  leaselen := 64
  clamplo := 0x80000000FF800000
  clamphi := 0x7FFFFFFF7F800000
  tagbase := 0
  faultinfo := 0
  trapMode := false
  epc := 0
  stage := 0
  mbox := 0
  pkt := none
  join := 0
  pins := []
  readyAt := 0
  hold := .none
  est := 0
  readyFor := 0
  lastStore := 0
  doneStamp := 0
  accReq := none
  pendRecs := []
  faultTick := none
  started := false
  pendSpawn := []
  merged := (0, 0)

/-! ## Engines -/

/-- The copies a run takes of its task's registers (R30). -/
structure RunCfg where
  frm      : BitVec 2
  trapen   : BitVec 6
  holdchk  : Bool
  clamplo  : Word64
  clamphi  : Word64
  tagbase  : BitVec 10
  leaselen : BitVec 16
  deriving DecidableEq, Repr

/-- A fault that an engine reports once its earlier words have completed (R77, R337). -/
structure PendFault where
  cause : Nat
  upc   : Nat
  why   : Nat
  acc   : Nat
  addr  : Nat
  deriving DecidableEq, Repr

/-- Run state of one engine (R23, R62, R124). -/
structure Run where
  active : Bool
  ending : Bool                 -- the exit word or the end has been reached; words are still in flight (R62, R154)
  owner  : Fin 4
  upc    : BitVec 24
  endOff : BitVec 24
  vp     : Vector Word64 4
  cfg    : RunCfg
  nextAt : Nat                  -- first tick in which the next word may issue
  halted : Option PendFault     -- the run stops here once its earlier words have completed
  orphan : Bool                 -- its task has ended: the step it is in goes on to the step's boundary (R339)
  filling : Bool                -- it waits for a line of its code cache (R284)
  deriving DecidableEq, Repr

/-- An idle engine. -/
def Run.idle : Run where
  active := false
  ending := false
  owner := 0
  upc := 0
  endOff := 0
  vp := Vector.replicate 4 0
  cfg := { frm := 0, trapen := 0, holdchk := false, clamplo := 0x80000000FF800000,
           clamphi := 0x7FFFFFFF7F800000, tagbase := 0, leaselen := 64 }
  nextAt := 0
  halted := none
  orphan := false
  filling := false

/-- A vector word between its issue and its write tick (R75). -/
structure VWrite where
  at_   : Nat
  dst   : Option (Fin 32)       -- a physical register
  val   : BitVec 32768
  mask  : BitVec 32768          -- the bits the word writes
  flags : BitVec 6
  slot  : Option (Fin 4)        -- the task whose `fflags` take the flags (R31)
  deriving DecidableEq, Repr

/-- An active counted loop (spec/06_vector_core.md R152, R153). -/
structure VLoop where
  n : Nat
  s : Nat
  l : Nat
  u : Nat
  p : Nat
  deriving DecidableEq, Repr

/-- The vector engine (R13, R75, R152, spec/07_vector_special.md R168). `dirs` holds word 32·dim + i of the direction
tables. -/
structure VecUnit where
  v       : Vector (BitVec 32768) 32
  rows    : Nat
  cols    : Nat
  rb      : BitVec 4
  sg      : BitVec 8
  masks   : List (BitVec 4096)
  pending : List VWrite
  loop    : Option VLoop
  dirs    : Tbl (BitVec 32)
  dirLoads : List (Nat × Nat × List (BitVec 32))   -- dimensions on their way: the tick in which each lands, and its words (R168)
  deriving DecidableEq, Repr

/-- What one column of a row pass adds to its accumulator element (spec/02_number_formats.md R46, R47). -/
inductive RowVal where
  | rounded (b : BitVec 32) | nan | inf (neg : Bool) | fin (i : Int)
  deriving DecidableEq, Repr

/-- Flags in the bit order of `fflags` (spec/01_machine_state.md R29). -/
abbrev Flags := BitVec 6

/-- A row pass in the array: it lands 130 ticks after its entry (spec/08_matrix_steps.md R175). -/
structure Pass where
  at_   : Nat
  row   : Nat
  steer : Bool
  bag   : Bool           -- a row of the open bag
  vals  : List RowVal
  flags : Flags          -- raised when it lands (R49)
  deriving DecidableEq, Repr

/-- One entry of an open bag (R185 to R187). `taken` gives what became of it. -/
inductive BagFate where
  | waiting | multiplied | repeated | faulted (cause : Nat) (addr : Nat)
  deriving DecidableEq, Repr

/-- One entry of an open bag. -/
structure BagEntry where
  idx   : Nat
  mid   : Nat
  tag   : Nat
  scale : List Byte
  fate  : BagFate
  deriving DecidableEq, Repr

/-- The open bag (R186 to R189). `asked` entries have been requested. -/
structure Bag where
  entries : List BagEntry
  e       : Nat
  base    : Nat
  steer   : Bool
  report  : SpadAddr
  slot    : BitVec 512
  asked   : Nat
  stamp   : Nat          -- its step stamp (R279)
  till    : Nat          -- first tick in which its accounts and its landed rows are seen (R188)
  deriving DecidableEq, Repr

/-- The matrix engine (R13, R174). `b` holds the 16-bit cell of column n of row k at byte 2·(128·k + n); `bscale` the
512 scale bytes. -/
structure MatUnit where
  af      : BitVec 4
  bf      : BitVec 4
  ex      : Bool
  b       : Memory
  bk      : Nat
  bn      : Nat
  bfmt    : BitVec 4
  bscale  : Memory
  btile   : TileReg
  bag     : Option Bag
  fx      : Bool
  units   : BitVec 4
  sample  : BitVec 512
  flags   : BitVec 5
  passes  : List Pass
  writes  : List (Nat × Nat × List Byte)   -- tick, scratchpad byte, bytes of drains and reports on their way
  entered : Nat                            -- first tick free for a row to enter the array
  progress : Nat                           -- rows or entries of the current step already taken
  settled : Nat                            -- first tick in which every earlier effect has landed
  accFree  : Nat                           -- first tick in which every earlier accumulator update has landed
  stamp    : Nat                           -- largest stamp of the run's bag reads (R276)
  fillTile : List (TtReg × Nat)            -- tiles that an `mdrain` fills, with the tick in which each is ready (R192)
  curTag  : BitVec 10                      -- the run's tag base (R30, R190)
  deriving DecidableEq, Repr

/-- Where a step's shadow goes (spec/09_transfer_steps.md R204). -/
inductive Dest where
  | nothing
  | spad (bank : Nat) (tile : Option TtReg)
  | global
  | reduce (op : RedOp) (signed : Bool)
  | tileReg (t : TileReg)
  | shapeSlot (s : ShReg)
  | scaleQueue
  | mailbox (m : Nat)
  | cores
  deriving DecidableEq, Repr

/-- Life of an issued transfer step. -/
inductive XStage where
  | working            -- sectors are being moved, rows gathered, landings awaited
  | parked             -- waits for the system cores (R217)
  | filled             -- its shadow is filled; it waits to publish (R206, R214)
  | reserving          -- its lines are reserved (R280)
  | committed          -- published, or waiting for a peer's acknowledgement
  deriving DecidableEq, Repr

/-- One side of a step's movement, as read at issue (R207, R208): packed rows from a scratchpad byte, the elements of a
shape slot at an offset, rows of `n` bytes of a table, or one 64-byte line. -/
inductive XSide where
  | none
  | spad (byte : Nat)
  | shape (slot : BitVec 512) (o : Int)
  | rows (base : Nat) (pitch : Int) (n : Nat) (idx : List Nat)
  | line (va : Nat)
  deriving DecidableEq, Repr

/-- Where one destination byte goes: a physical address, or an offset in a port window (spec/16_fabric.md R328). -/
structure Target where
  window : Option Nat
  addr   : Nat
  deriving DecidableEq, Repr

/-- What has failed in a step: a sector, or the step itself as its sector 0 (R217). `at_` is the first tick in which it may be
recorded. -/
structure BadSector where
  at_    : Nat
  walk   : Nat        -- ticks of the walk that failed
  sector : Nat
  cause  : Nat
  why    : Nat
  acc    : Nat
  addr   : Nat
  deriving DecidableEq, Repr

/-- An issued transfer step (R198 to R218). `parts` holds the source bytes by sector, `targets` the translated destination
bytes by sector: together the unpublished shadow. -/
structure XStep where
  id      : Nat
  instr   : Instr
  slot    : Fin 4
  upc     : BitVec 24
  cfg     : RunCfg
  issued  : Nat            -- T of R283
  src     : XSide
  dst     : XSide
  sf      : Fmt            -- format of the source, read at issue
  df      : Fmt            -- format of the destination
  cols    : Nat            -- elements in a packed row
  repack  : Option Nat     -- elements in a packed destination row, where another slot gives them (R207)
  sectors : Nat            -- S of R283
  sector  : Nat            -- sectors moved, in order
  asked   : Nat            -- rows of a gather requested
  again   : List Nat       -- rows of a gather to request again
  askAt   : Nat            -- first tick in which it may request its next row
  missing : List (Nat × Nat)   -- sectors that miss the die TLB, or pages counted by R356, with the ticks of their walks
  judged  : List Nat       -- pages of rows requested so far: the first such row decides (R356)
  fails   : Nat            -- ticks of the walks that failed (R217)
  waited  : Nat            -- parked ticks, and ticks added by refusals (R278)
  srcPad  : Nat            -- P_src and P_dst of R283
  dstPad  : Nat
  seen    : List (Nat × List Byte)   -- source lines read, as they were read: each is read at one point (R104)
  parts   : Tbl (List Byte)
  targets : Tbl (List Target)
  bad     : List BadSector
  stage   : XStage
  done    : Nat            -- C of R283, once every sector is moved
  parkedAt : Nat
  stamp   : Nat            -- its step stamp (R279)
  tok     : Option Tok
  dfr     : Bool
  dest    : Dest
  claimed : Bool           -- a fill that has claimed its tile (R214)
  source  : Option TtReg   -- a tile that it reads from
  drain   : Bool
  bytes   : Nat            -- size of its shadow
  flags   : BitVec 6
  landAt  : Nat            -- landing tick of a multicast
  waiting : List Nat       -- cores that a multicast has still to land on
  dropped : Option Nat     -- first dropped granule, as core·2^21 + scratchpad address (R216)
  lines   : List Nat       -- lines still to be applied or reserved, rising (R280)
  old     : Bool           -- has sectors translated before the invalidation in progress began (R355)
  deriving DecidableEq, Repr

/-- The transfer unit of a core. -/
structure XferUnit where
  steps  : List XStep
  nextId : Nat
  deriving DecidableEq, Repr

/-- The row frame of `wtile` (spec/10_walker.md R231). -/
structure Frame where
  fmt  : BitVec 4
  cols : Nat
  q    : QReg
  deriving DecidableEq, Repr

/-- List state (R235). -/
structure WList where
  addr : SpadAddr
  cap  : Nat
  cnt  : Nat
  kind : ListKind
  deriving DecidableEq, Repr

/-- The Carder (R219). `buf` lists the present elements by column. -/
structure WalkUnit where
  w     : Vector Word64 16
  frame : Option Frame
  buf   : Tbl (BitVec 16)
  list  : Option WList
  ready : Vector Nat 16        -- tick in which each register's value may be read (R220)
  deriving DecidableEq, Repr

/-! ## Core-scope state -/

/-- Tile states (R19). -/
inductive TState where
  | empty | filling | ready | draining
  deriving DecidableEq, Repr

/-- A tile-table entry (R19). -/
structure TileEnt where
  st   : TState
  bank : BitVec 4
  base : BitVec 13
  len  : BitVec 13
  fq   : BitVec 4
  deriving DecidableEq, Repr

/-- The reset value of a tile-table entry. -/
def TileEnt.reset : TileEnt := { st := .empty, bank := 0, base := 0, len := 0, fq := 0 }

/-- A queue row: 256 bytes, a tag, and what a Carder row adds (R21, R233). `at_` is the tick it entered. -/
structure QRow where
  bytes   : List Byte
  tag     : BitVec 16
  carder  : Option (BitVec 4 × Nat × BitVec 128)   -- fmt, cols, presence
  at_     : Nat
  deriving DecidableEq, Repr

/-- A row in transit from a result queue (R378): where it goes and when. -/
structure QTransit where
  row  : QRow
  core : Nat
  q    : QReg
  due  : Nat
  deriving DecidableEq, Repr

/-- A named barrier (R22), with the largest stamp of its arrivals (R276) and the requests that wait at it. -/
structure Bar where
  val   : Bool
  cnt   : BitVec 13
  arr   : BitVec 13
  ph    : Bool
  stamp : Nat          -- largest stamp of the current phase's arrivals
  done  : Nat          -- largest stamp of the last completed phase
  waits : List BarReq
  deriving DecidableEq, Repr

/-- The reset value of a barrier: invalid. -/
def Bar.reset : Bar := { val := false, cnt := 0, arr := 0, ph := false, stamp := 0, done := 0, waits := [] }

/-- A line of the data cache, with its stamps (R266, R273). -/
structure DLine where
  line : Nat
  data : BitVec 512
  wts  : Nat
  rts  : Nat
  pin  : Bool
  deriving DecidableEq, Repr

/-- A line of a code cache, tagged by virtual line address (R266). -/
structure CLine where
  line : Nat
  data : BitVec 512
  pin  : Bool
  deriving DecidableEq, Repr

/-- A TLB entry (spec/19_faults_translation.md R353): the virtual base and log2 size of the page, the leaf's fields,
and its partition's asid. -/
structure TlbEntry where
  part : Nat
  asid : BitVec 16
  base : Nat
  size : Nat
  pa   : Nat
  r    : Bool
  w    : Bool
  x    : Bool
  pe   : Bool
  pch  : BitVec 6
  deriving DecidableEq, Repr

/-- Register `budget` (R29). -/
structure Budget where
  level  : BitVec 16
  cap    : BitVec 16
  refill : BitVec 8
  low    : BitVec 16
  deriving DecidableEq, Repr

/-- Whether the core runs (R10, R291, R344). -/
inductive CoreRun where
  | running
  | saving (till : Nat)     -- a save occupies it through the tick before `till`
  | saved                   -- its image lies in the Hatbox; it issues nothing until a restore
  | switchedOut             -- its partner has the physical core
  | entering (till : Nat)   -- a restore or switch-in occupies it through the tick before `till`
  deriving DecidableEq, Repr

/-- A logical core (R13). Scratchpad byte bank·131072 + off; accumulator byte of R16; cell byte of tile register n at
32768·n. `spBuf` and `accBuf` hold the writes of the current tick with their rank of R264: they are read from the next
tick on. -/
structure Core where
  part      : Nat
  tasks     : Vector Slot 4
  runs      : Vector Run 4
  vec       : VecUnit
  mat       : MatUnit
  xfr       : XferUnit
  wlk       : WalkUnit
  scratch   : Memory
  acc       : Memory
  tiles     : Memory
  spBuf     : List (Nat × Nat × List Byte)
  accBuf    : List (Nat × Nat × List Byte)
  inUse     : BitVec 8192
  spBusy    : List (Nat × Nat × Nat)         -- first byte, bytes, last tick of a publish (R265)
  tt        : Vector TileEnt 64
  admits    : List (TtReg × Nat)             -- admitted tile accesses and their last tick (R136)
  sh        : Vector (BitVec 512) 32
  tdesc     : Vector (BitVec 20) 8
  bfmt      : Vector (BitVec 4) 16
  qbind     : Vector (BitVec 18) 4
  budget    : Budget
  pinbypass : BitVec 32
  scaleQ    : List Byte
  iq        : Vector (List QRow) 4
  oq        : Vector (List QTransit) 4
  depths    : Vector Nat 8                   -- depths of iq0–iq3 and oq0–oq3 at the tick's start (R131)
  bars      : Tbl Bar
  dcache    : List DLine                     -- most recently used first
  icaches   : Vector (List CLine) 5          -- `.seq`, then the four engines
  bypass    : Vector (Option CLine) 5        -- a fetched line that no way could take (R127)
  l1tlb     : List TlbEntry
  storeQ    : List Access
  divBusy   : Nat
  last      : Fin 4
  launchQ   : List Launch
  run       : CoreRun
  saveReq   : Option Bool                    -- a pre-emption is pending, with its Hatbox set (R343)
  switchReq : Bool                           -- a time-slice switch is pending
  safeNow   : Option (Fin 4)                 -- the slot whose `safe` holds the engines in this tick (R128)
  inSince   : Nat
  held      : List Delivery                  -- deliveries of R293
  late      : List Delivery                  -- deliveries that found its station full and wait at their sources (R293)
  rowAt     : Nat                            -- first tick in which it may request its next Picker row (R318)
  accSeq    : Nat                            -- accesses performed, field 5 of R275
  deriving DecidableEq, Repr

/-- Reset values of a logical core (R13, R29, R174, R219, R304). -/
def Core.reset : Core where
  part := 0
  tasks := Vector.replicate 4 Slot.launchState
  runs := Vector.replicate 4 Run.idle
  vec := { v := Vector.replicate 32 0, rows := 8, cols := 128, rb := 0, sg := 0xFF, masks := [], pending := [],
           loop := none, dirs := [], dirLoads := [] }
  mat := { af := 2, bf := 2, ex := false, b := [], bk := 128, bn := 128, bfmt := 2, bscale := [], btile := 0,
           bag := none, fx := false, units := 0, sample := 0, flags := 0, passes := [], writes := [], entered := 0,
           progress := 0, settled := 0, accFree := 0, stamp := 0, fillTile := [], curTag := 0 }
  xfr := { steps := [], nextId := 0 }
  wlk := { w := Vector.replicate 16 0, frame := none, buf := [], list := none, ready := Vector.replicate 16 0 }
  scratch := []
  acc := []
  tiles := []
  spBuf := []
  accBuf := []
  inUse := 0
  spBusy := []
  tt := Vector.replicate 64 TileEnt.reset
  admits := []
  sh := Vector.replicate 32 0
  tdesc := Vector.replicate 8 0x27F7F
  bfmt := Vector.replicate 16 0
  qbind := Vector.replicate 4 0
  budget := { level := 0xFFFF, cap := 0xFFFF, refill := 16, low := 0x1000 }
  pinbypass := 0
  scaleQ := []
  iq := Vector.replicate 4 []
  oq := Vector.replicate 4 []
  depths := Vector.replicate 8 0
  bars := []
  dcache := []
  icaches := Vector.replicate 5 []
  bypass := Vector.replicate 5 none
  l1tlb := []
  storeQ := []
  divBusy := 0
  last := 3
  launchQ := []
  run := .running
  saveReq := none
  switchReq := false
  safeNow := none
  inSince := 0
  held := []
  late := []
  rowAt := 0
  accSeq := 0

/-! ## Partitions and mailboxes -/

/-- A loaded code section: base virtual address and words (R61). -/
structure Section where
  base : Nat
  len  : Nat
  pas  : List (Nat × Nat)    -- virtual page to physical page
  deriving DecidableEq, Repr

/-- The image of a partition (spec/11_assembly_object.md R250 to R262): the five sections in the order of `icaches`,
the safe map and the symbols of `.seq`. -/
structure Loaded where
  sections : Vector Section 5
  safes    : List SafeRec
  deriving DecidableEq, Repr

/-- The swap control word (R343). -/
structure Swap where
  op    : BitVec 2
  set   : Bool
  st    : BitVec 2
  cause : BitVec 8
  deriving DecidableEq, Repr

/-- A partition reset in progress (R340, R341): the wall period of the fault and its record's fields. -/
structure Drain where
  since : Nat
  cause : Nat
  mbox  : BitVec 12
  addr  : Nat
  deriving DecidableEq, Repr

/-- A partition (R287, R288, R307, R336, R340, R343, R354). `d0`–`d3` are the descriptor's words. -/
structure Part where
  d0       : Word64
  d1       : Word64
  d2       : Word64
  d3       : Word64
  tick     : Nat
  level    : Nat             -- power level q in force
  levelWas : Nat             -- level of the wall period before
  levelNext : Nat            -- level from the next group on (R307)
  root     : Word64          -- word 0 of the translation block
  iva      : BitVec 48
  iop      : BitVec 2
  records  : List FaultRec   -- oldest first
  waiting  : List FaultRec   -- records of stopped mailboxes that found the queue full, oldest first
  swap     : Swap
  frozen   : Bool            -- saved in the Hatbox: its tick stands still (R344)
  image    : Option Loaded
  digest   : BitVec 256      -- measurement of its loaded images (R368)
  draining : Option Drain   -- a reset in progress
  deriving DecidableEq, Repr

/-- A partition at power-on (R288, R343, R354). -/
def Part.reset : Part where
  d0 := 0
  d1 := 0x0000000100208000       -- spacing 32768, quant 16, tlbw 1
  d2 := 0
  d3 := 0
  tick := 0
  level := 0
  levelWas := 0
  levelNext := 0
  root := 0
  iva := 0
  iop := 0
  records := []
  waiting := []
  swap := { op := 0, set := false, st := 0, cause := 0 }
  frozen := false
  image := none
  digest := 0
  draining := none

/-- A packet that has been parsed and is not yet freed (spec/14_scheduling.md R299, R300, R302). -/
structure Packet where
  off     : Nat
  len     : Nat
  left    : Nat             -- tasks that have not ended
  started : Option Nat      -- tick in which its first task issued its first word
  toLaunch : List (Nat × Launch)   -- tasks not yet accepted, with their cores
  deriving DecidableEq, Repr

/-- A mailbox: its state block (R295) and its packets, oldest first. -/
structure Mbox where
  base  : BitVec 48
  part  : BitVec 6
  area  : BitVec 25
  wdog  : BitVec 41
  wo    : BitVec 25
  wl    : Bool
  ro    : BitVec 25
  rl    : Bool
  fo    : BitVec 25
  fl    : Bool
  st    : BitVec 2
  cause : BitVec 8
  entry : BitVec 48
  tset  : BitVec 25        -- core, cntm1, x0, x1, y0, y1, stage
  snd   : Word64
  pkts  : List Packet
  stamp : Nat              -- largest stamp of its packet writes
  wrote : List (Nat × Nat) -- advances of wo over bytes not yet parsed: bytes and stamp, oldest first (R276)
  deriving DecidableEq, Repr

/-- A mailbox at power-on. -/
def Mbox.reset : Mbox where
  base := 0
  part := 0
  area := 0
  wdog := 0
  wo := 0
  wl := false
  ro := 0
  rl := false
  fo := 0
  fl := false
  st := 0
  cause := 0
  entry := 0
  tset := 0
  snd := 0
  pkts := []
  stamp := 0
  wrote := []

/-! ## Who acts next -/

/-- The acting agent of a step: a partition, a core die·64 + core, a slot and a unit (model's own, log 1). -/
structure Cur where
  core : Nat
  slot : Fin 4
  unit : Agent
  deriving DecidableEq, Repr

/-- A job that is due now (model's own, log 2). -/
inductive Job where
  | event (who : Cur) (e : Ev)
  | issue (who : Cur)                -- fetch, decode and carry out the next word of a unit
  | engines (core : Nat)             -- the engines of a core issue, unless a `safe` holds them (R128)
  | ends (core : Nat)                -- runs of a core that are over end (R62, R213)
  | arbitrate (core : Nat)           -- choose a task slot (R304, R305)
  | sectors (core : Nat)             -- the transfer unit of a core moves the sectors that are due (R217)
  | report (core : Nat)              -- halted runs whose words are done report their faults (R77, R338)
  | frontEnds                        -- the front ends of the dies take their headers (R299)
  | barriers (p : Nat)               -- the barrier requests that have reached their homes in this tick (R115)
  deriving DecidableEq, Repr

/-- A job that is due at a tick of a partition, or at a wall period (`clock = none`). -/
structure Timer where
  clock : Option Nat
  due   : Nat
  who   : Cur
  ev    : Ev
  deriving DecidableEq, Repr

/-! ## Memory lines, dies and links -/

/-- A global line's home state (R269, R271 to R274, R280; spec/05_sequencer_sync.md R111). -/
structure Line where
  wts     : Nat
  rts     : Nat
  owner   : Option Nat          -- die whose slice owns the line (R274)
  holders : List Nat            -- other dies whose slices hold a copy, or record data caches that do (R273)
  caches  : List Nat            -- cores of the home die whose data caches hold a copy (R273)
  resv    : Option (Nat × Nat)  -- core and step that reserved it
  pins    : List TaskRef        -- tasks of one core that hold core-scope pins
  out     : Bool                -- it has left its slice's cache ways: fetched again it starts at the floor (R269)
  dwords  : Tbl Nat             -- stamp of the latest write of each of its 8 dwords, for R96 (model's own)
  deriving DecidableEq, Repr

/-- A line that no access has touched since its slice's floor (DESIGN CHOICE, log 9). -/
def Line.fresh (floor : Nat) : Line :=
  { wts := floor, rts := floor, owner := none, holders := [], caches := [], resv := none, pins := [], out := false,
    dwords := [] }

/-- A slice's copy of a line homed on another die (R273): the data and stamps that the home granted, whether a cache way
still holds them, and the data caches of the slice's die that hold copies. -/
structure SliceCopy where
  data   : BitVec 512
  wts    : Nat
  rts    : Nat
  held   : Bool
  caches : List Nat
  deriving DecidableEq, Repr

/-- A shared-store slice (R269, R273; spec/22_platform.md R362): its floor stamp, the cached lines of each set with the most
recently used first, its spare map, and its copies by line. -/
structure Slice where
  mts    : Nat
  sets   : Tbl (List Nat)
  spare  : Tbl (BitVec 8)
  copies : Tbl SliceCopy
  errs   : Tbl Nat           -- corrected errors of a way so far, keyed set·16 + way (R362)
  moving : Tbl (Nat × Option Nat)  -- by set: the way that its spare is to take, and that way's line once it is reserved (R362)
  deriving DecidableEq, Repr

/-- What a flit carries (R322, R332). -/
inductive FlitKind where
  | request (who : TaskRef) | reply (who : TaskRef)
  | commit (core step j : Nat) (last : Bool) | commitAck (core step : Nat)
  | store (who : TaskRef) (n : Nat)  -- a store, `stl` or `red`, by its number in its core's stream
  | fetch (who : Cur) (c : CacheSel) (pin : Option Bool) (va pa : Nat)  -- a line for a cache: of a fetch, or of a `code` word (R127, R284)
  | traffic (back n : Nat)           -- a part of a message without an event of its own, answered to die `back` by `n` flits
  | carries (who : Cur) (e : Ev)     -- a message whose arrival is an event: a push, or a request of the control channel
  deriving DecidableEq, Repr

/-- A flit waiting at a router input (R322 to R324). -/
structure Flit where
  die   : Nat
  inp   : Port
  vc    : Fin 4
  head  : Nat          -- mesh cycle from which it may be head of its channel
  age   : Nat
  promoted : Bool      -- its age has reached the threshold (R324)
  goal  : Nat          -- destination die, or 32 for the I/O die (R322)
  kind  : FlitKind
  part  : Nat
  num   : Option (Stream × Nat)  -- the number of the request that it carries, in its stream (R325)
  deriving DecidableEq, Repr

/-- A message's way over one ring: the die, the stations, and its bytes (spec/16_fabric.md R311). -/
structure RingHop where
  die   : Nat
  src   : Nat
  dst   : Nat
  bytes : Nat
  deriving DecidableEq, Repr

/-- The mesh flit that a packet of an elastic partition becomes once it has its slot: it is head in cycle `head` if it takes the slot
that passes first, and later by the cycles that it waits (R315, R332). -/
structure RingFlit where
  goal : Nat
  vc   : Fin 4
  head : Nat
  kind : FlitKind
  num  : Option (Stream × Nat)
  deriving DecidableEq, Repr

/-- A packet on a ring (spec/16_fabric.md R313): its payload bytes are counted. -/
structure RingPkt where
  src   : Nat
  dst   : Nat
  part  : Nat
  bytes : Nat
  again : Bool         -- lost with its lane: its source sends it again on the spare (spec/22_platform.md R363)
  ready : Nat          -- ring cycle from which its station may place it
  flit  : Option RingFlit
  next  : List RingHop -- the ways that follow once its station has taken it: to its goal, and of the answer
  deriving DecidableEq, Repr

/-- Arbiter state of one router output (R323). `rr` is the input served last on each channel. -/
structure OutState where
  cur  : Fin 4
  used : Nat
  rr   : Vector (Fin 5) 4
  deriving DecidableEq, Repr

/-- A translation on its way into TLBs (R320, R351, R353): the core and unit it was found for, the 64 KiB block of its
address, the tick in which it is there, and what was found. -/
structure Walk where
  core  : Nat
  for_  : WalkFor
  part  : Nat
  block : Nat
  till  : Nat
  found : Option TlbEntry
  why   : Nat              -- the failure's code
  deriving DecidableEq, Repr

/-- A row the Picker has in flight (R318 to R321). -/
structure PickRow where
  id   : Nat
  core : Nat
  step : Option Nat      -- a transfer step, or `none` for the open bag
  pos  : Nat
  part : Nat
  due  : Nat
  res  : RowResult
  old  : Bool            -- in flight when the invalidation in progress began (R355)
  gone : Bool            -- its bag has been discarded: it keeps its slot until its time, and goes nowhere (R188, R191)
  deriving DecidableEq, Repr

/-- A Hatbox slot (R345): its header fields, the saved core, and what its steps and waits have still to come. `sound` is
false when its check word does not cover its bytes or an uncorrectable error lies in it (R347); `back` says that the system
cores have copied it in. -/
structure HatSlot where
  part  : BitVec 6
  core  : BitVec 6
  asid  : BitVec 16
  len   : BitVec 18
  tick  : Nat
  crc   : BitVec 32
  sound : Bool
  back  : Bool
  image : Core
  timers : List Timer
  deriving DecidableEq, Repr

/-- A die. -/
structure Die where
  remap    : Tbl (BitVec 16)       -- unlisted: phys = logical number, ok = 1 (R289)
  ringTab  : Tbl (BitVec 32)       -- unlisted: every owner 0x7F (R312)
  spl      : BitVec 3              -- `ringctl` (R316)
  cec      : BitVec 16
  bad      : Bool
  meshcfg  : BitVec 26             -- (R324)
  slots    : Tbl RingPkt           -- occupied ring slots: the slot at position p in cycle c has key
                                   -- lane·128 + (p − c) mod 128 (R311, R312)
  queues   : List RingPkt          -- packets waiting at their source stations, oldest first
  taken    : Nat                   -- packets that stations have taken since power-on (R313)
  outs     : Tbl OutState          -- router outputs, keyed west 0, east 1, south 2, north 3, local 4
  flits    : List Flit             -- flits at this die's router inputs
  spares   : Tbl Bool              -- mesh links whose spare lane is in use (R360)
  linksOff : List Port             -- disabled mesh links
  linkBack : Tbl Nat               -- mesh links that retrain, and the cycle in which they are back
  tlb      : List TlbEntry         -- most recently used first
  pickTlb  : List TlbEntry
  walks    : List Walk
  rows     : List PickRow
  nextRow  : Nat
  feLast   : Option Nat            -- mailbox the front end served last (R299)
  hat0     : Tbl HatSlot
  hat1     : Tbl HatSlot
  hatOut   : Tbl HatSlot           -- copies that the system cores keep, keyed by their number·128 + set·64 + core
  bankMap  : Tbl (BitVec 6)        -- unlisted entry i names bank i (R364, DESIGN CHOICE, log 11)
  rw       : Nat                   -- resident ways (R269)
  clockOff : Bool                  -- stopped by a thermal trip (R370)
  rowSpares : Tbl (List Nat)       -- DRAM rows served by spares, by bank (R360)
  rowErrs  : Tbl (List Nat)        -- corrected errors so far, one entry each: the row, by bank (R360)
  shadowAt : Option Nat            -- base of the site's shadow reserve (R270, R365)
  dataLanes : List Nat             -- DRAM channels whose spare data lane is in use
  deriving DecidableEq, Repr

/-- A die at power-on. -/
def Die.reset : Die where
  remap := []
  ringTab := []
  spl := 7
  cec := 0
  bad := false
  meshcfg := 0x1002848
  slots := []
  queues := []
  taken := 0
  outs := []
  flits := []
  spares := []
  linksOff := []
  linkBack := []
  tlb := []
  pickTlb := []
  walks := []
  rows := []
  nextRow := 0
  feLast := none
  hat0 := []
  hat1 := []
  hatOut := []
  bankMap := []
  rw := 0
  clockOff := false
  rowSpares := []
  rowErrs := []
  shadowAt := none
  dataLanes := []

/-- A request of a stream that stands in no task: its number, where it goes, and how often it has been sent again (R325). -/
structure SentMsg where
  num   : Nat
  goal  : Nat
  dst   : Nat
  part  : Nat
  kind  : FlitKind
  tries : Nat
  deriving DecidableEq, Repr

/-- A stream of requests, at its source and at its homes (R325). -/
structure StreamState where
  h      : Option Nat             -- highest number performed
  done   : List Nat               -- numbers performed among the 255 below h
  sent   : List (Nat × TaskRef × Nat)   -- numbers sent without a reply: number, task, replays so far
  kept   : List (Nat × Word64 × Nat)    -- kept replies: number, data, stamp
  acked  : Nat                    -- numbers sent so far
  msgs   : List SentMsg           -- the other numbers sent without a reply
  deriving DecidableEq, Repr

/-- A port channel (R328). -/
structure Channel where
  w0 : Word64
  w1 : Word64
  w2 : Word64
  w3 : Word64
  deriving DecidableEq, Repr

/-- What a step writes through a window (R329): the peer package, the step, and each converted element with the peer address of its
byte or group, its slot in the group, and its encoding. -/
structure PeerWrite where
  peer  : Nat
  core  : Nat
  step  : Nat
  elems : List (Nat × Nat × Nat)
  deriving DecidableEq, Repr

/-- A Chegen link (R326, R327). -/
structure Link where
  txSeq   : BitVec 12           -- next data flit to send
  rxSeq   : BitVec 12           -- next data flit expected
  ackn    : BitVec 12           -- highest number received in order, as sent back
  peerAck : BitVec 12           -- highest number the peer has acknowledged
  credits : Tbl Nat             -- buffer credits by channel
  unsent  : List (List Byte)    -- payloads that wait for a buffer credit, oldest first
  used    : Nat                 -- buffer credits that data flits have used
  spare   : Bool
  off     : Bool
  back    : Option Nat          -- it retrains, and is back in this wall period
  outbox  : List (ChegenFlit × Nat)   -- data flits not acknowledged, oldest first, with their resends
  wire    : List ChegenFlit     -- every flit put on the wire, oldest first
  input   : List Byte           -- payload bytes not yet decoded
  output  : List Byte           -- decoded bytes
  posted  : List PeerWrite      -- window writes that the peer has not acknowledged, oldest first
  deriving DecidableEq, Repr

/-- A link at power-on (DESIGN CHOICE, log 12). -/
def Link.reset : Link where
  txSeq := 0
  rxSeq := 0
  ackn := 0xFFF
  peerAck := 0xFFF
  credits := []
  unsent := []
  used := 0
  spare := false
  off := false
  back := none
  outbox := []
  wire := []
  input := []
  output := []
  posted := []

/-- Notices of package management to the system cores and the host. -/
inductive Notice where
  | mailboxStopped (m cause : Nat) | partitionReset (p cause : Nat) | secondWayFailed (slice set : Nat)
  | bootFailed | quote (bytes : List Byte) | unsupportedRequest (q : Nat) | hostData (bytes : List Byte)
  | imageRefused (p check : Nat) | windowRefused (port : Nat) | refused
  deriving DecidableEq, Repr

/-- Boot and platform state (spec/22_platform.md R365 to R368). -/
structure Boot where
  stage   : Nat          -- 0 in reset, then 1 to 3 once stages 0 to 2 have run
  device  : Bool         -- the flash device that is read first; false: A
  used_   : Bool         -- the device whose image was booted
  version : Nat          -- version of that image
  update  : Option BootImage   -- what an update has written to the device not in use
  failed  : Bool
  counter : Nat          -- the fused anti-rollback counter
  measure : BitVec 256
  keys    : List Nat
  secret  : Nat          -- the identity key pair (R368): its private key, 0 before stage 1
  pub     : Nat × Nat    -- and the coordinates of its public key
  looked  : Nat          -- wall period of the firmware's latest look at the sensors (R370)
  deriving DecidableEq, Repr

/-- The host endpoint (R330). -/
structure Endpoint where
  hostBase : Nat
  pages    : List Nat
  dropped  : Nat
  mem      : Memory       -- host memory
  notices  : List Notice  -- oldest first
  ts       : Nat          -- largest stamp of the host's accesses (R275, R330)
  queue    : List Ev      -- host requests that wait, oldest first: the endpoint orders them (R330)
  pcie     : Bool         -- PCIe enumeration is open (spec/22_platform.md R365)
  deriving DecidableEq, Repr

/-- The package. -/
structure State where
  wall     : Word64
  meshCyc  : Nat               -- mesh cycles done since power-on
  ringCyc  : Nat               -- ring cycles done since power-on (R312)
  cur      : Cur
  agenda   : List Job
  timers   : List Timer
  inputs   : List Ev
  ev       : Ev                -- the arguments of the event being carried out
  fresh    : Nat               -- counter of free values
  parts    : Tbl Part
  mboxes   : Tbl Mbox
  cores    : Tbl Core
  dies     : Tbl Die
  lines    : Tbl Line
  slices   : Tbl Slice         -- keyed die·16 + slice
  streams  : Tbl StreamState   -- keyed by `streamKey`
  mem      : Memory            -- physical memory
  channels : Tbl Channel
  links    : Tbl Link          -- keyed by port
  boot     : Boot
  endpoint : Endpoint
  deriving DecidableEq, Repr

/-- The reasons for which the machine stops. -/
inductive Fault where
  /-- Raised by a command of the system cores or the host, and by a device event, that names a register, an object or
  a physical address which the package does not have. Safe: the spec gives such a command no effect. -/
  | noSuchObject
  deriving DecidableEq, Repr

/-- The reasons for which an instruction has no meaning in the model. -/
inductive Refusal where
  /-- Raised by `exec` for an instruction that has no meaning yet. Safe: nothing is claimed of it. -/
  | notModelled (mnemonic : String)
  deriving DecidableEq, Repr

/-- The package at power-on: every table at its reset value, memory with nothing listed, and the boot ROM about to
run (R365; log 1 to 13). -/
def State.reset : State where
  wall := 0
  meshCyc := 0
  ringCyc := 0
  cur := { core := 0, slot := 0, unit := .seq }
  agenda := []
  timers := []
  inputs := []
  ev := .none
  fresh := 0
  parts := []
  mboxes := []
  cores := []
  dies := []
  lines := []
  slices := []
  streams := []
  mem := []
  channels := []
  links := []
  boot := { stage := 0, device := false, used_ := false, version := 0, update := none, failed := false, counter := 0, measure := 0, keys := [],
            secret := 0, pub := (0, 0), looked := 0 }
  endpoint := { hostBase := 0, pages := [], dropped := 0, mem := [], notices := [], ts := 0, queue := [], pcie := false }

end Sys2Proof.Machine
end

