-- ==== Sys2Proof/Machine/Regs.lean ====
section
/-! DEFINITION. The named operations over bytes, memories, registers and the tables of the state: every reader and
writer of a field goes through one of these. -/

namespace Sys2Proof

/-- Engine numbers as indexes. -/
def Engine.idx (e : Engine) : Fin 4 :=
  match e with
  | .vector => 0 | .matrix => 1 | .transfer => 2 | .walker => 3

/-- The unit numbers of `faultinfo` and fault records (R29, R336). -/
def Agent.unit (a : Agent) : Nat :=
  match a with
  | .seq => 0
  | .eng e => e.idx.val + 1

/-- The index of a unit's code cache and section. -/
def Agent.cache (a : Agent) : Fin 5 :=
  match a with
  | .seq => 0 | .eng .vector => 1 | .eng .matrix => 2 | .eng .transfer => 3 | .eng .walker => 4

/-- Ranks of R264. -/
def Engine.rank (e : Engine) : Nat :=
  match e with
  | .matrix => 1 | .vector => 2 | .walker => 3 | .transfer => 4

end Sys2Proof

namespace Sys2Proof.Machine

/-- A result of every meaning. -/
abbrev Res := Host.Outcome State Fault Refusal

/-! ## Bytes (spec/00_scope.md R2: little-endian) -/

/-- The value of bytes, lowest address first. -/
def leNat : List Byte → Nat
  | [] => 0
  | b :: rest => b.toNat + 256 * leNat rest

/-- The `n` bytes of a value, lowest address first. -/
def leBytes : Nat → Nat → List Byte
  | 0, _ => []
  | n + 1, v => BitVec.ofNat 8 v :: leBytes n (v / 256)

/-- `n` zero bytes. -/
def zeroBytes (n : Nat) : List Byte := List.replicate n 0

/-! ## Memories -/

/-- The byte at an address; an unlisted address reads 0 (DESIGN CHOICE, log 8). -/
def Memory.get (m : Memory) (a : Nat) : Byte :=
  match m with
  | [] => 0
  | (k, v) :: rest => if k = a then v else Memory.get rest a

/-- The bytes from an address on. -/
def Memory.load (m : Memory) (a : Nat) : Nat → List Byte
  | 0 => []
  | n + 1 => Memory.get m a :: Memory.load m (a + 1) n

/-- The cells of bytes laid out from `a` on, without the zero ones. -/
def Memory.cells (a : Nat) : List Byte → Memory
  | [] => []
  | b :: rest => if b = 0 then Memory.cells (a + 1) rest else (a, b) :: Memory.cells (a + 1) rest

/-- The memory with bytes stored from `a` on. -/
def Memory.store (m : Memory) (a : Nat) (bs : List Byte) : Memory :=
  m.filter (fun c => c.1 < a) ++ (Memory.cells a bs ++ m.filter (fun c => a + bs.length ≤ c.1))

/-- The memory with `n` bytes from `a` on cleared. -/
def Memory.clear (m : Memory) (a n : Nat) : Memory :=
  m.filter (fun c => c.1 < a) ++ m.filter (fun c => a + n ≤ c.1)

/-- Cells of a memory in [a, a + n), moved to start at 0. -/
def Memory.window (m : Memory) (a n : Nat) : Memory :=
  m.filterMap (fun c => if a ≤ c.1 ∧ c.1 < a + n then some (c.1 - a, c.2) else none)

/-- The memory with single bytes stored in order. -/
def Memory.scatter (m : Memory) : List (Nat × Byte) → Memory
  | [] => m
  | (a, b) :: rest => Memory.scatter (Memory.store m a [b]) rest

/-- The canonical form: rising addresses and no zero byte. -/
def Memory.wf : Memory → Bool
  | [] => true
  | (_, v) :: [] => v != 0
  | (k, v) :: (k', v') :: rest => decide (k < k') && v != 0 && Memory.wf ((k', v') :: rest)

/-! ## Vectors by Fin -/

/-- Element `i`. -/
abbrev vget {α : Type} {n : Nat} (v : Vector α n) (i : Fin n) : α := v[i.val]'i.isLt

/-- The vector with element `i` set. -/
abbrev vset {α : Type} {n : Nat} (v : Vector α n) (i : Fin n) (x : α) : Vector α n := v.set i.val x i.isLt

/-! ## Signed and wide values (R87) -/

/-- `sv`: the two's-complement value. -/
abbrev sv (x : Word64) : Int := x.toInt

/-- `uv`: the unsigned value. -/
abbrev uv (x : Word64) : Nat := x.toNat

/-- `sx(x, w)` to 64 bits (spec/03_encodings.md R81). -/
abbrev sx64 {w : Nat} (x : BitVec w) : Word64 := x.signExtend 64

/-- `zx(x, w)` to 64 bits. -/
abbrev zx64 {w : Nat} (x : BitVec w) : Word64 := x.zeroExtend 64

/-- Ceiling division. -/
def ceilDiv (a b : Nat) : Nat := (a + b - 1) / b

/-! ## Tables of the state -/

/-- Partition `p`. -/
def State.part (s : State) (p : Nat) : Part := Tbl.getD s.parts p Part.reset

/-- The state with partition `p` replaced. -/
def State.setPart (s : State) (p : Nat) (x : Part) : State := { s with parts := Tbl.set s.parts p x }

/-- Logical core die·64 + core. -/
def State.core (s : State) (k : Nat) : Core := Tbl.getD s.cores k Core.reset

/-- The state with a core replaced. -/
def State.setCore (s : State) (k : Nat) (x : Core) : State := { s with cores := Tbl.set s.cores k x }

/-- Die `d`. -/
def State.die (s : State) (d : Nat) : Die := Tbl.getD s.dies d Die.reset

/-- The state with a die replaced. -/
def State.setDie (s : State) (d : Nat) (x : Die) : State := { s with dies := Tbl.set s.dies d x }

/-- Mailbox `m`. -/
def State.mbox (s : State) (m : Nat) : Mbox := Tbl.getD s.mboxes m Mbox.reset

/-- The state with a mailbox replaced. -/
def State.setMbox (s : State) (m : Nat) (x : Mbox) : State := { s with mboxes := Tbl.set s.mboxes m x }

/-- Slice die·16 + slice. -/
def State.slice (s : State) (k : Nat) : Slice := Tbl.getD s.slices k { mts := 0, sets := [], spare := [], copies := [], errs := [], moving := [] }

/-- The state with a slice replaced. -/
def State.setSlice (s : State) (k : Nat) (x : Slice) : State := { s with slices := Tbl.set s.slices k x }

/-- Port channel `c` (reset values of R328). -/
def State.channel (s : State) (c : Nat) : Channel :=
  Tbl.getD s.channels c { w0 := 0x80000000, w1 := 0, w2 := 0, w3 := 0 }

/-- The link of port `p`. -/
def State.link (s : State) (p : Nat) : Link := Tbl.getD s.links p Link.reset

/-- The state with a link replaced. -/
def State.setLink (s : State) (p : Nat) (x : Link) : State := { s with links := Tbl.set s.links p x }

/-! ## The acting core and slot -/

/-- The acting core. -/
def State.me (s : State) : Core := s.core s.cur.core

/-- The state with the acting core replaced. -/
def State.setMe (s : State) (c : Core) : State := s.setCore s.cur.core c

/-- A slot of a core. -/
abbrev Core.task (c : Core) (i : Fin 4) : Slot := vget c.tasks i

/-- The core with a slot replaced. -/
def Core.setTask (c : Core) (i : Fin 4) (t : Slot) : Core := { c with tasks := vset c.tasks i t }

/-- The acting slot. -/
def State.task (s : State) : Slot := s.me.task s.cur.slot

/-- The state with the acting slot replaced. -/
def State.setTask (s : State) (t : Slot) : State := s.setMe (s.me.setTask s.cur.slot t)

/-- The slot of a task reference. -/
def State.taskOf (s : State) (r : TaskRef) : Slot := (s.core r.core).task r.slot

/-- The state with that slot replaced. -/
def State.setTaskOf (s : State) (r : TaskRef) (t : Slot) : State :=
  s.setCore r.core ((s.core r.core).setTask r.slot t)

/-- The acting task. -/
def State.meRef (s : State) : TaskRef := { core := s.cur.core, slot := s.cur.slot }

/-- The acting partition. -/
def State.partNo (s : State) : Nat := s.me.part

/-- Register `tick` of the acting partition (R24). -/
def State.tick (s : State) : Nat := (s.part s.partNo).tick

/-- The tick of a core's partition. -/
def State.tickOf (s : State) (core : Nat) : Nat := (s.part (s.core core).part).tick

/-! ## g registers (R11: g0 reads 0 and discards writes) -/

/-- The value a word reads of register `r`. -/
def Slot.reg (t : Slot) (r : GReg) : Word64 := if r = 0 then 0 else vget t.g r

/-- The slot after a write to register `d`. -/
def Slot.setReg (t : Slot) (d : GReg) (v : Word64) : Slot := if d = 0 then t else { t with g := vset t.g d v }

/-- Flags merge into the task's `fflags` in a tick (R31), which a `cfgw` of the same tick adds to. -/
def Slot.mergeFlags (t : Slot) (tick : Nat) (fl : BitVec 6) : Slot :=
  { t with fflags := t.fflags ||| fl, merged := (tick, if t.merged.1 = tick then t.merged.2 ||| fl else fl) }

/-- The acting task's register. -/
def State.g (s : State) (r : GReg) : Word64 := s.task.reg r

/-- The slot after a word that neither branches nor jumps: the pc moves on by 4 and the next word may issue `cost`
ticks later (R85, R86). -/
def Slot.advance (t : Slot) (tick cost : Nat) : Slot :=
  { t with pc := t.pc + 4, readyAt := tick + cost, hold := .none }

/-- The acting task completes a word that writes nothing. -/
def State.finish (s : State) (cost : Nat) : State := s.setTask (s.task.advance s.tick cost)

/-- The acting task completes a word that writes `v` to `g[d]`. -/
def State.finishReg (s : State) (d : GReg) (v : Word64) (cost : Nat) : State :=
  s.setTask ((s.task.setReg d v).advance s.tick cost)

/-- The acting task completes a word that moves the pc to `pc`, with `link` written to `g[d]`. -/
def State.jump (s : State) (d : GReg) (link pc : Word64) (cost : Nat) : State :=
  s.setTask { s.task.setReg d link with pc := pc, readyAt := s.tick + cost, hold := .none }

/-! ## w registers (spec/10_walker.md R219: w0 reads 0 and discards writes) -/

/-- The value a walker word reads of register `r`. -/
def WalkUnit.reg (u : WalkUnit) (r : WReg) : Word64 := if r = 0 then 0 else vget u.w r

/-- The walker after a write to `w[d]`, readable from tick `t` on, and once every earlier writer has written it (R80, R220). -/
def WalkUnit.setReg (u : WalkUnit) (d : WReg) (v : Word64) (t : Nat) : WalkUnit :=
  if d = 0 then u else { u with w := vset u.w d v, ready := vset u.ready d (Nat.max (vget u.ready d) t) }

/-! ## Engines -/

/-- The run of engine `e`. -/
def Core.runOf (c : Core) (e : Engine) : Run := vget c.runs e.idx

/-- The core with the run of engine `e` replaced. -/
def Core.setRun (c : Core) (e : Engine) (r : Run) : Core := { c with runs := vset c.runs e.idx r }

/-- The core is not coming back from a save or switch. -/
def CoreRun.here (r : CoreRun) : Bool :=
  match r with
  | .entering _ => false
  | .running | .saving _ | .saved | .switchedOut => true

/-! ## Dies and hops -/

/-- The die of a logical core. -/
def dieOf (core : Nat) : Nat := core / 64

/-- Mesh hops between dies (spec/16_fabric.md R322). -/
def hops (d1 d2 : Nat) : Nat :=
  let dx := if d1 % 4 < d2 % 4 then d2 % 4 - d1 % 4 else d1 % 4 - d2 % 4
  let dy := if d1 / 4 < d2 / 4 then d2 / 4 - d1 / 4 else d1 / 4 - d2 / 4
  dx + dy

/-! ## Descriptor fields (spec/14_scheduling.md R288) -/

/-- A slice of a 64-bit register, as a number. -/
def bitsOf (w : Word64) (lo len : Nat) : Nat := fld w.toNat lo len

/-- The partition exists. -/
def Part.valid (p : Part) : Bool := bit p.d0.toNat 24
/-- Fixed-latency mode. -/
def Part.fl (p : Part) : Bool := bit p.d0.toNat 22
/-- Die range. -/
def Part.x0 (p : Part) : Nat := bitsOf p.d0 0 2
/-- Die range. -/
def Part.x1 (p : Part) : Nat := bitsOf p.d0 2 2
/-- Die range. -/
def Part.y0 (p : Part) : Nat := bitsOf p.d0 4 3
/-- Die range. -/
def Part.y1 (p : Part) : Nat := bitsOf p.d0 7 3
/-- First logical core on each die. -/
def Part.core0 (p : Part) : Nat := bitsOf p.d0 10 6
/-- Logical cores per die minus 1. -/
def Part.cntm1 (p : Part) : Nat := bitsOf p.d0 16 6
/-- Signed images only. -/
def Part.sgn (p : Part) : Bool := bit p.d0.toNat 23
/-- Address-space identifier. -/
def Part.asid (p : Part) : BitVec 16 := BitVec.ofNat 16 (bitsOf p.d0 32 16)
/-- Safe-point spacing bound. -/
def Part.spacing (p : Part) : Nat := bitsOf p.d1 0 17
/-- Time-slice quantum. -/
def Part.quant (p : Part) : Nat := bitsOf p.d1 17 6
/-- Die-TLB ways. -/
def Part.tlbw (p : Part) : Nat := bitsOf p.d1 32 4

/-- Die `d` lies in the partition's rectangle. -/
def Part.hasDie (p : Part) (d : Nat) : Bool :=
  decide (d < 32) && decide (p.x0 ≤ d % 4) && decide (d % 4 ≤ p.x1) && decide (p.y0 ≤ d / 4) && decide (d / 4 ≤ p.y1)

/-- Core die·64 + core lies in the partition's rectangle. -/
def Part.hasCore (p : Part) (k : Nat) : Bool :=
  p.hasDie (k / 64) && decide (p.core0 ≤ k % 64) && decide (k % 64 ≤ p.core0 + p.cntm1)

/-- The partition's dies, in increasing number. -/
def Part.dies (p : Part) : List Nat := (List.range 32).filter p.hasDie

/-- The partition's cores, in increasing die, then core. -/
def Part.cores (p : Part) : List Nat :=
  p.dies.flatMap (fun d => (List.range (p.cntm1 + 1)).map (fun i => d * 64 + p.core0 + i))

/-- A remap entry (R289); at reset the logical number with ok = 1. -/
def Die.remapOf (d : Die) (core : Nat) : BitVec 16 := Tbl.getD d.remap core (BitVec.ofNat 16 (core + 0x4000))

/-- The physical core of a logical core. -/
def State.physOf (s : State) (core : Nat) : Nat := fld ((s.die (core / 64)).remapOf (core % 64)).toNat 0 7

/-- The partner of a doubled core (R289). -/
def State.partnerOf (s : State) (core : Nat) : Option Nat :=
  let e := ((s.die (core / 64)).remapOf (core % 64)).toNat
  if bit e 7 then some (core / 64 * 64 + fld e 8 6) else none

/-- `coord` bits 21:0 of a slot (R29). -/
def State.coordOf (s : State) (r : TaskRef) : BitVec 22 :=
  let d := r.core / 64
  let t := s.taskOf r
  BitVec.ofNat 22 (d % 4 + put (d / 4) 2 + put (r.core % 64) 5 + put t.stage.toNat 11 + put r.slot.val 14
    + put (s.core r.core).part 16)

/-! ## Timers and the agenda (model's own, log 2) -/

/-- A job for an agent at a tick of the agent's partition. -/
def State.atTick (s : State) (who : Cur) (due : Nat) (i : Ev) : State :=
  { s with timers := s.timers ++ [{ clock := some (s.core who.core).part, due := due, who := who, ev := i }] }

/-- A job at a tick of partition `p`. -/
def State.atPartTick (s : State) (p due : Nat) (i : Ev) : State :=
  { s with timers := s.timers ++ [{ clock := some p, due := due, who := s.cur, ev := i }] }

/-- A job at a wall period. -/
def State.atWall (s : State) (due : Nat) (i : Ev) : State :=
  { s with timers := s.timers ++ [{ clock := none, due := due, who := s.cur, ev := i }] }

/-- A job due now, before the rest of the agenda. -/
def State.now (s : State) (who : Cur) (i : Ev) : State := { s with agenda := .event who i :: s.agenda }

/-- The agent that a task is. -/
def seqAt (r : TaskRef) : Cur := { core := r.core, slot := r.slot, unit := .seq }

/-- An engine of a core, as an agent. -/
def engAt (core : Nat) (e : Engine) : Cur := { core := core, slot := 0, unit := .eng e }

/-- The next free value's number. -/
def State.bump (s : State) : State := { s with fresh := s.fresh + 1 }

/-! ## Scratchpad, accumulator and tile bytes (R17, R264) -/

/-- Writes of one tick in the order of R264: a later rank prevails. -/
def applyBuf (m : Memory) (buf : List (Nat × Nat × List Byte)) : Memory :=
  let put1 (m : Memory) (r : Nat) : Memory :=
    buf.foldl (fun m e => if e.1 = r then Memory.store m e.2.1 e.2.2 else m) m
  put1 (put1 (put1 (put1 m 1) 2) 3) 4

/-- The core as its units see it from the next tick on. -/
def Core.settle (c : Core) : Core :=
  { c with scratch := applyBuf c.scratch c.spBuf, acc := applyBuf c.acc c.accBuf, spBuf := [], accBuf := [] }

/-- The direction words of a dimension. -/
def putDir (tb : Tbl (BitVec 32)) (dim : Nat) (ws : List (BitVec 32)) : Tbl (BitVec 32) :=
  ws.zipIdx.foldl (fun tb x => Tbl.set tb (32 * dim + x.2) x.1) tb

/-- The dimensions that land in a tick are written; one that has landed is still being loaded through that tick (R168). -/
def VecUnit.landDirs (u : VecUnit) (tick : Nat) : VecUnit :=
  { u with
    dirs := (u.dirLoads.filter (fun x => x.1 == tick)).foldl (fun tb x => putDir tb x.2.1 x.2.2) u.dirs
    dirLoads := u.dirLoads.filter (fun x => decide (tick ≤ x.1)) }

/-- A scratchpad write by an engine in the current tick. -/
def Core.spWrite (c : Core) (e : Engine) (a : Nat) (bs : List Byte) : Core :=
  { c with spBuf := c.spBuf ++ [(e.rank, a, bs)] }

/-- An accumulator write by an engine in the current tick. -/
def Core.accWrite (c : Core) (e : Engine) (a : Nat) (bs : List Byte) : Core :=
  { c with accBuf := c.accBuf ++ [(e.rank, a, bs)] }

/-- Bytes of a bank, starting at `a` = bank·131072 + off. -/
def Core.spRead (c : Core) (a n : Nat) : List Byte := Memory.load c.scratch a n

/-- Scratchpad address of bank:off. -/
def spByte (bank off : Nat) : Nat := bank * 131072 + off

/-- The format of a bank (R17, R18). -/
def Core.bankFmt (c : Core) (bank : Nat) : Fmt :=
  (Fmt.ofCode? (vget c.bfmt (Fin.ofNat 16 bank)).toNat).getD .raw

end Sys2Proof.Machine
end

