-- ==== Sys2Proof/Machine/Ecdsa.lean ====
section
/-! DEFINITION. ECDSA on the curve P-256 (spec/00_scope.md R1; spec/11_assembly_object.md R258, R261; spec/22_platform.md R365,
R367, R368): whether a signature over a digest is by the key with a given SHA-256 digest, and signing with a key. The curve and the algorithm are those of the
standard that the spec names. -/

namespace Sys2Proof.Machine

/-- The field's prime. -/
def ecP : Nat := 2 ^ 256 - 2 ^ 224 + 2 ^ 192 + 2 ^ 96 - 1

/-- The order of the base point. -/
def ecN : Nat := 0xFFFFFFFF00000000FFFFFFFFFFFFFFFFBCE6FAADA7179E84F3B9CAC2FC632551

/-- The curve's constant b; a is -3. -/
def ecB : Nat := 0x5AC635D8AA3A93E7B3EBBD55769886BC651D06B0CC53B0F63BCE3C3E27D2604B

/-- b^e modulo m for an exponent below 2^256. -/
def powMod (m b e : Nat) : Nat :=
  (List.range 256).foldr (fun i x => let y := x * x % m; if e.testBit i then y * b % m else y) 1

/-- The inverse modulo a prime. -/
def invMod (m x : Nat) : Nat := powMod m x (m - 2)

/-- a - b modulo m, of numbers below it. -/
def subMod (m a b : Nat) : Nat := (a + m - b) % m

/-- A point in Jacobian coordinates: x/z^2, y/z^3; z = 0 at infinity. -/
structure EcPoint where
  x : Nat
  y : Nat
  z : Nat
  deriving DecidableEq, Repr

/-- The point at infinity. -/
def EcPoint.zero : EcPoint := { x := 1, y := 1, z := 0 }

/-- The base point. -/
def EcPoint.base : EcPoint where
  x := 0x6B17D1F2E12C4247F8BCE6E563A440F277037D812DEB33A0F4A13945D898C296
  y := 0x4FE342E2FE1A7F9B8EE7EB4A7C0F9E162BCE33576B315ECECBB6406837BF51F5
  z := 1

/-- Twice a point. -/
def EcPoint.double (a : EcPoint) : EcPoint :=
  if a.z = 0 ∨ a.y = 0 then EcPoint.zero
  else
    let p := ecP
    let zz := a.z * a.z % p
    let yy := a.y * a.y % p
    let m := 3 * subMod p a.x zz * ((a.x + zz) % p) % p
    let s := 4 * a.x * yy % p
    let x := subMod p (m * m % p) (2 * s % p)
    { x := x, y := subMod p (m * subMod p s x % p) (8 * yy * yy % p), z := 2 * a.y * a.z % p }

/-- The sum of two points. -/
def EcPoint.add (a b : EcPoint) : EcPoint :=
  if a.z = 0 then b
  else if b.z = 0 then a
  else
    let p := ecP
    let za := a.z * a.z % p
    let zb := b.z * b.z % p
    let u := a.x * zb % p
    let v := b.x * za % p
    let s := a.y * zb * b.z % p
    let t := b.y * za * a.z % p
    if u = v then (if s = t then a.double else EcPoint.zero)
    else
      let h := subMod p v u
      let r := subMod p t s
      let hh := h * h % p
      let hhh := h * hh % p
      let x := subMod p (subMod p (r * r % p) hhh) (2 * u * hh % p)
      { x := x, y := subMod p (r * subMod p (u * hh % p) x % p) (s * hhh % p), z := h * a.z * b.z % p }

/-- k times a point, for k below 2^256. -/
def EcPoint.mul (k : Nat) (a : EcPoint) : EcPoint :=
  (List.range 256).foldr (fun i x => let y := x.double; if k.testBit i then y.add a else y) EcPoint.zero

/-- The negative of a point. -/
def EcPoint.neg (a : EcPoint) : EcPoint := { a with y := subMod ecP 0 a.y }

/-- The affine coordinates of a point; none at infinity. -/
def EcPoint.affine (a : EcPoint) : Option (Nat × Nat) :=
  if a.z = 0 then none
  else
    let i := invMod ecP a.z
    some (a.x * (i * i % ecP) % ecP, a.y * (i * i % ecP * i % ecP) % ecP)

/-- The points of the curve with an x coordinate. -/
def pointsAt (x : Nat) : List EcPoint :=
  if ecP ≤ x then []
  else
    let c := (x * x * x + ecB + 3 * (ecP - x)) % ecP
    let y := powMod ecP c ((ecP + 1) / 4)
    if y * y % ecP = c then [{ x := x, y := y, z := 1 }, { x := x, y := subMod ecP 0 y, z := 1 }] else []

/-- The public keys under which (r, s) is a signature over a digest. A key verifies exactly when the point that the check finds has
an x coordinate congruent to r, and each such point gives one key. -/
def ecKeys (digest r s : Nat) : List (Nat × Nat) :=
  if r = 0 ∨ ecN ≤ r ∨ s = 0 ∨ ecN ≤ s then []
  else
    let i := invMod ecN r
    let e := EcPoint.base.mul (digest % ecN * i % ecN)
    (pointsAt r ++ pointsAt (r + ecN)).filterMap (fun a => ((a.mul (s * i % ecN)).add e.neg).affine)

/-- The 65-byte uncompressed encoding of a public key (R258). -/
def ecEncode (q : Nat × Nat) : List Byte := 4 :: (beBytes 32 q.1 ++ beBytes 32 q.2)

/-- (r, s) is a signature over a digest by the key whose SHA-256 digest is `key` (R258, R261). -/
def ecdsaOk (key digest r s : Nat) : Bool := (ecKeys digest r s).any (fun q => (sha256 (ecEncode q)).toNat == key)

/-- A private key, from any number: 1 to the order of the base point less 1. -/
def ecSecret (x : Nat) : Nat := 1 + x % (ecN - 1)

/-- The public key of a private key. -/
def ecPublic (d : Nat) : Nat × Nat := (EcPoint.base.mul d).affine.getD (0, 0)

/-- The signature over a digest by the private key `d` with the secret number `k`, unless r or s would be 0. -/
def ecdsaTry (d digest k : Nat) : Option (Nat × Nat) :=
  match (EcPoint.base.mul k).affine with
  | none => none
  | some q =>
    let r := q.1 % ecN
    let t := invMod ecN k * ((digest + r * d) % ecN) % ecN
    if r = 0 ∨ t = 0 then none else some (r, t)

/-- A signature over a digest by the private key `d`: another secret number is taken where one gives none. -/
def ecdsaSign (d digest k : Nat) : Nat × Nat :=
  ((List.range 16).findSome? (fun i => ecdsaTry d digest (ecSecret (k + i)))).getD (0, 0)

end Sys2Proof.Machine
end

