-- ==== Sys2Proof/Config.lean ====
section
/-! DEFINITION. What the spec leaves to an implementation, as free values: constants without a body, so that nothing can
evaluate them. Each is applied to a number that the state counts (`State.fresh`) or to the operands it depends on. -/

namespace Sys2Proof.Config

/-- Ticks that an elastic access to the host region, or an elastic engine access, takes beyond its stated least time
(spec/12_memory_consistency.md R284; spec/01_machine_state.md R26; DESIGN CHOICE, log 20). -/
opaque elasticExtra : Nat → Nat

/-- The private key that the I/O die derives from its fused secret (spec/22_platform.md R368; DESIGN CHOICE, log 21). -/
opaque identitySecret : Nat

/-- The secret number of an ECDSA signature that the device makes (R368; DESIGN CHOICE, log 21). -/
opaque signNonce : Nat → Nat

/-- The SHA-256 digest of the key with which boot images are signed, as fused in the I/O die (spec/22_platform.md R365; DESIGN
CHOICE, log 21). -/
opaque fusedKey : Nat

/-- Buffers beyond the least number: of a mesh router's input channel (0), and of a port link's receiver (1) (spec/16_fabric.md
R323, R326; DESIGN CHOICE, log 100). -/
opaque bufferExtra : Nat → Nat

/-- The input buffer of the station to which the packet on a lane of a die is addressed is full in a ring cycle (R313; DESIGN
CHOICE, log 99). -/
opaque ringFull : (die lane cycle : Nat) → Bool

/-- Wall periods that the device takes to move a shared-store line or a DRAM row to its spare (spec/22_platform.md R360, R362;
DESIGN CHOICE, log 132). -/
opaque spareTime : Nat → Nat

/-- The CRC-32 word of a Hatbox image (spec/19_faults_translation.md R345): the byte layout of the saved state is the
device's own (DESIGN CHOICE, log 22). -/
opaque imageCrc : Nat → BitVec 32

end Sys2Proof.Config
end

