-- ==== Sys2Proof/Machine/Flags.lean ====
section
/-! DEFINITION. Number formats, rounding and every flag computation (spec/02_number_formats.md R32 to R60;
spec/06_vector_core.md R140 to R145). Values are exact dyadic numbers until they are rounded once. -/

namespace Sys2Proof.Machine

/-! ## Flags and rounding modes -/

/-- Invalid operation. -/
def fNV : Flags := 0x01
/-- Division by zero. -/
def fDZ : Flags := 0x02
/-- Overflow. -/
def fOF : Flags := 0x04
/-- Underflow. -/
def fUF : Flags := 0x08
/-- Inexact. -/
def fNX : Flags := 0x10
/-- Exact-view overflow. -/
def fXO : Flags := 0x20

/-- A flag when the condition holds. -/
def flagIf (c : Bool) (f : Flags) : Flags := if c then f else 0

/-- Rounding modes. -/
inductive RM where
  | rne | rtz | rdn | rup
  deriving DecidableEq, Repr

/-- Field rm of `frm` (R29). -/
def RM.ofBits (b : BitVec 2) : RM :=
  match b.toNat with
  | 0 => .rne | 1 => .rtz | 2 => .rdn | _ => .rup

/-- Role R (spec/03_encodings.md R72): `dyn` takes the run's copy of `frm`. -/
def RM.select (r : Rnd) (frm : BitVec 2) : RM :=
  match r with
  | .dyn => RM.ofBits frm | .rne => .rne | .rtz => .rtz | .rdn => .rdn | .rup => .rup

/-! ## Exact values -/

/-- An exact operand or result. `fin neg m e sticky` has magnitude m·2^e, and with `sticky` something between m·2^e and
(m + 1)·2^e. A NaN's fraction is held left-aligned in 23 bits. -/
inductive Exact where
  | nan (neg : Bool) (frac : Nat)
  | inf (neg : Bool)
  | fin (neg : Bool) (m : Nat) (e : Int) (sticky : Bool)
  deriving DecidableEq, Repr

/-- A signalling NaN has quiet bit 0 (R39). -/
def Exact.isSig (x : Exact) : Bool :=
  match x with
  | .nan _ f => f / 2 ^ 22 % 2 == 0
  | .inf _ | .fin _ _ _ _ => false

/-- Any NaN. -/
def Exact.isNan (x : Exact) : Bool :=
  match x with
  | .nan _ _ => true
  | .inf _ | .fin _ _ _ _ => false

/-- The exact sign-magnitude value of an integer. -/
def Exact.ofInt (i : Int) : Exact := .fin (decide (i < 0)) i.natAbs 0 false

/-- A generated NaN (R39). -/
def Exact.genNan : Exact := .nan false (2 ^ 22)

/-- Multiplication by 2^sc (R57, step 1). -/
def Exact.scale (x : Exact) (sc : Int) : Exact :=
  match x with
  | .fin n m e s => .fin n m (e + sc) s
  | .nan n f => .nan n f
  | .inf n => .inf n

/-- The other sign. -/
def Exact.negate (x : Exact) : Exact :=
  match x with
  | .fin n m e s => .fin (!n) m e s
  | .nan n f => .nan n f
  | .inf n => .inf (!n)

/-! ## IEEE formats (R39) -/

/-- Exponent and fraction widths of an IEEE format. -/
structure FpFmt where
  eb : Nat
  fb : Nat
  deriving DecidableEq, Repr

/-- FP32. -/
def fp32 : FpFmt := { eb := 8, fb := 23 }
/-- FP16. -/
def fp16 : FpFmt := { eb := 5, fb := 10 }
/-- BF16. -/
def bf16 : FpFmt := { eb := 8, fb := 7 }

/-- The bias. -/
def FpFmt.bias (f : FpFmt) : Nat := 2 ^ (f.eb - 1) - 1

/-- Bits of a magnitude with exponent field `x` and fraction `fr`, under a sign. -/
def FpFmt.pack (f : FpFmt) (neg : Bool) (x fr : Nat) : Nat := put (b2n neg) (f.eb + f.fb) + put x f.fb + fr

/-- ±∞. -/
def FpFmt.inf (f : FpFmt) (neg : Bool) : Nat := f.pack neg (2 ^ f.eb - 1) 0

/-- ± the largest finite value. -/
def FpFmt.maxFin (f : FpFmt) (neg : Bool) : Nat := f.pack neg (2 ^ f.eb - 2) (2 ^ f.fb - 1)

/-- A NaN quieted, its leading fraction bits kept (R51, R55). -/
def FpFmt.quiet (f : FpFmt) (neg : Bool) (frac : Nat) : Nat :=
  f.pack neg (2 ^ f.eb - 1) ((if frac / 2 ^ 22 % 2 = 0 then frac + 2 ^ 22 else frac) / 2 ^ (23 - f.fb))

/-- The value of an encoding. -/
def FpFmt.decode (f : FpFmt) (b : Nat) : Exact :=
  let neg := bit b (f.eb + f.fb)
  let x := fld b f.fb f.eb
  let fr := fld b 0 f.fb
  if x = 2 ^ f.eb - 1 then
    if fr = 0 then .inf neg else .nan neg (fr * 2 ^ (23 - f.fb))
  else if x = 0 then .fin neg fr (1 - (f.bias : Int) - f.fb) false
  else .fin neg (2 ^ f.fb + fr) ((x : Int) - f.bias - f.fb) false

/-- `drop` low bits of `m` rounded away under a mode: the kept magnitude and whether anything was lost. -/
def roundShift (rm : RM) (neg : Bool) (m drop : Nat) (sticky : Bool) : Nat × Bool :=
  let q := m / 2 ^ drop
  let r := m % 2 ^ drop
  let inexact := sticky || r != 0
  let up : Bool :=
    match rm with
    | .rtz => false
    | .rdn => neg && inexact
    | .rup => !neg && inexact
    | .rne =>
      if drop = 0 then false
      else if r = 2 ^ (drop - 1) then sticky || q % 2 == 1
      else decide (2 ^ (drop - 1) < r)
  (if up then q + 1 else q, inexact)

/-- A finite value rounded to the format (R54): its bits, the flags of, uf and nx with tininess detected after
rounding, and whether it overflowed. -/
def FpFmt.round (f : FpFmt) (rm : RM) (neg : Bool) (m : Nat) (e : Int) (sticky : Bool) : Nat × Flags × Bool :=
  if m = 0 then (f.pack neg 0 0, 0, false)
  else
    let emin : Int := 1 - f.bias
    let top : Int := e + m.log2                      -- exponent of the leading bit
    let quantum : Int := (if top < emin then emin else top) - f.fb
    let at_ (q : Int) : Nat × Bool :=
      if e ≤ q then roundShift rm neg m (q - e).toNat sticky
      else (m * 2 ^ (e - q).toNat, sticky)
    let (n, inexact) := at_ quantum
    let tiny : Bool :=
      decide (top < emin - 1) || (top == emin - 1 && decide ((at_ (top - f.fb)).1 < 2 ^ (f.fb + 1)))
    let (n, quantum) := if n = 2 ^ (f.fb + 1) then (2 ^ f.fb, quantum + 1) else (n, quantum)
    let x : Int := quantum + f.fb + f.bias           -- exponent field of a normal result
    if n < 2 ^ f.fb then (f.pack neg 0 n, flagIf inexact fNX ||| flagIf (tiny && inexact) fUF, false)
    else if (2 ^ f.eb - 1 : Int) ≤ x then
      let toMax : Bool :=
        match rm with
        | .rne => false | .rtz => true | .rdn => !neg | .rup => neg
      (if toMax then f.maxFin neg else f.inf neg, fOF ||| fNX, true)
    else (f.pack neg x.toNat (n - 2 ^ f.fb), flagIf inexact fNX ||| flagIf (tiny && inexact) fUF, false)

/-- Any exact value in the format: a NaN is quieted, an infinity kept. -/
def FpFmt.fit (f : FpFmt) (rm : RM) (x : Exact) : Nat × Flags :=
  match x with
  | .nan n fr => (f.quiet n fr, 0)
  | .inf n => (f.inf n, 0)
  | .fin n m e s => let (b, fl, _) := f.round rm n m e s; (b, fl)

/-! ## Exact arithmetic with the specials of R55, R56 and R141 -/

/-- The first NaN among operands, in order (R55). -/
def firstNan : List Exact → Option Exact
  | [] => none
  | x :: rest => if x.isNan then some x else firstNan rest

/-- nv when any operand is a signalling NaN. -/
def sigFlag (xs : List Exact) : Flags := flagIf (xs.any Exact.isSig) fNV

/-- Two finite magnitudes with signs as integers ovf the smaller exponent. -/
def alignSum (n1 : Bool) (m1 : Nat) (e1 : Int) (n2 : Bool) (m2 : Nat) (e2 : Int) : Int × Int :=
  let e := if e1 < e2 then e1 else e2
  let i1 : Int := (m1 : Int) * 2 ^ (e1 - e).toNat
  let i2 : Int := (m2 : Int) * 2 ^ (e2 - e).toNat
  ((if n1 then -i1 else i1) + (if n2 then -i2 else i2), e)

/-- The sign of a zero sum in `vadd` and `vsub`: +0, or −0 toward −∞, unless both operands are −0 (R141). -/
def zeroNeg (rm : RM) (m1 m2 : Nat) (n1 n2 : Bool) : Bool := rm == .rdn || (m1 == 0 && m2 == 0 && n1 && n2)

/-- The sign of a zero sum in `vfma`, as IEEE 754-2019 has it: two zeros of one sign keep it (R54). -/
def zeroNegFma (rm : RM) (m1 m2 : Nat) (n1 n2 : Bool) : Bool := if m1 == 0 && m2 == 0 && n1 == n2 then n1 else rm == .rdn

/-- The exact sum of two values that are not NaN, with the sign of a zero sum. -/
def sumNum (zneg : Nat → Nat → Bool → Bool → Bool) (x y : Exact) : Exact × Flags :=
  match x, y with
  | .inf a, .inf b => if a = b then (.inf a, 0) else (Exact.genNan, fNV)
  | .inf a, _ => (.inf a, 0)
  | _, .inf b => (.inf b, 0)
  | .fin n1 m1 e1 _, .fin n2 m2 e2 _ =>
    let (i, e) := alignSum n1 m1 e1 n2 m2 e2
    if i = 0 then (.fin (zneg m1 m2 n1 n2) 0 0 false, 0)
    else (.fin (decide (i < 0)) i.natAbs e false, 0)
  | .nan n f, _ => (.nan n f, 0)
  | _, .nan n f => (.nan n f, 0)

/-- The exact sum of two values that are not NaN (R141). -/
def addNum (rm : RM) (x y : Exact) : Exact × Flags := sumNum (zeroNeg rm) x y

/-- a + b. -/
def addExact (rm : RM) (x y : Exact) : Exact × Flags :=
  match firstNan [x, y] with
  | some n => (n, sigFlag [x, y])
  | none => addNum rm x y

/-- a − b: as the sum, with b's sign inverted. -/
def subExact (rm : RM) (x y : Exact) : Exact × Flags := addExact rm x y.negate

/-- The product of two values that are not NaN. -/
def mulNum (x y : Exact) : Exact × Flags :=
  match x, y with
  | .inf a, .inf b => (.inf (a != b), 0)
  | .inf a, .fin n m _ _ => if m = 0 then (Exact.genNan, fNV) else (.inf (a != n), 0)
  | .fin n m _ _, .inf b => if m = 0 then (Exact.genNan, fNV) else (.inf (n != b), 0)
  | .fin n1 m1 e1 _, .fin n2 m2 e2 _ => (.fin (n1 != n2) (m1 * m2) (e1 + e2) false, 0)
  | .nan n f, _ => (.nan n f, 0)
  | _, .nan n f => (.nan n f, 0)

/-- a × b. -/
def mulExact (x y : Exact) : Exact × Flags :=
  match firstNan [x, y] with
  | some n => (n, sigFlag [x, y])
  | none => mulNum x y

/-- a × b + c with one rounding (R56). -/
def fmaExact (rm : RM) (x y z : Exact) : Exact × Flags :=
  match firstNan [x, y] with
  | some n => (n, sigFlag [x, y, z])
  | none =>
    let (p, fl) := mulNum x y
    if z.isNan then (z, fl ||| sigFlag [z])
    else if p.isNan then (p, fl)
    else sumNum (zeroNegFma rm) p z

/-- a / b. A quotient keeps more bits than any format, and a sticky bit. -/
def divExact (x y : Exact) : Exact × Flags :=
  match firstNan [x, y] with
  | some n => (n, sigFlag [x, y])
  | none =>
    match x, y with
    | .inf _, .inf _ => (Exact.genNan, fNV)
    | .inf a, .fin n _ _ _ => (.inf (a != n), 0)
    | .fin n _ _ _, .inf b => (.fin (n != b) 0 0 false, 0)
    | .fin n1 m1 e1 _, .fin n2 m2 e2 _ =>
      if m2 = 0 then (if m1 = 0 then (Exact.genNan, fNV) else (.inf (n1 != n2), fDZ))
      else
        let k := 64 + m2.log2
        (.fin (n1 != n2) (m1 * 2 ^ k / m2) (e1 - e2 - k) (m1 * 2 ^ k % m2 != 0), 0)
    | .nan n f, _ => (.nan n f, 0)
    | _, .nan n f => (.nan n f, 0)

/-- Order of two values that are not NaN, −0 equal to +0: −1, 0 or 1 as an Int. -/
def cmpNum (x y : Exact) : Int :=
  match x, y with
  | .inf a, .inf b => if a = b then 0 else if a then -1 else 1
  | .inf a, _ => if a then -1 else 1
  | _, .inf b => if b then 1 else -1
  | .fin n1 m1 e1 _, .fin n2 m2 e2 _ =>
    let (i, _) := alignSum n1 m1 e1 (!n2) m2 e2
    if i < 0 then -1 else if i = 0 then 0 else 1
  | .nan _ _, _ => 0
  | _, .nan _ _ => 0

/-- The sign of a value. -/
def Exact.sign (x : Exact) : Bool :=
  match x with
  | .nan n _ => n
  | .inf n => n
  | .fin n _ _ _ => n

/-- x below y, with −0 below +0 (R142). -/
def ltOrdered (x y : Exact) : Bool :=
  let c := cmpNum x y
  decide (c < 0) || (c == 0 && x.sign && !y.sign)

/-- `vmax` and `vmin` on floats (R142). -/
def maxMinExact (isMax : Bool) (x y : Exact) : Exact × Flags :=
  if x.isSig || y.isSig || (x.isNan && y.isNan) then ((firstNan [x, y]).getD x, sigFlag [x, y])
  else if x.isNan then (y, 0)
  else if y.isNan then (x, 0)
  else (if isMax then (if ltOrdered x y then y else x) else (if ltOrdered x y then x else y), 0)

/-! ## Modifiers (R57, R58) -/

/-- `min(max(x, lo), hi)` on the values of encodings, and whether a bound has replaced `x` (R57 step 5). A NaN bound is no bound
(R29). DESIGN CHOICE: an element that is itself a NaN stays as it is, since R29 and R57 state no result for it (log 137). -/
def FpFmt.clampTo (f : FpFmt) (x lo hi : Nat) : Nat × Bool :=
  let below (a b : Nat) : Bool :=
    !(f.decode a).isNan && !(f.decode b).isNan && ltOrdered (f.decode a) (f.decode b)
  let low := below x lo
  let y := if low then lo else x
  let high := below hi y
  (if high then hi else y, low || high)

/-- The value that a clamp leaves (R57). -/
def FpFmt.clamp (f : FpFmt) (x lo hi : Nat) : Nat := (f.clampTo x lo hi).1

/-- The clamp bounds of a run in a float format (R29). -/
def FpFmt.bounds (f : FpFmt) (lo hi : Word64) : Nat × Nat :=
  let conv (w : Word64) : Nat := (f.fit .rne (fp32.decode (bitsOf w 0 32))).1
  (conv lo, conv hi)

/-- An exact result fitted to a float type under an optional modifier (R57). -/
def FpFmt.finish (f : FpFmt) (rm : RM) (m : Option Modifier) (lo hi : Word64) (x : Exact) : Nat × Flags :=
  match m with
  | none => f.fit rm x
  | some md =>
    let sgn := 2 ^ (f.eb + f.fb)
    let (b, fl, ovf) : Nat × Flags × Bool :=
      match x with
      | .nan n fr => (f.quiet n fr, 0, false)
      | .inf n => (f.inf n, 0, false)
      | .fin n mm e s => f.round rm n mm (e + md.sc.toInt) s
    let b := if md.abs then b % sgn else b
    let b := if md.neg then (if b < sgn then b + sgn else b - sgn) else b
    let made := ovf && (b == f.inf false || b == f.inf true)      -- an infinity that step 2 has made
    let (l, h) := f.bounds lo hi
    let (y, replaced) := if md.clamp then f.clampTo b l h else (b, false)
    (if md.sat && made && !replaced then f.maxFin (b != f.inf false) else y, fl)

/-! ## Integers -/

/-- A dyadic value rounded to an integer, and whether that changed it. -/
def roundInt (rm : RM) (neg : Bool) (m : Nat) (e : Int) (sticky : Bool) : Int × Bool :=
  let (n, inexact) := if 0 ≤ e then (m * 2 ^ e.toNat, sticky) else roundShift rm neg m (-e).toNat sticky
  (if neg then -(n : Int) else n, inexact)

end Sys2Proof.Machine

namespace Sys2Proof

/-- Width of an element type in bits (spec/03_encodings.md R71). -/
def ElemType.width : ElemType → Nat
  | .f32 => 32 | .f16 => 16 | .b16 => 16 | .i32 => 32 | .i16 => 16 | .i8 => 8 | .n32 => 32 | .n8 => 8

/-- The format of an element type. -/
def ElemType.fmt : ElemType → Fmt
  | .f32 => .fp32 | .f16 => .fp16 | .b16 => .bf16 | .i32 => .i32 | .i16 => .i16 | .i8 => .i8 | .n32 => .n32
  | .n8 => .n8

/-- Bits per element of a format (spec/01_machine_state.md R18). -/
def Fmt.bits : Fmt → Nat
  | .raw => 8 | .fp32 => 32 | .fp16 => 16 | .bf16 => 16 | .t8 => 8 | .t6 => 6 | .i32 => 32 | .i16 => 16 | .i8 => 8
  | .n32 => 32 | .n8 => 8

/-- Least and greatest value of an integer format; 0 and 0 for the others. -/
def Fmt.range : Fmt → Int × Int
  | .i32 => (-2147483648, 2147483647) | .i16 => (-32768, 32767) | .i8 => (-128, 127)
  | .n32 => (0, 4294967295) | .n8 => (0, 255)
  | .raw | .fp32 | .fp16 | .bf16 | .t8 | .t6 => (0, 0)

/-- The IEEE format of a format, if it is one. -/
def Fmt.fp? : Fmt → Option Machine.FpFmt
  | .fp32 => some Machine.fp32 | .fp16 => some Machine.fp16 | .bf16 => some Machine.bf16
  | .raw | .t8 | .t6 | .i32 | .i16 | .i8 | .n32 | .n8 => none

end Sys2Proof

namespace Sys2Proof.Machine

/-- The signed value of the low `w` bits. -/
def signedOf (w b : Nat) : Int :=
  let x := b % 2 ^ w
  if x < 2 ^ (w - 1) then x else (x : Int) - 2 ^ w

/-- An integer wrapped to `w` bits. -/
def wrapInt (w : Nat) (i : Int) : Nat := (i % (2 ^ w : Int)).toNat

/-- An integer moved into a range. -/
def saturate (r : Int × Int) (i : Int) : Int := if i < r.1 then r.1 else if r.2 < i then r.2 else i

/-- abs, neg and clamp of R58 step 2. -/
def modInt (r : Int × Int) (md : Modifier) (lo hi : Word64) (i : Int) : Int :=
  let i := if md.abs then (i.natAbs : Int) else i
  let i := if md.neg then -i else i
  let l := saturate r (signedOf 32 (bitsOf lo 32 32))
  let h := saturate r (signedOf 32 (bitsOf hi 32 32))
  if md.clamp then (let j := if i < l then l else i; if h < j then h else j) else i

/-- An exact integer result fitted to a type under an optional modifier (R140, R58). -/
def finishInt (t : Fmt) (rm : RM) (m : Option Modifier) (lo hi : Word64) (i : Int) : Nat :=
  match m with
  | none => wrapInt t.bits i
  | some md =>
    let (i, _) := roundInt rm (decide (i < 0)) i.natAbs md.sc.toInt false
    let i := modInt t.range md lo hi i
    wrapInt t.bits (if md.sat then saturate t.range i else i)

/-- A value converted to an integer format (R50, R144): out of range saturates with nv, NaN gives 0 with nv, and an
inexact value in range raises nx. Under a modifier an infinity stands for an integer beyond every bound, which abs, neg and clamp
act on before it saturates, and a NaN for the 0 that it becomes, with nv (R144; DEDUCED, log 121). -/
def toIntFmt (t : Fmt) (rm : RM) (m : Option Modifier) (lo hi : Word64) (x : Exact) : Nat × Flags :=
  let fit (i : Int) (fl : Flags) : Nat × Flags :=
    let i := match m with
      | none => i
      | some md => modInt t.range md lo hi i
    if i < t.range.1 || t.range.2 < i then (wrapInt t.bits (saturate t.range i), fNV)
    else (wrapInt t.bits i, fl)
  match x with
  | .nan _ _ => fit 0 fNV
  | .inf n => fit (if n then -(2 ^ 64) else 2 ^ 64) 0
  | .fin n mm e s =>
    let sc : Int := match m with
      | none => 0
      | some md => md.sc.toInt
    let (i, inexact) := roundInt rm n mm (e + sc) s
    fit i (flagIf inexact fNX)

/-! ## Tapered formats (R32 to R38) -/

/-- Length of the run of bits equal to `r` that ends a word from bit `p - 1` down. -/
def runLen (enc : Nat) (r : Bool) : Nat → Nat
  | 0 => 0
  | p + 1 => if bit enc p = r then 1 + runLen enc r p else 0

/-- A positive tapered encoding as m·2^e (R34). -/
def tapDecode (nbits es enc : Nat) : Nat × Int :=
  let r := bit enc (nbits - 2)
  let run := runLen enc r (nbits - 1)
  let k : Int := if r then (run : Int) - 1 else -(run : Int)
  let left := nbits - 1 - run - 1
  let x := if es = 0 ∨ left = 0 then 0 else fld enc (left - 1) 1
  let nf := left - es
  (2 ^ nf + fld enc 0 nf, k * 2 ^ es + x - nf)

/-- The value of a tapered encoding. NaV decodes as a quiet NaN, so that every target takes its generated NaN. -/
def tapValue (nbits es b : Nat) : Exact :=
  let b := b % 2 ^ nbits
  if b = 0 then .fin false 0 0 false
  else if b = 2 ^ (nbits - 1) then Exact.genNan
  else
    let neg := decide (2 ^ (nbits - 1) < b)
    let (m, e) := tapDecode nbits es (if neg then 2 ^ nbits - b else b)
    .fin neg m e false

/-- A positive encoding's value in units of 2^−u; 0 for the zero word. -/
def tapUnits (nbits es u enc : Nat) : Nat :=
  if enc = 0 then 0 else let (m, e) := tapDecode nbits es enc; m * 2 ^ (e + u).toNat

/-- The greatest encoding below `n` whose value does not exceed num/den units. -/
def tapFloor (nbits es u num den : Nat) : Nat → Nat
  | 0 => 0
  | n + 1 => if tapUnits nbits es u n * den ≤ num then n else tapFloor nbits es u num den n

/-- A finite value rounded into a tapered format (R38). -/
def tapRound (nbits es u : Nat) (neg : Bool) (m : Nat) (e : Int) : Nat × Flags :=
  if m = 0 then (0, 0)
  else
    let num := m * 2 ^ (e + u).toNat
    let den := 2 ^ (-(e + u)).toNat
    let max := 2 ^ (nbits - 1) - 1
    let lower := tapFloor nbits es u num den (max + 1)
    let v0 := tapUnits nbits es u lower
    let v1 := tapUnits nbits es u (lower + 1)
    let enc :=
      if lower = max then max
      else if 2 * num < (v0 + v1) * den then lower
      else if (v0 + v1) * den < 2 * num then lower + 1
      else if lower % 2 = 0 then lower else lower + 1
    let ovf := lower == max && decide (v0 * den < num)
    let inexact := tapUnits nbits es u enc * den != num
    (if neg && enc != 0 then 2 ^ nbits - enc else enc,
      flagIf ovf fOF ||| flagIf inexact fNX ||| flagIf (decide (num < den)) fUF)

/-- Any value into a tapered format (R38). -/
def toTapered (nbits es u : Nat) (x : Exact) : Nat × Flags :=
  match x with
  | .nan _ _ => (2 ^ (nbits - 1), flagIf x.isSig fNV)
  | .inf _ => (2 ^ (nbits - 1), fNV)
  | .fin n m e _ => tapRound nbits es u n m e

/-! ## Formats as a whole (R50 to R53) -/

/-- The value of an encoding in a format. A raw byte has the value of its unsigned number. -/
def decodeFmt (f : Fmt) (b : Nat) : Exact :=
  match f with
  | .fp32 => fp32.decode b
  | .fp16 => fp16.decode b
  | .bf16 => bf16.decode b
  | .t8 => tapValue 8 1 b
  | .t6 => tapValue 6 0 b
  | .i32 | .i16 | .i8 => Exact.ofInt (signedOf f.bits b)
  | .n32 | .n8 | .raw => Exact.ofInt (b % 2 ^ f.bits : Nat)

/-- A value converted into a format (R50, R51). -/
def encodeFmt (f : Fmt) (rm : RM) (x : Exact) : Nat × Flags :=
  match f with
  | .fp32 => let (b, fl) := fp32.fit rm x; (b, fl ||| sigFlag [x])
  | .fp16 => let (b, fl) := fp16.fit rm x; (b, fl ||| sigFlag [x])
  | .bf16 => let (b, fl) := bf16.fit rm x; (b, fl ||| sigFlag [x])
  | .t8 => toTapered 8 1 12 x
  | .t6 => toTapered 6 0 4 x
  | .i32 | .i16 | .i8 | .n32 | .n8 | .raw => toIntFmt f rm none 0 0 x

/-- Conversion of an element between formats: raw on either side, or equal formats, moves the bits unchanged. -/
def convert (src dst : Fmt) (rm : RM) (b : Nat) : Nat × Flags :=
  if src = .raw ∨ dst = .raw ∨ src = dst then (b, 0) else encodeFmt dst rm (decodeFmt src b)

/-- The FP32 addition of `red.fadd32` (R59): flags are not reported. -/
def fadd32 (a b : Nat) : Nat := (fp32.fit .rne (addExact .rne (fp32.decode a) (fp32.decode b)).1).1

/-! ## Element-wise arithmetic (R140, R141) -/

/-- The two-operand operations of the vector core. -/
inductive VOp where
  | add | sub | mul | max | min | div
  deriving DecidableEq, Repr

/-- One element of a two-operand float word: its bits and flags. -/
def floatOp (f : FpFmt) (op : VOp) (rm : RM) (m : Option Modifier) (lo hi : Word64) (a b : Nat) : Nat × Flags :=
  let x := f.decode a
  let y := f.decode b
  let (r, fl) : Exact × Flags :=
    match op with
    | .add => addExact rm x y
    | .sub => subExact rm x y
    | .mul => mulExact x y
    | .max => maxMinExact true x y
    | .min => maxMinExact false x y
    | .div => divExact x y
  let (bits, fl2) := f.finish rm m lo hi r
  (bits, fl ||| fl2)

/-- One element of a two-operand integer word. -/
def intOp (t : Fmt) (op : VOp) (rm : RM) (m : Option Modifier) (lo hi : Word64) (a b : Nat) : Nat :=
  let v (x : Nat) : Int := if t.range.1 < 0 then signedOf t.bits x else (x % 2 ^ t.bits : Nat)
  let i := v a
  let j := v b
  finishInt t rm m lo hi
    (match op with
      | .add => i + j
      | .sub => i - j
      | .mul => i * j
      | .max => if i < j then j else i
      | .min => if j < i then j else i
      | .div => 0)

/-- One element of a two-operand word of type `t`. -/
def elemOp (t : ElemType) (op : VOp) (rm : RM) (m : Option Modifier) (lo hi : Word64) (a b : Nat) : Nat × Flags :=
  match t.fmt.fp? with
  | some f => floatOp f op rm m lo hi a b
  | none => (intOp t.fmt op rm m lo hi a b, 0)

/-- One element of `vfma` (R56, R141). -/
def elemFma (t : ElemType) (rm : RM) (m : Option Modifier) (lo hi : Word64) (a b c : Nat) : Nat × Flags :=
  match t.fmt.fp? with
  | some f =>
    let (r, fl) := fmaExact rm (f.decode a) (f.decode b) (f.decode c)
    let (bits, fl2) := f.finish rm m lo hi r
    (bits, fl ||| fl2)
  | none =>
    let v (x : Nat) : Int := if t.isSigned then signedOf t.width x else (x % 2 ^ t.width : Nat)
    (finishInt t.fmt rm m lo hi (v a * v b + v c), 0)

/-- One element of `vcvt` (R144). DESIGN CHOICE: equal types under a modifier are rounded and treated as R57 and R58 say, so that a
signalling NaN becomes quiet and raises nv; without a modifier R144 copies them (log 137). -/
def elemCvt (t src : ElemType) (rm : RM) (m : Option Modifier) (lo hi : Word64) (a : Nat) : Nat × Flags :=
  if t = src ∧ m = none then (a, 0)
  else
    let x := decodeFmt src.fmt a
    match t.fmt.fp? with
    | some f => let (b, fl) := f.finish rm m lo hi x; (b, fl ||| sigFlag [x])
    | none => toIntFmt t.fmt rm m lo hi x

/-- The comparison of `vmpush` on one element (R149). -/
def elemCmp (t : ElemType) (c : Cond) (a b : Nat) : Bool × Flags :=
  let x := decodeFmt t.fmt a
  let y := decodeFmt t.fmt b
  let un := x.isNan || y.isNan
  let o := cmpNum x y
  let sig := sigFlag [x, y]
  match c with
  | .eq => (!un && o == 0, sig)
  | .ne => (un || o != 0, sig)
  | .lt => (!un && decide (o < 0), flagIf un fNV)
  | .le => (!un && decide (o ≤ 0), flagIf un fNV)
  | .gt => (!un && decide (0 < o), flagIf un fNV)
  | .ge => (!un && decide (0 ≤ o), flagIf un fNV)
  | .un => (un, sig)
  | .ord => (!un, sig)

/-- The class code of `vclass` (R145). -/
def elemClass (f : FpFmt) (b : Nat) : Nat :=
  match f.decode b with
  | .inf n => if n then 1 else 128
  | .nan _ fr => if fr / 2 ^ 22 % 2 = 0 then 256 else 512
  | .fin n m _ _ =>
    if m = 0 then (if n then 8 else 16)
    else if fld b f.fb f.eb = 0 then (if n then 4 else 32) else (if n then 2 else 64)

/-! ## Row sums (R42 to R47) -/

/-- The products of one column, accumulated: NaN seen, +∞ seen, −∞ seen, and the finite nonzero products as signed
magnitudes with their exponents. -/
structure ColSum where
  nan  : Bool
  pinf : Bool
  ninf : Bool
  prods : List (Int × Int)
  deriving DecidableEq, Repr

/-- One formed product with its block scales (R40, R45). `none` is a structural zero (R42). -/
def ColSum.add (c : ColSum) (a b : Option Exact) (sc : Int) : ColSum :=
  match a, b with
  | none, _ => c
  | _, none => c
  | some x, some y =>
    if x.isNan || y.isNan then { c with nan := true }
    else
      match mulNum x y with
      | (.nan _ _, _) => { c with nan := true }
      | (.inf n, _) => if n then { c with ninf := true } else { c with pinf := true }
      | (.fin n m e _, _) =>
        if m = 0 then c else { c with prods := ((if n then -(m : Int) else m), e + sc) :: c.prods }

/-- The sum of the products as i·2^e; each product is first truncated toward zero to a multiple of 2^q (R44), with
whether anything was lost. -/
def sumProducts (ps : List (Int × Int)) (q : Option Int) : Int × Int × Bool :=
  let low := ps.foldl (fun l p => if p.2 < l then p.2 else l) (match q with
    | none => 0
    | some q => q)
  match q with
  | none => (ps.foldl (fun s p => s + p.1 * 2 ^ (p.2 - low).toNat) 0, low, false)
  | some q =>
    let r := ps.foldl (fun (s : Int × Bool) p =>
      let m := p.1.natAbs
      let k : Nat := if q ≤ p.2 then m * 2 ^ (p.2 - q).toNat else m / 2 ^ (q - p.2).toNat
      let lost := decide (p.2 < q) && m % 2 ^ (q - p.2).toNat != 0
      (s.1 + (if p.1 < 0 then -(k : Int) else k), s.2 || lost)) (0, false)
    (r.1, q, r.2)

/-- Exponent of the largest product (R44). -/
def ColSum.emax (c : ColSum) : Option Int :=
  c.prods.foldl (fun m p =>
    let e : Int := p.2 + p.1.natAbs.log2
    match m with
    | none => some e
    | some x => some (if x < e then e else x)) none

/-- The exact sum of a column, with the flags raised before rounding (R43 to R45). -/
def ColSum.value (c : ColSum) (isBf16 : Bool) : Exact × Flags :=
  if c.nan || (c.pinf && c.ninf) then (Exact.genNan, fNV)
  else if c.pinf then (.inf false, 0)
  else if c.ninf then (.inf true, 0)
  else
    let (i, e, lost) := sumProducts c.prods
      (match isBf16, c.emax with
        | true, some m => some (m - 56)
        | _, _ => none)
    (.fin (decide (i < 0)) i.natAbs e false, flagIf lost fNX)

/-- What a column adds to its element: FP32 in rounded accumulation (R46), fixed point in exact accumulation (R47). -/
def ColSum.rowVal (c : ColSum) (isBf16 ex : Bool) : RowVal × Flags :=
  let (x, fl) := c.value isBf16
  if ex then
    match x with
    | .nan _ _ => (.nan, fl)
    | .inf n => (.inf n, fl)
    | .fin n m e _ =>
      let u : Nat := if 0 ≤ e + 64 then m * 2 ^ (e + 64).toNat else m / 2 ^ (-(e + 64)).toNat
      (.fin (if n then -(u : Int) else u), fl)
  else
    let (b, fl2) := fp32.fit .rne x
    (.rounded (BitVec.ofNat 32 b), fl ||| fl2)

/-- Markers of the exact view (R47). -/
def exNan : Nat := 2 ^ 127
/-- Marker of an infinity. -/
def exInf (neg : Bool) : Nat := if neg then 2 ^ 127 + 1 else 2 ^ 127 + 2
/-- The finite range of exact elements. -/
def exRange : Int × Int := (-(2 ^ 127 : Int) + 3, 2 ^ 127 - 1)

/-- A 128-bit element read as a row value. -/
def exDecode (b : Nat) : RowVal :=
  let b := b % 2 ^ 128
  if b = exNan then .nan else if b = exInf true then .inf true else if b = exInf false then .inf false
  else .fin (signedOf 128 b)

/-- A finite exact value stored, saturated with xo outside the range. -/
def exStore (i : Int) : Nat × Flags :=
  (wrapInt 128 (saturate exRange i), flagIf (decide (i < exRange.1) || decide (exRange.2 < i)) fXO)

/-- The exact update of one element (R47). -/
def exUpdate (steer : Bool) (old : Nat) (v : RowVal) : Nat × Flags :=
  let put1 (v : RowVal) : Nat × Flags :=
    match v with
    | .nan => (exNan, 0)
    | .inf n => (exInf n, 0)
    | .fin i => exStore i
    | .rounded b => (b.toNat, 0)
  if steer then put1 v
  else
    match exDecode old, v with
    | .nan, _ => (exNan, 0)
    | _, .nan => (exNan, 0)
    | .inf a, .inf b => if a = b then (exInf a, 0) else (exNan, fNV)
    | .inf a, _ => (exInf a, 0)
    | _, .inf b => (exInf b, 0)
    | .fin i, .fin j => exStore (i + j)
    | .fin i, .rounded _ => exStore i
    | .rounded b, _ => (b.toNat, 0)

/-- The rounded update of one element (R46). -/
def rndUpdate (steer : Bool) (old : Nat) (v : RowVal) : Nat × Flags :=
  match v with
  | .rounded b =>
    if steer then (b.toNat, 0)
    else
      let (x, fl) := addExact .rne (fp32.decode old) (fp32.decode b.toNat)
      let (r, fl2) := fp32.fit .rne x
      (r, fl ||| fl2)
  | .nan | .inf _ | .fin _ => (old, 0)

/-- An accumulator element converted for `mdrain` and `vldacc` (R48, R138). `same` moves an FP32 element bit for bit. -/
def accOut (exact : Bool) (t : Fmt) (b : Nat) : Nat × Flags :=
  if exact then
    match exDecode b, t.fp? with
    | .nan, some f => f.fit .rne Exact.genNan
    | .inf n, some f => f.fit .rne (.inf n)
    | .fin i, some f => f.fit .rne (.fin (decide (i < 0)) i.natAbs (-64) false)
    | .rounded _, _ => (b, 0)
    | _, none => (b, 0)
  else convert .fp32 t .rne b

/-- An element converted into the accumulator by `mfill` and `vstacc` (R138). -/
def accIn (exact : Bool) (t : Fmt) (b : Nat) : Nat × Flags :=
  if exact then
    let x := decodeFmt t b
    match x with
    | .nan _ _ => (exNan, sigFlag [x])
    | .inf n => (exInf n, 0)
    | .fin n m e s =>
      let (i, inexact) := roundInt .rne n m (e + 64) s
      let (r, fl) := exStore i
      (r, fl ||| flagIf inexact fNX)
  else convert t .fp32 .rne b

/-- Matrix flags in the order of `mflags` (R49, R177) as flags of `fflags`. -/
def matToFlags (f : BitVec 5) : Flags :=
  flagIf (bit f.toNat 0) fNV ||| flagIf (bit f.toNat 1) fOF ||| flagIf (bit f.toNat 2) fUF
    ||| flagIf (bit f.toNat 3) fNX ||| flagIf (bit f.toNat 4) fXO

/-- Flags as matrix flags (R49). -/
def flagsToMat (f : Flags) : BitVec 5 :=
  BitVec.ofNat 5 (fld f.toNat 0 1 + put (fld f.toNat 2 1) 1 + put (fld f.toNat 3 1) 2 + put (fld f.toNat 4 1) 3
    + put (fld f.toNat 5 1) 4)

/-! ## Comparisons of sequencer values -/

/-- The larger or smaller of two values, signed or unsigned (R87). -/
def pick (signed isMax : Bool) (x y : Word64) : Word64 :=
  let lt : Bool := if signed then decide (sv x < sv y) else decide (uv x < uv y)
  if isMax then (if lt then y else x) else (if lt then x else y)

end Sys2Proof.Machine
end

