-- ==== Sys2Proof/Machine/Memsys.lean ====
section
/-! DEFINITION. The memory system: regions and homes (spec/12_memory_consistency.md R267 to R269), page tables and TLBs
(spec/19_faults_translation.md R349 to R353), lines with their stamps (R271 to R274), data-cache copies (R273), code
caches (R266) and the padded times (R281). -/

namespace Sys2Proof.Machine

/-! ## Physical addresses (R267, R268) -/

/-- Region of a physical address. -/
def region (pa : Nat) : Nat := fld pa 40 4

/-- The home die of a line of the DRAM or resident region. -/
def homeDie (pa : Nat) : Nat := if region pa = 2 then fld pa 26 5 else fld pa 35 5

/-- The home slice, die·16 + slice. -/
def homeSlice (pa : Nat) : Nat := homeDie pa * 16 + fld pa 6 4

/-- The address exists: DRAM, host, or the populated part of the resident region (R267, R269). -/
def State.physOk (s : State) (pa : Nat) : Bool :=
  match region pa with
  | 0 => true
  | 1 => true
  | 2 => fld pa 31 9 == 0 && decide (fld pa 0 26 < (s.die (fld pa 26 5)).rw * 4194304)
  | _ => false

/-- Bytes of physical memory; the host region adds the host base (R330). -/
def State.physLoad (s : State) (pa n : Nat) : List Byte :=
  if region pa = 1 then Memory.load s.endpoint.mem (s.endpoint.hostBase + fld pa 0 40) n else Memory.load s.mem pa n

/-- Physical memory with bytes stored. -/
def State.physStore (s : State) (pa : Nat) (bs : List Byte) : State :=
  if region pa = 1 then
    { s with endpoint := { s.endpoint with mem := Memory.store s.endpoint.mem (s.endpoint.hostBase + fld pa 0 40) bs } }
  else { s with mem := Memory.store s.mem pa bs }

/-- A 64-bit value of physical memory. -/
def State.phys64 (s : State) (pa : Nat) : Nat := leNat (s.physLoad pa 8)

/-- The die through which traffic for the I/O die leaves the mesh (spec/16_fabric.md R322). -/
def exitDie (die : Nat) : Nat := if die / 4 ≤ 3 then 0 else 28

/-- The padding row of an access to a line's home (R281). An access to the host region has no stated time: it takes the
DRAM figure to the exit die and one hop more, and what the caller adds (DESIGN CHOICE, log 20). -/
def homePad (die pa : Nat) : Nat :=
  match region pa with
  | 1 => 360 + 24 * (hops die (exitDie die) + 1)
  | 2 => 48 + 24 * hops die (homeDie pa)
  | _ => 360 + 24 * hops die (homeDie pa)

/-! ## Translation (R349 to R352) -/

/-- A failed translation: its cause and why code (R351). -/
structure TransFail where
  cause : Nat
  why   : Nat
  deriving DecidableEq, Repr

/-- A walk's failure with cause 0x08. -/
def notPresent (why : Nat) : Except TransFail TlbEntry := .error { cause := 0x08, why := why }

/-- The entry that a leaf or block descriptor gives. -/
def descEntry (p : Nat) (asid : BitVec 16) (d base size pa : Nat) (leaf : Bool) : TlbEntry :=
  { part := p, asid := asid, base := base, size := size, pa := pa, r := bit d 2, w := bit d 3, x := bit d 4,
    pe := leaf && bit d 6, pch := BitVec.ofNat 6 (if leaf then fld d 7 6 else 0) }

/-- A leaf descriptor's fields are legal (R350). -/
def leafLegal (d : Nat) : Bool :=
  fld d 1 1 == 0 && fld d 13 3 == 0 && fld d 44 20 == 0 && (bit d 6 || fld d 7 6 == 0)

/-- The run of 32 leaf descriptors from `a` on is one 2 MiB page (R352). -/
def State.runOk (s : State) (a : Nat) : Bool :=
  let d0 := s.phys64 a
  let fieldsOf (d : Nat) : Nat := fld d 0 16
  fld d0 16 5 == 0 &&
    (List.range 32).all (fun i =>
      let d := s.phys64 (a + 8 * i)
      bit d 0 && bit d 5 && fieldsOf d == fieldsOf d0 && fld d 44 20 == fld d0 44 20 &&
        fld d 16 28 == fld d0 16 28 + i)

/-- A table walk (R351). -/
def State.walk (s : State) (p : Nat) (va : Nat) : Except TransFail TlbEntry :=
  let part := s.part p
  if 2 ^ 48 ≤ va then notPresent 1
  else
    let root := bitsOf part.root 9 35 * 512
    if !s.physOk root then notPresent 6
    else
      let d1 := s.phys64 (root + 8 * fld va 42 6)
      if !bit d1 0 then notPresent 2
      else if !bit d1 1 || fld d1 2 14 != 0 || fld d1 44 20 != 0 then notPresent 5
      else
        let t2 := fld d1 16 28 * 65536
        if !s.physOk t2 then notPresent 6
        else
          let d2 := s.phys64 (t2 + 8 * fld va 29 13)
          if !bit d2 0 then notPresent 3
          else if !bit d2 1 then
            if fld d2 5 11 != 0 || fld d2 44 20 != 0 || fld d2 16 13 != 0 then notPresent 5
            else
              let pa := fld d2 29 15 * 2 ^ 29
              if !s.physOk (pa + fld va 0 29) then notPresent 6
              else .ok (descEntry p part.asid d2 (va / 2 ^ 29 * 2 ^ 29) 29 pa false)
          else if fld d2 2 14 != 0 || fld d2 44 20 != 0 then notPresent 5
          else
            let t3 := fld d2 16 28 * 65536
            if !s.physOk t3 then notPresent 6
            else
              let leaf := fld va 16 13
              let d3 := s.phys64 (t3 + 8 * leaf)
              if !bit d3 0 then notPresent 4
              else if !leafLegal d3 then notPresent 5
              else
                let pa := fld d3 16 28 * 65536
                if !s.physOk (pa + fld va 0 16) then notPresent 6
                else if bit d3 5 && s.runOk (t3 + 8 * (leaf / 32 * 32)) then
                  let d0 := s.phys64 (t3 + 8 * (leaf / 32 * 32))
                  .ok (descEntry p part.asid d3 (va / 2 ^ 21 * 2 ^ 21) 21 (fld d0 16 28 * 65536) true)
                else .ok (descEntry p part.asid d3 (va / 2 ^ 16 * 2 ^ 16) 16 pa true)

/-- Permission of an access under a translation (R351, why 8 to 12). `publish` marks a transfer-step publish, the one
access that may write a port window (R329). -/
def State.permit (s : State) (p : Nat) (e : TlbEntry) (va : Nat) (k : AccKind) (publish : Bool) : Option TransFail :=
  let perm (why : Nat) : Option TransFail := some { cause := 0x09, why := why }
  let readBad := !e.r
  let bad : Option TransFail :=
    match k with
    | .read => if readBad then perm 8 else none
    | .write => if !e.w then perm 9 else none
    | .readWrite => if readBad then perm 8 else if !e.w then perm 9 else none
    | .fetch => if !e.x then perm 10 else none
  match bad with
  | some f => some f
  | none =>
    if e.pe then
      let c := s.channel e.pch.toNat
      let lbase := bitsOf c.w3 0 48
      let inWin := bit c.w0.toNat 0 && bitsOf c.w0 1 6 == p && decide (lbase ≤ va) && decide (va < lbase + bitsOf c.w2 0 41)
      if publish && inWin then none else perm 11
    else if region (e.pa + (va - e.base)) = 1 ∧ (s.part p).fl then perm 12
    else none

/-- The entry that covers an address of an address space: entries are tagged with the asid (R353). -/
def tlbFind (es : List TlbEntry) (asid : BitVec 16) (va : Nat) : Option TlbEntry :=
  match es with
  | [] => none
  | e :: rest =>
    if e.asid = asid ∧ e.base ≤ va ∧ va < e.base + 2 ^ e.size then some e else tlbFind rest asid va

/-- The physical address an entry gives. -/
def TlbEntry.phys (e : TlbEntry) (va : Nat) : Nat := e.pa + (va - e.base)

/-- The first address of each 64 KiB page that a list of addresses meets, in order. -/
def firstOfPages (vas : List Nat) : List Nat :=
  vas.foldl (fun acc va => if acc.any (fun x => x / 65536 == va / 65536) then acc else acc ++ [va]) []

/-- Where a translation was found: 0 the L1 TLB, 1 the die TLB, 2 by a walk. -/
structure Trans where
  pa    : Nat
  entry : TlbEntry
  level : Nat
  deriving DecidableEq, Repr

/-- An entry that a TLB holds, used for an address: a block may reach beyond the populated resident region (R267, R269,
R351). -/
def State.hit (s : State) (e : TlbEntry) (va : Nat) : Except TransFail TlbEntry :=
  if s.physOk (e.phys va) then .ok e else notPresent 6

/-- The entry that a unit of core `k` without a TLB of its own uses: the die TLB's, or a walk's (R217). -/
def State.dieLookup (s : State) (k va : Nat) : Nat × Except TransFail TlbEntry :=
  let p := (s.core k).part
  if 2 ^ 48 ≤ va then (0, notPresent 1)
  else
    match tlbFind (s.die (dieOf k)).tlb (s.part p).asid va with
    | some e => (1, s.hit e va)
    | none => (2, s.walk p va)

/-- The entry an access of core `k` uses, before permissions. A failing walk has level 2; an address beyond 48 bits
fails by itself. -/
def State.lookup (s : State) (k va : Nat) : Nat × Except TransFail TlbEntry :=
  match tlbFind (s.core k).l1tlb (s.part (s.core k).part).asid va with
  | some e => (0, s.hit e va)
  | none => s.dieLookup k va

/-- A translation for an access of core `k` (R91, R351): the level at which it was found and the result. -/
def State.translate (s : State) (k va : Nat) (a : AccKind) (publish : Bool) : Nat × Except TransFail Trans :=
  let (lvl, r) := s.lookup k va
  match r with
  | .error f => (lvl, .error f)
  | .ok e =>
    match s.permit (s.core k).part e va a publish with
    | some f => (lvl, .error f)
    | none => (lvl, .ok { pa := e.phys va, entry := e, level := lvl })

/-- The time a translation adds in fixed-latency mode (R281). -/
def levelPad (lvl : Nat) : Nat :=
  match lvl with
  | 0 => 0 | 1 => 12 | _ => 1080

/-! ## TLB replacement (R353) -/

/-- Two entries lie in one set of a TLB of `sets` sets: page numbers at their own page size (DESIGN CHOICE, log 23). -/
def sameSet (sets : Nat) (a b : TlbEntry) : Bool := a.base / 2 ^ a.size % sets == b.base / 2 ^ b.size % sets

/-- The list without entries beyond the first `ways` that satisfy `f`; the rest is kept. -/
def keepWays (f : TlbEntry → Bool) : Nat → List TlbEntry → List TlbEntry
  | _, [] => []
  | n, e :: rest =>
    if f e then
      match n with
      | 0 => keepWays f 0 rest
      | m + 1 => e :: keepWays f m rest
    else e :: keepWays f n rest

/-- An entry filled into a TLB, the least recently used one of its set leaving when the set is full. `own` limits the
entries that count against `ways` (way partitions, R353). -/
def tlbFill (sets ways : Nat) (own : TlbEntry → Bool) (es : List TlbEntry) (e : TlbEntry) : List TlbEntry :=
  keepWays (fun x => own x && sameSet sets e x) ways (e :: es.filter (fun x => x != e))

/-- Ways of the die TLB that a partition may fill (R353): its own in fixed-latency mode; in elastic mode those that no
fixed-latency partition of the die holds. -/
def State.dieWays (s : State) (p d : Nat) : Nat :=
  let ways (x : Part) : Nat := if x.tlbw = 0 then 16 else x.tlbw
  if (s.part p).fl then ways (s.part p)
  else 16 - ((s.parts.filter (fun e => e.2.valid && e.2.fl && e.2.hasDie d)).foldl (fun n e => n + ways e.2) 0)

/-- Entries of the Picker's cache that a partition may use (spec/16_fabric.md R320): 32 for each of its die-TLB ways in
fixed-latency mode, else what no fixed-latency partition of the die may use. -/
def State.pickWays (s : State) (p d : Nat) : Nat := 32 * s.dieWays p d

/-- An entry that was found fills the L1 TLB of the core and the die TLB, for a Picker row the Picker's cache as well (R351,
R353). The front end's walks fill the die TLB alone. -/
def State.fillEntry (s : State) (k : Nat) (e : TlbEntry) (w : WalkFor) : State :=
  let c := s.core k
  let d := dieOf k
  let die := s.die d
  let fl := (s.part c.part).fl
  let own (x : TlbEntry) : Bool := if fl then x.part == c.part else !(s.part x.part).fl
  let pick := if w = .picker then tlbFill 1 (s.pickWays c.part d) own die.pickTlb e else die.pickTlb
  let s1 := s.setDie d { die with tlb := tlbFill 256 (s.dieWays c.part d) own die.tlb e, pickTlb := pick }
  if w = .frontEnd then s1 else s1.setCore k { c with l1tlb := tlbFill 64 4 (fun _ => true) c.l1tlb e }

/-- The entry used last moves to the front of a TLB (least recently used replacement). -/
def touchTlb (es : List TlbEntry) (e : TlbEntry) : List TlbEntry := if es.contains e then e :: es.erase e else es

/-- An entry of a die's TLB that serves is the one used last (R353). -/
def State.touchDie (s : State) (d : Nat) (e : TlbEntry) : State :=
  s.setDie d { s.die d with tlb := touchTlb (s.die d).tlb e }

/-- A translation found for a unit of core `k` is in the TLBs `ticks` from now (R351, R353). -/
def State.startWalk (s : State) (k va : Nat) (w : WalkFor) (ticks : Nat) (r : Except TransFail TlbEntry) : State :=
  let d := s.die (dieOf k)
  let (found, why) : Option TlbEntry × Nat :=
    match r with
    | .ok e => (some e, 0)
    | .error f => (none, f.why)
  let x : Walk :=
    { core := k, for_ := w, part := (s.core k).part, block := va / 65536, till := s.tickOf k + ticks, found := found, why := why }
  (s.setDie (dieOf k) { d with walks := d.walks ++ [x] }).atTick (engAt k .vector) x.till (.tableWalkComplete k va w)

/-- A translation on its way has come: the TLBs take what was found, and nothing when that is no translation (R285, R351). One
that no record names is looked up now. -/
def State.fillTlbs (s : State) (k va : Nat) (w : WalkFor) : State :=
  let d := s.die (dieOf k)
  match d.walks.find? (fun x => x.core == k && x.for_ == w && x.block == va / 65536 && decide (x.till ≤ s.tickOf k)) with
  | some x =>
    let s1 := s.setDie (dieOf k) { d with walks := d.walks.erase x }
    match x.found with
    | some e => s1.fillEntry k e w
    | none => s1
  | none =>
    match (s.lookup k va).2 with
    | .ok e => s.fillEntry k e w
    | .error _ => s

/-! ## Lines and their stamps (R271, R272) -/

/-- Number of the 64-byte line of a physical address. -/
def lineOf (pa : Nat) : Nat := pa / 64

/-- The floor of a line's stamps: that of its home slice; a line of the host region has no home slice (R268, R269). -/
def State.lineFloor (s : State) (l : Nat) : Nat :=
  if region (l * 64) = 1 then 0 else (s.slice (homeSlice (l * 64))).mts

/-- A line's home state. A line not listed, or one that has left its slice's cache ways, starts at its slice's floor
(R269). -/
def State.line (s : State) (l : Nat) : Line :=
  match Tbl.get? s.lines l with
  | none => Line.fresh (s.lineFloor l)
  | some x => if x.out then { x with wts := s.lineFloor l, rts := s.lineFloor l, out := false } else x

/-- The state with a line's home state replaced. -/
def State.setLine (s : State) (l : Nat) (x : Line) : State := { s with lines := Tbl.set s.lines l x }

/-- The stamp of a read with a lease, and the line after it (R272). -/
def Line.read (x : Line) (ts lease : Nat) : Line × Nat :=
  let st := Nat.max ts (x.wts + 1)
  ({ x with rts := Nat.max x.rts (st + lease) }, st)

/-- The stamp of a write, and the line after it (R272). -/
def Line.write (x : Line) (ts : Nat) : Line × Nat :=
  let st := Nat.max ts (x.rts + 1)
  ({ x with wts := st, rts := st }, st)

/-- The set of a slice that a line falls in: PA<21:10> (DESIGN CHOICE, log 24). -/
def setOf (l : Nat) : Nat := fld l 4 12

/-- The slice of die `d` that a line falls in: PA<9:6> (R268). -/
def sliceOn (d l : Nat) : Nat := d * 16 + l % 16

/-- A line leaves the cache ways of slice `k` and takes its stamps with it: the floor rises to them (R269). A home line is
fetched again at the floor; a copy is no longer held. -/
def State.evict (s : State) (k v : Nat) : State :=
  let sl := s.slice k
  if homeSlice (v * 64) = k then
    let x := s.line v
    (s.setSlice k { sl with mts := Nat.max sl.mts (Nat.max x.wts x.rts) }).setLine v { x with out := true }
  else
    match Tbl.get? sl.copies v with
    | none => s
    | some c =>
      s.setSlice k { sl with
        mts := if c.held then Nat.max sl.mts (Nat.max c.wts c.rts) else sl.mts
        copies := Tbl.set sl.copies v { c with held := false } }

/-- A line takes a cache way of slice `k`: it becomes the most recently used of its set, and with the set full the least
recently used line that is neither pinned nor owned leaves (R269). -/
def State.takeWay (s : State) (k l : Nat) : State :=
  let sl := s.slice k
  let set := setOf l
  let lines := l :: (Tbl.getD sl.sets set []).erase l
  let dis := bit (Tbl.getD sl.spare set 0).toNat 5
  let cap := 12 - (s.die (k / 16)).rw - b2n dis
  if lines.length ≤ cap then s.setSlice k { sl with sets := Tbl.set sl.sets set lines }
  else
    match lines.reverse.find? (fun x => (s.line x).pins.isEmpty && (s.line x).owner.isNone && x != l) with
    | none => s.setSlice k { sl with sets := Tbl.set sl.sets set lines }
    | some v => (s.setSlice k { sl with sets := Tbl.set sl.sets set (lines.erase v) }).evict k v

/-- The way of a DRAM line in its home slice (R269). -/
def State.touchSlice (s : State) (pa : Nat) : State :=
  if region pa != 0 then s else s.takeWay (homeSlice pa) (lineOf pa)

/-- The home slice holds the line, or needs no DRAM read (R332). -/
def State.sliceHolds (s : State) (pa : Nat) : Bool :=
  region pa == 2 || (Tbl.getD (s.slice (homeSlice pa)).sets (setOf (lineOf pa)) []).contains (lineOf pa)

/-! ## The time of a walk (R281, R332) -/

/-- The descriptors that a walk reads, in order: one for each level it reaches, and the four lines of the run of 32 leaves that
one with c = 1 lies in (R351, R352). -/
def State.walkReads (s : State) (p va : Nat) : List Nat :=
  let root := bitsOf (s.part p).root 9 35 * 512
  let a1 := root + 8 * fld va 42 6
  let d1 := s.phys64 a1
  let t2 := fld d1 16 28 * 65536
  let a2 := t2 + 8 * fld va 29 13
  let d2 := s.phys64 a2
  let t3 := fld d2 16 28 * 65536
  let a3 := t3 + 8 * fld va 16 13
  let d3 := s.phys64 a3
  let table (d : Nat) : Bool := bit d 0 && bit d 1 && fld d 2 14 == 0 && fld d 44 20 == 0 && s.physOk (fld d 16 28 * 65536)
  if 2 ^ 48 ≤ va ∨ !s.physOk root then []
  else if !table d1 then [a1]
  else if !table d2 then [a1, a2]
  else if bit d3 0 && leafLegal d3 && bit d3 5 then
    [a1, a2, a3] ++ (List.range 4).map (fun i => t3 + 8 * (fld va 16 13 / 32 * 32) + 64 * i)
  else [a1, a2, a3]

/-- The ticks of an undelayed elastic read from die `d` (R332). -/
def State.readTicks (s : State) (d pa : Nat) : Nat :=
  if region pa = 1 then homePad d pa else (if s.sliceHolds pa then 21 else 137) + 6 * hops d (homeDie pa)

/-- The ticks of a walk for a partition from die `d`: 1080 in fixed-latency mode, those of its descriptor reads in elastic mode
(R281, R332; DEDUCED, log 127). -/
def State.walkTicks (s : State) (p d va : Nat) : Nat :=
  if (s.part p).fl then 1080 else (s.walkReads p va).foldl (fun n a => n + s.readTicks d a) 0

/-- The ticks that a translation found at a level adds to an access of core `k` (R281, R332). -/
def State.transPad (s : State) (k va lvl : Nat) : Nat :=
  if lvl = 2 then s.walkTicks (s.core k).part (dieOf k) va else levelPad lvl

/-! ## Address tables (R96) -/

/-- Bytes [a, a+n) and [b, b+m) meet. -/
def overlap (a n b m : Nat) : Bool := decide (a < b + m) && decide (b < a + n)

/-- Every address table drops v where a write covers a byte of a recorded load (R96). -/
def State.clearTables (s : State) (pa n : Nat) : State :=
  { s with cores := s.cores.map (fun e =>
      (e.1, { e.2 with tasks := e.2.tasks.map (fun t =>
        { t with tab := t.tab.map (fun x => if x.v && overlap pa n x.pa 8 then { x with v := false } else x) }) })) }

/-! ## Data-cache copies (R266, R273) -/

/-- A number put into a rising list, once. -/
def insertNat (n : Nat) : List Nat → List Nat
  | [] => [n]
  | m :: rest => if n < m then n :: m :: rest else if n = m then m :: rest else m :: insertNat n rest

/-- The copy of a line in a data cache. -/
def dcFind (ls : List DLine) (l : Nat) : Option DLine := ls.find? (fun x => x.line == l)

/-- A line's bytes as one value. -/
def State.lineData (s : State) (l : Nat) : BitVec 512 := BitVec.ofNat 512 (leNat (s.physLoad (l * 64) 64))

/-- Bytes of a copy. -/
def copyBytes (d : BitVec 512) (off n : Nat) : List Byte := leBytes n (d.toNat / 2 ^ (8 * off))

/-- A line brought into a data cache: its own way if it has one, else a free way of its set, else the least recently
used unpinned way. With every way pinned it is not brought in, and the answer says so (R93, R127). -/
def dcFill (ls : List DLine) (x : DLine) : List DLine × Bool :=
  let set := ls.filter (fun y => y.line % 64 == x.line % 64)
  match set.find? (fun y => y.line == x.line) with
  | some y => ({ x with pin := y.pin } :: ls.filter (fun z => z.line != x.line), true)
  | none =>
    if set.length < 8 then (x :: ls, true)
    else
      match set.reverse.find? (fun y => !y.pin) with
      | some v => (x :: ls.erase v, true)
      | none => (ls, false)

/-- The copy of a line in the slice of die `d`, if a way still holds it. -/
def State.sliceCopy? (s : State) (d l : Nat) : Option SliceCopy :=
  match Tbl.get? (s.slice (sliceOn d l)).copies l with
  | none => none
  | some c => if c.held then some c else none

/-- A data cache takes a line with the stamps that were granted, or, with every way of the set pinned, the bypass is
counted in `pinbypass` (R127). -/
def State.fillCache (s : State) (k l : Nat) (data : BitVec 512) (wts rts : Nat) : State :=
  let c := s.core k
  let (ls, ok) := dcFill c.dcache { line := l, data := data, wts := wts, rts := rts, pin := false }
  if ok then s.setCore k { c with dcache := ls }
  else s.setCore k { c with pinbypass := if c.pinbypass = 0xFFFFFFFF then c.pinbypass else c.pinbypass + 1 }

/-- A number noted in a list, once. -/
def noted (ks : List Nat) (k : Nat) : List Nat := if ks.contains k then ks else ks ++ [k]

/-- The slice's copy of a line records the data cache of core `k` (R273). -/
def State.hangCopy (s : State) (k l : Nat) : State :=
  let n := sliceOn (dieOf k) l
  let sl := s.slice n
  match Tbl.get? sl.copies l with
  | none => s
  | some c => s.setSlice n { sl with copies := Tbl.set sl.copies l { c with caches := noted c.caches k } }

/-- A line read at its home by core `k` leaves a copy on the core's die: in the slice, recorded at the home, when that is
another die, with the core recorded where the copy hangs (R273). -/
def State.fillSlice (s : State) (k l : Nat) : State :=
  let d := dieOf k
  let x := s.line l
  if homeDie (l * 64) = d then s.setLine l { x with caches := noted x.caches k }
  else
    let sl := s.slice (sliceOn d l)
    let ks := match Tbl.get? sl.copies l with
      | none => []
      | some c => c.caches
    let c : SliceCopy := { data := s.lineData l, wts := x.wts, rts := x.rts, held := true, caches := noted ks k }
    ((s.setSlice (sliceOn d l) { sl with copies := Tbl.set sl.copies l c }).setLine l
      { x with holders := noted x.holders d }).takeWay (sliceOn d l) l

/-- The core after a plain read of a line at its home: copies with the granted stamps (R273). -/
def State.fillData (s : State) (k l : Nat) : State :=
  let x := s.line l
  (s.fillSlice k l).fillCache k l (s.lineData l) x.wts x.rts

/-- The flit of a push, on the response channel, put at the home's router: it becomes head there as a request does
(R277, R332; log 100). -/
def State.pushFlit (s : State) (home d p : Nat) (e : Ev) : State :=
  let x := s.die home
  s.setDie home { x with flits := x.flits ++
    [{ die := home, inp := .loc, vc := 2, head := s.meshCyc + 8, age := 0, promoted := false, goal := d,
       kind := .carries s.cur e, part := p, num := none }] }

/-- The data and stamps of a line sent to a die whose data caches of cores `ks` are recorded: in fixed-latency mode
48 + 24·h ticks later, in elastic mode on the mesh (R273, R277). -/
def State.pushDie (s : State) (l d : Nat) (ks : List Nat) : State :=
  let x := s.line l
  let home := homeDie (l * 64)
  let fixed := ((ks.map (fun k => (s.core k).part)).filter (fun p => (s.part p).fl)).foldl (fun ps p => insertNat p ps) []
  let s1 := fixed.foldl (fun s p =>
    s.atPartTick p ((s.part p).tick + 48 + 24 * hops home d) (.leasePush d l (some p) (s.lineData l) x.wts x.rts)) s
  match ks.find? (fun k => !(s.part (s.core k).part).fl) with
  | none => s1
  | some k => s1.pushFlit home d (s.core k).part (.leasePush d l none (s.lineData l) x.wts x.rts)

/-- After a write at its home a line is pushed to every recorded holder (R273). -/
def State.pushLine (s : State) (l : Nat) : State :=
  let x := s.line l
  let home := homeDie (l * 64)
  let s1 := if x.caches.isEmpty then s else s.pushDie l home x.caches
  x.holders.foldl (fun s d =>
    match Tbl.get? (s.slice (sliceOn d l)).copies l with
    | none => s
    | some c => s.pushDie l d c.caches) s1

/-- The dwords of a line that bytes [pa, pa + n) of it touch. -/
def dwordsOf (pa n : Nat) : List Nat := (List.range 8).filter (fun i => overlap (pa % 64) n (8 * i) 8)

/-- The line after a write of the named dwords at a stamp: their latest write (R96). -/
def Line.wrote (x : Line) (ds : List Nat) (st : Nat) : Line := { x with dwords := ds.foldl (fun t i => Tbl.set t i st) x.dwords }

/-- No byte of the dword at `pa` has been written at the home since the version of the line that a copy of write stamp
`wts` holds (R96). -/
def Line.current (x : Line) (pa wts : Nat) : Bool := decide (Tbl.getD x.dwords (pa % 64 / 8) 0 ≤ wts)

/-- A write of bytes at a line's home: the stamp, the data, the tables it clears and the pushes. -/
def State.homeWrite (s : State) (pa : Nat) (bs : List Byte) (ts : Nat) : State × Nat :=
  let l := lineOf pa
  let (x, st) := (s.line l).write ts
  let s := ((s.setLine l (x.wrote (dwordsOf pa bs.length) st)).physStore pa bs).clearTables pa bs.length
  ((s.touchSlice pa).pushLine l, st)

/-- A read of bytes at a line's home. -/
def State.homeRead (s : State) (pa n ts lease : Nat) : State × List Byte × Nat :=
  let l := lineOf pa
  let (x, st) := (s.line l).read ts lease
  ((s.setLine l x).touchSlice pa, s.physLoad pa n, st)

/-! ## Writes of several lines at one stamp (R280; spec/05_sequencer_sync.md R123) -/

/-- The lines of addressed bytes, each once, in increasing address. -/
def linesOf (cells : List (Nat × Byte)) : List Nat := cells.foldl (fun ls c => insertNat (lineOf c.1) ls) []

/-- The single stamp of a commit of lines: past the step's own stamp and every line's lease (R280). -/
def State.commitStamp (s : State) (ls : List Nat) (ts : Nat) : Nat :=
  ls.foldl (fun n l => Nat.max n ((s.line l).rts + 1)) ts

/-- Lines written by R272 at a given stamp, with the tables they clear and the pushes; reservations of the lines end. -/
def State.commitCells (s : State) (cells : List (Nat × Byte)) (st : Nat) : State :=
  let s1 := cells.foldl (fun (s : State) c => (s.physStore c.1 [c.2]).clearTables c.1 1) s
  (linesOf cells).foldl (fun s l =>
    let ds := (cells.filter (fun c => lineOf c.1 == l)).foldl (fun ds c => insertNat (c.1 % 64 / 8) ds) []
    ((s.setLine l (({ s.line l with wts := st, rts := st, resv := none } : Line).wrote ds st)).touchSlice (l * 64)).pushLine l) s1

/-! ## Scope pins (spec/05_sequencer_sync.md R111, R112) -/

/-- A task of another core pins the line. -/
def Line.pinnedAgainst (x : Line) (core : Nat) : Bool := x.pins.any (fun r => r.core != core)

/-- Every pin of a task is released. -/
def State.unpinTask (s : State) (r : TaskRef) : State :=
  let t := s.taskOf r
  let s1 := t.pins.foldl (fun s l =>
    let x := s.line l
    s.setLine l { x with pins := x.pins.filter (fun y => y != r) }) s
  s1.setTaskOf r { (s1.taskOf r) with pins := [] }

/-- A line becomes pinned to a task; a ninth pin first releases the oldest (R111). -/
def State.pinLine (s : State) (r : TaskRef) (l : Nat) : State :=
  let t := s.taskOf r
  if t.pins.contains l then s
  else
    let (old, kept) := if t.pins.length < 8 then ([], t.pins) else (t.pins.take 1, t.pins.drop 1)
    let s1 := old.foldl (fun s o =>
      let x := s.line o
      s.setLine o { x with pins := x.pins.filter (fun y => y != r) }) s
    let x := s1.line l
    (s1.setLine l { x with pins := x.pins ++ [r] }).setTaskOf r { (s1.taskOf r) with pins := kept ++ [l] }

/-! ## What a line says to a request (R112, R274, R280) -/

/-- Whether lines may be accessed: one that another core pins refuses, one reserved for another step's publish makes the
request wait. -/
inductive LinesSay where
  | free | refused | reserved
  deriving DecidableEq, Repr

/-- What the lines say to core `k`, `mine` being a step of it. -/
def State.linesSay (s : State) (k : Nat) (mine : Option Nat) (ls : List Nat) : LinesSay :=
  if ls.any (fun l => (s.line l).pinnedAgainst k) then .refused
  else if ls.any (fun l =>
    match (s.line l).resv with
    | none => false
    | some (k', id) => !(k' == k && mine == some id)) then .reserved
  else .free

/-- The owner gives a line and its stamps back to the home, and the way it took: no copy is held there any more (R274). The data
caches that hang on the slice stay recorded (R273). -/
def State.returnLine (s : State) (l : Nat) : State :=
  let x := s.line l
  match x.owner with
  | none => s
  | some d =>
    let sl := s.slice (sliceOn d l)
    let copies := match Tbl.get? sl.copies l with
      | none => sl.copies
      | some c => Tbl.set sl.copies l { c with held := false }
    (s.setSlice (sliceOn d l) { sl with
      sets := Tbl.set sl.sets (setOf l) ((Tbl.getD sl.sets (setOf l) []).erase l), copies := copies }).setLine l
      { x with owner := none }

/-- A request of die `d` ends the ownership of another die (R274). -/
def State.disown (s : State) (d : Nat) (ls : List Nat) : State :=
  ls.foldl (fun s l => if (s.line l).owner.isSome && (s.line l).owner != some d then s.returnLine l else s) s

/-- The slice of die `d` becomes the owner of a line (R274). -/
def State.ownLine (s : State) (d l : Nat) : State := (s.setLine l { s.line l with owner := some d }).takeWay (sliceOn d l) l

/-! ## Code caches (R127, R266, R284) -/

/-- Sets of a code cache. -/
def codeSets (a : Agent) : Nat :=
  match a with
  | .seq => 64
  | .eng _ => 32

/-- The words of a code line. -/
def codeFind (ls : List CLine) (l : Nat) : Option CLine := ls.find? (fun x => x.line == l)

/-- A line brought into a code cache under the rules of `dcFill`. -/
def codeFill (sets : Nat) (ls : List CLine) (x : CLine) : List CLine × Bool :=
  let set := ls.filter (fun y => y.line % sets == x.line % sets)
  match set.find? (fun y => y.line == x.line) with
  | some y => ({ x with pin := y.pin } :: ls.filter (fun z => z.line != x.line), true)
  | none =>
    if set.length < 8 then (x :: ls, true)
    else
      match set.reverse.find? (fun y => !y.pin) with
      | some v => (x :: ls.erase v, true)
      | none => (ls, false)

/-- Section `a` of the image of core `k`'s partition. -/
def State.section? (s : State) (k : Nat) (a : Agent) : Option Section :=
  (s.part (s.core k).part).image.map (fun i => vget i.sections a.cache)

/-- Base virtual address of a unit's section; 0 without an image. -/
def State.sectionBase (s : State) (k : Nat) (a : Agent) : Nat :=
  match s.section? k a with
  | some x => x.base
  | none => 0

/-- Words in a unit's section. Without an image the section has its full reach (DESIGN CHOICE, log 1). -/
def State.sectionLen (s : State) (k : Nat) (a : Agent) : Nat :=
  match s.section? k a with
  | some x => x.len
  | none => 2 ^ 24

/-- One word of a unit's code at a virtual address, if its line is held. -/
def State.codeWord (s : State) (k : Nat) (a : Agent) (va : Nat) : Option Nat :=
  let word (x : CLine) : Nat := x.data.toNat / 2 ^ (8 * (va % 64)) % 2 ^ 32
  match codeFind (vget (s.core k).icaches a.cache) (va / 64), vget (s.core k).bypass a.cache with
  | some x, _ => some (word x)
  | none, some x => if x.line = va / 64 then some (word x) else none
  | none, none => none

/-- The filled line of a virtual address, from memory (R266). -/
def State.fillCode (s : State) (k : Nat) (a : Agent) (va : Nat) : State :=
  let c := s.core k
  match s.translate k va .fetch false with
  | (_, .error _) => s
  | (_, .ok t) =>
    let l := va / 64
    let x : CLine := { line := l, data := BitVec.ofNat 512 (leNat (s.physLoad (t.pa / 64 * 64) 64)), pin := false }
    let (ls, ok) := codeFill (codeSets a) (vget c.icaches a.cache) x
    if ok then s.setCore k { c with icaches := vset c.icaches a.cache ls }
    else s.setCore k { c with bypass := vset c.bypass a.cache (some x),
                              pinbypass := if c.pinbypass = 0xFFFFFFFF then c.pinbypass else c.pinbypass + 1 }

end Sys2Proof.Machine

namespace Sys2Proof

/-! ## The mesh's ports and routes (R311, R322) -/

/-- Number of a router output or input. -/
def Port.idx (p : Port) : Fin 5 :=
  match p with
  | .west => 0 | .east => 1 | .south => 2 | .north => 3 | .loc => 4

/-- The five ports in order. -/
def Port.all : List Port := [.west, .east, .south, .north, .loc]

/-- The die that an output leads to; south is row y − 1 (R311). -/
def Port.nextDie (p : Port) (d : Nat) : Nat :=
  match p with
  | .west => d - 1 | .east => d + 1 | .south => d - 4 | .north => d + 4 | .loc => d

/-- The input at which a flit sent through an output arrives. -/
def Port.facing (p : Port) : Port :=
  match p with
  | .west => .east | .east => .west | .south => .north | .north => .south | .loc => .loc

/-- The output of a flit at die `d` for die `goal`: requests x first and then y, replies y first and then x. For the I/O die, 32, it
leaves the mesh through the west link of die (0, 0) or (0, 7) (R322). -/
def route (vc : Fin 4) (d goal_ : Nat) : Port :=
  let goal := if goal_ = 32 then Machine.exitDie d else goal_
  let here : Port := if goal_ = 32 then .west else .loc
  let x : Option Port := if goal % 4 < d % 4 then some .west else if d % 4 < goal % 4 then some .east else none
  let y : Option Port := if goal / 4 < d / 4 then some .south else if d / 4 < goal / 4 then some .north else none
  if vc = 2 then (y <|> x).getD here else (x <|> y).getD here

end Sys2Proof

namespace Sys2Proof.Machine

open Sys2Proof

/-! ## Streams of requests (spec/16_fabric.md R325) -/

/-- A stream's key. -/
def streamKey (st : Stream) : Nat := (st.die * 128 + st.station) * 4 + st.vc

/-- A stream's state. -/
def State.stream (s : State) (st : Stream) : StreamState :=
  Tbl.getD s.streams (streamKey st) { h := none, done := [], sent := [], kept := [], acked := 0, msgs := [] }

/-- The state with a stream replaced. -/
def State.setStream (s : State) (st : Stream) (x : StreamState) : State :=
  { s with streams := Tbl.set s.streams (streamKey st) x }

/-- The stream of a core's sequencer requests. -/
def State.seqStream (s : State) (k : Nat) : Stream := { die := dieOf k, station := s.physOf k, vc := 0 }

/-- The core of a stream. -/
def State.coreOfStream (s : State) (st : Stream) : Nat :=
  match (List.range 64).find? (fun i => s.physOf (st.die * 64 + i) == st.station) with
  | some i => st.die * 64 + i
  | none => st.die * 64

/-- Whether the home has performed number `n` (R325). -/
def StreamState.performed (x : StreamState) (n : Nat) : Bool := x.h == some n || x.done.contains n

/-- Number `n` lies more than 255 below the highest performed, modulo 2^16. -/
def StreamState.tooOld (x : StreamState) (n : Nat) : Bool :=
  match x.h with
  | none => false
  | some h => let d := (h + 65536 - n % 65536) % 65536; decide (255 < d) && decide (d < 32768)

/-- The home records that it performed number `n`. -/
def StreamState.perform (x : StreamState) (n : Nat) : StreamState :=
  match x.h with
  | none => { x with h := some n }
  | some h =>
    if (n + 65536 - h) % 65536 < 32768 then
      { x with h := some n, done := (h :: x.done).filter (fun y => decide ((n + 65536 - y) % 65536 ≤ 255)) }
    else { x with done := n :: x.done }

/-- The next number of a stream. -/
def State.nextNum (s : State) (st : Stream) : Nat := (s.stream st).acked % 65536

/-- A source has at most 256 requests of one stream without a reply: number n + 256 waits for n, which its home would take for a
protocol error otherwise (R325; DEDUCED, log 101). -/
def StreamState.inWindow (x : StreamState) (n : Nat) : Bool :=
  (x.sent.map (fun z => z.1) ++ x.msgs.map (fun z => z.num)).all (fun m => decide ((n + 65536 - m) % 65536 < 256))

/-! ## Messages on the rings and the mesh (spec/16_fabric.md R311, R313, R315, R322; spec/18_program_mesh_chase.md R332) -/

/-- A flit put at a die's router, head from a mesh cycle on. One from the I/O die, 32, comes in through the west link of die (0, 0)
or (0, 7) (R322). -/
def State.injectAt (s : State) (from_ goal : Nat) (vc : Fin 4) (head p : Nat) (k : FlitKind) (num : Option (Stream × Nat)) : State :=
  let at_ := if from_ = 32 then exitDie goal else from_
  let d := s.die at_
  s.setDie at_ { d with flits := d.flits ++
    [{ die := at_, inp := if from_ = 32 then .west else .loc, vc := vc, head := head, age := 0, promoted := false, goal := goal,
       kind := k, part := p, num := num }] }

/-- A flit injected in a tick (R332): head 8 mesh cycles after the first cycle of its period, and `late` more. `meshCyc` is
the first cycle of the current period. -/
def State.inject (s : State) (from_ goal : Nat) (vc : Fin 4) (late p : Nat) (k : FlitKind) : State :=
  s.injectAt from_ goal vc (s.meshCyc + 8 + late) p k none

/-- The station of the bridge at a side of a die (R311). -/
def bridge (p : Port) : Nat :=
  match p with
  | .west | .loc => 89
  | .east => 90
  | .south => 91
  | .north => 92

/-- The station through which a message of a channel leaves die `a` for die `b` (R311, R322). -/
def bridgeOut (vc : Fin 4) (a b : Nat) : Nat := bridge (route vc a b)

/-- The station through which a message of a channel from die `a` comes to die `b`: the way back of the other dimension order leaves
there (R311, R322). From the I/O die, 32, it comes by the west link of die (0, 0) or (0, 7). -/
def bridgeIn (vc : Fin 4) (a b : Nat) : Nat := bridge (route (if vc = 2 then 0 else 2) b (if a = 32 then exitDie b else a))

/-- The ways over rings of a message from station `src` of die `a` to station `dst` of die `b` (R311). -/
def ringHops (vc : Fin 4) (a src b dst bytes : Nat) : List RingHop :=
  if a = b then [{ die := a, src := src, dst := dst, bytes := bytes }]
  else
    (if a = 32 then [] else [{ die := a, src := src, dst := bridgeOut vc a b, bytes := bytes }]) ++
      (if b = 32 then [] else [{ die := b, src := bridgeIn vc a b, dst := dst, bytes := bytes }])

/-- A message at a station, in packets of at most 256 payload bytes, each with its flit; the last has the further ways (R313). -/
def State.ringQueue (s : State) (p : Nat) (ready : Nat → Nat) (h : RingHop) (rest : List RingHop) (flit : Nat → Option RingFlit) : State :=
  let x := s.die h.die
  let n := ceilDiv h.bytes 256
  s.setDie h.die { x with queues := x.queues ++ (List.range n).map (fun i =>
    { src := h.src, dst := h.dst, part := p, bytes := Nat.min 256 (h.bytes - 256 * i), again := false, ready := ready i, flit := flit i
      next := if i + 1 = n then rest else [] }) }

/-- A message's ways over rings that have no flit of their own, one after the other. -/
def State.ringWays (s : State) (p : Nat) (hops : List RingHop) : State :=
  match hops with
  | [] => s
  | h :: rest => s.ringQueue p (fun _ => s.ringCyc) h rest (fun _ => none)

/-- The die of a line's home and its slice's station; the I/O die for the host region (R268, R284). -/
def homeStation (pa : Nat) : Nat × Nat := if region pa = 1 then (32, 0) else (homeDie pa, 72 + fld pa 6 4)

/-- A message on its way: its packets wait at its station, `back` being the ways of its answer. With `mesh`, flit `i` of each 256
bytes carries `kind i`, head `late i` cycles later than at the earliest; the last has the message's number. In elastic mode a
flit leaves when its packet has its slot; in fixed-latency mode the wait for one lies within the padded time (R315). -/
def State.carry (s : State) (a src b dst : Nat) (vc : Fin 4) (p bytes : Nat) (late : Nat → Nat) (back : List RingHop)
    (kind : Nat → FlitKind) (num : Option (Stream × Nat)) (mesh : Bool) : State :=
  let n := ceilDiv bytes 256
  let head (i : Nat) : Nat := s.meshCyc + 8 + late i
  let number (i : Nat) : Option (Stream × Nat) := if i + 1 = n then num else none
  let slots := mesh && !(s.part p).fl && a != 32
  let flit (i : Nat) : Option RingFlit :=
    if slots then some { goal := b, vc := vc, head := head i, kind := kind i, num := number i } else none
  let s1 :=
    match ringHops vc a src b dst bytes with
    | [] => s
    | h :: rest => s.ringQueue p (fun i => s.ringCyc + late i) h (rest ++ back) flit
  if mesh && !slots then (List.range n).foldl (fun s i => s.injectAt a b vc (head i) p (kind i) (number i)) s1 else s1

/-- A request that has a number of its stream: it is sent again while it has no reply (R325). -/
def State.track (s : State) (sm : Stream) (m : SentMsg) : State :=
  let y := s.stream sm
  (s.setStream sm { y with msgs := y.msgs ++ [m], acked := y.acked + 1 }).atWall (s.wall.toNat + 2048) (.requestReplay sm m.num)

/-- A message: a request has the next number of its source's stream, and a response, or what the I/O die sends, has none (R322, R325).
One within a die crosses no mesh, and is performed where its ring takes it. -/
def State.send (s : State) (a src b dst : Nat) (vc : Fin 4) (p bytes : Nat) (late : Nat → Nat) (back : List RingHop)
    (kind : Nat → FlitKind) (mesh : Bool) : State :=
  let sm : Stream := { die := a, station := src, vc := vc.val }
  let n := s.nextNum sm
  if vc = 2 ∨ a = 32 then s.carry a src b dst vc p bytes late back kind none mesh
  else if mesh then
    (s.track sm { num := n, goal := b, dst := dst, part := p, kind := kind (ceilDiv bytes 256 - 1), tries := 0 }).carry a src b dst vc p
      bytes late back kind (some (sm, n)) true
  else
    let y := s.stream sm
    (s.setStream sm { y.perform n with acked := y.acked + 1 }).carry a src b dst vc p bytes late back kind none false

/-- Traffic of `out` bytes, answered by `back` bytes once it has been taken: its flits take their turns, and what it is part of has its own
time (R322). -/
def trafficOf (a out back i : Nat) : FlitKind := .traffic a (if i + 1 = ceilDiv out 256 then ceilDiv back 256 else 0)

/-- The ways of an answer of `back` bytes, if there is one. -/
def answerHops (a src b dst back : Nat) : List RingHop := if back = 0 then [] else ringHops 2 b dst a src back

/-- A message between two stations and its answer, on the rings and the mesh. -/
def State.travel (s : State) (a src b dst : Nat) (vc : Fin 4) (p out back : Nat) : State :=
  s.send a src b dst vc p out (fun _ => 0) (answerHops a src b dst back) (trafficOf a out back) (a != b)

/-- The messages by which core `k` reads lines at their homes, or writes them, and the answers: one message for each home die, to
the slice of its first line. -/
def State.linesTravel (s : State) (k : Nat) (ls : List Nat) (write : Bool) : State :=
  let home (l : Nat) : Nat := (homeStation (l * 64)).1
  (ls.foldl (fun ds l => insertNat (home l) ds) []).foldl (fun s d =>
    let mine := ls.filter (fun l => home l == d)
    let n := 64 * mine.length
    let (_, hs) := homeStation (mine.headD 0 * 64)
    s.travel (dieOf k) (s.physOf k) d hs 1 (s.core k).part (if write then n else 16) (if write then 8 else n)) s

/-- A message of core `k` to the home of a line, and its answer. -/
def State.exchange (s : State) (k pa : Nat) (vc : Fin 4) (out back : Nat) : State :=
  let (hd, hs) := homeStation pa
  s.travel (dieOf k) (s.physOf k) hd hs vc (s.core k).part out back

/-! ## What an access does (R90, R108 to R111) -/

/-- The bytes of an access. -/
def MemOp.bytes (op : MemOp) : Nat :=
  match op with
  | .load n _ => n
  | .store n => n
  | .redFadd => 4
  | .loadS | .reload _ | .lda | .swap | .add | .and | .or | .xor | .max | .min | .maxn | .minn | .cas | .stl
  | .redAdd | .redMax | .redMin => 8

/-- The access reads, writes, or does both (R91, R107). -/
def MemOp.kind (op : MemOp) : AccKind :=
  match op with
  | .load _ _ | .loadS | .reload _ | .lda => .read
  | .store _ | .stl => .write
  | .swap | .add | .and | .or | .xor | .max | .min | .maxn | .minn | .cas | .redAdd | .redFadd | .redMax | .redMin =>
    .readWrite

/-- The access answers its task with a value. -/
def MemOp.replies (op : MemOp) : Bool :=
  match op with
  | .load _ _ | .loadS | .reload _ | .lda | .swap | .add | .and | .or | .xor | .max | .min | .maxn | .minn | .cas => true
  | .store _ | .stl | .redAdd | .redFadd | .redMax | .redMin => false

/-- The payload bytes of its request: an address, and the bytes of what it writes (R313). -/
def MemOp.sends (op : MemOp) : Nat := if op.kind = .read then 8 else 8 + op.bytes

/-- The new value of a read-and-write on the old one (R108 to R110); none when the access does not write. -/
def MemOp.update (op : MemOp) (old a b : Word64) : Option Word64 :=
  match op with
  | .load _ _ | .loadS | .reload _ | .lda => none
  | .swap | .store _ | .stl => some a
  | .add | .redAdd => some (old + a)
  | .and => some (old &&& a)
  | .or => some (old ||| a)
  | .xor => some (old ^^^ a)
  | .max | .redMax => some (pick true true old a)
  | .min | .redMin => some (pick true false old a)
  | .maxn => some (pick false true old a)
  | .minn => some (pick false false old a)
  | .cas => if old = b then some a else none
  | .redFadd => some (BitVec.ofNat 64 (fadd32 (bitsOf old 0 32) (bitsOf a 0 32)))

/-- The value a load writes to its register (R90). -/
def MemOp.extend (op : MemOp) (raw : Nat) : Word64 :=
  match op with
  | .load n true => BitVec.ofInt 64 (signedOf (8 * n) raw)
  | .load _ false | .loadS | .reload _ | .lda | .swap | .add | .and | .or | .xor | .max | .min | .maxn | .minn | .cas
  | .store _ | .stl | .redAdd | .redFadd | .redMax | .redMin => BitVec.ofNat 64 raw

/-- One access performed at its line's home under R272: the state, the value its register takes, and its stamp. -/
def State.perform (s : State) (x : Access) (ts : Nat) : State × Word64 × Nat :=
  let n := x.op.bytes
  let old := leNat (s.physLoad x.pa n)
  match x.op.update (BitVec.ofNat 64 old) x.a x.b with
  | none =>
    let (s1, _, st) := s.homeRead x.pa n ts x.lease
    (s1, x.op.extend old, st)
  | some v =>
    let (s1, st) := s.homeWrite x.pa (leBytes n v.toNat) ts
    (s1, x.op.extend old, st)

end Sys2Proof.Machine

namespace Sys2Proof

/-! ## Caches by name (spec/05_sequencer_sync.md R127) -/

/-- The agent whose code cache a selector names; none for the data cache. -/
def CacheSel.agent (c : CacheSel) : Option Agent :=
  match c with
  | .seq => some .seq | .vec => some (.eng .vector) | .mat => some (.eng .matrix) | .xfr => some (.eng .transfer)
  | .wlk => some (.eng .walker) | .data => none

/-- The kind of access a cache word makes. -/
def CacheSel.kind (c : CacheSel) : AccKind :=
  match c with
  | .seq | .vec | .mat | .xfr | .wlk => .fetch
  | .data => .read

/-- The name of a unit's code cache. -/
def Agent.sel (a : Agent) : CacheSel :=
  match a with
  | .seq => .seq | .eng .vector => .vec | .eng .matrix => .mat | .eng .transfer => .xfr | .eng .walker => .wlk

/-! ## The mesh's outputs (spec/16_fabric.md R311, R322) -/

/-- Output `p` of die `d` leads to another die: a die of the mesh, or the I/O die (R311, R322). -/
def Port.leads (p : Port) (d : Nat) : Bool :=
  match p with
  | .west => d % 4 != 0 || d == 0 || d == 28
  | .east => d % 4 != 3
  | .south => decide (4 ≤ d)
  | .north => decide (d < 28)
  | .loc => false

/-- An output leads out of the mesh: to the die's own stations, or to the I/O die (R311, R322). -/
def Port.leaves (out : Port) (d : Nat) : Bool := out == .loc || (out == .west && d % 4 == 0)

/-- A link exists: an output of one of 32 dies that leads to another die, or one of 16 ports. -/
def LinkRef.present (l : LinkRef) : Bool :=
  match l with
  | .mesh d out => decide (d < 32) && out.leads d
  | .port p => decide (p < 16)

end Sys2Proof
end

