-- ==== Sys2Proof/Machine/Ops.lean ====
section
/-! DEFINITION. The shared operations of the meanings: taking an exception and returning from one (spec/
19_faults_translation.md R334 to R341; spec/05_sequencer_sync.md R130), ending and launching tasks (R121, R299, R300),
and the way of a memory access from its issue to its reply (spec/12_memory_consistency.md R275, R281, R282). -/

namespace Sys2Proof.Machine

/-! ## Fault records (R336) -/

/-- A fault with nothing but a cause, a unit and a place. -/
def FaultInfo.plain (cause unit loc : Nat) : FaultInfo :=
  { cause := cause, unit := unit, loc := loc, acc := 0, why := 0, addr := 0, sect := 0, code := 0 }

/-- Field acc of a record (R336). -/
def accCode (k : AccKind) : Nat :=
  match k with
  | .read => 0 | .write => 1 | .readWrite => 2 | .fetch => 3

/-- The record of a task-class fault. -/
def State.taskRecord (s : State) (r : TaskRef) (f : FaultInfo) (res : Bool) : FaultRec where
  cause := BitVec.ofNat 8 f.cause
  unit := BitVec.ofNat 3 f.unit
  cls := 0
  res := res
  who := s.coordOf r
  acc := BitVec.ofNat 2 f.acc
  why := BitVec.ofNat 8 (if f.cause = 0x08 ∨ f.cause = 0x09 then f.why else 0)
  mbox := (s.taskOf r).mbox
  loc := BitVec.ofNat 48 f.loc
  addr := BitVec.ofNat 64 f.addr
  sect := BitVec.ofNat 16 f.sect
  code := BitVec.ofNat 12 f.code
  part := BitVec.ofNat 6 (s.core r.core).part

/-- A fault queue has room: 256 records, one of them kept for the partition class (R336). -/
def Part.hasRoom (p : Part) (cls : Nat) : Bool :=
  decide (p.records.length < 256) && (cls == 1 || decide ((p.records.filter (fun x => x.cls != 1)).length < 255))

/-- A record appended to its partition's queue. -/
def State.appendRecord (s : State) (p : Nat) (x : FaultRec) : State :=
  s.setPart p { s.part p with records := (s.part p).records ++ [x] }

/-- `faultinfo` after a fault (R29, R336): cause, unit, v and the word offset in the section. -/
def faultInfoWord (cause unit upc : Nat) : Word64 :=
  BitVec.ofNat 64 (cause % 256 + put (unit % 8) 8 + put 1 11 + put (upc % 2 ^ 24) 12)

/-! ## Engines and steps of a task that ends (R335, R339, R154, R218) -/

/-- The state a vector run leaves behind (R154). -/
def VecUnit.endRun (v : VecUnit) : VecUnit := { v with masks := [], sg := 0xFF, rb := 0, loop := none }

/-- The state a matrix run leaves behind: charging returns to estimates (R195). -/
def MatUnit.endRun (m : MatUnit) : MatUnit := { m with fx := false, units := 0, progress := 0 }

/-- The state a walker run leaves behind (R219). -/
def WalkUnit.endRun (w : WalkUnit) : WalkUnit := { w with frame := none, buf := [], list := none }

/-- An engine after the end of its run. -/
def Core.endRun (c : Core) (e : Engine) : Core :=
  let c := c.setRun e { c.runOf e with active := false, ending := false, halted := none, orphan := false }
  match e with
  | .vector => { c with vec := c.vec.endRun }
  | .matrix => { c with mat := c.mat.endRun }
  | .transfer => c
  | .walker => { c with wlk := c.wlk.endRun }

/-- The engine is in a run of the task of slot `i`. -/
def Core.runFor (c : Core) (e : Engine) (i : Fin 4) : Bool :=
  (c.runOf e).active && !(c.runOf e).orphan && (c.runOf e).owner == i

/-- A run stops at a word or step boundary (R339): a matrix step that has done some of its rows goes on to its last, as a run
of no task. -/
def Core.stopRun (c : Core) (e : Engine) : Core :=
  if e = .matrix ∧ c.mat.progress ≠ 0 ∧ (c.runOf e).halted = none then c.setRun e { c.runOf e with orphan := true }
  else c.endRun e

/-- Every run of slot `i` stops (R339). -/
def Core.stopRuns (c : Core) (i : Fin 4) : Core :=
  [Engine.vector, Engine.matrix, Engine.transfer, Engine.walker].foldl
    (fun c e => if c.runFor e i then c.stopRun e else c) c

/-- A tile entry after the cancelling of a step (spec/09_transfer_steps.md R214). -/
def Core.undoTile (c : Core) (x : XStep) : Core :=
  let c1 :=
    match x.dest with
    | .spad _ (some t) =>
      let e := vget c.tt t
      { c with tt := vset c.tt t (if x.claimed then { e with st := .empty } else { e with fq := e.fq - 1 }) }
    | .spad _ none | .nothing | .global | .reduce _ _ | .tileReg _ | .shapeSlot _ | .scaleQueue | .mailbox _ | .cores => c
  match x.source, x.drain with
  | some t, true => { c1 with tt := vset c1.tt t { vget c1.tt t with st := .ready } }
  | _, _ => c1

/-- The lines a step has reserved are released (R280). -/
def State.releaseLines (s : State) (k id : Nat) : State :=
  { s with lines := s.lines.map (fun e => if e.2.resv = some (k, id) then (e.1, { e.2 with resv := none }) else e) }

/-- A step leaves the unit with no effect: shadow, tile transitions and reservations go (R218), and a later fill may claim
its tile (R214). -/
def State.cancelStep (s : State) (k : Nat) (x : XStep) : State :=
  let c := s.core k
  let c1 := (c.undoTile x)
  let s1 := (s.setCore k { c1 with xfr := { c1.xfr with steps := c1.xfr.steps.filter (fun y => y.id != x.id) } }).releaseLines k x.id
  match x.dest with
  | .spad _ (some t) => s1.now (engAt k .transfer) (.tileClaim k t)
  | .spad _ none | .nothing | .global | .reduce _ _ | .tileReg _ | .shapeSlot _ | .scaleQueue | .mailbox _ | .cores => s1

/-- The open bag is discarded in a tick without a report: rows of it that have landed stay, and nothing waits for those that
have not (R188, R191). -/
def MatUnit.dropBag (m : MatUnit) (tick : Nat) : MatUnit :=
  let kept := m.passes.filter (fun p => !p.bag)
  let landed (n : Nat) : Nat := kept.foldl (fun n p => Nat.max n (p.at_ + 1)) (Nat.min n (tick + 1))
  { m with bag := none, passes := kept, accFree := landed m.accFree,
           settled := m.writes.foldl (fun n w => Nat.max n (w.1 + 1)) (landed m.settled) }

/-- The open bag of core `k` is discarded: its rows in flight are rows of no bag (R188, R191). -/
def State.dropBag (s : State) (k : Nat) : State :=
  let c := s.core k
  let s1 := s.setCore k { c with mat := c.mat.dropBag (s.tickOf k) }
  let d := s1.die (dieOf k)
  s1.setDie (dieOf k) { d with rows := d.rows.map (fun r => if r.core = k ∧ r.step = none then { r with gone := true } else r) }

/-- Every step of slot `i` is cancelled, and its open bag discarded without a report (R188, R218). -/
def State.cancelWork (s : State) (k : Nat) (i : Fin 4) : State :=
  let s1 := ((s.core k).xfr.steps.filter (fun x => x.slot == i)).foldl (fun s x => s.cancelStep k x) s
  let c := s1.core k
  if c.runFor .matrix i && c.mat.bag.isSome then s1.dropBag k else s1

/-! ## Join records (spec/05_sequencer_sync.md R120, R121) -/

/-- A record is malformed: a must-be-0 field is not 0, or more children ended than were expected. -/
def joinBad (w0 w1 w2 w3 : Nat) : Bool :=
  fld w0 49 14 != 0 || fld w1 11 5 != 0 || fld w1 38 26 != 0 || fld w2 48 16 != 0 || w3 != 0 ||
    decide (fld w0 0 16 < fld w0 16 16 + fld w0 32 16)

/-- The record after a child ended (R121): `f` is its failure. -/
def joinNext (w0 w1 w2 : Nat) (f : Option FaultInfo) (who : Nat) : Nat × Nat × Nat :=
  match f with
  | none => (w0 + 2 ^ 16, w1, w2)
  | some x =>
    if bit w0 48 then (w0 + 2 ^ 32, w1, w2)
    else (w0 + 2 ^ 32 + 2 ^ 48, x.cause % 256 + put (x.unit % 8) 8 + put who 16, x.loc % 2 ^ 48)

/-- A walk that finds a translation, or a die-TLB hit, fills the TLBs when it is done; one that fails fills none (R285, R351,
R353). -/
def State.noteWalk (s : State) (k va lvl : Nat) : State :=
  if lvl = 0 then
    let c := s.core k
    match tlbFind c.l1tlb (s.part c.part).asid va with
    | none => s
    | some e => s.setCore k { c with l1tlb := touchTlb c.l1tlb e }
  else
    match (s.lookup k va).2 with
    | .error _ => s
    | .ok e => s.startWalk k va .core (s.transPad k va lvl) (.ok e)

/-- The join record of an ending child is updated at its home, once, by a message of VC3 (R121, R322). A record whose page is no longer mapped
takes no update (DEDUCED, log 30). -/
def State.joinUpdate (s : State) (r : TaskRef) (f : Option FaultInfo) : State :=
  let t := s.taskOf r
  if t.join = 0 then s
  else
    match s.translate r.core t.join.toNat .readWrite false with
    | (lvl, .error _) => s.noteWalk r.core t.join.toNat lvl
    | (lvl, .ok tr) =>
      let w (i : Nat) : Nat := s.phys64 (tr.pa + 8 * i)
      let bs : List Byte :=
        if joinBad (w 0) (w 1) (w 2) (w 3) then leBytes 8 (w 0 % 2 ^ 63 + 2 ^ 63)
        else
          let (a, b, c) := joinNext (w 0) (w 1) (w 2) f (s.coordOf r).toNat
          leBytes 8 a ++ leBytes 8 b ++ leBytes 8 c
      let (s1, _) := ((s.noteWalk r.core t.join.toNat lvl).disown (dieOf r.core) [lineOf tr.pa]).homeWrite tr.pa bs t.ts
      s1.exchange r.core tr.pa 3 bs.length 8

/-- The line of a task's join record, if it has one that can be reached. -/
def State.joinLines (s : State) (r : TaskRef) : List Nat :=
  let t := s.taskOf r
  if t.join = 0 then []
  else
    match s.translate r.core t.join.toNat .readWrite false with
    | (_, .error _) => []
    | (_, .ok tr) => [lineOf tr.pa]

/-! ## Packets (spec/14_scheduling.md R300) -/

/-- An offset advanced by `n` in an area, with its lap bit. -/
def advanceOff (off : BitVec 25) (lap : Bool) (area n : Nat) : BitVec 25 × Bool :=
  if off.toNat + n < area then (BitVec.ofNat 25 (off.toNat + n), lap) else (BitVec.ofNat 25 (off.toNat + n - area), !lap)

/-- Finished packets at the front are freed, in area order. -/
def freeFront (m : Mbox) : List Packet → Mbox
  | [] => { m with pkts := [] }
  | p :: rest =>
    if p.left = 0 ∧ p.toLaunch = [] then
      let (fo, fl) := advanceOff m.fo m.fl m.area.toNat p.len
      freeFront { m with fo := fo, fl := fl } rest
    else { m with pkts := p :: rest }

/-- One task of a packet has ended. -/
def State.packetDone (s : State) (t : Slot) : State :=
  match t.pkt with
  | none => s
  | some off =>
    let m := s.mbox t.mbox.toNat
    let pkts := m.pkts.map (fun p => if p.off = off then { p with left := p.left - 1 } else p)
    s.setMbox t.mbox.toNat (freeFront m pkts)

/-! ## Stores and stamps (R275, R276) -/

/-- What a scoped access leaves at its line: a core-scope one pins it to the task (R111), and a die-scope write of a line
homed on another die makes the local slice its owner (R274). -/
def State.afterScoped (s : State) (r : TaskRef) (x : Access) : State :=
  let l := lineOf x.pa
  match x.scope with
  | some .core => s.pinLine r l
  | some .die =>
    if region x.pa ≠ 1 ∧ homeDie x.pa ≠ dieOf r.core ∧ x.op.kind ≠ .read then s.ownLine (dieOf r.core) l else s
  | none | some .package | some .system => s

/-- Request `n` of a core's stream has its reply (R325). -/
def State.numberAnswered (s : State) (k n : Nat) : State :=
  let sm := s.seqStream k
  let y := s.stream sm
  s.setStream sm { y with sent := y.sent.filter (fun z => z.1 != n) }

/-- The home has performed request `n` of a core's stream, a store or `red`, which is answered with that (R325; DEDUCED,
log 101). -/
def State.storeAnswered (s : State) (k n : Nat) : State :=
  let sm := s.seqStream k
  (s.setStream sm ((s.stream sm).perform n)).numberAnswered k n

/-- The core's data cache performs the access: one at core scope, but never one to the host region, which is always performed at
the endpoint (R106, R267). -/
def Access.inCore (x : Access) : Bool := x.scope == some .core && region x.pa != 1

/-- A request travels on the mesh: in elastic mode, but for one that its data cache performs (R106, R284, R332). -/
def State.rides (s : State) (k : Nat) (x : Access) : Bool := !(s.part (s.core k).part).fl && !x.inCore

/-- The answer to a store that the mesh has carried: a response of the home, which no word waits for (R322, R325). -/
def State.answerStore (s : State) (k pa : Nat) : State :=
  let (hd, hs) := homeStation pa
  s.travel hd hs (dieOf k) (s.physOf k) 2 (s.core k).part 8 0

/-- One store, `stl` or `red` of a task performed: the line, the task's ts, and what its scope leaves (R272). -/
def State.storeDo (s : State) (r : TaskRef) (x : Access) : State :=
  let (s1, _, st) := (s.disown (dieOf r.core) [lineOf x.pa]).perform x (s.taskOf r).ts
  let s2 := ((s1.setTaskOf r { s1.taskOf r with ts := st }).afterScoped r x).storeAnswered r.core x.seq
  if s.rides r.core x then s2.answerStore r.core x.pa else s2

/-- The queued stores of a task, oldest first. -/
def State.storesOf (s : State) (r : TaskRef) : List Access := (s.core r.core).storeQ.filter (fun x => x.slot == r.slot)

/-- The stores of a task that are not yet stamped are performed now, in order: a word that releases another task orders
them before itself (R116, R117, R119; DEDUCED, log 33). Their ticks stay as they are for the task's own later accesses. -/
def State.flushStores (s : State) (r : TaskRef) : State :=
  let s1 := (s.storesOf r).foldl (fun s x => s.storeDo r x) s
  s1.setCore r.core { s1.core r.core with storeQ := (s1.core r.core).storeQ.filter (fun x => x.slot != r.slot) }

/-- What the lines of a task's queued stores, and those its word reads or writes besides, say to the word (R112, R280). -/
def State.wordSay (s : State) (r : TaskRef) (ls : List Nat) : LinesSay :=
  s.linesSay r.core none ((s.storesOf r).map (fun x => lineOf x.pa) ++ ls)

/-- A word of the acting task meets a retry response: the task releases its pins and repeats the word 16 ticks later
(R112, R278). -/
def State.wordRetry (s : State) : State :=
  let s1 := s.unpinTask s.meRef
  s1.setTask { s1.task with readyAt := s.tick + 16, hold := .none }

/-- A wider-scope word or a `safe` ends a task's core-scope pins, those too that a queued store would make (R111). -/
def State.releasePins (s : State) (r : TaskRef) : State :=
  let s1 := s.unpinTask r
  let c := s1.core r.core
  s1.setCore r.core { c with storeQ := c.storeQ.map (fun x =>
    if x.slot = r.slot ∧ x.scope = some .core then { x with scope := none } else x) }

/-! ## The end of a task (R121, R300, R337, R339) -/

/-- The engine work of a task that ends: with a fault its steps are cancelled; its runs stop, and vector words still to write
merge their flags nowhere. -/
def State.endWork (s : State) (r : TaskRef) (failed : Bool) : State :=
  let s1 := if failed then s.cancelWork r.core r.slot else s
  let c := (s1.core r.core).stopRuns r.slot
  let pend := c.vec.pending.map (fun w => if w.slot = some r.slot then { w with slot := none } else w)
  s1.setCore r.core { c with vec := { c.vec with pending := pend } }

/-- A task ends: by `halt` when `f` is none, with a task-class fault otherwise. Its pins go, its join record and packet
are told, its runs stop, and with a fault its steps are cancelled. Its slot is free for the core's launch queue. While
another core pins a line of its queued stores or its join record, the ending repeats its requests every 16 ticks, and
while one is reserved it waits (R112, R278, R280). -/
def State.endTask (s : State) (r : TaskRef) (f : Option FaultInfo) : State :=
  let again (s : State) (n : Nat) : State :=
    ((s.endWork r f.isSome).setTaskOf r { (s.endWork r f.isSome).taskOf r with hold := .ending f }).atTick (seqAt r)
      (s.tickOf r.core + n) (.requestRetry r)
  match s.wordSay r (s.joinLines r) with
  | .refused => again (s.unpinTask r) 16
  | .reserved => again s 1
  | .free =>
    let s0 := s.flushStores r
    let t := s0.taskOf r
    let s2 := ((s0.joinUpdate r f).unpinTask r).endWork r f.isSome
    ((s2.setTaskOf r Slot.launchState).packetDone t).now (seqAt r) (.launchQueueAccept r.core)

/-! ## Taking an exception (R335 to R337; R130) -/

/-- The task stops, its step parks, or the task ends (R337). -/
inductive Fate where
  | stops | parks | ends
  deriving DecidableEq, Repr

/-- The fate of a task by cause and unit. In trap mode every task-class fault ends the task. `sector` marks a sector of a
step, a `wgo` gather's rows included: it parks. -/
def fateOf (trapMode : Bool) (cause unit : Nat) (sector : Bool) : Fate :=
  if trapMode then .ends
  else if cause = 0x20 ∨ cause = 0x21 then .stops
  else if cause = 0x08 ∧ unit = 0 then .stops
  else if cause = 0x08 ∧ sector then .parks
  else .ends

/-- The place of a fault as `faultinfo` gives it: the upc, or the word offset of a pc in `.seq` (R336). -/
def State.wordOffset (s : State) (k unit loc : Nat) : Nat := if unit = 0 then (loc - s.sectionBase k .seq) / 4 else loc

/-- The task has ended, though its slot is not free yet: a store or its join record meets a retry response, or its record
waits for room (R112, R336). -/
def Slot.ended (t : Slot) : Bool :=
  t.pendRecs.any (fun x => !x.res) ||
    (match t.hold with
     | .ending _ => true
     | .none | .access | .barrier | .fetch | .launch | .spawn | .refused | .tick | .stopped _ => false)

/-- A task-class fault or trap is taken: its record is appended, `faultinfo` written, and the task stops, goes on with
its step parked, or ends. A task whose record finds the queue full stays stopped until one is removed; the work of one that
has ended is cancelled at once (R218, R336). A fault of a slot that holds no task, or whose task has ended, is not recorded
(R338). -/
def State.takeFault (s : State) (r : TaskRef) (f : FaultInfo) (sector : Bool) : State :=
  let t := s.taskOf r
  if !t.occupied || t.ended then s
  else
    let fate := fateOf t.trapMode f.cause f.unit sector
    let rec_ := s.taskRecord r f (fate != .ends)
    let p := (s.core r.core).part
    let t1 := { t with
      faultinfo := faultInfoWord f.cause f.unit (s.wordOffset r.core f.unit f.loc), faultTick := some (s.tickOf r.core) }
    if !(s.part p).hasRoom 0 then
      let s1 := s.setTaskOf r { t1 with
        pendRecs := t.pendRecs ++ [rec_], hold := if fate = .parks then t.hold else .stopped f.cause }
      if fate = .ends then s1.endWork r true else s1
    else
      let s1 := (s.appendRecord p rec_).setTaskOf r t1
      match fate with
      | .stops => s1.setTaskOf r { t1 with hold := .stopped f.cause }
      | .parks => s1
      | .ends => s1.endTask r (some f)

/-- The acting sequencer word faults: no register and no memory is written, and the record names its pc (R85). -/
def State.seqFault (s : State) (cause acc why addr code : Nat) : State :=
  s.takeFault s.meRef { cause := cause, unit := 0, loc := s.task.pc.toNat, acc := acc, why := why, addr := addr,
                        sect := 0, code := code } false

/-- The acting engine word faults: its run stops at the word, and the fault is reported once every earlier word has
completed (R77, R337). -/
def State.engFault (s : State) (e : Engine) (cause acc why addr : Nat) : State :=
  let c := s.me
  let r := c.runOf e
  s.setMe (c.setRun e { r with halted := some { cause := cause, upc := r.upc.toNat, why := why, acc := acc, addr := addr } })

/-- Return from trap mode: the pc takes epc (R130). -/
def State.leaveTrap (s : State) (cost : Nat) : State :=
  let t := s.task
  s.setTask { t with pc := t.epc.zeroExtend 64, trapMode := false, readyAt := s.tick + cost, hold := .none }

/-- The system cores resume a stopped task (R130, R337): at its word, after a `syscall` at the word after it, or in trap mode
at a handler with epc at the place where it would otherwise resume. -/
def State.resume (s : State) (r : TaskRef) (how : ResumeHow) : State :=
  let t := s.taskOf r
  let tick := s.tickOf r.core
  match t.hold with
  | .stopped cause =>
    if t.pendRecs ≠ [] then s
    else
      let resumeAt := if cause = 0x20 then t.pc + 4 else t.pc
      match how with
      | .retry => if cause = 0x20 then s else s.setTaskOf r { t with hold := .none, readyAt := tick }
      | .next => if cause = 0x20 then s.setTaskOf r { t with hold := .none, readyAt := tick, pc := resumeAt } else s
      | .handler pc =>
        s.setTaskOf r { t with hold := .none, readyAt := tick, pc := pc, trapMode := true,
                               epc := BitVec.ofNat 48 resumeAt.toNat }
  | .none | .access | .barrier | .fetch | .launch | .refused | .spawn | .tick | .ending _ => s

/-- A job that lets a unit of a partition's cores issue or move something. -/
def Job.issuesFor (j : Job) (mine : Nat → Bool) : Bool :=
  match j with
  | .event _ _ | .frontEnds | .barriers _ => false
  | .issue who => mine who.core
  | .engines k | .ends k | .arbitrate k | .sectors k | .report k => mine k

/-- A partition-class fault (R340): the partition's tick stops, its pins go, and the drain, clear and reopen follow in
wall periods. A second fault during a reset is not recorded (R341). -/
def State.partFault (s : State) (p cause mbox addr : Nat) : State :=
  match (s.part p).valid, (s.part p).draining with
  | false, _ | _, some _ => s
  | true, none =>
    let s1 := s.setPart p { s.part p with draining := some ⟨s.wall.toNat, cause, BitVec.ofNat 12 mbox, addr⟩ }
    let cores := s1.cores.filter (fun e => e.2.part == p)
    let s2 := cores.foldl (fun s e =>
      (List.finRange 4).foldl (fun s i => s.unpinTask { core := e.1, slot := i }) s) s1
    let s3 := { s2 with agenda := s2.agenda.filter (fun j => !(j.issuesFor (fun k => (s.core k).part == p))) }
    (s3.atWall (s.wall.toNat + 4096) (.partitionReset p)).atWall (s.wall.toNat + 5120) (.partitionReopen p)

/-! ## Launching (R11, R12, R119, R299) -/

/-- A slot with a task just launched into it. A start tick in the future is announced by TIMED_LAUNCH_START. -/
def launchSlot (l : Launch) (tick : Nat) : Slot :=
  { Slot.launchState with
    occupied := true
    pc := l.pc
    g := Vector.ofFn (fun i : Fin 32 => if i.val = 0 then 0 else l.g.getD i.val 0)
    ts := l.stamp
    stage := BitVec.ofNat 3 l.stage
    mbox := BitVec.ofNat 12 l.mbox
    pkt := l.pkt
    join := l.join
    readyAt := Nat.max tick l.startAt
    hold := if tick < l.startAt then .launch else .none }

/-- The first free slot of a core. -/
def Core.freeSlot (c : Core) : Option (Fin 4) := (List.finRange 4).find? (fun i => !(c.task i).occupied)

/-- A task put into slot `i` of core `k`. -/
def State.startTask (s : State) (k : Nat) (i : Fin 4) (l : Launch) : State :=
  let tick := s.tickOf k
  let s1 := s.setCore k ((s.core k).setTask i (launchSlot l tick))
  if tick < l.startAt then s1.atTick { core := k, slot := i, unit := .seq } l.startAt (.timedLaunchStart { core := k, slot := i })
  else s1

/-- Held deliveries that take an entry of the station: all but queue rows, which stay at their producers (R293). -/
def Core.heldEntries (c : Core) : Nat :=
  (c.held.filter (fun d => match d with
    | .row _ _ => false
    | .launch _ | .sev _ _ | .barrier _ | .landing _ _ => true)).length

/-- A `sev` to core `k`. -/
def sevTo (k : Nat) (e : Ev) : Bool :=
  match e with
  | .sevArrival r _ => r.core == k
  | _ => false

/-- A flit carries one. -/
def FlitKind.sevTo (k : Nat) (x : FlitKind) : Bool :=
  match x with
  | .carries _ e => Sys2Proof.Machine.sevTo k e
  | .request _ | .reply _ | .commit _ _ _ _ | .commitAck _ _ | .store _ _ | .fetch _ _ _ _ _ | .traffic _ _ => false

/-- The `sev`s on their way to core `k`: each has taken its entry at the station when it was issued, for its target may be switched
out when it arrives and its word has then completed (R293; DEDUCED, log 123). -/
def State.sevsTo (s : State) (k : Nat) : Nat :=
  (s.timers.filter (fun t => sevTo k t.ev)).length +
    s.dies.foldl (fun n d => n + (d.2.flits.filter (fun f => f.kind.sevTo k)).length +
      (d.2.queues.filter (fun x => x.flit.any (fun f => f.kind.sevTo k))).length) 0

/-- Entries in use of a logical core's station. -/
def State.entries (s : State) (k : Nat) : Nat := (s.core k).heldEntries + s.sevsTo k

/-- The station of a core has room for one more delivery: its 256 entries are shared by the two logical cores of a pair (R293). -/
def State.stationRoom (s : State) (k : Nat) : Bool :=
  let other := match s.partnerOf k with
    | none => 0
    | some m => s.entries m
  decide (s.entries k + other < 256)

/-- A launch accepted into a free slot, the launch queue of 16 entries, or a switched-out core's 256 held deliveries
(R119, R292, R293) or those of a core that is saved; none when there is no room. -/
def State.acceptLaunch (s : State) (k : Nat) (l : Launch) : Option State :=
  let c := s.core k
  if c.run ≠ .running then
    if s.stationRoom k then some (s.setCore k { c with held := c.held ++ [.launch l] }) else none
  else
    match c.freeSlot with
    | some i => some (s.startTask k i l)
    | none => if c.launchQ.length < 16 then some (s.setCore k { c with launchQ := c.launchQ ++ [l] }) else none

/-! ## Memory accesses (R91, R107, R275, R281, R282) -/

/-- The checks of R91 on an access of the acting core: alignment, translation, permission. -/
def State.check (s : State) (ea : Word64) (n : Nat) (k : AccKind) : Nat × Except (Nat × Nat) Trans :=
  if ea.toNat % n ≠ 0 then (0, .error (0x07, 0))
  else
    match s.translate s.cur.core ea.toNat k false with
    | (l, .error f) => (l, .error (f.cause, f.why))
    | (l, .ok t) => (l, .ok t)

/-- A copy in the data cache serves the read, a load's or that of an `lda` at core scope: its lease covers the stamp the
read takes (R106, R273). The access then asks no home, so a pin of another core refuses no plain load (R112; DESIGN
CHOICE, log 123). -/
def servedBy (c : Core) (x : Access) (ts : Nat) : Option DLine :=
  if x.scope.isSome && !(x.scope == some .core && x.op == .lda) then none
  else
    match dcFind c.dcache (lineOf x.pa) with
    | none => none
    | some d => if Nat.max ts (d.wts + 1) ≤ d.rts then some d else none

/-- The entry of the address table that serves register `d` (R94). -/
def tabIndex (d : GReg) : Fin 8 := Fin.ofNat 8 d.val

/-- An `ld.s` has read its bytes in a version of write stamp `wts`: its entry is valid unless a later write of them has already
entered the order (R95, R96). -/
def State.noteSpec (s : State) (r : TaskRef) (x : Access) (wts : Nat) : State :=
  if x.op = .loadS then
    let t := s.taskOf r
    let e : TabEntry :=
      { v := (s.line (lineOf x.pa)).current x.pa wts, reg := some x.dst, ea := BitVec.ofNat 64 x.va, f := false, pa := x.pa }
    s.setTaskOf r { t with tab := vset t.tab (tabIndex x.dst) e }
  else s

/-- The copy in the slice of the core's die that serves a read: a plain load, or an `lda` at die scope (R106, R273). A line that
has an owner is read there, against its stamps (R274). -/
def State.sliceServes (s : State) (k : Nat) (x : Access) (ts : Nat) : Option SliceCopy :=
  if x.op.kind = .read ∧ (x.scope = none ∨ x.scope = some .die) ∧ region x.pa ≠ 1 ∧ homeDie x.pa ≠ dieOf k ∧
      (s.line (lineOf x.pa)).owner = none then
    match s.sliceCopy? (dieOf k) (lineOf x.pa) with
    | none => none
    | some c => if Nat.max ts (c.wts + 1) ≤ c.rts then some c else none
  else none

/-- The die whose slice performs a request: the local one when it owns the line or its copy serves the read, else the home; the
I/O die, 32, for the host region (R268, R273, R274). -/
def State.performDie (s : State) (k : Nat) (x : Access) (ts : Nat) : Nat :=
  if region x.pa = 1 then 32
  else if (s.line (lineOf x.pa)).owner = some (dieOf k) ∨ (s.sliceServes k x ts).isSome then dieOf k
  else homeDie x.pa

/-- The next number of a core's stream. -/
def State.seqNext (s : State) (k : Nat) : Nat := s.nextNum (s.seqStream k)

/-- The next number of a core's stream, given to a request of a task (R325). -/
def State.sendNumber (s : State) (r : TaskRef) : State :=
  let sm := s.seqStream r.core
  let y := s.stream sm
  s.setStream sm { y with sent := y.sent ++ [(s.nextNum sm, r, 0)], acked := y.acked + 1 }

/-- The packets and flits of a task's request. In elastic mode its flit goes to the die that performs it; in fixed-latency mode it is
traffic, answered with a reply of its bytes, or of 8 to a store. -/
def State.requestOut (s : State) (r : TaskRef) (x : Access) (sm : Stream) (n late : Nat) : State :=
  let k := r.core
  let p := (s.core k).part
  let (hd, hs) := homeStation x.pa
  if (s.part p).fl then
    s.carry (dieOf k) (s.physOf k) hd hs 0 p x.op.sends (fun _ => 0)
      (if x.op.replies then [] else answerHops (dieOf k) (s.physOf k) hd hs 8)
      (trafficOf (dieOf k) x.op.sends (if x.op.replies then x.op.bytes else 8)) none (dieOf k != hd)
  else
    s.carry (dieOf k) (s.physOf k) (s.performDie k x (s.taskOf r).ts) hs 0 p x.op.sends (fun _ => late) []
      (fun _ => if x.op.replies then .request r else .store r n) (some (sm, n)) true

/-- A request on its way, to be sent again while it has no reply (R325): its time is the padded one in fixed-latency mode and in the
data cache, and the mesh's in elastic mode (R273, R281, R284, R332). -/
def State.depart (s : State) (r : TaskRef) (x : Access) (sm : Stream) (n : Nat) : State :=
  let k := r.core
  let tick := s.tickOf k
  if x.inCore then s.atTick (seqAt r) (tick + 3 + x.pad) (.requestAtHome sm n)
  else
    let s1 := (s.requestOut r x sm n (2 * x.pad)).atWall (s.wall.toNat + 2048) (.requestReplay sm n)
    if (s.part (s.core k).part).fl then
      s1.atTick (seqAt r) (tick + homePad (dieOf k) x.pa + x.pad) (.requestAtHome sm n)
    else s1

/-- The acting task's pending access is sent: it is served by a copy, performed in the data cache at core scope, or
travels to its home; its time is the padded one in fixed-latency mode and the mesh's in elastic mode (R273, R281,
R332). -/
def State.submit (s : State) (r : TaskRef) (x : Access) : State :=
  let k := r.core
  let c := s.core k
  let t := c.task r.slot
  let tick := s.tickOf k
  let hold (x : Access) : State := s.setTaskOf r { t with accReq := some x, hold := .access }
  let copy := if x.scope.isSome && (s.line (lineOf x.pa)).pinnedAgainst k then none else servedBy c x t.ts
  match copy with
  | some d =>
    let st := Nat.max t.ts (d.wts + 1)
    let raw := leNat (copyBytes d.data (x.pa % 64) x.op.bytes)
    let s1 := hold { x with phase := .sent, due := tick + 3 + x.pad, value := some (x.op.extend raw), stamp := st }
    let s2 := (s1.setCore k { s1.core k with dcache := d :: c.dcache.erase d }).noteSpec r x d.wts
    let s3 := if x.scope.isSome then s2.pinLine r (lineOf x.pa) else s2
    s3.atTick (seqAt r) (tick + 3 + x.pad) (.loadReply r)
  | none =>
    let n := s.seqNext k
    ((hold { x with phase := .sent, seq := n, value := none }).sendNumber r).depart r x (s.seqStream k) n

/-- Some store of the task is still on its way through the mesh, which gives it no tick beforehand. -/
def State.storeRides (s : State) (r : TaskRef) : Bool := (s.storesOf r).any (fun x => x.due == 0)

/-- The tick by which a task's earlier stores may all be stamped: no tick before it has to be looked at (R275). -/
def State.storesBy (s : State) (r : TaskRef) : Nat :=
  if s.storeRides r then s.tickOf r.core + 1 else (s.taskOf r).lastStore

/-- A request with a reply has to wait for the task's earlier stores (R275). -/
def State.accessWaits (s : State) (r : TaskRef) : Bool := decide (s.tickOf r.core < s.storesBy r)

/-- A load, or a read-and-write with a reply, issues: at once, or once the task's earlier stores are stamped (R275). -/
def State.issueAccess (s : State) (x : Access) : State :=
  let r := s.meRef
  let t := s.task
  if s.accessWaits r then
    (s.setTask { t with accReq := some { x with phase := .waiting }, hold := .access }).atTick (seqAt r)
      (Nat.max (s.tick + 1) (s.storesBy r)) (.requestRetry r)
  else s.submit r x

/-- The tick at which a store that does not ride on the mesh is stamped: its row's padded time after its issue, and after
every earlier store of its task (R282, R275; DEDUCED, log 31). -/
def State.storeDue (s : State) (k : Nat) (x : Access) (last : Nat) : Nat :=
  let own := if x.inCore then 3 else homePad (dieOf k) x.pa
  Nat.max (s.tickOf k + own + x.pad) last

/-- A store, `stl` or `red` enters the core's store queue, and its task goes on in the next tick (R86, R275). It is stamped at its
padded time, or, in elastic mode, when the mesh has carried it to its home (R332). -/
def State.issueStore (s : State) (x : Access) : State :=
  let r := s.meRef
  let t := s.task
  let n := s.seqNext r.core
  let rides := s.rides r.core x
  let due := if rides then 0 else s.storeDue r.core x t.lastStore
  let s1 := (s.setMe { s.me with storeQ := s.me.storeQ ++ [{ x with phase := .sent, due := due, seq := n }] }).sendNumber r
  if rides then (s1.setTask (s1.task.advance s.tick 1)).depart r x (s.seqStream r.core) n
  else
    let s2 := (s1.setTask { (s1.task.advance s.tick 1) with lastStore := due }).atTick (seqAt r) due (.storeStamped r)
    if x.inCore then s2
    else
      let sm := s.seqStream r.core
      (s2.requestOut r x sm n 0).atWall (s.wall.toNat + 2048) (.requestReplay sm n)

/-- Does a word at this scope end the task's core-scope pins (R111)? -/
def Scope.wide (sc : Option Scope) : Bool :=
  match sc with
  | none => false
  | some .core => false
  | some .die | some .package | some .system => true

/-- A store word waits: the store queue of an elastic core holds 2048 entries (R275). -/
def State.storeWaits (s : State) : Bool := !(s.part s.partNo).fl && decide (2048 ≤ s.me.storeQ.length)

/-- The access of a word of the acting task: the checks, the pins it ends, and its issue. `dst` and the operands are
those of the word. A word with a reply whose task has earlier stores still unstamped keeps the translation it was checked
by, and looks it up, for its time, when its time begins to count (R281; DEDUCED, log 118). -/
def State.memWord (s : State) (op : MemOp) (sc : Option Scope) (dst : GReg) (ea a b : Word64) (reply : Bool) : State :=
  match s.check ea op.bytes op.kind with
  | (lvl, .error (cause, why)) => (s.noteWalk s.cur.core ea.toNat lvl).seqFault cause (accCode op.kind) why ea.toNat 0
  | (lvl, .ok tr) =>
    let s1 := if reply && s.accessWaits s.meRef then s else s.noteWalk s.cur.core ea.toNat lvl
    let s2 := if Scope.wide sc then s1.releasePins s1.meRef else s1
    let x : Access :=
      { op := op, dst := dst, va := ea.toNat, pa := tr.pa, scope := sc, a := a, b := b,
        lease := s2.task.leaselen.toNat, slot := s.cur.slot, due := 0, pad := s2.transPad s2.cur.core ea.toNat lvl, phase := .sent, seq := 0,
        value := none, stamp := 0, old := false }
    if reply then s2.issueAccess x
    else if s2.storeWaits then s
    else s2.issueStore x

/-- The task's ts raised to a stamp it receives (R276). -/
def Slot.receive (t : Slot) (stamp : Nat) : Slot := { t with ts := Nat.max t.ts stamp }

/-! ## Tokens (spec/09_transfer_steps.md R199) -/

/-- The issue of a step that names token `k`: the bit clears and the count rises. -/
def Slot.claimToken (t : Slot) (k : Tok) : Slot :=
  { t with tokens := t.tokens &&& ~~~(1#8 <<< k.val), pend := vset t.pend k (vget t.pend k + 1) }

/-- The completion of such a step: the count falls, and at zero the bit is set, with the largest stamp (R276). -/
def Slot.settleToken (t : Slot) (k : Tok) (stamp tick : Nat) : Slot :=
  let n := vget t.pend k - 1
  { t with
    pend := vset t.pend k n
    tokens := if n = 0 then t.tokens ||| (1#8 <<< k.val) else t.tokens
    tokSet := if n = 0 then vset t.tokSet k tick else t.tokSet
    tokStamp := vset t.tokStamp k (Nat.max (vget t.tokStamp k) stamp) }

/-- The largest stamp that the tokens of a mask carry (R276). -/
def Slot.tokenStamp (t : Slot) (mask : BitVec 8) : Nat :=
  (List.finRange 8).foldl (fun n k => if mask.getLsbD k.val then Nat.max n (vget t.tokStamp k) else n) 0

/-- Every token of a mask is set, and was set before a tick: what a step's wait mask sees. -/
def Slot.tokensWere (t : Slot) (mask : BitVec 8) (tick : Nat) : Bool :=
  t.tokens &&& mask == mask && (List.finRange 8).all (fun k => !mask.getLsbD k.val || decide (vget t.tokSet k < tick))

/-- Every token of a mask is set. -/
def Slot.tokensSet (t : Slot) (mask : BitVec 8) : Bool := t.tokens &&& mask == mask

end Sys2Proof.Machine
end

