-- ==== Sys2Proof/Machine/ImageFile.lean ====
section
/-! DEFINITION. Reading an image file (spec/11_assembly_object.md R250 to R258): its header, section table and records, the
checks of R261 that concern the file, and its relocations. -/

namespace Sys2Proof.Machine

open Sys2Proof

/-! ## Header and sections (R250, R251) -/

/-- `n` bytes of a file at an offset, as a little-endian number. -/
def fileNat (file : List Byte) (off n : Nat) : Nat := leNat ((file.drop off).take n)

/-- The file offset and the number of entries of the section table (R250). -/
def tableOf (file : List Byte) : Nat × Nat := let w := fileNat file 8 8; (fld w 0 32, fld w 32 16)

/-- Check 1: the header, and the section table within the file (R250, R261). -/
def headerOk (file : List Byte) : Bool :=
  let w0 := fileNat file 0 8
  let w1 := fileNat file 8 8
  let w2 := fileNat file 16 8
  let (off, num) := tableOf file
  let spacing := fld w2 0 17
  decide (32 ≤ file.length) && fld w0 0 32 == 0x01464F54 && fld w0 32 16 == 2 && fld w0 48 2 != 3 && fld w0 50 14 == 0 &&
    off % 8 == 0 && decide (1 ≤ num) && decide (num ≤ 1024) && fld w1 48 16 == 0 &&
    (spacing == 0 || (decide (4096 ≤ spacing) && decide (spacing ≤ 65536))) && fld w2 17 47 == 0 && fileNat file 24 8 == 0 &&
    decide (off + 32 * num ≤ file.length)

/-- A section table entry (R251). `clean` says that its bits that must be 0 are 0. -/
structure Section_ where
  type  : Nat
  bank  : Nat
  fmt   : Nat
  algn  : Nat
  foff  : Nat
  size  : Nat
  msize : Nat
  clean : Bool
  deriving DecidableEq, Repr

/-- The entry that stands at an offset. -/
def sectionAt (file : List Byte) (off : Nat) : Section_ :=
  let w := fileNat file off 8
  { type := fld w 0 8, bank := fld w 8 4, fmt := fld w 12 4, algn := fld w 16 8, foff := fileNat file (off + 8) 8
    size := fileNat file (off + 16) 8, msize := fileNat file (off + 24) 8, clean := fld w 24 40 == 0 }

/-- The section table. -/
def sectionsOf (file : List Byte) : List Section_ :=
  let (off, num) := tableOf file
  (List.range num).map (fun i => sectionAt file (off + 32 * i))

/-- One of the five code sections. -/
def Section_.code (h : Section_) : Bool := decide (1 ≤ h.type) && decide (h.type ≤ 5)

/-- A section that is placed in the partition's address space. -/
def Section_.placed (h : Section_) : Bool := decide (1 ≤ h.type) && decide (h.type ≤ 7)

/-- No entry of a list stands twice. -/
def distinct {α : Type} [BEq α] (xs : List α) : Bool :=
  match xs with
  | [] => true
  | x :: rest => !rest.contains x && distinct rest

/-- Check 3 of one section (R251, R261). -/
def Section_.ok (h : Section_) (file : List Byte) : Bool :=
  h.clean && decide (1 ≤ h.type) && decide (h.type ≤ 15) && (h.type == 8 || (h.bank == 0 && h.fmt == 0)) &&
    decide (2 ≤ h.algn) && decide (h.algn ≤ 16) && decide (h.size ≤ h.msize) && decide (h.foff + h.size ≤ file.length) &&
    (!h.code || (h.size % 4 == 0 && h.msize % 4 == 0 && decide (h.msize ≤ 4 * 2 ^ 24))) &&
    (h.type != 8 || (decide (h.fmt ≤ 10) && decide (h.msize ≤ 131072)))

/-- Check 3: exactly one `.seq`, at most one of each other code section, no bank twice. -/
def sectionsOk (file : List Byte) : Bool :=
  let hs := sectionsOf file
  let count (t : Nat) : Nat := (hs.filter (fun h => h.type == t)).length
  hs.all (fun h => h.ok file) && count 1 == 1 && [2, 3, 4, 5].all (fun t => decide (count t ≤ 1)) &&
    distinct ((hs.filter (fun h => h.type == 8)).map (fun h => h.bank))

/-- A section's bytes once loaded. -/
def Section_.loaded (h : Section_) (file : List Byte) : List Byte :=
  (file.drop h.foff).take h.size ++ zeroBytes (h.msize - h.size)

/-- The bytes in the file of all sections of a type, in the order of the table (DEDUCED, log 42). -/
def typeBytes (file : List Byte) (t : Nat) : List Byte :=
  ((sectionsOf file).filter (fun h => h.type == t)).flatMap (fun h => (file.drop h.foff).take h.size)

/-- Records of `n` bytes. -/
def recordsOf (n : Nat) (bs : List Byte) : List (List Byte) :=
  (List.range (bs.length / n)).map (fun i => (bs.drop (n * i)).take n)

/-! ## The signature (R258, R367) -/

/-- Check 2: a signature section, where there is one, is the last, ends the file, and holds the valid signature of a
trusted key over the bytes before it; a partition that requires signing has one. -/
def State.signatureOk (s : State) (p : Nat) (file : List Byte) : Bool :=
  let hs := sectionsOf file
  match hs.filter (fun h => h.type == 14), hs.getLast? with
  | [], _ => !(s.part p).sgn
  | [h], some l =>
    let bs := file.drop h.foff
    let key := beNat (bs.take 32)
    decide (h = l) && h.size == 96 && h.foff + 96 == file.length &&
      ecdsaOk key (sha256 (file.take h.foff)).toNat (beNat ((bs.drop 32).take 32)) (beNat (bs.drop 64)) &&
      s.boot.keys.contains key
  | _, _ => false

/-! ## Symbols and relocations (R252, R253) -/

/-- A symbol's section, kind and value. -/
structure Sym where
  sec   : Nat
  kind  : Nat
  value : Nat
  deriving DecidableEq, Repr

/-- The symbols of a file. -/
def symsOf (file : List Byte) : List Sym :=
  (recordsOf 16 (typeBytes file 9)).map (fun r =>
    let w := fileNat r 0 8
    { sec := fld w 32 16, kind := fld w 56 8, value := fileNat r 8 8 })

/-- A relocation. `clean` says that its bits that must be 0 are 0. -/
structure Reloc where
  off    : Nat
  sec    : Nat
  type   : Nat
  sym    : Nat
  addend : Nat
  clean  : Bool
  deriving DecidableEq, Repr

/-- The relocations of a file, in table order. -/
def relocsOf (file : List Byte) : List Reloc :=
  (recordsOf 24 (typeBytes file 11)).map (fun r =>
    let w := fileNat r 0 8
    let y := fileNat r 8 8
    { off := fld w 0 32, sec := fld w 32 16, type := fld w 48 8, sym := fld y 0 32, addend := fileNat r 16 8
      clean := fld w 56 8 == 0 && fld y 32 32 == 0 })

/-- The five words of R243 that build an address, with any immediates. -/
def addressWords (bs : List Byte) : Bool :=
  let w (i : Nat) : Nat := fileNat bs (4 * i) 4
  let d := Fin.ofNat 32 (fld (w 0) 21 5)
  let like (i : Nat) (x : Instr) : Bool := encode x == [w i - fld (w i) 0 16]
  decide (20 ≤ bs.length) && like 0 (.ori d 0 0) && encode (.slli d d 16) == [w 1] && like 2 (.ori d d 0) &&
    encode (.slli d d 16) == [w 3] && like 4 (.ori d d 0)

/-- Check 5 of one relocation: type 1 or 2, its bytes inside its section, its symbol in the table, and the words of R243
at a place of type 2. -/
def Reloc.ok (r : Reloc) (file : List Byte) : Bool :=
  match (sectionsOf file)[r.sec - 1]? with
  | none => false
  | some h =>
    r.clean && decide (1 ≤ r.sec) && decide (1 ≤ h.type) && decide (h.type ≤ 8) && decide (r.sym < (symsOf file).length) &&
      ((r.type == 1 && decide (r.off + 8 ≤ h.msize)) ||
        (r.type == 2 && decide (r.off + 20 ≤ h.msize) && addressWords ((h.loaded file).drop r.off)))

/-- Check 5. -/
def relocsOk (file : List Byte) : Bool :=
  (typeBytes file 9).length % 16 == 0 && (typeBytes file 11).length % 24 == 0 && (relocsOf file).all (fun r => r.ok file)

/-- The value of a symbol: an address in its section, counted in words for kind 0, or the value itself (R252). -/
def Sym.at_ (y : Sym) (bases : List Nat) : Nat :=
  if y.sec = 0 ∨ 2 ≤ y.kind then y.value
  else bases.getD (y.sec - 1) 0 + (if y.kind = 0 then 4 * y.value else y.value)

/-- Bytes written into a section at an offset. -/
def patch (bs : List Byte) (off : Nat) (new : List Byte) : List Byte :=
  bs.take off ++ new ++ bs.drop (off + new.length)

/-- A relocation's sum written into its section's bytes (R253). -/
def Reloc.apply (r : Reloc) (v : Nat) (bs : List Byte) : List Byte :=
  if r.type = 1 then patch bs r.off (leBytes 8 (fileNat bs r.off 8 + v))
  else
    let w (i : Nat) : Nat := fileNat bs (r.off + 4 * i) 4
    let x := fld (w 0) 0 16 * 2 ^ 32 + fld (w 2) 0 16 * 2 ^ 16 + fld (w 4) 0 16 + v
    let put_ (bs : List Byte) (i lo : Nat) : List Byte := patch bs (r.off + 4 * i) (leBytes 2 (fld x lo 16))
    put_ (put_ (put_ bs 0 32) 2 16) 4 0

/-- The loaded bytes of every section, with the relocations applied in table order. -/
def loadedSections (file : List Byte) (bases : List Nat) : List (List Byte) :=
  let syms := symsOf file
  (relocsOf file).foldl (fun secs r =>
    let v := (match syms[r.sym]? with | none => 0 | some y => y.at_ bases) + r.addend
    secs.zipIdx.map (fun x => if x.2 + 1 = r.sec then r.apply v x.1 else x.1))
    ((sectionsOf file).map (fun h => h.loaded file))

/-! ## Records (R254, R256, R257) -/

/-- A safe-map record. -/
def safeOf (r : List Byte) : SafeRec :=
  let w0 := fileNat r 0 8
  let w1 := fileNat r 8 8
  let w3 := fileNat r 24 8
  { woff := fld w0 0 24, num := fld w0 24 12, span := fld w0 36 17, gmask := BitVec.ofNat 32 w1
    vmask := BitVec.ofNat 32 (fld w1 32 32), amask := BitVec.ofNat 64 (fileNat r 16 8), smask := BitVec.ofNat 32 w3
    tmask := BitVec.ofNat 8 (fld w3 32 8), bmask := BitVec.ofNat 16 (fld w3 40 16), dir := bit w3 56 }

/-- The safe map's bits that must be 0 are 0. -/
def safesCleanOf (file : List Byte) : Bool :=
  let bs := typeBytes file 12
  bs.length % 32 == 0 && (recordsOf 32 bs).all (fun r => fld (fileNat r 0 8) 53 11 == 0 && fld (fileNat r 24 8) 57 7 == 0)

/-- A mailbox record, with the package mailbox and area bound to its index. -/
def mboxRecOf (place : Placement) (r : List Byte) : MboxRec :=
  let w := fileNat r 0 8
  let idx := fld w 0 12
  let b := (place.mboxes.find? (fun m => m.idx == idx)).getD { idx := idx, pkg := 0, areaVa := 0 }
  { idx := idx, pkg := b.pkg, areaVa := b.areaVa, entry := fld w 12 24, x0 := fld w 36 2, x1 := fld w 38 2, y0 := fld w 40 3
    y1 := fld w 43 3, core := fld w 46 6, cntm1 := fld w 52 6, stage := fld w 58 3, area := fld (fileNat r 8 8) 0 32
    wdog := fileNat r 16 8 }

/-- A queue-binding record. -/
def qbindOf (r : List Byte) : QbindRec :=
  let w := fileNat r 0 8
  { x := fld w 0 2, y := fld w 2 3, core := fld w 5 6, n := Fin.ofNat 4 (fld w 11 2), val := BitVec.ofNat 18 (fileNat r 8 8) }

/-- The bits of the mailbox and binding records that must be 0 are 0. -/
def bindsCleanOf (file : List Byte) : Bool :=
  let ms := typeBytes file 13
  let qs := typeBytes file 15
  ms.length % 32 == 0 && qs.length % 16 == 0 &&
    (recordsOf 32 ms).all (fun r => fld (fileNat r 0 8) 61 3 == 0 && fld (fileNat r 8 8) 32 32 == 0 && fileNat r 24 8 == 0) &&
    (recordsOf 16 qs).all (fun r => fld (fileNat r 0 8) 13 51 == 0 && fld (fileNat r 8 8) 18 46 == 0)

/-! ## The image (R262) -/

/-- Little-endian words of bytes. -/
def wordsOf : List Byte → List Word32
  | a :: b :: c :: d :: rest => BitVec.ofNat 32 (leNat [a, b, c, d]) :: wordsOf rest
  | _ => []

/-- The code section of a type, empty where the file has none. -/
def codeOf (file : List Byte) (place : Placement) (secs : List (List Byte)) (t : Nat) : CodeImage :=
  match (sectionsOf file).findIdx? (fun h => h.type == t) with
  | none => { base := 0, words := [] }
  | some i => { base := place.bases.getD i 0, words := wordsOf (secs.getD i []) }

/-- Bytes from a virtual address on, cut at page boundaries and put on the physical pages of a placement. -/
def piecesOf (place : Placement) (base : Nat) (bs : List Byte) : List DataImage :=
  (List.range (ceilDiv (base % 65536 + bs.length) 65536)).filterMap (fun i =>
    let a := Nat.max base ((base / 65536 + i) * 65536)
    let e := Nat.min (base + bs.length) ((base / 65536 + i + 1) * 65536)
    (place.pages.find? (fun g => g.va == a / 65536)).map (fun g =>
      { pa := g.pa * 65536 + a % 65536, bytes := (bs.drop (a - base)).take (e - a) }))

/-- The image of a file under a placement. -/
def imageOf (file : List Byte) (place : Placement) : Image :=
  let hs := sectionsOf file
  let secs := loadedSections file place.bases
  let w0 := fileNat file 0 8
  let seqNum := (hs.findIdx? (fun h => h.type == 1)).getD 0 + 1
  let sig := hs.find? (fun h => h.type == 14)
  { mode := fld w0 48 2
    spacing := fld (fileNat file 16 8) 0 17
    signed := sig.isSome
    digest := match sig with | none => 0 | some h => (sha256 (file.take h.foff)).toNat
    seq := codeOf file place secs 1
    vec := codeOf file place secs 2
    mat := codeOf file place secs 3
    xfr := codeOf file place secs 4
    wlk := codeOf file place secs 5
    codePa := place.pages.map (fun g => (g.va, g.pa))
    data := (hs.zipIdx.filter (fun x => x.1.type == 6 || x.1.type == 7)).flatMap (fun x =>
      piecesOf place (place.bases.getD x.2 0) (secs.getD x.2 []))
    banks := (hs.zipIdx.filter (fun x => x.1.type == 8)).map (fun x => (x.1.bank, x.1.fmt, secs.getD x.2 []))
    syms := ((symsOf file).filter (fun y => y.sec == seqNum && decide (y.kind ≤ 1))).map (fun y =>
      if y.kind = 0 then y.value else y.value / 4)
    safes := (recordsOf 32 (typeBytes file 12)).map safeOf
    mboxes := (recordsOf 32 (typeBytes file 13)).map (mboxRecOf place)
    qbinds := (recordsOf 16 (typeBytes file 15)).map qbindOf
    bindsClean := bindsCleanOf file
    safesClean := safesCleanOf file }

/-! ## The placement (R262) -/

/-- Permissions of a placed section's pages, in the bits of a leaf descriptor: code is executed only, rodata is read only,
data is read and written (R92, R350). -/
def Section_.rights (h : Section_) : Nat := if h.code then 16 else if h.type = 7 then 4 else 12

/-- The placed sections with their base addresses. -/
def placedSections (file : List Byte) (place : Placement) : List (Section_ × Nat) :=
  ((sectionsOf file).zip place.bases).filter (fun x => x.1.placed && decide (0 < x.1.msize))

/-- A placed section lies on a page. -/
def onPage (x : Section_ × Nat) (page : Nat) : Bool :=
  decide (x.2 / 65536 ≤ page) && decide (page ≤ (x.2 + x.1.msize - 1) / 65536)

/-- What the loader chooses suits the file: bases aligned and in the address space, sections apart, pages for all of them
with one set of rights each, and a package mailbox with an area for every record (R251, R256, R262, R295). -/
def placementOk (file : List Byte) (place : Placement) : Bool :=
  let xs := placedSections file place
  decide (place.bases.length = (sectionsOf file).length) &&
    xs.all (fun x => x.2 % 2 ^ Nat.max 12 x.1.algn == 0 && decide (x.2 + x.1.msize ≤ 2 ^ 48)) &&
    xs.zipIdx.all (fun x => xs.zipIdx.all (fun y => decide (x.2 = y.2) || decide (x.1.2 + x.1.1.msize ≤ y.1.2) ||
      decide (y.1.2 + y.1.1.msize ≤ x.1.2))) &&
    xs.all (fun x => (List.range ((x.2 + x.1.msize - 1) / 65536 - x.2 / 65536 + 1)).all (fun i =>
      place.pages.any (fun g => g.va == x.2 / 65536 + i))) &&
    distinct (place.pages.map (fun g => g.va)) &&
    place.pages.all (fun g => decide (g.pa < 2 ^ 28) && g.leaf % 8 == 0 && decide (g.leaf < 2 ^ 44) &&
      (let ys := xs.filter (fun x => onPage x g.va); ys.all (fun x => ys.all (fun y => x.1.rights == y.1.rights)))) &&
    (recordsOf 32 (typeBytes file 13)).all (fun r =>
      let m := mboxRecOf place r
      place.mboxes.any (fun b => b.idx == m.idx && decide (b.pkg < 4096) && b.areaVa % 512 == 0 &&
        decide (b.areaVa + m.area ≤ 2 ^ 48)))

end Sys2Proof.Machine
end

