-- ==== Sys2Proof/Machine/Operands.lean ====
section
/-! DEFINITION. Every operand form: scratchpad address words and regions (spec/08_matrix_steps.md R178; spec/
06_vector_core.md R134; spec/10_walker.md R226), tile entries (spec/01_machine_state.md R19), rows of elements in a format
(R135, R37, R310), vector registers and masks (R14, R15), accumulator elements (R16) and shape slots (spec/
09_transfer_steps.md R200, R202). -/

namespace Sys2Proof.Machine

/-! ## Regions of scratchpad -/

/-- A place in scratchpad: its bank, the offset an access starts at, and the bytes [lo, hi) it must stay within. -/
structure Place where
  bank : Nat
  off  : Nat
  lo   : Nat
  hi   : Nat
  tile : Option TtReg
  deriving DecidableEq, Repr

/-- The place of an address, in bank form or in tile form (R178, R135). -/
def Core.place (c : Core) (tf : Bool) (tile : TtReg) (bank off : Nat) : Place :=
  if tf then
    let e := vget c.tt tile
    let b := e.base.toNat * 16
    { bank := e.bank.toNat, off := b + off, lo := b, hi := b + (e.len.toNat + 1) * 16, tile := some tile }
  else { bank := bank, off := off, lo := 0, hi := 131072, tile := none }

/-- The place of an address word of a step. -/
def Core.placeOf (c : Core) (a : SpadAddr) : Place := c.place a.tf a.tile a.bank.toNat a.off.toNat

/-- Offsets [o, o + n) stay within the place. -/
def Place.fits (p : Place) (o n : Nat) : Bool := decide (p.lo ≤ o) && decide (o + n ≤ p.hi)

/-- Scratchpad byte of an offset of the place's bank. -/
def Place.byte (p : Place) (o : Nat) : Nat := spByte p.bank o

/-- An address word of 64 bits as vector words read it (R134): its pitch is kept beside it. -/
structure VpAddr where
  off   : Nat
  bank  : Nat
  pitch : Nat
  tile  : TtReg
  tf    : Bool
  deriving DecidableEq, Repr

/-- The address word of a vp register; none when a must-be-0 field is not 0 (R134). -/
def vpAddr? (w : Word64) : Option VpAddr :=
  if bitsOf w 38 18 = 0 ∧ bitsOf w 62 1 = 0 ∧ (bit w.toNat 63 = false ∨ bitsOf w 17 4 = 0) then
    some { off := bitsOf w 0 17, bank := bitsOf w 17 4, pitch := bitsOf w 21 17, tile := Fin.ofNat 64 (bitsOf w 56 6),
           tf := bit w.toNat 63 }
  else none

/-- A walker address word in a register (R226); none when a must-be-0 field is not 0. -/
def wAddr? (w : Word64) : Option SpadAddr := if bitsOf w 32 32 = 0 then decodeSpad (bitsOf w 0 32) else none

/-! ## Tiles (R19, R136, R214) -/

/-- What R19 says to a word that names a tile. -/
inductive TileSay where
  | go | fault | wait
  deriving DecidableEq, Repr

/-- R19 on an entry. -/
def TileEnt.say (e : TileEnt) : TileSay :=
  match e.st with
  | .ready => .go
  | .empty => if e.fq = 0 then .fault else .wait
  | .filling | .draining => .wait

/-- R19 on a place. -/
def Core.tileSay (c : Core) (p : Place) : TileSay :=
  match p.tile with
  | none => .go
  | some t => (vget c.tt t).say

/-- Some access admitted to the tile is not over (R136, R178, R214). -/
def Core.tileHeld (c : Core) (t : TtReg) (tick : Nat) : Bool :=
  c.admits.any (fun x => x.1 == t && decide (tick ≤ x.2)) || c.xfr.steps.any (fun x => x.source == some t && !x.drain)

/-- An access to the tile of a place is admitted through tick `till`. -/
def Core.holdTile (c : Core) (p : Place) (till : Nat) : Core :=
  match p.tile with
  | none => c
  | some t => { c with admits := c.admits ++ [(t, till)] }

/-- Code of a tile state. -/
def TState.code (t : TState) : Nat :=
  match t with
  | .empty => 0 | .filling => 1 | .ready => 2 | .draining => 3

/-- A tile entry in the layout of R19. -/
def TileEnt.word (e : TileEnt) : Word64 :=
  BitVec.ofNat 64 (e.st.code + put e.bank.toNat 2 + put e.base.toNat 6 + put e.len.toNat 19 + put e.fq.toNat 32)

/-- A publish is copying into a 256-byte granule of the bytes [a, a + n) (R265). -/
def Core.publishing (c : Core) (tick a n : Nat) : Bool :=
  c.spBusy.any (fun x => decide (tick ≤ x.2.2) &&
    overlap (a / 256 * 256) ((a + n + 255) / 256 * 256 - a / 256 * 256) (x.1 / 256 * 256)
      ((x.1 + x.2.1 + 255) / 256 * 256 - x.1 / 256 * 256))

/-- A publish that meets the bytes [a, a + n) began in this tick: they are read from the next tick on (R264, R265). -/
def Core.publishBegan (c : Core) (tick a n : Nat) : Bool :=
  c.spBusy.any (fun x => x.2.2 + 1 == tick + ceilDiv x.2.1 512 && overlap a n x.1 x.2.1)

/-- What an access meets at issue. -/
inductive Admit where
  | fault (cause : Nat)
  | wait
  | go
  deriving DecidableEq, Repr

/-- What the tile and the publishes of a place say to an access of the bytes [o, o + n) (R19, R136, R265). -/
def State.admitTile (s : State) (p : Place) (o n : Nat) : Admit :=
  match s.me.tileSay p with
  | .fault => .fault 0x0B
  | .wait => .wait
  | .go => if s.me.publishing s.tick (p.byte o) n then .wait else .go

/-- The first of several checks that fails, in order (spec/03_encodings.md R65). -/
def firstOf : List (Bool × Nat) → Option Nat
  | [] => none
  | (bad, cause) :: rest => if bad then some cause else firstOf rest

/-! ## Rows of elements (R37, R135, R310) -/

/-- The format that fixes sizes where one side is raw (R310). -/
def sizeFmt (f other : Fmt) : Fmt := if f = .raw then other else f

/-- Bytes of a packed row of `n` elements: 3·⌈n/4⌉ for T6. -/
def rowBytes (f : Fmt) (n : Nat) : Nat := if f = .t6 then 3 * ceilDiv n 4 else n * (f.bits / 8)

/-- A place of an element: its first byte, and its slot in a T6 group. -/
abbrev ElemAt := Nat × Nat

/-- Element `j` of a row that starts at byte `a`. -/
def elemAt (f : Fmt) (a j : Nat) : ElemAt := if f = .t6 then (a + 3 * (j / 4), j % 4) else (a + j * (f.bits / 8), 0)

/-- Bytes that hold one element. -/
def elemBytes (f : Fmt) : Nat := if f = .t6 then 3 else f.bits / 8

/-- The encoding at a place. -/
def readElem (m : Memory) (f : Fmt) (x : ElemAt) : Nat :=
  leNat (Memory.load m x.1 (elemBytes f)) / 2 ^ (6 * x.2) % 2 ^ f.bits

/-- The bytes of a place with an encoding put into them: a T6 group keeps its other slots (R137). DESIGN CHOICE: R37 has the unused
slots of a row's last group written as 0, and R137's words for `vst` have every other slot keep its bits: the latter is taken (log
137). -/
def elemMerge (m : Memory) (f : Fmt) (x : ElemAt) (v : Nat) : List Byte :=
  if f = .t6 then
    let g := leNat (Memory.load m x.1 3)
    leBytes 3 (g - put (fld g (6 * x.2) 6) (6 * x.2) + put (v % 64) (6 * x.2))
  else leBytes (f.bits / 8) (v % 2 ^ f.bits)

/-- A memory with an encoding written at a place. -/
def writeElem (m : Memory) (f : Fmt) (x : ElemAt) (v : Nat) : Memory := Memory.store m x.1 (elemMerge m f x v)

/-- A packed row's bytes; unused T6 slots are 0 (R37). -/
def packRow (f : Fmt) (vs : List Nat) : List Byte :=
  let rec groups : List Nat → List Byte
    | a :: b :: c :: d :: rest => leBytes 3 (a % 64 + put (b % 64) 6 + put (c % 64) 12 + put (d % 64) 18) ++ groups rest
    | [] => []
    | [a] => leBytes 3 (a % 64)
    | [a, b] => leBytes 3 (a % 64 + put (b % 64) 6)
    | [a, b, c] => leBytes 3 (a % 64 + put (b % 64) 6 + put (c % 64) 12)
  if f = .t6 then groups vs else vs.flatMap (fun v => leBytes (f.bits / 8) (v % 2 ^ f.bits))

/-- The first `n` encodings of a row given as bytes. -/
def unpackRow (f : Fmt) (bs : List Byte) (n : Nat) : List Nat :=
  (List.range n).map (fun j =>
    let x := elemAt f 0 j
    leNat ((bs.drop x.1).take (elemBytes f)) / 2 ^ (6 * x.2) % 2 ^ f.bits)

/-! ## Vector registers and masks (R14, R15, R153) -/

/-- Element `q` of width `w` of a register. -/
def vElem (v : BitVec 32768) (w q : Nat) : Nat := v.toNat / 2 ^ (w * q) % 2 ^ w

/-- A register from its elements. -/
def vPack (w : Nat) (vs : List Nat) : Nat := vs.foldr (fun x acc => acc * 2 ^ w + x % 2 ^ w) 0

/-- The top of the mask stack; every position when it is empty (R15). -/
def VecUnit.top (v : VecUnit) : BitVec 4096 := v.masks.headD (BitVec.allOnes 4096)

/-- Position `q` is enabled. -/
def maskBit (m : BitVec 4096) (q : Nat) : Bool := m.getLsbD q

/-- The mask with bits set where `f` holds, for positions below `n`. -/
def maskOf (n : Nat) (f : Nat → Bool) : BitVec 4096 :=
  BitVec.ofNat 4096 ((List.range n).foldr (fun q acc => if f q then acc + 2 ^ q else acc) 0)

/-- The physical register that a name means (R153): v16–v31 rotate by rb. -/
def VecUnit.phys (v : VecUnit) (r : VReg) : Fin 32 :=
  if r.val < 16 then r else Fin.ofNat 32 (16 + (r.val - 16 + 16 - v.rb.toNat) % 16)

/-- Elements under the shape. -/
def VecUnit.count (v : VecUnit) : Nat := v.rows * v.cols

/-- A register, by name. -/
def VecUnit.reg (v : VecUnit) (r : VReg) : BitVec 32768 := vget v.v (v.phys r)

/-! ## Accumulator elements (R16) -/

/-- First byte of element (r, c) of a view. -/
def accAt (exact : Bool) (r c : Nat) : Nat := if exact then r * 2048 + c * 16 else r * 512 + c * 4

/-- Bytes of an element of a view. -/
def accBytes (exact : Bool) : Nat := if exact then 16 else 4

/-- Rows of a view. -/
def accRows (exact : Bool) : Nat := if exact then 256 else 1024

/-! ## Shape slots (R200) -/

/-- A field of a slot, as a number. -/
def slotFld (s : BitVec 512) (off lo len : Nat) : Nat := fld s.toNat (8 * off + lo) len

/-- The fields of a shape slot. -/
structure Shape where
  base     : Nat
  rpitch   : Int
  ppitch   : Int
  estride  : Int
  rowbytes : Nat
  cols     : Nat
  rows     : Nat
  planes   : Nat
  fmt      : Fmt
  deriving DecidableEq, Repr

/-- A slot's fields. A slot holds no reserved format: `xslot` refuses one (R201). -/
def shapeOf (s : BitVec 512) : Shape :=
  { base := slotFld s 0 0 48, rpitch := signedOf 32 (slotFld s 8 0 32), ppitch := signedOf 32 (slotFld s 8 32 32),
    estride := signedOf 32 (slotFld s 16 0 32), rowbytes := slotFld s 16 32 32, cols := slotFld s 24 0 16 + 1,
    rows := slotFld s 24 16 16 + 1, planes := slotFld s 24 32 16 + 1, fmt := (Fmt.ofCode? (slotFld s 24 48 4)).getD .raw }

/-- A line is a legal slot: every must-be-0 bit 0 and no reserved format (R200, R201). -/
def slotLegal (s : BitVec 512) : Bool :=
  slotFld s 0 48 16 == 0 && slotFld s 24 52 12 == 0 && decide (slotFld s 24 48 4 ≤ 10) && s.toNat / 2 ^ 256 == 0

/-- An address computed with signed strides, modulo 2^64. -/
def wrapAddr (i : Int) : Nat := (i % (2 ^ 64 : Int)).toNat

/-- Bytes from one element to the next; the element size when estride is 0. -/
def Shape.es (s : Shape) (f : Fmt) : Int := if s.estride = 0 then (f.bits / 8 : Nat) else s.estride

/-- The number of elements. -/
def Shape.count (s : Shape) : Nat := s.cols * s.rows * s.planes

/-- Element `e` of a slot at offset `o`, with element format `f` (R200): rows of T6 are packed from their start. -/
def Shape.elem (s : Shape) (f : Fmt) (o : Int) (e : Nat) : ElemAt :=
  let c := e % s.cols
  let r := e / s.cols % s.rows
  let pl := e / s.cols / s.rows
  let row : Int := s.base + o + pl * s.ppitch + r * s.rpitch
  if f = .t6 then (wrapAddr (row + 3 * (c / 4 : Nat)), c % 4) else (wrapAddr (row + c * s.es f), 0)

/-- The alignment of R202 from the slot's arithmetic. -/
def Shape.aligned (s : Shape) (f : Fmt) (o : Int) : Bool :=
  let n : Int := if f.bits = 16 then 2 else if f.bits = 32 then 4 else 1
  (s.base + o) % n == 0 && s.rpitch % n == 0 && s.ppitch % n == 0 && s.es f % n == 0

/-- Element `e` of packed rows of `cols` elements at a place (R202). -/
def Place.elem (p : Place) (f : Fmt) (cols e : Nat) : ElemAt :=
  elemAt f (p.byte (p.off + e / cols * rowBytes f cols)) (e % cols)

/-- Bytes of packed rows of `cols` elements, `n` elements in all. -/
def packedBytes (f : Fmt) (cols n : Nat) : Nat := n / cols * rowBytes f cols + rowBytes f (n % cols)

/-- The 32-bit signed byte offset of a parameter word (R197). -/
def offsetOf (w : Word32) : Int := w.toInt

/-! ## Transfer steps that later steps wait for -/

/-- An `xslot` into the slot is in flight (R201). -/
def Core.slotBusy (c : Core) (sl : ShReg) : Bool := c.xfr.steps.any (fun x => x.dest == .shapeSlot sl)

/-- An `xscale` is in flight (R191, R211). -/
def Core.scalesComing (c : Core) : Bool := c.xfr.steps.any (fun x => x.dest == .scaleQueue)

/-- An `xtile` toward the register is in flight (R182). -/
def Core.tileComing (c : Core) (t : TileReg) : Bool := c.xfr.steps.any (fun x => x.dest == .tileReg t)

/-- A step whose sectors are rows (R217). -/
def XStep.gathers (x : XStep) : Bool :=
  match x.src with
  | .rows _ _ _ _ => true
  | .none | .spad _ | .shape _ _ | .line _ => false

/-- A side touches global memory. -/
def XSide.global (x : XSide) : Bool :=
  match x with
  | .none | .spad _ => false
  | .shape _ _ | .rows _ _ _ _ | .line _ => true

/-- The next row a gather requests. -/
def XStep.nextRow (x : XStep) : Option Nat :=
  match x.again with
  | r :: _ => some r
  | [] => if x.asked < x.sectors then some x.asked else none

/-- Something of the step is to be moved. The rows of a gather beside one that failed go on (R320). -/
def XStep.moves (x : XStep) : Bool :=
  x.stage == .working && (x.src.global || x.dst.global) &&
    (if x.gathers then x.nextRow.isSome else decide (x.sector < x.sectors) && x.bad.isEmpty)

/-- The failure of a step that may be recorded in a tick: of those that are due the one of the lowest sector. -/
def XStep.dueBad (x : XStep) (tick : Nat) : Option BadSector :=
  (x.bad.filter (fun b => decide (b.at_ ≤ tick))).foldl (fun m b =>
    match m with
    | none => some b
    | some a => if b.sector < a.sector then some b else some a) none

/-! ## Engine runs -/

/-- The acting engine's run. -/
def State.run (s : State) (e : Engine) : Run := s.me.runOf e

/-- A parameter register of the acting engine. -/
def State.vp (s : State) (e : Engine) (i : VpReg) : Word64 := vget (s.run e).vp i

/-- A run's upc moved on by `n` words, the next word issuing no earlier than `at_`. -/
def Run.step (r : Run) (n at_ : Nat) : Run := { r with upc := r.upc + BitVec.ofNat 24 n, nextAt := at_ }

/-- The acting core with its engine's run moved on. -/
def Core.stepRun (c : Core) (e : Engine) (n at_ : Nat) : Core := c.setRun e ((c.runOf e).step n at_)

/-- The run of engine `e` comes to its exit word: it ends once its words in flight are done (R62). -/
def Core.exitRun (c : Core) (e : Engine) (n at_ : Nat) : Core :=
  c.setRun e { (c.runOf e).step n at_ with ending := true }

end Sys2Proof.Machine
end

