-- ==== Sys2Proof/Machine/Picker.lean ====
section
/-! DEFINITION. The Picker of a die (spec/16_fabric.md R318 to R321): a requested row's translations, its padded arrival,
its bytes, and the row slots. -/

namespace Sys2Proof.Machine

/-! ## Reads of several lines (R104, R272, R279) -/

/-- Physical bytes [pa, pa + n) cut at line boundaries: the address and size of each part. -/
def lineParts (pa : Nat) : Nat → List (Nat × Nat)
  | 0 => []
  | m + 1 =>
    let n := m + 1
    let k := Nat.min n (64 - pa % 64)
    (pa, k) :: (List.range ((n - k + 63) / 64)).map (fun i =>
      (pa + k + 64 * i, Nat.min 64 (n - k - 64 * i)))

/-- Physical bytes read line by line, each atomically, raising a step stamp. -/
def State.readLines (s : State) (pa n ts lease : Nat) : State × List Byte × Nat :=
  (lineParts pa n).foldl (fun (acc : State × List Byte × Nat) x =>
    let (s1, bs, st) := acc.1.homeRead x.1 x.2 acc.2.2 lease
    (s1, acc.2.1 ++ bs, st)) (s, [], ts)

/-- Virtual bytes [va, va + n) cut at 64 KiB boundaries (R208, R318). -/
def pageParts (va : Nat) : Nat → List (Nat × Nat)
  | 0 => []
  | m + 1 =>
    let n := m + 1
    let k := Nat.min n (65536 - va % 65536)
    (va, k) :: (List.range ((n - k + 65535) / 65536)).map (fun i =>
      (va + k + 65536 * i, Nat.min 65536 (n - k - 65536 * i)))

/-! ## Translation of a row part (R320) -/

/-- A walk of the Picker that is outstanding for the page of an address: one for its 64 KiB block, or one whose page covers
it. -/
def Die.walkFor? (d : Die) (p va tick : Nat) : Option Walk :=
  d.walks.find? (fun w => w.for_ == .picker && w.part == p && decide (tick < w.till) &&
    (w.block == va / 65536 ||
      (match w.found with
       | none => false
       | some e => (tlbFind [e] e.asid va).isSome)))

/-- What a walk has found. -/
def Walk.result (w : Walk) : Except TransFail TlbEntry :=
  match w.found with
  | some e => .ok e
  | none => notPresent w.why

/-- A read translation by the Picker of core `k`'s die, with the ticks of its walk: its cache or the die TLB adds none, an
outstanding walk of the page is joined, and another one starts. In fixed-latency mode a row that joins a walk takes the time of a
whole one (R285). -/
def State.pickTranslate (s : State) (k va : Nat) : Nat × Except TransFail Trans :=
  let p := (s.core k).part
  let d := s.die (dieOf k)
  let tick := s.tickOf k
  let use (n : Nat) (r : Except TransFail TlbEntry) : Nat × Except TransFail Trans :=
    match r with
    | .error f => (n, .error f)
    | .ok e =>
      match s.permit p e va .read false with
      | some f => (n, .error f)
      | none => (n, .ok { pa := e.phys va, entry := e, level := if n = 0 then 1 else 2 })
  if 2 ^ 48 ≤ va then (0, .error { cause := 0x08, why := 1 })
  else
    match tlbFind d.pickTlb (s.part p).asid va, tlbFind d.tlb (s.part p).asid va with
    | some e, _ => use 0 (s.hit e va)
    | none, some e => use 0 (s.hit e va)
    | none, none =>
      match d.walkFor? p va tick with
      | some w => use (if (s.part p).fl then 1080 else w.till - tick) w.result
      | none => use (s.walkTicks p (dieOf k) va) (s.walk p va)

/-- The parts of a row whose pages need a walk that is not outstanding. -/
def State.newWalks (s : State) (k va n : Nat) : List Nat :=
  let p := (s.core k).part
  let d := s.die (dieOf k)
  ((pageParts va n).map (fun x => x.1)).filter (fun va => decide (va < 2 ^ 48) &&
    (tlbFind d.pickTlb (s.part p).asid va).isNone && (tlbFind d.tlb (s.part p).asid va).isNone && (d.walkFor? p va (s.tickOf k)).isNone)

/-- The walks that a row needs find room: the Picker has 256 outstanding at most (R320). -/
def State.walkRoom (s : State) (k va n : Nat) : Bool :=
  decide (((s.die (dieOf k)).walks.filter (fun w => w.for_ == .picker)).length + (s.newWalks k va n).length ≤ 256)

/-- After a part's translation: a die-TLB hit is copied into the cache, the entry used last moves to the front, and a walk that
no other row has started fills the caches when it ends (R320, R351). -/
def State.notePick (s : State) (k va : Nat) : State :=
  let p := (s.core k).part
  let d := dieOf k
  let die := s.die d
  let fl := (s.part p).fl
  let own (x : TlbEntry) : Bool := if fl then x.part == p else !(s.part x.part).fl
  if 2 ^ 48 ≤ va then s
  else
    match tlbFind die.pickTlb (s.part p).asid va, tlbFind die.tlb (s.part p).asid va with
    | some e, _ => s.setDie d { die with pickTlb := touchTlb die.pickTlb e }
    | none, some e =>
      s.setDie d { die with pickTlb := tlbFill 1 (s.pickWays p d) own die.pickTlb e, tlb := touchTlb die.tlb e }
    | none, none =>
      if (die.walkFor? p va (s.tickOf k)).isSome then s
      else s.startWalk k va .picker (s.walkTicks p d va) (s.walk p va)

/-! ## Row slots (R319) -/

/-- Row slots reserved for a partition on a die: 64 for each of its logical cores there. -/
def Part.rowShare (p : Part) (d : Nat) : Nat := if p.valid && p.hasDie d then 64 * (p.cntm1 + 1) else 0

/-- Rows of a partition in flight at a die. -/
def Die.rowsOf (d : Die) (p : Nat) : Nat := (d.rows.filter (fun r => r.part == p)).length

/-- A row of partition `p` finds a slot: in fixed-latency mode one of its partition's own; in elastic mode one of those that no
fixed-latency partition reserves, of which its own may be lent to another elastic partition. -/
def State.rowRoom (s : State) (p d : Nat) : Bool :=
  let die := s.die d
  if (s.part p).fl then decide (die.rowsOf p < (s.part p).rowShare d)
  else
    let others := (s.parts.filter (fun e => e.1 != p)).foldl (fun n e =>
      n + (if e.2.fl then e.2.rowShare d else die.rowsOf e.1)) 0
    decide (die.rowsOf p + others < 4096)

/-! ## A row from its request to its arrival (R318, R321) -/

/-- The translations of a row's parts: the physical parts, the ticks of the longest walk, the largest padding by DRAM and by
hops, the first failure with its address, and the largest time of a part. -/
structure RowParts where
  pas   : List (Nat × Nat)
  walkT : Nat
  dram  : Bool
  hop   : Nat
  fail  : Option (Nat × Nat × Nat)     -- cause, why, address
  worst : Nat
  deriving DecidableEq, Repr

/-- The row of R281 for lines of DRAM or of the resident region, `h` hops away. -/
def rowPad (dram : Bool) (h : Nat) : Nat := (if dram then 360 else 48) + 24 * h

/-- A row's parts, each translated on its own (R318). A part that fails takes the ticks of its walk, or 2 without one (R321). -/
def State.rowParts (s : State) (k va n : Nat) : RowParts :=
  (pageParts va n).foldl (fun (r : RowParts) x =>
    match s.pickTranslate k x.1 with
    | (w, .error f) =>
      { r with fail := some (r.fail.getD (f.cause, f.why, x.1)), worst := Nat.max r.worst (if w = 0 then 2 else w) }
    | (w, .ok t) =>
      let h := hops (dieOf k) (if region t.pa = 1 then exitDie (dieOf k) else homeDie t.pa)
      { r with pas := r.pas ++ [(t.pa, x.2)], walkT := Nat.max r.walkT w, dram := r.dram || region t.pa != 2,
               hop := Nat.max r.hop h, worst := Nat.max r.worst (rowPad (region t.pa != 2) h + w) })
    { pas := [], walkT := 0, dram := false, hop := 0, fail := none, worst := 0 }

/-- The row of R281 for the farthest home of a row's lines. -/
def RowParts.pad (r : RowParts) : Nat := rowPad r.dram r.hop

/-- The padded time of a row: with a walk of any part its ticks are added, and a faulting row takes the largest time of its parts
(R321). -/
def RowParts.time (r : RowParts) : Nat := if r.fail.isSome then r.worst else r.pad + r.walkT

/-! ## Lines that cannot be read now (R112, R280) -/

/-- The lines of physical parts. -/
def partLines (pas : List (Nat × Nat)) : List Nat :=
  pas.foldl (fun ls p => (lineParts p.1 p.2).foldl (fun ls x => insertNat (lineOf x.1) ls) ls) []

/-- The bytes of physical parts, raising a step stamp. -/
def State.readParts (s : State) (pas : List (Nat × Nat)) (ts lease : Nat) : State × List Byte × Nat :=
  pas.foldl (fun (acc : State × List Byte × Nat) x =>
    let (s1, bs, st) := acc.1.readLines x.1 x.2 acc.2.2 lease
    (s1, acc.2.1 ++ bs, st)) (s, [], ts)

/-- What the lines of a row say to a request for it. -/
def State.rowSay (s : State) (k va n : Nat) : LinesSay :=
  let r := s.rowParts k va n
  if r.fail.isSome then .free else s.linesSay k none (partLines r.pas)

/-- A row carries bytes. -/
def goodRow (r : RowResult) : Bool :=
  match r with
  | .bytes _ => true
  | .faulting _ _ _ => false

/-- The tick before which a good row of a request is not delivered: in fixed-latency mode rows arrive in list order (R318). A
faulting row is reported at its own time, and holds no other one (R321; DEDUCED, log 125). -/
def State.rowFloor (s : State) (k : Nat) (step : Option Nat) (res : RowResult) : Nat :=
  if (s.part (s.core k).part).fl && goodRow res then
    (s.die (dieOf k)).rows.foldl (fun n r => if r.core = k ∧ r.step = step ∧ goodRow r.res ∧ r.gone = false then Nat.max n r.due else n) 0
  else 0

/-- A row put in flight: its delivery comes after `time` ticks, in elastic mode no earlier. The core requests its next row in the
next tick (R318). -/
def State.putRow (s : State) (k : Nat) (step : Option Nat) (pos time : Nat) (res : RowResult) : State :=
  let d := dieOf k
  let die := s.die d
  let p := (s.core k).part
  let extra := if (s.part p).fl then 0 else Config.elasticExtra s.fresh
  let due := Nat.max (s.tickOf k + time + extra) (s.rowFloor k step res)
  let row : PickRow := { id := die.nextRow, core := k, step := step, pos := pos, part := p, due := due, res := res, old := false, gone := false }
  let s1 := s.setDie d { die with rows := die.rows ++ [row], nextRow := die.nextRow + 1 }
  ((s1.setCore k { s1.core k with rowAt := s1.tickOf k + 1 }).atTick (engAt k .transfer) due (.pickerRowDelivery k row.id)).bump

/-- The messages of a row, which the Picker of the core's die serves: its request, the reads of its parts at their homes, and its
delivery (R311, R318, R322). -/
def State.rowTravels (s : State) (k : Nat) (pas : List (Nat × Nat)) : State :=
  let d := dieOf k
  let p := (s.core k).part
  let s1 := pas.foldl (fun s x =>
    let (hd, hs) := homeStation x.1
    s.travel d 93 hd hs 1 p 16 x.2) s
  s1.ringWays p [{ die := d, src := s.physOf k, dst := 93, bytes := 16 },
    { die := d, src := 93, dst := s.physOf k, bytes := pas.foldl (fun n x => n + x.2) 0 }]

/-- Core `k` may request a row now: it requests one a tick, of its gathers and its open bag together, and the Picker has a slot and
the walks it needs (R175, R318 to R320). -/
def State.rowFree (s : State) (k va n : Nat) : Bool :=
  decide ((s.core k).rowAt ≤ s.tickOf k) && s.rowRoom (s.core k).part (dieOf k) && s.walkRoom k va n

/-- The request of row [va, va + n) by core `k`: the row in flight, and the step stamp after its reads. A misaligned start
(`align` is the element size) or a cause found before any translation is reported 2 ticks later. -/
def State.askRow (s : State) (k : Nat) (step : Option Nat) (pos va n align ts lease : Nat) (pre : Option (Nat × Nat)) :
    State × Nat :=
  if va % align ≠ 0 then (s.putRow k step pos 2 (.faulting 0x07 0 va), ts)
  else
    match pre with
    | some (cause, addr) => (s.putRow k step pos 2 (.faulting cause 0 addr), ts)
    | none =>
      let r := s.rowParts k va n
      let s1 := (pageParts va n).foldl (fun s x => s.notePick k x.1) s
      match r.fail with
      | some (cause, why, addr) => (s1.putRow k step pos r.time (.faulting cause why addr), ts)
      | none =>
        let (s2, bs, st) := (s1.disown (dieOf k) (partLines r.pas)).readParts r.pas ts lease
        ((s2.rowTravels k r.pas).putRow k step pos r.time (.bytes bs), st)

end Sys2Proof.Machine
end

