-- ==== Sys2Proof/Machine/Bag.lean ====
section
/-! DEFINITION. The row pass and the open bag of the matrix engine (spec/02_number_formats.md R40 to R47;
spec/08_matrix_steps.md R175, R180, R187 to R189, R195). -/

namespace Sys2Proof.Machine

/-! ## Row sums (R40 to R47, R180) -/

/-- A tapered format takes block scales. -/
def tapered (fmt : BitVec 4) : Bool := fmt == 4 || fmt == 5

/-- The format of a code; the engine holds only codes of R176. -/
def fmtOf (code : BitVec 4) : Fmt := (Fmt.ofCode? code.toNat).getD .fp16

/-- Ticks of array entry of a row (R175). -/
def MatUnit.rate (m : MatUnit) : Nat := if tapered m.af then 1 else 2

/-- Bytes of an A row in memory (R180). -/
def MatUnit.rowLen (m : MatUnit) : Nat := rowBytes (fmtOf m.af) m.bk

/-- Scales that a row takes from the scale queue (R191). -/
def MatUnit.scales (m : MatUnit) : Nat := if tapered m.af then ceilDiv m.bk 32 else 0

/-- The power of two of a scale byte (R40). -/
def scaleOf (b : Byte) : Int := signedOf 5 b.toNat

/-- The loaded B cell (k, n), decoded. -/
def MatUnit.cell (m : MatUnit) (k n : Nat) : Exact :=
  decodeFmt (fmtOf m.bfmt) (leNat (Memory.load m.b (2 * (128 * k + n)) 2) % 2 ^ (fmtOf m.bfmt).bits)

/-- A dense row's elements, decoded. -/
def MatUnit.dense (m : MatUnit) (bytes : List Byte) : List (Option Exact) :=
  (unpackRow (fmtOf m.af) bytes m.bk).map (fun e => some (decodeFmt (fmtOf m.af) e))

/-- A Carder row's elements: those beyond its columns or absent are structural zeros (spec/10_walker.md R234). -/
def MatUnit.sparse (m : MatUnit) (bytes : List Byte) (cols : Nat) (present : BitVec 128) : List (Option Exact) :=
  (unpackRow (fmtOf m.af) bytes m.bk).zipIdx.map (fun x =>
    if x.2 < cols && present.getLsbD x.2 then some (decodeFmt (fmtOf m.af) x.1) else none)

/-- What one pass adds to column `n`, and the flags it raises. -/
def MatUnit.column (m : MatUnit) (xs : List (Option Exact)) (sc : List Byte) (n : Nat) : RowVal × Flags :=
  let c := xs.zipIdx.foldl (fun (c : ColSum) x =>
    let blk := x.2 / 32
    c.add x.1 (some (m.cell x.2 n)) (scaleOf (sc.getD blk 0) + scaleOf (Memory.get m.bscale (128 * blk + n))))
    { nan := false, pinf := false, ninf := false, prods := [] }
  c.rowVal (fmtOf m.af == .bf16) m.ex

/-- The columns of one pass. -/
def MatUnit.columns (m : MatUnit) (xs : List (Option Exact)) (sc : List Byte) : List (RowVal × Flags) :=
  (List.range m.bn).map (m.column xs sc)

/-! ## Charging (R195) -/

/-- The A sample of a row: its bytes 0 to 63. -/
def sampleOf (bytes : List Byte) : BitVec 512 := BitVec.ofNat 512 (leNat (bytes.take 64))

/-- Number of bits set. -/
def popcount (n : Nat) (x : Nat) : Nat := (List.range n).foldl (fun acc i => acc + b2n (bit x i)) 0

/-- The charge of a pass. -/
def MatUnit.charge (m : MatUnit) (x : BitVec 512) : Nat :=
  if m.fx then m.units.toNat else Nat.min 15 (popcount 512 (x ^^^ m.sample).toNat / 32)

/-! ## A row enters the array (R175, R180) -/

/-- A row pass of core `k`: it enters no earlier than `at_` and one entry slot after the row before it, and lands 130 ticks
later. -/
def Core.enterRow (c : Core) (at_ row : Nat) (steer bag : Bool) (bytes : List Byte) (xs : List (Option Exact))
    (sc : List Byte) : Core :=
  let m := c.mat
  let x := sampleOf bytes
  let charge := m.charge x
  let enter := Nat.max at_ m.entered
  let cols := m.columns xs sc
  let p : Pass :=
    { at_ := enter + 130, row := row, steer := steer, bag := bag, vals := cols.map (fun v => v.1),
      flags := cols.foldl (fun f v => f ||| v.2) 0 }
  let owner := (c.runOf .matrix).owner
  let c1 := if (c.runOf .matrix).orphan then c else c.setTask owner { c.task owner with est := charge }
  { c1 with
    budget := { c1.budget with level := BitVec.ofNat 16 (c1.budget.level.toNat - charge) }
    mat := { m with passes := m.passes ++ [p], entered := enter + m.rate, sample := x,
                    bag := if bag then m.bag.map (fun b => { b with till := Nat.max b.till (enter + 131) }) else m.bag
                    settled := Nat.max m.settled (enter + 131), accFree := Nat.max m.accFree (enter + 131) } }

/-- ROW_PASS_LAND (R46, R47, R180): the first pass that is due updates its accumulator row in columns 0 to N − 1. -/
def Core.landPass (c : Core) (tick : Nat) : Core :=
  match c.mat.passes.find? (fun p => decide (p.at_ ≤ tick)) with
  | none => c
  | some p =>
    let exact := match p.vals.head? with
      | some (.rounded _) => false
      | some .nan | some (.inf _) | some (.fin _) | none => true
    let n := accBytes exact
    let news := p.vals.zipIdx.map (fun x =>
      let old := leNat (Memory.load c.acc (accAt exact p.row x.2) n)
      if exact then exUpdate p.steer old x.1 else rndUpdate p.steer old x.1)
    let fl := news.foldl (fun f v => f ||| v.2) p.flags
    let c1 := c.accWrite .matrix (accAt exact p.row 0) (news.flatMap (fun v => leBytes n v.1))
    { c1 with mat := { c1.mat with passes := c1.mat.passes.erase p, flags := c1.mat.flags ||| flagsToMat fl } }

/-! ## The open bag (R187 to R189) -/

/-- Every listed entry is accounted and every multiplied row has landed, in an earlier tick (R188). -/
def MatUnit.bagDone (m : MatUnit) (b : Bag) (tick : Nat) : Bool :=
  b.asked == b.entries.length && b.entries.all (fun e => e.fate != .waiting) && m.passes.all (fun p => !p.bag) &&
    decide (b.till ≤ tick)

/-- The bag is open and later steps wait for it. -/
def MatUnit.bagBusy (m : MatUnit) (tick : Nat) : Bool :=
  match m.bag with
  | none => false
  | some b => !m.bagDone b tick

/-- The fate of an entry replaced. -/
def Bag.setFate (b : Bag) (pos : Nat) (f : BagFate) : Bag :=
  { b with entries := b.entries.zipIdx.map (fun x => if x.2 = pos then { x.1 with fate := f } else x.1) }

/-- BAG_ROW_ARRIVAL (R187): an entry is accounted, once, in arrival order. -/
def Core.bagArrive (c : Core) (tick pos : Nat) (r : RowResult) : Core :=
  let m := c.mat
  match m.bag with
  | none => c
  | some b =>
    match b.entries[pos]? with
    | none => c
    | some e =>
      let settle (f : BagFate) : Core :=
        { c with mat := { m with bag := some { b.setFate pos f with till := Nat.max b.till (tick + 1) }, settled := Nat.max m.settled (tick + 1) } }
      if e.fate ≠ .waiting then c
      else
        match r with
        | .faulting cause _ addr => settle (.faulted cause addr)
        | .bytes bs =>
          if b.entries.any (fun x => x.mid == e.mid && x.fate == .multiplied) then settle .repeated
          else (settle .multiplied).enterRow tick (b.base + e.tag) b.steer true bs (m.dense bs) e.scale

/-- State code of a member (R189). -/
def Bag.member (b : Bag) (mid : Nat) : Nat :=
  let mine := b.entries.filter (fun e => e.mid == mid)
  if mine.any (fun e => e.fate == .repeated) then 2
  else if mine.any (fun e => e.fate == .multiplied) then 1
  else if mine.isEmpty then 0 else 3

/-- The cause and address of a faulting entry. -/
def BagFate.failure (f : BagFate) : Option (Nat × Nat) :=
  match f with
  | .faulted cause addr => some (cause, addr)
  | .waiting | .multiplied | .repeated => none

/-- The bytes of a report (R189). -/
def Bag.reportBytes (b : Bag) : List Byte :=
  let n (f : BagFate → Bool) : Nat := (b.entries.filter (fun e => f e.fate)).length
  let states := (List.range b.e).map b.member
  let miss := (states.filter (fun x => x == 0)).length
  let flt := n (fun f => f.failure.isSome)
  let first := b.entries.zipIdx.findSome? (fun x => (x.1.fate.failure).map (fun f => (x.2, f)))
  let w0 := b.e + put b.entries.length 16 + put (n (· == .multiplied)) 32 + put (n (· == .repeated)) 48
  let w1 := miss + put flt 16 + put (b2n (states.all (fun x => x == 1))) 32
  let (w2, w3) : Nat × Nat :=
    match first with
    | none => (0xFFFF, 0)
    | some (pos, (cause, addr)) => (pos + put cause 16, if cause = 0x0A then 0 else addr % 2 ^ 48)
  leBytes 8 w0 ++ leBytes 8 w1 ++ leBytes 8 w2 ++ leBytes 8 w3 ++
    leBytes (16 * ceilDiv b.e 64) (states.foldr (fun x acc => acc * 4 + x) 0)

/-- The bag closes: its report is written (R189). -/
def Core.closeBag (c : Core) (tick : Nat) : Core :=
  match c.mat.bag with
  | none => c
  | some b =>
    let c1 := c.spWrite .matrix (spByte b.report.bank.toNat b.report.off.toNat) b.reportBytes
    { c1 with mat := { c1.mat with bag := none, settled := Nat.max c1.mat.settled (tick + 1) } }

end Sys2Proof.Machine
end

