-- ==== Sys2Proof/Machine/Fetch.lean ====
section
/-! DEFINITION. Fetching a unit's next word or step (spec/03_encodings.md R61 to R63; spec/04_sequencer_compute.md R101;
spec/12_memory_consistency.md R284), and placing words where the next fetch reads them. -/

namespace Sys2Proof.Machine

/-- What a fetch finds. -/
inductive Fetched where
  | words (ws : List Nat)
  | nothing                          -- no task, no run, or a run at its end
  | miss (va : Nat) (pa : Nat)       -- a code-cache miss on a page that may be fetched
  | fault (cause why addr : Nat)     -- the fetch faults (R101)
  deriving DecidableEq, Repr

/-- The number of words of the word or step that starts with `w` (R62). -/
def needLen (a : Agent) (w : Nat) : Nat :=
  match a with
  | .seq => 1
  | .eng .walker => 1
  | .eng .vector => if bit w 28 then 2 else 1
  | .eng .matrix => 1 + stepParams w
  | .eng .transfer => 1 + stepParams w

/-- One word of a unit's code. -/
def State.fetchWord (s : State) (k : Nat) (a : Agent) (va : Nat) : Fetched :=
  match s.codeWord k a va with
  | some w => .words [w]
  | none =>
    match s.translate k va .fetch false with
    | (_, .error f) => .fault f.cause f.why va
    | (_, .ok t) => .miss va t.pa

/-- Words from `va` on, at most `n`. -/
def State.fetchWords (s : State) (k : Nat) (a : Agent) (va : Nat) : Nat → Fetched
  | 0 => .words []
  | n + 1 =>
    match s.fetchWord k a va with
    | .words ws =>
      match s.fetchWords k a (va + 4) n with
      | .words rest => .words (ws ++ rest)
      | .nothing => .nothing
      | .miss v p => .miss v p
      | .fault c y v => .fault c y v
    | .nothing => .nothing
    | .miss v p => .miss v p
    | .fault c y v => .fault c y v

/-- The next word or step of an agent. Words at or beyond the end of a run are not read (R63). -/
def State.fetch (s : State) (who : Cur) : Fetched :=
  match who.unit with
  | .seq =>
    let t := (s.core who.core).task who.slot
    if !t.occupied then .nothing
    else if 2 ^ 48 ≤ t.pc.toNat then .fault 0x08 1 t.pc.toNat
    else s.fetchWord who.core .seq t.pc.toNat
  | .eng e =>
    let r := (s.core who.core).runOf e
    if !r.active || r.ending || r.halted.isSome || decide (r.endOff.toNat ≤ r.upc.toNat) then .nothing
    else
      let va := s.sectionBase who.core (.eng e) + 4 * r.upc.toNat
      match s.fetchWord who.core (.eng e) va with
      | .words ws =>
        match ws with
        | w :: _ => s.fetchWords who.core (.eng e) va (Nat.min (needLen (.eng e) w) (r.endOff.toNat - r.upc.toNat))
        | [] => .nothing
      | .nothing => .nothing
      | .miss v p => .miss v p
      | .fault c y v => .fault c y v

/-- A bypassed line serves one fetch (R127). -/
def State.dropBypass (s : State) (who : Cur) : State :=
  let c := s.core who.core
  match vget c.bypass who.unit.cache with
  | none => s
  | some _ => s.setCore who.core { c with bypass := vset c.bypass who.unit.cache none }

/-- The request of elastic mode for a line of a cache: it becomes head as a request does, later by what its translation adds, `pad`
ticks (R284, R322, R332). -/
def State.askLine (s : State) (who : Cur) (c : CacheSel) (pin : Option Bool) (pad va pa : Nat) : State :=
  let k := who.core
  let (hd, hs) := homeStation pa
  let p := (s.core k).part
  s.send (dieOf k) (s.physOf k) hd hs 0 p 8 (fun _ => 2 * pad) [] (fun _ => .fetch who c pin va pa) true

/-- A code-cache miss: the sequencer's slot or the engine waits for the line, which arrives after the row of its section's home in
fixed-latency mode, and by the mesh in elastic mode (R284, R322, R332). -/
def State.startFill (s : State) (who : Cur) (va pa : Nat) : State :=
  let k := who.core
  let c := s.core k
  let s1 :=
    match who.unit with
    | .seq => s.setCore k (c.setTask who.slot { c.task who.slot with hold := .fetch })
    | .eng e => s.setCore k (c.setRun e { c.runOf e with filling := true })
  if (s.part c.part).fl then
    (s1.exchange k pa 0 8 64).atTick who (s.tickOf k + homePad (dieOf k) pa) (.codeCacheFill k who.unit.sel va none)
  else s1.askLine who who.unit.sel none (s.transPad k va (s.lookup k va).1) va pa

/-- A fetch that faults: the sequencer's names its target as pc (R101), an engine's stops the run. A walk that found the page, which
may not be fetched, fills the TLBs (R351). -/
def State.fetchFault (s : State) (who : Cur) (cause why addr : Nat) : State :=
  let s1 := s.noteWalk who.core addr (s.lookup who.core addr).1
  match who.unit with
  | .seq => s1.seqFault cause 3 why addr 0
  | .eng e => s1.engFault e cause 3 why addr

/-! ## Placing words -/

/-- A word put into a code cache at a virtual address. -/
def putCode (ls : List CLine) (va w : Nat) : List CLine :=
  let o := 8 * (va % 64)
  let patch (d : Nat) : BitVec 512 := BitVec.ofNat 512 (d - put (fld d o 32) o + put w o)
  match codeFind ls (va / 64) with
  | none => { line := va / 64, data := patch 0, pin := false } :: ls
  | some x => ls.map (fun y => if y.line = va / 64 then { y with data := patch x.data.toNat } else y)

/-- Words put one after the other. -/
def putCodes (ls : List CLine) (va : Nat) : List Nat → List CLine
  | [] => ls
  | w :: rest => putCodes (putCode ls va w) (va + 4) rest

/-- The state in which the acting core's next step fetches and runs the first of `ws` on unit `a` (DESIGN CHOICE, log 1). -/
def State.placeWords (s : State) (a : Agent) (ws : List Nat) : State :=
  let k := s.cur.core
  let c := s.core k
  let i := s.cur.slot
  let c1 := c.setTask i { c.task i with occupied := true }
  let va :=
    match a with
    | .seq => (c.task i).pc.toNat
    | .eng e => s.sectionBase k a + 4 * (c.runOf e).upc.toNat
  let c2 :=
    match a with
    | .seq => c1
    | .eng e =>
      c1.setRun e { c1.runOf e with active := true, ending := false, halted := none, owner := i,
                                    endOff := (c1.runOf e).upc + BitVec.ofNat 24 ws.length }
  let c3 := { c2 with icaches := vset c2.icaches a.cache (putCodes (vget c2.icaches a.cache) va ws) }
  let who : Cur := { core := k, slot := i, unit := a }
  { s.setCore k c3 with cur := who, agenda := [.issue who] }

end Sys2Proof.Machine
end

