-- ==== Sys2Proof/Machine/SeqAlu.lean ====
section
/-! DEFINITION. Sequencer arithmetic (spec/04_sequencer_compute.md R85 to R89). -/

namespace Sys2Proof.Machine

/-- The truth value of a comparison. -/
def flag64 (b : Bool) : Word64 := if b then 1 else 0

/-- Leading zero bits, 0–64 (R87). -/
def clz64 (x : Word64) : Nat := if x = 0 then 64 else 63 - x.toNat.log2

/-- Trailing zero bits, 0–64 (R87). -/
def ctz64 (x : Word64) : Nat := ((List.range 64).find? (fun i => x.getLsbD i)).getD 64

/-- One bits (R87). -/
def popc64 (x : Word64) : Nat := (List.range 64).countP (fun i => x.getLsbD i)

/-- div (R87, R88). -/
def divS (a b : Word64) : Word64 := if b = 0 then BitVec.allOnes 64 else BitVec.ofInt 64 ((sv a).tdiv (sv b))
/-- divn (R87, R88). -/
def divU (a b : Word64) : Word64 := if b = 0 then BitVec.allOnes 64 else BitVec.ofNat 64 (uv a / uv b)
/-- rem (R87, R88). -/
def remS (a b : Word64) : Word64 := if b = 0 then a else BitVec.ofInt 64 ((sv a).tmod (sv b))
/-- remn (R87, R88). -/
def remU (a b : Word64) : Word64 := if b = 0 then a else BitVec.ofNat 64 (uv a % uv b)

/-- Bits 127:64 of a product (R87). -/
def high64 (p : Int) : Word64 := BitVec.ofInt 64 (p / 2 ^ 64)

/-- The core's one divider is busy (R86). -/
def State.divBlocked (s : State) : Bool := decide (s.tick < s.me.divBusy)

/-- A division: it waits for the divider and takes 20 ticks (R86). -/
def State.divide (s : State) (d : GReg) (v : Word64) : State :=
  if s.divBlocked then s
  else
    let s1 := s.finishReg d v 20
    s1.setMe { s1.me with divBusy := s.tick + 20 }

/-- R87, fn 0. -/
def execAdd (d a b : GReg) (s : State) : Res := .next (s.finishReg d (s.g a + s.g b) 1)
/-- R87, fn 1. -/
def execSub (d a b : GReg) (s : State) : Res := .next (s.finishReg d (s.g a - s.g b) 1)
/-- R87, fn 2. -/
def execAnd (d a b : GReg) (s : State) : Res := .next (s.finishReg d (s.g a &&& s.g b) 1)
/-- R87, fn 3. -/
def execOr (d a b : GReg) (s : State) : Res := .next (s.finishReg d (s.g a ||| s.g b) 1)
/-- R87, fn 4. -/
def execXor (d a b : GReg) (s : State) : Res := .next (s.finishReg d (s.g a ^^^ s.g b) 1)
/-- R87, fn 5. -/
def execAndn (d a b : GReg) (s : State) : Res := .next (s.finishReg d (s.g a &&& ~~~(s.g b)) 1)
/-- R87, fn 6. -/
def execSll (d a b : GReg) (s : State) : Res := .next (s.finishReg d (s.g a <<< (uv (s.g b) % 64)) 1)
/-- R87, fn 7. -/
def execSrl (d a b : GReg) (s : State) : Res := .next (s.finishReg d (s.g a >>> (uv (s.g b) % 64)) 1)
/-- R87, fn 8. -/
def execSra (d a b : GReg) (s : State) : Res := .next (s.finishReg d ((s.g a).sshiftRight (uv (s.g b) % 64)) 1)
/-- R87, fn 9. -/
def execSlt (d a b : GReg) (s : State) : Res := .next (s.finishReg d (flag64 (decide (sv (s.g a) < sv (s.g b)))) 1)
/-- R87, fn 10. -/
def execSltn (d a b : GReg) (s : State) : Res := .next (s.finishReg d (flag64 (decide (uv (s.g a) < uv (s.g b)))) 1)
/-- R87, fn 11. -/
def execMin (d a b : GReg) (s : State) : Res := .next (s.finishReg d (pick true false (s.g a) (s.g b)) 1)
/-- R87, fn 12. -/
def execMax (d a b : GReg) (s : State) : Res := .next (s.finishReg d (pick true true (s.g a) (s.g b)) 1)
/-- R87, fn 13. -/
def execMinn (d a b : GReg) (s : State) : Res := .next (s.finishReg d (pick false false (s.g a) (s.g b)) 1)
/-- R87, fn 14. -/
def execMaxn (d a b : GReg) (s : State) : Res := .next (s.finishReg d (pick false true (s.g a) (s.g b)) 1)
/-- R87, fn 15. -/
def execMul (d a b : GReg) (s : State) : Res := .next (s.finishReg d (s.g a * s.g b) 3)
/-- R87, fn 16. -/
def execMulh (d a b : GReg) (s : State) : Res := .next (s.finishReg d (high64 (sv (s.g a) * sv (s.g b))) 3)
/-- R87, fn 17. -/
def execMulhn (d a b : GReg) (s : State) : Res := .next (s.finishReg d (high64 (uv (s.g a) * uv (s.g b) : Nat)) 3)
/-- R87, R88, fn 18. -/
def execDiv (d a b : GReg) (s : State) : Res := .next (s.divide d (divS (s.g a) (s.g b)))
/-- R87, R88, fn 19. -/
def execDivn (d a b : GReg) (s : State) : Res := .next (s.divide d (divU (s.g a) (s.g b)))
/-- R87, R88, fn 20. -/
def execRem (d a b : GReg) (s : State) : Res := .next (s.divide d (remS (s.g a) (s.g b)))
/-- R87, R88, fn 21. -/
def execRemn (d a b : GReg) (s : State) : Res := .next (s.divide d (remU (s.g a) (s.g b)))
/-- R87, fn 22. -/
def execClz (d a : GReg) (s : State) : Res := .next (s.finishReg d (BitVec.ofNat 64 (clz64 (s.g a))) 1)
/-- R87, fn 23. -/
def execCtz (d a : GReg) (s : State) : Res := .next (s.finishReg d (BitVec.ofNat 64 (ctz64 (s.g a))) 1)
/-- R87, fn 24. -/
def execPopc (d a : GReg) (s : State) : Res := .next (s.finishReg d (BitVec.ofNat 64 (popc64 (s.g a))) 1)

/-- R89, op 0x02. -/
def execAddi (d a : GReg) (imm : BitVec 16) (s : State) : Res := .next (s.finishReg d (s.g a + sx64 imm) 1)
/-- R89, op 0x03. -/
def execAndi (d a : GReg) (imm : BitVec 16) (s : State) : Res := .next (s.finishReg d (s.g a &&& zx64 imm) 1)
/-- R89, op 0x04. -/
def execOri (d a : GReg) (imm : BitVec 16) (s : State) : Res := .next (s.finishReg d (s.g a ||| zx64 imm) 1)
/-- R89, op 0x05. -/
def execXori (d a : GReg) (imm : BitVec 16) (s : State) : Res := .next (s.finishReg d (s.g a ^^^ zx64 imm) 1)
/-- R89, op 0x06, kind 0. -/
def execSlli (d a : GReg) (sh : BitVec 6) (s : State) : Res := .next (s.finishReg d (s.g a <<< sh.toNat) 1)
/-- R89, op 0x06, kind 1. -/
def execSrli (d a : GReg) (sh : BitVec 6) (s : State) : Res := .next (s.finishReg d (s.g a >>> sh.toNat) 1)
/-- R89, op 0x06, kind 2. -/
def execSrai (d a : GReg) (sh : BitVec 6) (s : State) : Res := .next (s.finishReg d ((s.g a).sshiftRight sh.toNat) 1)
/-- R89, op 0x07. -/
def execLui (d : GReg) (imm : BitVec 16) (s : State) : Res := .next (s.finishReg d (sx64 imm <<< 16) 1)
/-- R89, op 0x08. -/
def execSlti (d a : GReg) (imm : BitVec 16) (s : State) : Res :=
  .next (s.finishReg d (flag64 (decide (sv (s.g a) < sv (sx64 imm)))) 1)
/-- R89, op 0x09. -/
def execSltni (d a : GReg) (imm : BitVec 16) (s : State) : Res :=
  .next (s.finishReg d (flag64 (decide (uv (s.g a) < uv (sx64 imm)))) 1)

end Sys2Proof.Machine
end

