-- ==== Sys2Proof/Machine/SeqMem.lean ====
section
/-! DEFINITION. Sequencer loads and stores, speculative load and check, branches and jumps, and the scoped memory
operations (spec/04_sequencer_compute.md R90 to R101; spec/05_sequencer_sync.md R106 to R111). -/

namespace Sys2Proof.Machine

/-- The address of a plain load or store (R90). -/
def State.ea (s : State) (a : GReg) (imm : BitVec 16) : Word64 := s.g a + sx64 imm

/-- A plain load of `n` bytes (R90, R91, R93). -/
def State.plainLoad (s : State) (n : Nat) (signed : Bool) (d a : GReg) (imm : BitVec 16) : State :=
  s.memWord (.load n signed) none d (s.ea a imm) 0 0 true

/-- A plain store of the low bytes of `g[d]` (R90, R91). -/
def State.plainStore (s : State) (n : Nat) (d a : GReg) (imm : BitVec 16) : State :=
  s.memWord (.store n) none d (s.ea a imm) (s.g d) 0 false

/-- R90, op 0x0A. -/
def execLdB (d a : GReg) (imm : BitVec 16) (s : State) : Res := .next (s.plainLoad 1 true d a imm)
/-- R90, op 0x0B. -/
def execLdH (d a : GReg) (imm : BitVec 16) (s : State) : Res := .next (s.plainLoad 2 true d a imm)
/-- R90, op 0x0C. -/
def execLdW (d a : GReg) (imm : BitVec 16) (s : State) : Res := .next (s.plainLoad 4 true d a imm)
/-- R90, op 0x0D. -/
def execLdD (d a : GReg) (imm : BitVec 16) (s : State) : Res := .next (s.plainLoad 8 false d a imm)
/-- R90, op 0x0E. -/
def execLdBn (d a : GReg) (imm : BitVec 16) (s : State) : Res := .next (s.plainLoad 1 false d a imm)
/-- R90, op 0x0F. -/
def execLdHn (d a : GReg) (imm : BitVec 16) (s : State) : Res := .next (s.plainLoad 2 false d a imm)
/-- R90, op 0x10. -/
def execLdWn (d a : GReg) (imm : BitVec 16) (s : State) : Res := .next (s.plainLoad 4 false d a imm)
/-- R90, op 0x11. -/
def execStB (d a : GReg) (imm : BitVec 16) (s : State) : Res := .next (s.plainStore 1 d a imm)
/-- R90, op 0x12. -/
def execStH (d a : GReg) (imm : BitVec 16) (s : State) : Res := .next (s.plainStore 2 d a imm)
/-- R90, op 0x13. -/
def execStW (d a : GReg) (imm : BitVec 16) (s : State) : Res := .next (s.plainStore 4 d a imm)
/-- R90, op 0x14. -/
def execStD (d a : GReg) (imm : BitVec 16) (s : State) : Res := .next (s.plainStore 8 d a imm)

/-! ## Speculative load and check (R94 to R97) -/

/-- Ticks after which a failed `ld.s` lets its task go on (R95). In elastic mode the lookup or walk takes as long as it takes:
the model counts 12 ticks for a die-TLB hit, and for a walk the undelayed reads of its descriptors, though no rule says so of an
`ld.s` (DESIGN CHOICE, log 123). -/
def State.failPad (s : State) (k va lvl : Nat) : Nat := 3 + s.transPad k va lvl

/-- Some earlier store, `stl` or `red` of the task is not yet stamped (R97, R275). -/
def State.storesPending (s : State) : Bool := decide (s.tick < s.storesBy s.meRef)

/-- `ld.s` (R95): with failed checks it reads nothing, writes 0 and raises no fault. Its time then counts from its issue, or from
the tick by which the task's earlier stores are stamped: it waits for them as a load does. -/
def State.loadSpec (s : State) (d : GReg) (ea : Word64) : State :=
  let e := tabIndex d
  let entry (v f : Bool) (pa : Nat) : TabEntry := { v := v, reg := some d, ea := ea, f := f, pa := pa }
  let s0 := s.setTask { s.task with tab := vset s.task.tab e (entry false false 0) }
  match s.check ea 8 .read with
  | (lvl, .error _) =>
    let s1 := s0.noteWalk s.cur.core ea.toNat lvl
    let t := (s1.task.setReg d 0)
    let t1 := { t with tab := vset t.tab e (entry false true 0) }
    let pad := s.failPad s.cur.core ea.toNat lvl
    if s.storesPending then
      let x : Access :=
        { op := .loadS, dst := d, va := ea.toNat, pa := 0, scope := none, a := 0, b := 0, lease := 0, slot := s.cur.slot, due := 0
          pad := pad, phase := .failed, seq := 0, value := none, stamp := 0, old := false }
      (s1.setTask { t1 with accReq := some x, hold := .access }).atTick s.cur (Nat.max (s.tick + 1) (s.storesBy s.meRef))
        (.requestRetry s.meRef)
    else s1.setTask (t1.advance s.tick pad)
  | (_, .ok _) => s0.memWord .loadS none d ea 0 0 true

/-- R95. -/
def execLdS (d a : GReg) (imm : BitVec 16) (s : State) : Res := .next (s.loadSpec d (s.ea a imm))

/-- A `chk` confirms its `ld.s`: the pair's one access stands in the global order where the `chk` does, as a read of the line at
its home with the task's lease, which no write comes before (R97, R102, R272; DEDUCED, log 138). -/
def State.confirm (s : State) (x : TabEntry) : State :=
  let (s1, _, st) := s.homeRead x.pa 8 s.task.ts s.task.leaselen.toNat
  s1.setTask { s1.task with ts := st }

/-- `chk` (R97): it tests v once every earlier store of the task has been stamped. -/
def State.checkWord (s : State) (d : GReg) : State :=
  let e := tabIndex d
  let x := vget s.task.tab e
  if x.reg ≠ some d then s.seqFault 0x01 0 0 0 0
  else if s.storesPending then s
  else if x.v then (s.confirm x).finish 1
  else s.memWord (.reload e) none d x.ea 0 0 true

/-- R97. -/
def execChk (d : GReg) (s : State) : Res := .next (s.checkWord d)

/-! ## Branches and jumps (R98 to R100) -/

/-- A branch (R98): 2 ticks when taken, 1 when not (R86). -/
def State.branch (s : State) (taken : Bool) (off : BitVec 16) : State :=
  if taken then s.jump 0 0 (s.task.pc + sx64 off * 4) 2 else s.finish 1

/-- R98, op 0x17. -/
def execBeq (a b : GReg) (off : BitVec 16) (s : State) : Res := .next (s.branch (s.g a == s.g b) off)
/-- R98, op 0x18. -/
def execBne (a b : GReg) (off : BitVec 16) (s : State) : Res := .next (s.branch (s.g a != s.g b) off)
/-- R98, op 0x19. -/
def execBlt (a b : GReg) (off : BitVec 16) (s : State) : Res :=
  .next (s.branch (decide (sv (s.g a) < sv (s.g b))) off)
/-- R98, op 0x1A. -/
def execBge (a b : GReg) (off : BitVec 16) (s : State) : Res :=
  .next (s.branch (decide (sv (s.g b) ≤ sv (s.g a))) off)
/-- R98, op 0x1B. -/
def execBltn (a b : GReg) (off : BitVec 16) (s : State) : Res :=
  .next (s.branch (decide (uv (s.g a) < uv (s.g b))) off)
/-- R98, op 0x1C. -/
def execBgen (a b : GReg) (off : BitVec 16) (s : State) : Res :=
  .next (s.branch (decide (uv (s.g b) ≤ uv (s.g a))) off)

/-- R99. -/
def execJal (d : GReg) (off : BitVec 21) (s : State) : Res :=
  .next (s.jump d (s.task.pc + 4) (s.task.pc + sx64 off * 4) 2)

/-- R100: a target that is not 4-byte aligned faults with 0x07, and neither the register nor the pc changes. -/
def execJalr (d a : GReg) (imm : BitVec 16) (s : State) : Res :=
  let target := s.ea a imm
  if bitsOf target 0 2 ≠ 0 then .next (s.seqFault 0x07 3 0 target.toNat 0)
  else .next (s.jump d (s.task.pc + 4) target 2)

/-! ## Scoped memory operations (R106 to R111) -/

/-- A read-and-write with a reply (R108). -/
def State.amo (s : State) (op : MemOp) (sc : Scope) (d a b : GReg) : State :=
  s.memWord op (some sc) d (s.g a) (s.g b) 0 true

/-- R108, fn 0. -/
def execAmoSwap (sc : Scope) (d a b : GReg) (s : State) : Res := .next (s.amo .swap sc d a b)
/-- R108, fn 1. -/
def execAmoAdd (sc : Scope) (d a b : GReg) (s : State) : Res := .next (s.amo .add sc d a b)
/-- R108, fn 2. -/
def execAmoAnd (sc : Scope) (d a b : GReg) (s : State) : Res := .next (s.amo .and sc d a b)
/-- R108, fn 3. -/
def execAmoOr (sc : Scope) (d a b : GReg) (s : State) : Res := .next (s.amo .or sc d a b)
/-- R108, fn 4. -/
def execAmoXor (sc : Scope) (d a b : GReg) (s : State) : Res := .next (s.amo .xor sc d a b)
/-- R108, fn 5. -/
def execAmoMax (sc : Scope) (d a b : GReg) (s : State) : Res := .next (s.amo .max sc d a b)
/-- R108, fn 6. -/
def execAmoMin (sc : Scope) (d a b : GReg) (s : State) : Res := .next (s.amo .min sc d a b)
/-- R108, fn 7. -/
def execAmoMaxn (sc : Scope) (d a b : GReg) (s : State) : Res := .next (s.amo .maxn sc d a b)
/-- R108, fn 8. -/
def execAmoMinn (sc : Scope) (d a b : GReg) (s : State) : Res := .next (s.amo .minn sc d a b)

/-- R109: g[d] is the expected value and takes the old one. -/
def execCas (sc : Scope) (d a b : GReg) (s : State) : Res :=
  .next (s.memWord .cas (some sc) d (s.g a) (s.g b) (s.g d) true)

/-- R110, fn 0. -/
def execRedAdd (sc : Scope) (a b : GReg) (s : State) : Res :=
  .next (s.memWord .redAdd (some sc) 0 (s.g a) (s.g b) 0 false)
/-- R110, fn 1. -/
def execRedFadd32 (sc : Scope) (a b : GReg) (s : State) : Res :=
  .next (s.memWord .redFadd (some sc) 0 (s.g a) (s.g b) 0 false)
/-- R110, fn 2. -/
def execRedMax (sc : Scope) (a b : GReg) (s : State) : Res :=
  .next (s.memWord .redMax (some sc) 0 (s.g a) (s.g b) 0 false)
/-- R110, fn 3. -/
def execRedMin (sc : Scope) (a b : GReg) (s : State) : Res :=
  .next (s.memWord .redMin (some sc) 0 (s.g a) (s.g b) 0 false)

/-- R111. -/
def execLda (sc : Scope) (d a : GReg) (s : State) : Res := .next (s.memWord .lda (some sc) d (s.g a) 0 0 true)

/-- R111. -/
def execStl (sc : Scope) (a b : GReg) (s : State) : Res := .next (s.memWord .stl (some sc) 0 (s.g a) (s.g b) 0 false)

/-! ## Events of the memory system -/

/-- The reply of a task's pending access: its register takes the value, its ts the stamp, and the next word may issue in
this tick (R86, R272). The source acknowledges the reply (R325). -/
def State.loadReply (s : State) (r : TaskRef) : State :=
  let t := s.taskOf r
  match t.accReq with
  | none => s
  | some x =>
    match x.value with
    | none => s
    | some v =>
      let tab :=
        match x.op with
        | .reload i => vset t.tab i TabEntry.empty
        | .load _ _ | .loadS | .lda | .swap | .add | .and | .or | .xor | .max | .min | .maxn | .minn | .cas | .store _ | .stl
        | .redAdd | .redFadd | .redMax | .redMin => t.tab
      let t1 := { (t.setReg x.dst v) with tab := tab, accReq := none, ts := Nat.max t.ts x.stamp }
      let s1 := s.setTaskOf r (t1.advance (s.tickOf r.core) 0)
      let sm := s.seqStream r.core
      if (s1.stream sm).sent.any (fun y => y.1 == x.seq && y.2.1 == r) then
        (s1.numberAnswered r.core x.seq).now (seqAt r) (.requestAcknowledgement sm x.seq)
      else s1

/-- LOAD_REPLY (R272, R281). -/
def execLoadReply (s : State) : Res :=
  match s.ev with
  | .loadReply r => .next (s.loadReply r)
  | _ => .next s

/-- A retry response reaches a task (R112): it releases every pin it holds and repeats the request 16 ticks later
(R278). -/
def State.retryResponse (s : State) (r : TaskRef) : State :=
  let s1 := s.unpinTask r
  let t := s1.taskOf r
  let s2 :=
    match t.accReq with
    | none => s1
    | some x => s1.setTaskOf r { t with accReq := some { x with phase := .refused }, hold := .refused }
  s2.atTick (seqAt r) (s.tickOf r.core + 16) (.requestRetry r)

/-- RETRY_RESPONSE (R112). -/
def execRetryResponse (s : State) : Res :=
  match s.ev with
  | .retryResponse r => .next (s.retryResponse r)
  | _ => .next s

/-- The reply of a performed access goes out from die `from_`: at the padded time, which has come, or on the mesh (R281,
R332). -/
def State.sendReply (s : State) (r : TaskRef) (x : Access) (from_ : Nat) (held : Bool) : State :=
  let k := r.core
  let p := (s.core k).part
  let (hd, hs) := homeStation x.pa
  if x.inCore then s.now (seqAt r) (.loadReply r)
  else if (s.part p).fl then (s.ringWays p (ringHops 2 hd hs (dieOf k) (s.physOf k) x.op.bytes)).now (seqAt r) (.loadReply r)
  else
    let late := if from_ = 32 then 0 else (if held then 24 else 256) - 9
    s.send from_ hs (dieOf k) (s.physOf k) 2 p x.op.bytes (fun _ => late) [] (fun _ => .reply r) true

/-- A line that its home slice does not hold comes from the memory controller of the die's DRAM stack, over the ring (R311). -/
def State.fromDram (s : State) (pa p : Nat) : State :=
  let (hd, hs) := homeStation pa
  s.ringWays p [{ die := hd, src := hs, dst := 88, bytes := 8 }, { die := hd, src := 88, dst := hs, bytes := 64 }]

/-- A performed access: the home, or the slice that served it, keeps the reply until it is acknowledged, and sends it (R325). -/
def State.answer (s : State) (r : TaskRef) (x : Access) (v : Word64) (st from_ : Nat) (held : Bool) : State :=
  let t := s.taskOf r
  let sm := s.seqStream r.core
  let y := s.stream sm
  let s1 := s.setTaskOf r { t with accReq := some { x with value := some v, stamp := st, phase := .sent }, hold := .access }
  let s2 := if held ∨ x.inCore ∨ region x.pa = 1 then s1 else s1.fromDram x.pa (s.core r.core).part
  (s2.setStream sm { y.perform x.seq with kept := (x.seq, v, st) :: y.kept }).sendReply r x from_ held

/-- A read that the local slice's copy serves: its stamp lies within the copy's lease. The data cache that takes the line from the
copy is recorded with it (R273). -/
def State.performInSlice (s : State) (r : TaskRef) (x : Access) (c : SliceCopy) : State :=
  let l := lineOf x.pa
  let st := Nat.max (s.taskOf r).ts (c.wts + 1)
  let v := x.op.extend (leNat (copyBytes c.data (x.pa % 64) x.op.bytes))
  let s1 := (s.takeWay (sliceOn (dieOf r.core) l) l).noteSpec r x c.wts
  let s2 := if x.scope.isNone then (s1.fillCache r.core l c.data c.wts c.rts).hangCopy r.core l else s1
  s2.answer r x v st (dieOf r.core) true

/-- An access performed at its home, or at the slice that owns the line (R272, R274). A plain read leaves copies behind, an
`lda` at die scope one in the local slice (R106, R273); a core-scope access leaves its line in the data cache, where it
is performed (R106; DEDUCED, log 122). -/
def State.performAtHome (s : State) (r : TaskRef) (x : Access) : State :=
  let l := lineOf x.pa
  let from_ := s.performDie r.core x (s.taskOf r).ts
  let (s1, v, st) := s.perform x (s.taskOf r).ts
  let s2 := (s1.afterScoped r x).noteSpec r x (s1.line l).wts
  let s3 :=
    if region x.pa = 1 then s2
    else if x.scope = none ∨ x.scope = some .core then s2.fillData r.core l
    else if x.scope = some .die ∧ x.op = .lda then s2.fillSlice r.core l
    else s2
  s3.answer r x v st from_ (s.sliceHolds x.pa)

/-- A request of a task has reached the slice that performs it: refused while a task of another core pins the line, waiting
while the line is reserved for a publish, and ending another die's ownership (R112, R274, R280). -/
def State.performAccess (s : State) (r : TaskRef) (x : Access) : State :=
  let l := lineOf x.pa
  let ln := s.line l
  if ln.pinnedAgainst r.core then
    if s.rides r.core x then
      s.send (s.performDie r.core x (s.taskOf r).ts) (homeStation x.pa).2 (dieOf r.core) (s.physOf r.core) 3 (s.core r.core).part 16
        (fun _ => 0) [] (fun _ => .carries (seqAt r) (.retryResponse r)) true
    else s.now (seqAt r) (.retryResponse r)
  else if ln.resv.isSome then s.atTick (seqAt r) (s.tickOf r.core + 1) (.requestAtHome (s.seqStream r.core) x.seq)
  else if ln.owner.isSome && ln.owner != some (dieOf r.core) then
    (s.now (seqAt r) (.requestAtHome (s.seqStream r.core) x.seq)).now (seqAt r) (.ownershipReturn l)
  else
    match s.sliceServes r.core x (s.taskOf r).ts with
    | some c => s.performInSlice r x c
    | none => s.performAtHome r x

/-- A store that the mesh has carried has reached its home, where it is stamped once the task's earlier ones are (R275). -/
def State.storeAtHome (s : State) (r : TaskRef) (n : Nat) : State :=
  let c := s.core r.core
  let tick := s.tickOf r.core
  (s.setCore r.core { c with storeQ := c.storeQ.map (fun x =>
    if x.slot = r.slot ∧ x.seq = n ∧ x.due = 0 then { x with due := tick } else x) }).now (seqAt r) (.storeStamped r)

/-- A request reaches its home (R325): one that the home has performed is answered with its kept reply, one numbered
more than 255 below the highest is a protocol error in elastic mode, and any other is performed. -/
def State.requestAtHome (s : State) (sm : Stream) (n : Nat) : State :=
  let y := s.stream sm
  let k := s.coreOfStream sm
  match y.sent.find? (fun z => z.1 == n) with
  | none => s
  | some (_, r, _) =>
    if y.performed n then
      match y.kept.find? (fun z => z.1 == n), (s.taskOf r).accReq with
      | some (_, v, st), some x =>
        if x.seq = n then
          (s.setTaskOf r { s.taskOf r with accReq := some { x with value := some v, stamp := st } }).sendReply r x
            (s.performDie r.core x (s.taskOf r).ts) true
        else s
      | _, _ => s
    else if (s.storesOf r).any (fun x => x.seq == n) then s.storeAtHome r n
    else if y.tooOld n && !(s.part (s.core k).part).fl then s.now (seqAt r) (.linkProtocolError (s.core k).part)
    else
      match (s.taskOf r).accReq with
      | some x => if x.seq = n then s.performAccess r x else s
      | none => s

/-- REQUEST_AT_HOME (R107, R272, R325). -/
def execRequestAtHome (s : State) : Res :=
  match s.ev with
  | .requestAtHome sm n => .next (s.requestAtHome sm n)
  | _ => .next s

/-- A task's request is sent again: a refused one, whose retry response was its reply, under a new number (R278, R325), or one that waited for the task's stores, once the latest is stamped
(R275, R281); an ending task's requests are repeated. -/
def State.requestRetry (s : State) (r : TaskRef) : State :=
  let t := s.taskOf r
  match t.hold, t.accReq with
  | .ending f, _ => s.endTask r f
  | _, none => s
  | _, some x =>
    match x.phase with
    | .failed =>
      if s.tickOf r.core < s.storesBy r then s.atTick (seqAt r) (s.storesBy r) (.requestRetry r)
      else
        (s.setTaskOf r { t with accReq := some { x with phase := .sent, value := some 0, stamp := t.ts } }).atTick (seqAt r)
          (s.tickOf r.core + x.pad) (.loadReply r)
    | .waiting =>
      if s.accessWaits r then
        s.atTick (seqAt r) (Nat.max (s.tickOf r.core + 1) (s.storesBy r)) (.requestRetry r)
      else
        let lvl := (s.lookup r.core x.va).1
        (s.noteWalk r.core x.va lvl).submit r { x with pad := s.transPad r.core x.va lvl }
    | .refused =>
      let n := s.seqNext r.core
      let s1 := s.setTaskOf r { t with hold := .access, accReq := some { x with phase := .sent, seq := n } }
      let s2 := (s1.numberAnswered r.core x.seq).sendNumber r
      if s.rides r.core x then s2.depart r { x with seq := n, pad := 0 } (s.seqStream r.core) n
      else
        let s3 := if x.inCore then s2
          else (s2.requestOut r { x with seq := n } (s.seqStream r.core) n 0).atWall (s.wall.toNat + 2048) (.requestReplay (s.seqStream r.core) n)
        s3.now (seqAt r) (.requestAtHome (s.seqStream r.core) n)
    | .sent => s

/-- REQUEST_RETRY (R278). -/
def execRequestRetry (s : State) : Res :=
  match s.ev with
  | .requestRetry r => .next (s.requestRetry r)
  | _ => .next s

/-- Every queued store of a task from the oldest on stands `n` ticks from now at the earliest. -/
def State.delayStores (s : State) (r : TaskRef) (n : Nat) : State :=
  let c := s.core r.core
  let at_ := s.tickOf r.core + n
  let t := s.taskOf r
  ((s.setCore r.core { c with storeQ := c.storeQ.map (fun x =>
      if x.slot = r.slot ∧ x.due ≠ 0 then { x with due := Nat.max x.due at_ } else x) }).setTaskOf r
    { t with lastStore := Nat.max t.lastStore at_ }).atTick (seqAt r) at_ (.storeStamped r)

/-- The oldest unstamped store of a task is performed when it is due, and then the next (R275, R282): refused and repeated 16
ticks later while another core pins its line (R112, R278), waiting a tick while the line is reserved (R280). -/
def State.storeStamped (s : State) (r : TaskRef) : State :=
  match s.storesOf r with
  | [] => s
  | x :: rest =>
    let l := lineOf x.pa
    let ln := s.line l
    let tick := s.tickOf r.core
    if x.due = 0 ∨ tick < x.due then s
    else if ln.pinnedAgainst r.core then (s.unpinTask r).delayStores r 16
    else if ln.resv.isSome then s.delayStores r 1
    else if ln.owner.isSome && ln.owner != some (dieOf r.core) then
      (s.now (seqAt r) (.storeStamped r)).now (seqAt r) (.ownershipReturn l)
    else
      let c := s.core r.core
      let s1 := (s.setCore r.core { c with storeQ := c.storeQ.erase x }).storeDo r x
      match rest, (s1.taskOf r).accReq with
      | [], some a => if a.phase = .waiting ∨ a.phase = .failed then s1.now (seqAt r) (.requestRetry r) else s1
      | [], none => s1
      | y :: _, _ => if y.due ≠ 0 ∧ y.due ≤ tick then s1.now (seqAt r) (.storeStamped r) else s1

/-- STORE_STAMPED (R275, R282). -/
def execStoreStamped (s : State) : Res :=
  match s.ev with
  | .storeStamped r => .next (s.storeStamped r)
  | _ => .next s

/-- The home's push reaches a die: its slice's copy, and the copies in the recorded data caches of partition `p`, or of the
elastic partitions, take the data and stamps that were sent, unless they hold newer ones (R273, R277). -/
def State.leasePush (s : State) (d l : Nat) (p : Option Nat) (data : BitVec 512) (wts rts : Nat) : State :=
  let mine (k : Nat) : Bool :=
    match p with
    | some p => (s.core k).part == p
    | none => !(s.part (s.core k).part).fl
  let copy := Tbl.get? (s.slice (sliceOn d l)).copies l
  let ks :=
    if homeDie (l * 64) = d then (s.line l).caches
    else match copy with
      | none => []
      | some c => c.caches
  let s1 :=
    match copy with
    | none => s
    | some c =>
      if c.held && decide (c.wts < wts) then
        let sl := s.slice (sliceOn d l)
        s.setSlice (sliceOn d l) { sl with copies := Tbl.set sl.copies l { c with data := data, wts := wts, rts := rts } }
      else s
  (ks.filter mine).foldl (fun s k =>
    let c := s.core k
    s.setCore k { c with dcache := c.dcache.map (fun x =>
      if x.line = l ∧ x.wts < wts then { x with data := data, wts := wts, rts := rts } else x) }) s1

/-- LEASE_PUSH (R273). -/
def execLeasePush (s : State) : Res :=
  match s.ev with
  | .leasePush d l p data wts rts => .next (s.leasePush d l p data wts rts)
  | _ => .next s

/-- OWNERSHIP_RETURN (R274): the owner gives the line and its stamps back to the home. -/
def execOwnershipReturn (s : State) : Res :=
  match s.ev with
  | .ownershipReturn l => .next (s.returnLine l)
  | _ => .next s

/-- TABLE_WALK_COMPLETE (R351, R353): a walk that finds a leaf or block fills the TLBs; one that fails fills none. -/
def execTableWalkComplete (s : State) : Res :=
  match s.ev with
  | .tableWalkComplete k va l1 => .next (s.fillTlbs k va l1)
  | _ => .next s

/-- A request without a reply for 4096 mesh cycles, which are 2048 wall periods, is sent again with its number; one that has been
sent again 8 times and has none when the next would be due is a protocol error (R325). A retry response is a reply, so a
refused request counts from anew, and so does a store that waits at its home. -/
def State.taskReplay (s : State) (sm : Stream) (n : Nat) (r : TaskRef) (tries : Nat) : State :=
  let y := s.stream sm
  let k := r.core
  let again (c : Nat) : State := (s.setStream sm { y with sent := y.sent.map (fun z => if z.1 = n then (z.1, z.2.1, c) else z) }).atWall
    (s.wall.toNat + 2048) (.requestReplay sm n)
  let own := (s.taskOf r).accReq.toList.filter (fun x => x.phase == .sent || x.phase == .refused)
  match (own ++ s.storesOf r).find? (fun x => x.seq == n) with
  | none => s
  | some x =>
    if x.phase = .refused ∨ (!x.op.replies ∧ x.due ≠ 0) then again 0
    else if 8 ≤ tries then s.now (seqAt r) (.linkProtocolError (s.core k).part)
    else (again (tries + 1)).requestOut r x sm n 0

/-- The same of a request that stands in no task. -/
def State.msgReplay (s : State) (sm : Stream) (m : SentMsg) : State :=
  let y := s.stream sm
  if 8 ≤ m.tries then s.now s.cur (.linkProtocolError m.part)
  else
    let s1 := s.setStream sm { y with msgs := y.msgs.map (fun z => if z.num = m.num then { z with tries := z.tries + 1 } else z) }
    (s1.atWall (s.wall.toNat + 2048) (.requestReplay sm m.num)).carry sm.die sm.station m.goal m.dst (Fin.ofNat 4 sm.vc) m.part 16
      (fun _ => 0) [] (fun _ => m.kind) (some (sm, m.num)) true

/-- A request's number is looked at again (R325). -/
def State.requestReplay (s : State) (sm : Stream) (n : Nat) : State :=
  let y := s.stream sm
  match y.sent.find? (fun z => z.1 == n), y.msgs.find? (fun z => z.num == n) with
  | some (_, r, tries), _ => s.taskReplay sm n r tries
  | none, some m => s.msgReplay sm m
  | none, none => s

/-- REQUEST_REPLAY (R325). -/
def execRequestReplay (s : State) : Res :=
  match s.ev with
  | .requestReplay sm n => .next (s.requestReplay sm n)
  | _ => .next s

/-- An acknowledgement lets the home drop its kept reply; one for a number never sent is a protocol error (R325). -/
def State.requestAck (s : State) (sm : Stream) (n : Nat) : State :=
  let y := s.stream sm
  if n < y.acked ∨ 65536 ≤ y.acked then s.setStream sm { y with kept := y.kept.filter (fun z => z.1 != n) }
  else s.now s.cur (.linkProtocolError (s.core (s.coreOfStream sm)).part)

/-- REQUEST_ACKNOWLEDGEMENT (R325). -/
def execRequestAcknowledgement (s : State) : Res :=
  match s.ev with
  | .requestAcknowledgement sm n => .next (s.requestAck sm n)
  | _ => .next s

end Sys2Proof.Machine
end

