-- ==== Sys2Proof/Machine/SeqSync.lean ====
section
/-! DEFINITION. Sequencer synchronisation: fences, named barriers, events, `run`, `ewait` and `at`
(spec/05_sequencer_sync.md R113 to R117, R124 to R126), and the events that carry their requests and replies. -/

namespace Sys2Proof

/-- A barrier request that counts arrivals or begins the barrier. -/
def BarFn.arrives (f : BarFn) : Bool :=
  match f with
  | .init | .arr | .arrw => true
  | .wait | .query => false

/-- A barrier word that arrives, and so releases (R116). -/
def BarFn.releases (f : BarFn) : Bool :=
  match f with
  | .arr | .arrw => true
  | .init | .wait | .query => false

end Sys2Proof

namespace Sys2Proof.Machine

/-! ## What a task waits for -/

/-- Some earlier store, `stl` or `red` of the task has not been performed (R113). -/
def State.storesOpen (s : State) (r : TaskRef) : Bool :=
  decide (s.tickOf r.core < (s.taskOf r).lastStore) || (s.core r.core).storeQ.any (fun x => x.slot == r.slot)

/-- A step that a walker run submitted (spec/10_walker.md R236). -/
def XStep.isGather (x : XStep) : Bool :=
  match x.instr with
  | .wgo _ _ _ _ => true
  | _ => false

/-- The unit number of a step's faults (R337). -/
def XStep.unit (x : XStep) : Nat := if x.isGather then 4 else 3

/-- A step's fault. -/
def XStep.fault (x : XStep) (b : BadSector) : FaultInfo :=
  { cause := b.cause, unit := x.unit, loc := x.upc.toNat, acc := b.acc, why := b.why, addr := b.addr, sect := b.sector,
    code := 0 }

/-- Some run of the slot, or a step it issued, has not completed (R113). -/
def Core.workOpen (c : Core) (i : Fin 4) : Bool :=
  [Engine.vector, Engine.matrix, Engine.transfer, Engine.walker].any (fun e => c.runFor e i) ||
    c.xfr.steps.any (fun x => x.slot == i)

/-- No word or step of the engine is still in flight at a tick (R125). -/
def Core.drained (c : Core) (e : Engine) (tick : Nat) : Bool :=
  match e with
  | .vector => c.vec.pending.isEmpty
  | .matrix => c.mat.passes.isEmpty && c.mat.writes.isEmpty && decide (c.mat.settled ≤ tick + 1)
  | .transfer => c.xfr.steps.all (fun x => x.isGather)
  | .walker => c.xfr.steps.all (fun x => !x.isGather)

/-- The engine is idle (R125). -/
def Core.idle (c : Core) (e : Engine) (tick : Nat) : Bool := !(c.runOf e).active && c.drained e tick

/-! ## Fences (R113) -/

/-- What a fence waits for. -/
def State.fenceOpen (s : State) (engines : Bool) : Bool :=
  s.storesOpen s.meRef || (engines && s.me.workOpen s.cur.slot)

/-- `fence.mem`: the task's pins go. -/
def execFenceMem (s : State) : Res :=
  if s.fenceOpen false then .next s else .next ((s.unpinTask s.meRef).finish 1)

/-- The task takes the largest stamp of its completed steps (R276). -/
def Slot.takeDone (t : Slot) : Slot := t.receive t.doneStamp

/-- `fence.engines`. -/
def execFenceEngines (s : State) : Res :=
  if s.fenceOpen true then .next s else .next ((s.setTask s.task.takeDone).finish 1)

/-- `fence.both`. -/
def execFenceBoth (s : State) : Res :=
  if s.fenceOpen true then .next s
  else
    let s1 := s.unpinTask s.meRef
    .next ((s1.setTask s1.task.takeDone).finish 1)

/-! ## Named barriers (R22, R114 to R116) -/

/-- The state word of a barrier (R22). -/
def Bar.word (b : Bar) : Word64 :=
  BitVec.ofNat 64 (b2n b.val + put b.cnt.toNat 1 + put b.arr.toNat 14 + put (b2n b.ph) 27)

/-- A barrier of a core. -/
def Core.bar (c : Core) (n : Nat) : Bar := Tbl.getD c.bars n Bar.reset

/-- The core with a barrier replaced. -/
def Core.setBar (c : Core) (n : Nat) (b : Bar) : Core := { c with bars := Tbl.set c.bars n b }

/-- What a request finds at the home. -/
inductive BarAnswer where
  | fault
  | reply (v : Word64) (stamp : Nat)
  | waits
  deriving DecidableEq, Repr

/-- The phase has completed of which a request waits: for `wait` the phase differs from bit 0 of its argument (R115), for
`arrw` from the phase before its arrival, which the request carries in its place. -/
def Bar.passed (b : Bar) (r : BarReq) : Bool := b.ph != r.arg.getLsbD 0

/-- `init` (R115). -/
def Bar.init (b : Bar) (arg : Word64) : Bar × BarAnswer :=
  if arg.toNat < 1 ∨ 8191 < arg.toNat ∨ (b.val ∧ b.arr ≠ 0) then (b, .fault)
  else
    let b1 := { b with ph := b.val && b.ph, val := true, cnt := BitVec.ofNat 13 arg.toNat, arr := 0 }
    (b1, .reply b1.word 0)

/-- `arr` (R115): the state before the arrival, and the barrier after it. -/
def Bar.arrive (b : Bar) (r : BarReq) : Bar × BarAnswer :=
  let k := if r.arg = 0 then 1 else r.arg.toNat
  if b.val = false ∨ b.cnt.toNat < b.arr.toNat + k then (b, .fault)
  else
    let stamp := Nat.max b.stamp r.stamp
    if b.arr.toNat + k = b.cnt.toNat then
      ({ b with arr := 0, ph := !b.ph, stamp := 0, done := Nat.max b.done stamp }, .reply b.word 0)
    else ({ b with arr := BitVec.ofNat 13 (b.arr.toNat + k), stamp := stamp }, .reply b.word 0)

/-- A request performed on the state word (R115). A request that waits stands in `waits`. -/
def Bar.perform (b : Bar) (r : BarReq) : Bar × BarAnswer :=
  match r.fn with
  | .init => b.init r.arg
  | .query => (b, .reply b.word 0)
  | .arr => b.arrive r
  | .wait =>
    if b.val = false then (b, .fault)
    else if b.passed r then (b, .reply b.word b.done)
    else ({ b with waits := b.waits ++ [r] }, .waits)
  | .arrw =>
    match b.arrive r with
    | (b1, .reply w _) =>
      let r1 := { r with arg := w >>> 27 }
      if b1.passed r1 then (b1, .reply b1.word b1.done) else ({ b1 with waits := b1.waits ++ [r1] }, .waits)
    | x => x

/-- A reply reaches its task (R86, R115): the state word goes to g[d]. Behind a request to another core the next word may
issue in the reply's tick, and a tick later behind a wait or a request of the task's own core. -/
def State.barReply (s : State) (r : BarReq) (v : Option Word64) (stamp : Nat) : State :=
  let t := s.taskOf r.who
  if (s.core r.who.core).run ≠ .running then s.atTick (seqAt r.who) (s.tickOf r.who.core + 1) (.barrierReply r v stamp)
  else if t.hold ≠ .barrier then s
  else
    let t1 := { t with hold := .none }
    match v with
    | none =>
      (s.setTaskOf r.who t1).takeFault r.who (FaultInfo.plain 0x0F 0 t.pc.toNat) false
    | some w =>
      let late := r.fn == .wait || r.fn == .arrw || r.home == r.who.core
      s.setTaskOf r.who (((t1.receive stamp).setReg r.dst w).advance (s.tickOf r.who.core) (if late then 1 else 0))

/-- Ticks of one way of a barrier request in fixed-latency mode (R115). -/
def barWay (a b : Nat) : Nat := 24 + 12 * hops (dieOf a) (dieOf b)

/-- A message between cores on a channel, the control channel or that of replies (R322): it takes 24 + 12·h ticks in fixed-latency
mode (R115, R117). In elastic mode, for which no time is given, it is a flit that becomes head as a request of R332 does, between
cores of one die too (DESIGN CHOICE, log 124). -/
def State.control (s : State) (from_ to_ : Nat) (vc : Fin 4) (who : Cur) (e : Ev) : State :=
  let p := (s.core from_).part
  let go (kind : FlitKind) (mesh : Bool) : State :=
    s.send (dieOf from_) (s.physOf from_) (dieOf to_) (s.physOf to_) vc p 16 (fun _ => 0) [] (fun _ => kind) mesh
  if (s.part p).fl then (go (.traffic (dieOf from_) 0) (dieOf from_ != dieOf to_)).atTick who (s.tickOf from_ + barWay from_ to_) e
  else go (.carries who e) true

/-- A reply on its way: at once to a task of the home core, by the control channel to any other (R115). -/
def State.barAnswer (s : State) (r : BarReq) (v : Option Word64) (stamp : Nat) : State :=
  if r.home = r.who.core then s.barReply r v stamp
  else s.control r.home r.who.core 2 (seqAt r.who) (.barrierReply r v stamp)

/-- Waits that the barrier's phase has passed are answered, in order. -/
def State.wakeBar (s : State) (home num : Nat) : State :=
  let b := (s.core home).bar num
  let s1 := s.setCore home ((s.core home).setBar num { b with waits := b.waits.filter (fun r => !b.passed r) })
  (b.waits.filter b.passed).foldr (fun r s => s.barAnswer r (some b.word) b.done) s1

/-- A request performed at its home. -/
def State.barPerform (s : State) (r : BarReq) : State :=
  let c := s.core r.home
  let (b, ans) := (c.bar r.num).perform r
  let s1 := s.setCore r.home (c.setBar r.num b)
  match ans with
  | .fault => s1.barAnswer r none 0
  | .reply v stamp => (s1.barAnswer r (some v) stamp).wakeBar r.home r.num
  | .waits => s1.wakeBar r.home r.num

/-- The home core of a barrier name, or the fault of R114. -/
def State.barHome (s : State) (a : Word64) : Except Nat Nat :=
  let rem := bit a.toNat 9
  if bitsOf a 21 43 ≠ 0 ∨ (!rem ∧ bitsOf a 10 11 ≠ 0) then .error 0x0F
  else if !rem then .ok s.cur.core
  else
    let k := (bitsOf a 18 3 * 4 + bitsOf a 16 2) * 64 + bitsOf a 10 6
    if (s.part s.partNo).hasCore k then .ok k else .error 0x09

/-- A barrier request's place in the global order of its tick (R115, R275). -/
def State.barKey (s : State) (r : BarReq) : Nat :=
  ((r.stamp * 32 + dieOf r.who.core) * 128 + s.physOf r.who.core) * 4 + r.who.slot.val

/-- A request put into a list in the order of its key, after its equals. -/
def insertBar (key : BarReq → Nat) (r : BarReq) : List BarReq → List BarReq
  | [] => [r]
  | q :: rest => if key r < key q then r :: q :: rest else q :: insertBar key r rest

/-- The barrier request that a timer brings to its home in partition `p` by its present tick. -/
def State.barDue (s : State) (p : Nat) (t : Timer) : Option BarReq :=
  match t.ev with
  | .barrierRequestArrival r => if t.clock = some p ∧ t.due ≤ (s.part p).tick then some r else none
  | _ => none

/-- The requests of those that have reached their homes, and satisfy `f`, taken in global order. -/
def State.takeBars (s : State) (p : Nat) (f : BarReq → Bool) : State × List BarReq :=
  let here (t : Timer) : Bool :=
    match s.barDue p t with
    | none => false
    | some r => f r
  let rs := (s.timers.filter here).filterMap (s.barDue p)
  ({ s with timers := s.timers.filter (fun t => !here t) }, rs.foldl (fun acc r => insertBar s.barKey r acc) [])

/-- The requests of this tick that go before one of the home core itself: of two arrivals the one first in the global order,
and every arrival before a wait or query (R115). -/
def State.barsBefore (s : State) (r : BarReq) : State :=
  let (s1, rs) := s.takeBars s.partNo (fun q => q.home == r.home && q.num == r.num && q.fn.arrives &&
    (!r.fn.arrives || decide (s.barKey q < s.barKey r)))
  rs.foldl (fun s q => s.barPerform q) s1

/-- What stands in the way of a `bar` word: an arrival orders the task's stores before itself (R112, R116, R280). -/
def State.barSay (s : State) (fn : BarFn) : LinesSay := if fn.releases then s.wordSay s.meRef [] else .free

/-- A `bar` word (R114 to R116): the arrival is a release, which ends the task's pins and orders its stores. -/
def State.barWord (s : State) (fn : BarFn) (d a b : GReg) : State :=
  match s.barHome (s.g a) with
  | .error cause => s.seqFault cause 0 0 0 0
  | .ok home =>
    match s.barSay fn with
    | .refused => s.wordRetry
    | .reserved => s
    | .free =>
      let s1 := if fn.releases then (s.flushStores s.meRef).unpinTask s.meRef else s
      let r : BarReq :=
        { fn := fn, who := s.meRef, home := home, num := bitsOf (s.g a) 0 9, arg := s.g b, dst := d, stamp := s1.task.ts }
      let s2 := s1.setTask { s1.task with hold := .barrier }
      if home = s.cur.core then (s2.barsBefore r).barPerform r
      else s2.control s.cur.core home 3 (seqAt s.meRef) (.barrierRequestArrival r)

/-- R115, fn 0. -/
def execBarInit (d a b : GReg) (s : State) : Res := .next (s.barWord .init d a b)
/-- R115, fn 1. -/
def execBarArr (d a b : GReg) (s : State) : Res := .next (s.barWord .arr d a b)
/-- R115, fn 2. -/
def execBarWait (d a b : GReg) (s : State) : Res := .next (s.barWord .wait d a b)
/-- R115, fn 3. -/
def execBarArrw (d a b : GReg) (s : State) : Res := .next (s.barWord .arrw d a b)
/-- R115, fn 4. -/
def execBarQuery (d a b : GReg) (s : State) : Res := .next (s.barWord .query d a b)

/-- A delivery to a core that is not running is held at its station, up to 256 of them; beyond that it waits at its
source, behind those that wait already (R292, R293). -/
def State.holdDelivery (s : State) (k : Nat) (x : Delivery) : State :=
  let c := s.core k
  if s.stationRoom k && c.late.isEmpty then s.setCore k { c with held := c.held ++ [x] }
  else s.setCore k { c with late := c.late ++ [x] }

/-- Entries have become free: deliveries that wait at their sources take them, in order (R293). -/
def State.fillStation (s : State) (k : Nat) : List Delivery → State
  | [] => s
  | x :: rest =>
    if s.stationRoom k then
      let c := s.core k
      (s.setCore k { c with held := c.held ++ [x], late := rest }).fillStation k rest
    else s

/-- BARRIER_REQUEST_ARRIVAL (R115, R292). -/
def execBarrierRequestArrival (s : State) : Res :=
  match s.ev with
  | .barrierRequestArrival r =>
    if (s.core r.home).run = .running then .next (s.barPerform r)
    else .next (s.holdDelivery r.home (.barrier r))
  | _ => .next s

/-- BARRIER_REPLY (R115). -/
def execBarrierReply (s : State) : Res :=
  match s.ev with
  | .barrierReply r v stamp => .next (s.barReply r v stamp)
  | _ => .next s

/-! ## Events (R117) -/

/-- The latch of a slot is set, with the larger stamp (R276). A slot without a task drops it. -/
def Slot.latchSet (t : Slot) (stamp : Nat) : Slot :=
  if t.occupied then { t with latch := true, latchStamp := Nat.max t.latchStamp stamp } else t

/-- The latch is cleared. -/
def Slot.latchClear (t : Slot) : Slot := { t with latch := false, latchStamp := 0 }

/-- A `sev` reaches its target. -/
def State.sevAt (s : State) (r : TaskRef) (stamp : Nat) : State :=
  if (s.core r.core).run = .running then s.setTaskOf r ((s.taskOf r).latchSet stamp)
  else s.holdDelivery r.core (.sev r.slot stamp)

/-- What stands in the way of a `sev` to a core: the lines of the task's stores, which it orders before itself, and a station
without an entry for it. A target that shares its physical core may be switched out when the `sev` arrives, and the word may
not have completed then (R112, R280, R293; DEDUCED, log 123). -/
def State.sevSay (s : State) (home : Nat) : LinesSay :=
  match s.wordSay s.meRef [] with
  | .free =>
    if home = s.cur.core ∨ ((s.core home).run = .running ∧ s.partnerOf home = none) ∨ s.stationRoom home then .free else .reserved
  | x => x

/-- The core that a `sev` names with rem = 1. -/
def sevCore (w : Word64) : Nat := (bitsOf w 11 3 * 4 + bitsOf w 9 2) * 64 + bitsOf w 3 6

/-- The core that a `sev` of core `k` names. -/
def sevHome (w : Word64) (k : Nat) : Nat := if bit w.toNat 2 then sevCore w else k

/-- The faults of a `sev` in their order. -/
def sevFault (w : Word64) (has : Nat → Bool) : Option Nat :=
  let rem := bit w.toNat 2
  if bitsOf w 14 50 ≠ 0 ∨ (!rem ∧ bitsOf w 3 11 ≠ 0) then some 0x01
  else if rem ∧ !has (sevCore w) then some 0x09
  else none

/-- R117, fn 0. -/
def execSev (a : GReg) (s : State) : Res :=
  let w := s.g a
  match sevFault w (fun k => (s.part s.partNo).hasCore k) with
  | some cause => .next (s.seqFault cause 0 0 0 0)
  | none =>
    let home := sevHome w s.cur.core
    match s.sevSay home with
    | .refused => .next s.wordRetry
    | .reserved => .next s
    | .free =>
      let s1 := s.flushStores s.meRef
      let stamp := s1.task.ts
      let s2 := s1.finish 1
      let r : TaskRef := { core := home, slot := Fin.ofNat 4 (bitsOf w 0 2) }
      if home = s.cur.core then .next (s2.sevAt r stamp)
      else .next (s2.control s.cur.core home 3 (seqAt r) (.sevArrival r stamp))

/-- SEV_ARRIVAL (R117, R292). -/
def execSevArrival (s : State) : Res :=
  match s.ev with
  | .sevArrival r stamp => .next (s.sevAt r stamp)
  | _ => .next s

/-- R117, fn 1. -/
def execWfe (s : State) : Res :=
  let t := s.task
  if t.latch then .next (s.setTask (((t.receive t.latchStamp).latchClear).advance s.tick 1)) else .next s

/-- R117, fn 2. -/
def execClrev (s : State) : Res := .next (s.setTask (s.task.latchClear.advance s.tick 1))

/-! ## Engine runs and waits (R124 to R126) -/

/-- The copies a run takes of its task's registers (R30). -/
def Slot.runCfg (t : Slot) : RunCfg :=
  { frm := t.frm, trapen := t.trapen, holdchk := t.holdchk, clamplo := t.clamplo, clamphi := t.clamphi,
    tagbase := t.tagbase, leaselen := t.leaselen }

/-- The range of a `run` is refused (R62, R70). -/
def State.rangeBad (s : State) (e : Engine) (w : Word64) : Bool :=
  bitsOf w 48 16 != 0 || decide (bitsOf w 24 24 < bitsOf w 0 24) ||
    decide (s.sectionLen s.cur.core (.eng e) < bitsOf w 24 24)

/-- Parameter registers of a run: g[d] to g[d + n − 1], the rest 0 (R70). -/
def Slot.params (t : Slot) (d : GReg) (n : Nat) : Vector Word64 4 :=
  Vector.ofFn (fun i : Fin 4 => if i.val < n then t.reg (Fin.ofNat 32 (d.val + i.val)) else 0)

/-- The core with a run begun on engine `e` (R23, R30, R70). A matrix run's first step counts as an effect that lands in its
issue tick: an `msync` that stands first completes one tick later (spec/21_program_watchdog.md; DEDUCED, log 40). -/
def Core.begin (c : Core) (e : Engine) (r : Run) : Core :=
  let c1 := c.setRun e r
  match e with
  | .matrix => { c1 with mat := { c1.mat with
      curTag := r.cfg.tagbase, progress := 0, stamp := 0, settled := Nat.max c1.mat.settled (r.nextAt + 1) } }
  | .vector | .transfer | .walker => c1

/-- `run` (R124): it waits until no earlier run is in progress; the engine's first word issues 2 ticks after it. -/
def State.runWord (s : State) (e : Engine) (d a : GReg) (n : BitVec 3) : State :=
  let w := s.g a
  if s.rangeBad e w then s.seqFault 0x01 0 0 0 0
  else if (s.run e).active then s
  else
    let t := s.task
    let r : Run :=
      { active := true, ending := false, owner := s.cur.slot, upc := BitVec.ofNat 24 (bitsOf w 0 24),
        endOff := BitVec.ofNat 24 (bitsOf w 24 24), vp := t.params d n.toNat, cfg := t.runCfg, nextAt := s.tick + 2,
        halted := none, orphan := false, filling := false }
    (s.setMe (s.me.begin e r)).finish 1

/-- R124, k = 0. -/
def execRunV (d a : GReg) (n : BitVec 3) (s : State) : Res := .next (s.runWord .vector d a n)
/-- R124, k = 1. -/
def execRunM (d a : GReg) (n : BitVec 3) (s : State) : Res := .next (s.runWord .matrix d a n)
/-- R124, k = 2. -/
def execRunX (d a : GReg) (n : BitVec 3) (s : State) : Res := .next (s.runWord .transfer d a n)
/-- R124, k = 3. -/
def execRunW (d a : GReg) (n : BitVec 3) (s : State) : Res := .next (s.runWord .walker d a n)

/-- The end of a run: a matrix run closes its bag (spec/08_matrix_steps.md R188), and its task's completed steps carry the stamps
of the bags' reads (R276). -/
def Core.finishRun (c : Core) (e : Engine) (tick : Nat) : Core :=
  match e with
  | .matrix =>
    let r := c.runOf .matrix
    let t := c.task r.owner
    let c1 := if r.orphan then c else c.setTask r.owner { t with doneStamp := Nat.max t.doneStamp c.mat.stamp }
    (c1.closeBag tick).endRun .matrix
  | .vector => c.endRun .vector
  | .transfer => c.endRun .transfer
  | .walker => c.endRun .walker

/-- Every engine of a mask is idle (R70, R125). -/
def State.enginesIdle (s : State) (mask : BitVec 4) : Bool :=
  [Engine.vector, Engine.matrix, Engine.transfer, Engine.walker].all
    (fun e => !mask.getLsbD e.idx.val || s.me.idle e s.tick)

/-- R125, k = 0. -/
def execEwaitE (mask : BitVec 4) (s : State) : Res :=
  if s.enginesIdle mask then .next (s.finish 1) else .next s

/-- R125, k = 1. -/
def execEwaitK (mask : BitVec 8) (s : State) : Res :=
  let t := s.task
  if t.tokensSet mask then .next (s.setTask ((t.receive (t.tokenStamp mask)).advance s.tick 1)) else .next s

/-- `at` (R126): the next word may issue in tick g[a] itself, or a tick later when that is not in the future. -/
def execAtTick (a : GReg) (s : State) : Res :=
  let n := (s.g a).toNat
  let t := s.task.advance s.tick 1
  .next (s.setTask (if s.tick < n then { t with readyAt := n, hold := .tick } else t))

end Sys2Proof.Machine
end

