-- ==== Sys2Proof/Machine/Mail.lean ====
section
/-! DEFINITION. Mailboxes, packets and launches (spec/14_scheduling.md R295 to R302, R359; spec/01_machine_state.md R12;
spec/05_sequencer_sync.md R123): writing a packet, the front end, the launch queues and the watchdog. -/

namespace Sys2Proof.Machine

/-! ## The circular area (R295) -/

/-- Bytes in use. -/
def Mbox.used (m : Mbox) : Nat := if m.wl = m.fl then m.wo.toNat - m.fo.toNat else m.area.toNat - m.fo.toNat + m.wo.toNat

/-- Unparsed bytes. -/
def Mbox.unparsed (m : Mbox) : Nat := if m.wl = m.rl then m.wo.toNat - m.ro.toNat else m.area.toNat - m.ro.toNat + m.wo.toNat

/-- Bytes of the skip packet that a packet of `n` bytes needs before it (R123). -/
def Mbox.skip (m : Mbox) (n : Nat) : Nat := if m.area.toNat < m.wo.toNat + n then m.area.toNat - m.wo.toNat else 0

/-- A packet of `n` bytes, with its skip, finds room. -/
def Mbox.room (m : Mbox) (n : Nat) : Bool := decide (m.used + m.skip n + n ≤ m.area.toNat)

/-- The bytes of a skip packet of `n` bytes (R296): its header and nothing else. -/
def skipBytes (n : Nat) : List Byte := leBytes 8 (2 + put (n / 16) 16)

/-- The mailbox may be written by a partition (R123, R295). -/
def Mbox.writable (m : Mbox) (p : Nat) : Bool := m.st != 0 && (m.part.toNat == p || m.snd.getLsbD p)

/-- The write offset moved to `wo` and `wl`, with the stamp of the write. -/
def Mbox.moveWo (m : Mbox) (wo : BitVec 25) (wl : Bool) (stamp : Nat) : Mbox :=
  let m1 := { m with wo := wo, wl := wl }
  { m1 with stamp := Nat.max m.stamp stamp, wrote := m.wrote ++ [(m1.unparsed - m.unparsed, stamp)] }

/-- The write offset moved on by `n` bytes, with the stamp of the write. -/
def Mbox.advance (m : Mbox) (n stamp : Nat) : Mbox :=
  let (wo, wl) := advanceOff m.wo m.wl m.area.toNat n
  m.moveWo wo wl stamp

/-- The largest stamp of the advances that cover the first `n` bytes, and the advances over the bytes behind them. -/
def coverStamp (n : Nat) : List (Nat × Nat) → Nat × List (Nat × Nat)
  | [] => (0, [])
  | (b, st) :: rest =>
    if n = 0 then (0, (b, st) :: rest)
    else if n < b then (st, (b - n, st) :: rest)
    else
      let (m, l) := coverStamp (n - b) rest
      (Nat.max st m, l)

/-! ## A partition's memory, as package management and the front end reach it -/

/-- The physical address of a byte of a partition's space, by its tables. -/
def State.partPhys (s : State) (p va : Nat) : Except TransFail Nat :=
  match s.walk p va with
  | .error f => .error f
  | .ok e => .ok (e.phys va)

/-- `n` bytes of a partition's space, one by one; a byte that no page maps reads 0 (DEDUCED, log 34). -/
def State.partRead (s : State) (p va : Nat) : Nat → List Byte
  | 0 => []
  | n + 1 =>
    let b :=
      match s.partPhys p va with
      | .error _ => 0
      | .ok pa => ((s.physLoad pa 1).headD 0)
    b :: s.partRead p (va + 1) n

/-- Addressed bytes of a partition's space as physical cells, or the first failure and its address. -/
def State.partCells (s : State) (p va : Nat) : List Byte → Except (TransFail × Nat) (List (Nat × Byte))
  | [] => .ok []
  | b :: rest =>
    match s.partPhys p va with
    | .error f => .error (f, va)
    | .ok pa =>
      match s.partCells p (va + 1) rest with
      | .error f => .error f
      | .ok cs => .ok ((pa, b) :: cs)

/-- The cells of a packet of bytes `bs` written at a mailbox's write offset, with its skip before it. -/
def State.packetCells (s : State) (m : Mbox) (bs : List Byte) : Except (TransFail × Nat) (List (Nat × Byte)) :=
  let p := m.part.toNat
  let k := m.skip bs.length
  if k = 0 then s.partCells p (m.base.toNat + m.wo.toNat) bs
  else
    match s.partCells p (m.base.toNat + m.wo.toNat) (skipBytes k), s.partCells p m.base.toNat bs with
    | .ok a, .ok b => .ok (a ++ b)
    | .error f, _ => .error f
    | _, .error f => .error f

/-- Where a packet of `n` bytes goes. -/
def Mbox.packetOff (m : Mbox) (n : Nat) : Nat := if m.skip n = 0 then m.wo.toNat else 0

/-- A packet written at one stamp, and the write offset moved past it and its skip (R123, R276). -/
def State.putPacket (s : State) (num : Nat) (cells : List (Nat × Byte)) (n ts : Nat) : State × Nat :=
  let m := s.mbox num
  let s0 := s.disown 32 (linesOf cells)
  let st := s0.commitStamp (linesOf cells) ts
  let s1 := s0.commitCells cells st
  let m1 := if m.skip n = 0 then m else m.advance (m.skip n) st
  (s1.setMbox num (m1.advance n st), st)

/-! ## Target sets (R295, R297) -/

/-- First die of the target set, which serves the mailbox (R299). -/
def Mbox.servDie (m : Mbox) : Nat := fld m.tset.toNat 16 3 * 4 + fld m.tset.toNat 12 2

/-- The cores of the target set, in increasing die, then core. -/
def Mbox.targets (m : Mbox) : List Nat :=
  let w := m.tset.toNat
  ((List.range 32).filter (fun d => decide (fld w 12 2 ≤ d % 4) && decide (d % 4 ≤ fld w 14 2) &&
      decide (fld w 16 3 ≤ d / 4) && decide (d / 4 ≤ fld w 19 3))).flatMap
    (fun d => (List.range (fld w 6 6 + 1)).map (fun i => d * 64 + fld w 0 6 + i))

/-! ## Launches (R299, R119) -/

/-- Queued launches take the free slots of a running core. -/
def State.fillSlots (s : State) (k : Nat) : Nat → State
  | 0 => s
  | n + 1 =>
    let c := s.core k
    match c.freeSlot, c.launchQ with
    | some i, l :: rest =>
      if c.run = .running then ((s.setCore k { c with launchQ := rest }).startTask k i l).fillSlots k n else s
    | _, _ => s

/-- Launches offered to core `k` in order: those that found room are gone. -/
def State.offer (s : State) (k : Nat) : List (Nat × Launch) → State × List (Nat × Launch)
  | [] => (s, [])
  | (c, l) :: rest =>
    if c = k ∧ l.arrive ≤ s.tickOf k then
      match s.acceptLaunch k l with
      | some s1 => s1.offer k rest
      | none =>
        let (s1, left) := s.offer k rest
        (s1, (c, l) :: left)
    else
      let (s1, left) := s.offer k rest
      (s1, (c, l) :: left)

/-- The launches of a mailbox's packets offered to a core. -/
def State.offerPackets (s : State) (num k : Nat) : Nat → State
  | 0 => s
  | n + 1 =>
    let s := s.offerPackets num k n
    match (s.mbox num).pkts[n]? with
    | none => s
    | some p =>
      let (s1, left) := s.offer k p.toLaunch
      let m := s1.mbox num
      s1.setMbox num { m with pkts := m.pkts.map (fun q => if q.off = p.off then { q with toLaunch := left } else q) }

/-- A parent's children offered to a core: once all are accepted the parent goes on a tick later (R86, R119). -/
def State.offerChildren (s : State) (r : TaskRef) (k : Nat) : State :=
  let t := s.taskOf r
  if t.pendSpawn = [] then s
  else
    let (s1, left) := s.offer k t.pendSpawn
    let t1 := { s1.taskOf r with pendSpawn := left }
    s1.setTaskOf r (if left = [] then t1.advance (s.tickOf r.core) 1 else t1)

/-- LAUNCH_QUEUE_ACCEPT: what waits for a slot or for room in the queue of a core is taken, the queue first (R119,
R299). -/
def State.launchAccept (s : State) (k : Nat) : State :=
  let s1 := s.fillSlots k 4
  let p := (s1.core k).part
  let s2 := (s1.mboxes.filter (fun e => e.2.part.toNat == p)).foldl
    (fun s e => s.offerPackets e.1 k e.2.pkts.length) s1
  (s2.cores.filter (fun e => e.2.part == p)).foldl
    (fun s e => (List.finRange 4).foldl (fun s i => s.offerChildren { core := e.1, slot := i } k) s) s2

/-- LAUNCH_QUEUE_ACCEPT. -/
def execLaunchQueueAccept (s : State) : Res :=
  match s.ev with
  | .launchQueueAccept k => .next (s.launchAccept k)
  | _ => .next s

/-- TIMED_LAUNCH_START (R301): the task may issue its first word. -/
def execTimedLaunchStart (s : State) : Res :=
  match s.ev with
  | .timedLaunchStart r =>
    let t := s.taskOf r
    .next (if t.hold = .launch then s.setTaskOf r { t with hold := .none } else s)
  | _ => .next s

/-! ## The front end (R296 to R301) -/

/-- A queue-class stop of a mailbox (R298): a record, which waits for room in a full queue, and a notice to the system cores
(R336; DEDUCED, log 54), as a message of VC3 (R322). -/
def State.stopMailbox (s : State) (num cause : Nat) : State :=
  let m := s.mbox num
  let p := m.part.toNat
  let x : FaultRec :=
    { cause := BitVec.ofNat 8 cause, unit := 5, cls := 2, res := false, who := 0, acc := 0, why := 0,
      mbox := BitVec.ofNat 12 num, loc := 0, addr := BitVec.ofNat 64 m.ro.toNat, sect := 0, code := 0, part := m.part }
  let s1 := s.setMbox num { m with st := 2, cause := BitVec.ofNat 8 cause }
  let s2 := if (s1.part p).hasRoom 2 then s1.appendRecord p x
    else s1.setPart p { s1.part p with waiting := (s1.part p).waiting ++ [x] }
  ({ s2 with endpoint := { s2.endpoint with notices := s2.endpoint.notices ++ [.mailboxStopped num cause] } } : State).travel
    m.servDie 94 32 0 3 p 16 0

/-- The header checks of R298 and R301, on the header word, the read offset, the area and the unparsed bytes. -/
def headerBad (h ro area unparsed : Nat) : Option Nat :=
  let kind := fld h 0 8
  let op := fld h 8 8
  let len := fld h 16 6
  let pb := fld h 24 4
  let pay := (len - 1) * 16 - pb
  if (kind ≠ 1 ∧ kind ≠ 2) ∨ fld h 22 2 ≠ 0 ∨ fld h 29 3 ≠ 0 ∨ len < 1 ∨ 32 < len ∨
      (pb ≠ 0 ∧ (len = 1 ∨ kind = 2)) ∨ unparsed < len * 16 ∨ (bit h 28 ∧ pay < 8) then some 0x60
  else if op ≠ 0 ∧ ¬(kind = 1 ∧ op = 1) then some 0x61
  else if area < ro + len * 16 then some 0x62
  else none

/-- The padded read of a header line from the serving die (R301): with the die TLB's entry, which is then the one used last, or
with a walk, which ends in its time and fills the TLB (R351, R353). -/
def State.headerRead (s : State) (p die va : Nat) : Nat × State :=
  match tlbFind (s.die die).tlb (s.part p).asid va with
  | some e => (homePad die (e.phys va), s.touchDie die e)
  | none =>
    let ticks := s.walkTicks p die va
    match s.walk p va with
    | .ok e => (homePad die (e.phys va) + ticks, s.startWalk (die * 64 + (s.part p).core0) va .frontEnd ticks (.ok e))
    | .error _ => (ticks, s)

/-- The launches of a message packet, with the stamp of its write (R12, R276, R297, R299, R301). -/
def State.packetLaunches (s : State) (num h pad stamp : Nat) : List (Nat × Launch) :=
  let m := s.mbox num
  let p := m.part.toNat
  let va := m.base.toNat + m.ro.toNat
  let pay := (fld h 16 6 - 1) * 16 - fld h 24 4
  let all := m.targets
  let cores := if fld h 8 8 = 1 then (all[fld h 32 32 % all.length]?).toList else all
  let tick := (s.part p).tick
  let timed := if bit h 28 then leNat (s.partRead p (va + 16) 8) else 0
  let arg := leNat (s.partRead p (va + 8) 8)
  let g : List Word64 := [0, BitVec.ofNat 64 arg, BitVec.ofNat 64 va, BitVec.ofNat 64 pay, BitVec.ofNat 64 num]
  cores.map (fun k =>
    let arrive := tick + pad + 4 + 24 * hops m.servDie (dieOf k)
    (k, { pc := BitVec.ofNat 64 m.entry.toNat, g := g, stamp := stamp, stage := fld m.tset.toNat 22 3, mbox := num,
          pkt := some m.ro.toNat, join := 0, arrive := arrive, startAt := Nat.max timed arrive }))

/-- PACKET_PARSE (R298, R299): the packet at ro is checked; a message's tasks go to their cores, and ro moves past it. -/
def State.packetParse (s : State) (num : Nat) : State :=
  let m := s.mbox num
  let p := m.part.toNat
  let va := m.base.toNat + m.ro.toNat
  let h := leNat (s.partRead p va 8)
  match headerBad h m.ro.toNat m.area.toNat m.unparsed with
  | some cause => s.stopMailbox num cause
  | none =>
    let n := fld h 16 6 * 16
    let (pad, s0) := s.headerRead p m.servDie va
    let (stamp, wrote) := coverStamp n m.wrote
    let ls := if fld h 0 8 = 1 then s.packetLaunches num h pad stamp else []
    let (ro, rl) := advanceOff m.ro m.rl m.area.toNat n
    let pk : Packet := { off := m.ro.toNat, len := n, left := ls.length, started := none, toLaunch := ls }
    let m1 := { m with ro := ro, rl := rl, pkts := m.pkts ++ [pk], wrote := wrote }
    ls.foldl (fun s l =>
      (s.travel m.servDie 94 (dieOf l.1) (s.physOf l.1) 3 p 32 0).atTick (engAt l.1 .vector) l.2.arrive
        (.launchQueueAccept l.1)) (s0.setMbox num (freeFront m1 m1.pkts))

/-- PACKET_PARSE. -/
def execPacketParse (s : State) : Res :=
  match s.ev with
  | .packetParse m => .next (s.packetParse m)
  | _ => .next s

/-- The mailbox's front packet may be parsed: every task of the packets before it has been accepted into a slot or a launch
queue (R298, R299, R375; DEDUCED, log 60). -/
def Mbox.mayParse (m : Mbox) : Bool :=
  m.st == 1 && (m.ro != m.wo || m.rl != m.wl) && m.pkts.all (fun p => p.toLaunch.isEmpty)

/-- The mailboxes of partitions `ps` with a packet to parse. -/
def State.frontReady (s : State) (ps : List Nat) : List (Nat × Mbox) :=
  s.mboxes.filter (fun e => ps.contains e.2.part.toNat && e.2.mayParse)

/-- The mailbox of a list that a die's front end serves next: in increasing number, after the one served last (R299). -/
def State.frontPick (s : State) (ready : List (Nat × Mbox)) (d : Nat) : Option Nat :=
  let ms := (ready.filter (fun e => e.2.servDie == d)).map (fun e => e.1)
  match (s.die d).feLast with
  | none => ms.head?
  | some last =>
    match ms.find? (fun m => decide (last < m)) with
    | some m => some m
    | none => ms.head?

/-- Each die's front end takes one header of the partitions `ps` (R299). -/
def State.frontTake (s : State) (ps : List Nat) : State :=
  let ready := s.frontReady ps
  (List.range 32).foldr (fun d s =>
    match s.frontPick ready d with
    | none => s
    | some m => (s.setDie d { s.die d with feLast := some m }).now s.cur (.packetParse m)) s

/-! ## The watchdog (R302, R359) -/

/-- The first word of a packet's task issues: its count starts. -/
def State.startPacket (s : State) (r : TaskRef) : State :=
  let t := s.taskOf r
  let s1 := s.setTaskOf r { t with started := true }
  match t.pkt with
  | none => s1
  | some off =>
    let m := s1.mbox t.mbox.toNat
    s1.setMbox t.mbox.toNat { m with pkts := m.pkts.map (fun p =>
      if p.off = off ∧ p.started = none then { p with started := some (s.tickOf r.core) } else p) }

/-- A packet's count has reached the period, and a task of it has not ended. -/
def Mbox.expired (m : Mbox) (tick : Nat) : Bool :=
  m.pkts.any (fun p => decide (0 < p.left) &&
    (match p.started with
     | none => false
     | some t => decide (t + m.wdog.toNat ≤ tick)))

/-- The first mailbox of a partition whose watchdog expires in this tick. -/
def State.watchdogDue (s : State) (p : Nat) : Option Nat :=
  (s.mboxes.find? (fun e => e.2.part.toNat == p && e.2.expired (s.part p).tick)).map (fun e => e.1)

/-- WATCHDOG_EXPIRY (R302, R359): partition fault 0x40. -/
def execWatchdogExpiry (s : State) : Res :=
  match s.ev with
  | .watchdogExpiry m => .next (s.partFault (s.mbox m).part.toNat 0x40 m 0)
  | _ => .next s

end Sys2Proof.Machine
end

