-- ==== Sys2Proof/Machine/SeqSys.lean ====
section
/-! DEFINITION. Sequencer words for tasks, messages, code caches, safe points, configuration registers and the system
(spec/05_sequencer_sync.md R118 to R123, R127 to R131; spec/01_machine_state.md R27 to R31). -/

namespace Sys2Proof.Machine

/-! ## Several dwords of one operand -/

/-- The first failure of an access of the acting core to one of several dwords, with its address. -/
def State.firstFail (s : State) (k : AccKind) : List Nat → Option (Nat × Nat × Nat)
  | [] => none
  | va :: rest =>
    match s.check (BitVec.ofNat 64 va) 8 k with
    | (_, .error (cause, why)) => some (cause, why, va)
    | (_, .ok _) => s.firstFail k rest

/-- Walks that an access to several dwords starts, one for each of their pages. -/
def State.noteWalks (s : State) (vas : List Nat) : State :=
  (firstOfPages vas).foldl (fun s va => s.noteWalk s.cur.core va (s.lookup s.cur.core va).1) s

/-- Those of an access to dwords that fails at `addr`, or after them all: a walk that has found a page fills the TLBs though the word
then faults (R351). A misaligned operand is not looked up. -/
def State.noteUpTo (s : State) (cause addr : Nat) (vas : List Nat) : State :=
  if cause = 0x07 then s else s.noteWalks (vas.take (vas.idxOf addr + 1))

/-- The addresses of `n` dwords from `va` on. -/
def dwords (va n : Nat) : List Nat := (List.range n).map (fun i => va + 8 * i)

/-- The lines of dwords that the acting task can read. -/
def State.linesAt (s : State) (vas : List Nat) : List Nat :=
  vas.filterMap (fun va =>
    match s.translate s.cur.core va .read false with
    | (_, .ok t) => some (lineOf t.pa)
    | (_, .error _) => none)

/-- A dword that the acting task can read, without taking a place in the order. -/
def State.peek (s : State) (va : Nat) : Nat :=
  match s.translate s.cur.core va .read false with
  | (_, .ok t) => s.phys64 t.pa
  | (_, .error _) => 0

/-- A dword read by the acting task under R272. -/
def State.taskRead (s : State) (va : Nat) : State × Nat :=
  match s.translate s.cur.core va .read false with
  | (_, .error _) => (s, 0)
  | (_, .ok t) =>
    let (s1, bs, st) := (s.disown (dieOf s.cur.core) [lineOf t.pa]).homeRead t.pa 8 s.task.ts s.task.leaselen.toNat
    (((s1.exchange s.cur.core t.pa 0 8 8).setTask { s1.task with ts := st }), leNat bs)

/-- Several dwords read in order. -/
def State.taskReads (s : State) : List Nat → State × List Nat
  | [] => (s, [])
  | va :: rest =>
    let (s1, x) := s.taskRead va
    let (s2, xs) := s1.taskReads rest
    (s2, x :: xs)

/-! ## Spawning and joining (R118 to R122) -/

/-- The checks of R119 in their order: cause, access code, why and address of the first that fails. DESIGN CHOICE: check 1's
misaligned entry is found only in a descriptor all of whose dwords can be read, for a read failure comes before what is read (log
142). -/
def State.spawnFault (s : State) (d a b : GReg) : Option (Nat × Nat × Nat × Nat) :=
  let desc := (s.g a).toNat
  let rec_ := (s.g d).toNat
  let n := (s.g b).toNat
  if desc % 8 ≠ 0 then some (0x07, 0, 0, desc)
  else if rec_ % 32 ≠ 0 then some (0x07, 2, 0, rec_)
  else
    let bad := s.firstFail .read (dwords desc 3)
    let entry := s.peek desc
    let tgt := s.peek (desc + 16)
    if bad.isNone ∧ entry % 4 ≠ 0 then some (0x07, 0, 0, entry)
    else
      match bad, if rec_ = 0 then none else s.firstFail .readWrite (dwords rec_ 4) with
      | some (cause, why, va), _ => some (cause, 0, why, va)
      | none, some (cause, why, va) => some (cause, 2, why, va)
      | none, none =>
        let core := fld tgt 5 6
        let die := fld tgt 2 3 * 4 + fld tgt 0 2
        if n < 1 ∨ 64 < n ∨ tgt / 2 ^ 14 ≠ 0 ∨ 63 < core + n - 1 then some (0x01, 0, 0, 0)
        else if !(List.range n).all (fun i => (s.part s.partNo).hasCore (die * 64 + core + i)) then some (0x09, 0, 0, 0)
        else if rec_ ≠ 0 ∧ (joinBad (s.peek rec_) (s.peek (rec_ + 8)) (s.peek (rec_ + 16)) (s.peek (rec_ + 24)) ∨
            65535 < fld (s.peek rec_) 0 16 + n) then some (0x10, 0, 0, 0)
        else none

/-- The children of a `spawn` (R119), their cores in order. Each reaches its core in the word's tick and issues no earlier
than the next (DEDUCED, log 36). -/
def spawnLaunches (entry arg desc rec_ n tgt stamp tick : Nat) : List (Nat × Launch) :=
  (List.range n).map (fun i =>
    ((fld tgt 2 3 * 4 + fld tgt 0 2) * 64 + fld tgt 5 6 + i,
     { pc := BitVec.ofNat 64 entry,
       g := [0, BitVec.ofNat 64 arg, BitVec.ofNat 64 desc, BitVec.ofNat 64 i, BitVec.ofNat 64 n, BitVec.ofNat 64 rec_],
       stamp := stamp, stage := fld tgt 11 3, mbox := 0, pkt := none, join := BitVec.ofNat 64 rec_, arrive := tick,
       startAt := tick + 1 }))

/-- The effect of a `spawn` whose checks pass (R119). -/
def State.spawnChildren (s : State) (d a b : GReg) : State :=
  let desc := (s.g a).toNat
  let rec_ := (s.g d).toNat
  let n := (s.g b).toNat
  let s1 := s.noteWalks (dwords desc 3 ++ (if rec_ = 0 then [] else [rec_]))
  let (s2, ws) := s1.taskReads (dwords desc 3)
  let s3 :=
    if rec_ = 0 then s2
    else
      match s2.translate s2.cur.core rec_ .readWrite false with
      | (_, .error _) => s2
      | (_, .ok t) =>
        let (s3, st) := (s2.disown (dieOf s2.cur.core) [lineOf t.pa]).homeWrite t.pa (leBytes 8 (s2.phys64 t.pa + n)) s2.task.ts
        s3.setTask { s3.task with ts := st }
  let kids := spawnLaunches (ws.getD 0 0) (ws.getD 1 0) desc rec_ n (ws.getD 2 0) s3.task.ts s.tick
  let s4 := s3.setTask { s3.task with pendSpawn := kids, hold := .spawn }
  let s5 := kids.foldl (fun s x =>
    s.travel (dieOf s.cur.core) (s.physOf s.cur.core) (dieOf x.1) (s.physOf x.1) 3 s.partNo 64 0) s4
  kids.foldl (fun s x => s.offerChildren s.meRef x.1) s5

/-- What stands in the way of a `spawn`: the lines of the task's stores, of the descriptor and of the join record. A misaligned
one is no request. -/
def State.spawnSay (s : State) (d a : GReg) : LinesSay :=
  let desc := (s.g a).toNat
  let rec_ := (s.g d).toNat
  if desc % 8 ≠ 0 ∨ rec_ % 32 ≠ 0 then .free
  else s.wordSay s.meRef (s.linesAt (dwords desc 3 ++ (if rec_ = 0 then [] else [rec_])))

/-- R118, R119: refused while another core pins a line that it needs, and waiting while one is reserved (R112, R280). -/
def execSpawn (d a b : GReg) (s : State) : Res :=
  match s.spawnSay d a with
  | .refused => .next s.wordRetry
  | .reserved => .next s
  | .free =>
    let s0 := s.flushStores s.meRef
    match s0.spawnFault d a b with
    | some (cause, acc, why, addr) =>
      let vas := dwords (s.g a).toNat 3 ++ (if s.g d = 0 then [] else dwords (s.g d).toNat 4)
      .next ((s.noteUpTo cause addr vas).seqFault cause acc why addr 0)
    | none => .next (s0.spawnChildren d a b)

/-- The condition that `join` waits for (R122). -/
def joinReady (w0 : Nat) : Bool := bit w0 63 || fld w0 16 16 + fld w0 32 16 == fld w0 0 16

/-- The status of a `join` (R122). -/
def joinStatus (w0 : Nat) : Word64 :=
  BitVec.ofNat 64 (fld w0 16 16 + put (fld w0 32 16) 16 + (if fld w0 32 16 = 0 then 0 else 2 ^ 63))

/-- The check of a join record's address (R122): 32-byte alignment, then R91. -/
def State.joinFault (s : State) (va : Nat) : Option (Nat × Nat × Nat) :=
  if va % 32 ≠ 0 then some (0x07, 0, va) else s.firstFail .read (dwords va 4)

/-- What stands in the way of a `join`: the lines of the task's stores and of the record. -/
def State.joinSay (s : State) (va : Nat) : LinesSay := s.wordSay s.meRef (s.linesAt [va])

/-- R122: refused while another core pins the record, and waiting while its line is reserved (R112, R280). -/
def execJoin (d a : GReg) (s : State) : Res :=
  let va := (s.g a).toNat
  match s.joinFault va with
  | some (cause, why, addr) => .next ((s.noteUpTo cause addr (dwords va 4)).seqFault cause 0 why addr 0)
  | none =>
    match s.joinSay va with
    | .refused => .next s.wordRetry
    | .reserved => .next s
    | .free =>
      let s0 := s.flushStores s.meRef
      let w0 := s0.peek va
      if !joinReady w0 then .next s
      else
        let (s1, _) := (s0.noteWalks [va]).taskReads (dwords va 4)
        if bit w0 63 ∨ joinBad w0 (s0.peek (va + 8)) (s0.peek (va + 16)) (s0.peek (va + 24)) then
          .next (s1.seqFault 0x10 0 0 0 0)
        else .next (s1.finishReg d (joinStatus w0) 1)

/-! ## Sending (R123) -/

/-- The addresses of the dwords of a packet. -/
def packetDwords (va len : Nat) : List Nat := dwords va (Nat.max 2 (2 * len))

/-- The checks of R123 and of the packet's translations, in the order of the entry: cause, access code, why, address. -/
def State.sendFault (s : State) (va : Nat) (target : Word64) : Option (Nat × Nat × Nat × Nat) :=
  if va % 16 ≠ 0 then some (0x07, 0, 0, va)
  else if bitsOf target 12 52 ≠ 0 then some (0x01, 0, 0, 0)
  else
    match s.firstFail .read (dwords va 2) with
    | some (cause, why, addr) => some (cause, 0, why, addr)
    | none =>
      let len := fld (s.peek va) 16 6
      let m := s.mbox (bitsOf target 0 12)
      if 32 < len then some (0x01, 0, 0, 0)
      else if !m.writable s.partNo then some (0x09, 1, 0, 0)
      else
        match s.firstFail .read (packetDwords va len) with
        | some (cause, why, addr) => some (cause, 0, why, addr)
        | none => none

/-- What stands in the way of a `send` before its header is read: the lines of the task's stores and of the header. A word whose
operands are refused makes no request. -/
def State.headerSay (s : State) (va : Nat) (target : Word64) : LinesSay :=
  if va % 16 ≠ 0 ∨ bitsOf target 12 52 ≠ 0 then .free else s.wordSay s.meRef (s.linesAt (dwords va 2))

/-- The lines that a packet of `n` bytes takes in a mailbox's area. -/
def State.areaLines (s : State) (m : Mbox) (n : Nat) : List Nat :=
  match s.packetCells m (zeroBytes n) with
  | .error _ => []
  | .ok cells => linesOf cells

/-- What stands in the way of a `send` of `len` granules of 16 bytes: the lines that it reads and those that it writes. -/
def State.packetSay (s : State) (va len : Nat) (m : Mbox) : LinesSay :=
  s.wordSay s.meRef (s.linesAt (packetDwords va len) ++ s.areaLines m (16 * len))

/-- R123: without room the word waits; it is refused while another core pins a line that it needs, and waits while one is
reserved (R112, R280). DESIGN CHOICE: a packet whose header gives len 0, which the entry does not name, raises no fault, writes
nothing, leaves the write pointer where it is and answers its offset (log 142). -/
def execSend (d a b : GReg) (s : State) : Res :=
  let va := (s.g a).toNat
  let num := bitsOf (s.g b) 0 12
  match s.headerSay va (s.g b) with
  | .refused => .next s.wordRetry
  | .reserved => .next s
  | .free =>
    let s0 := s.flushStores s.meRef
    match s0.sendFault va (s.g b) with
    | some (cause, acc, why, addr) =>
      let ds := packetDwords va (fld (s0.peek va) 16 6)
      let vas := if bitsOf (s.g b) 12 52 ≠ 0 then [] else if ds.contains addr then ds else dwords va 2
      .next ((s.noteUpTo cause addr vas).seqFault cause acc why addr 0)
    | none =>
      let len := fld (s0.peek va) 16 6
      let m := s.mbox num
      if !m.room (16 * len) then .next s
      else
        match s0.packetSay va len m with
        | .refused => .next s.wordRetry
        | .reserved => .next s
        | .free =>
          let s2 := (s0.noteWalks (packetDwords va len)).unpinTask s.meRef
          let (s3, ws) := s2.taskReads (packetDwords va len)
          match s3.packetCells m ((ws.flatMap (leBytes 8)).take (16 * len)) with
          | .error (f, addr) => .next (s.seqFault f.cause 1 f.why addr 0)
          | .ok cells =>
            let (s4, st) := s3.putPacket num cells (16 * len) s3.task.ts
            let s5 := s4.setTask { s4.task with ts := st }
            .next (s5.finishReg d (BitVec.ofNat 64 (m.packetOff (16 * len))) 1)

/-! ## Code caches (R127) -/

/-- A cache pin is set or cleared on a held line. -/
def pinCode (ls : List CLine) (l : Nat) (p : Bool) : List CLine := ls.map (fun x => if x.line = l then { x with pin := p } else x)

/-- The same for the data cache. -/
def pinData (ls : List DLine) (l : Nat) (p : Bool) : List DLine := ls.map (fun x => if x.line = l then { x with pin := p } else x)

/-- A line of the data cache brought in with a lease, as a read would, without a stamp for the task (DEDUCED, log 37). The host
region is uncached (R267). -/
def State.bringData (s : State) (r : TaskRef) (pa : Nat) : State :=
  match dcFind (s.core r.core).dcache (lineOf pa) with
  | some _ => s
  | none =>
    if region pa = 1 then s
    else
      let l := lineOf pa
      let s0 := s.disown (dieOf r.core) [l]
      let (x, _) := (s0.line l).read 0 (s.taskOf r).leaselen.toNat
      ((s0.setLine l x).touchSlice pa).fillData r.core l

/-- The line of `va` is held by the cache of a core that a selector names. -/
def Core.cacheHolds (x : Core) (c : CacheSel) (va pa : Nat) : Bool :=
  match c.agent with
  | some g => (codeFind (vget x.icaches g.cache) (va / 64)).isSome
  | none => (dcFind x.dcache (lineOf pa)).isSome

/-- Every way of the line's set is pinned, and the line is not among them. -/
def Core.setPinned (x : Core) (c : CacheSel) (va pa : Nat) : Bool :=
  match c.agent with
  | some g =>
    let set := (vget x.icaches g.cache).filter (fun y => y.line % codeSets g == va / 64 % codeSets g)
    decide (8 ≤ set.length) && set.all (fun y => y.pin && y.line != va / 64)
  | none =>
    let set := x.dcache.filter (fun y => y.line % 64 == lineOf pa % 64)
    decide (8 ≤ set.length) && set.all (fun y => y.pin && y.line != lineOf pa)

/-- The line brought into the cache that a selector names, for a task. -/
def State.bring (s : State) (r : TaskRef) (c : CacheSel) (va pa : Nat) : State :=
  let x := s.core r.core
  if x.cacheHolds c va pa ∨ x.setPinned c va pa then s
  else
    match c.agent with
    | some g => s.fillCode r.core g va
    | none => s.bringData r pa

/-- What a data line says to the request of a `code` word of core `k` that brings it in (R112, R280); a code cache makes no
request of data. -/
def State.codeSay (s : State) (k : Nat) (c : CacheSel) (va pa : Nat) : LinesSay :=
  if c.agent.isSome ∨ (s.core k).cacheHolds c va pa ∨ (s.core k).setPinned c va pa ∨ region pa = 1 then .free
  else s.linesSay k none [lineOf pa]

/-- The pin of a line of the cache that a selector names. -/
def Core.setPin (x : Core) (c : CacheSel) (va pa : Nat) (p : Bool) : Core :=
  match c.agent with
  | some g => { x with icaches := vset x.icaches g.cache (pinCode (vget x.icaches g.cache) (va / 64) p) }
  | none => { x with dcache := pinData x.dcache (lineOf pa) p }

/-- The translation level that a `code` word pays for: none for a line that a code cache holds, which is tagged by its virtual
address (R266; DEDUCED, log 37). -/
def State.codeLevel (s : State) (c : CacheSel) (va pa lvl : Nat) : Nat :=
  if c.agent.isSome && s.me.cacheHolds c va pa then 0 else lvl

/-- `code.pf` (R127): failures are ignored. In elastic mode the line comes when the mesh has brought it (R332). -/
def execCodePf (a : GReg) (c : CacheSel) (s : State) : Res :=
  let va := (s.g a).toNat
  let (lvl, r) := s.translate s.cur.core va c.kind false
  match r with
  | .error _ => .next ((s.noteWalk s.cur.core va lvl).finish 1)
  | .ok t =>
    match s.codeSay s.cur.core c va t.pa with
    | .refused => .next s.wordRetry
    | .reserved => .next s
    | .free =>
      let s1 := s.noteWalk s.cur.core va (s.codeLevel c va t.pa lvl)
      let s2 :=
        if (s.part s.partNo).fl || s.me.cacheHolds c va t.pa then s1.bring s.meRef c va t.pa
        else s1.askLine s.cur c (some false) (s.transPad s.cur.core va lvl) va t.pa
      .next (s2.finish 1)

/-- `code.pin` (R127): 3 ticks for a line that is held, else the time of its home's row, with its translation's (R86, R281;
DEDUCED, log 37); in elastic mode the word waits for the line that the mesh brings (R332). -/
def execCodePin (a : GReg) (c : CacheSel) (s : State) : Res :=
  let va := (s.g a).toNat
  let (lvl, r) := s.translate s.cur.core va c.kind false
  match r with
  | .error f => .next ((s.noteWalk s.cur.core va lvl).seqFault f.cause (accCode c.kind) (if f.why = 8 then 10 else f.why) va 0)
  | .ok t =>
    match s.codeSay s.cur.core c va t.pa with
    | .refused => .next s.wordRetry
    | .reserved => .next s
    | .free =>
      let lvl := s.codeLevel c va t.pa lvl
      let s1 := s.noteWalk s.cur.core va lvl
      let held := s.me.cacheHolds c va t.pa
      let pad := s.transPad s.cur.core va lvl
      if held || (s.part s.partNo).fl then
        let s2 := s1.bring s.meRef c va t.pa
        .next ((s2.setMe (s2.me.setPin c va t.pa true)).finish ((if held then 3 else homePad (dieOf s.cur.core) t.pa) + pad))
      else
        .next ((s1.setTask { s1.task with hold := .fetch }).askLine s.cur c (some true) pad va t.pa)

/-- `code.unpin` (R127). DESIGN CHOICE: the line of the data cache is found by its translation, and one that has none, or that may
not be read, is left as it is without a fault (log 142). -/
def execCodeUnpin (a : GReg) (c : CacheSel) (s : State) : Res :=
  let va := (s.g a).toNat
  match c.agent, s.translate s.cur.core va c.kind false with
  | none, (_, .error _) => .next (s.finish 1)
  | none, (_, .ok t) => .next ((s.setMe (s.me.setPin c va t.pa false)).finish 1)
  | some _, _ => .next ((s.setMe (s.me.setPin c va 0 false)).finish 1)

/-- A missed code line arrives, and the slot or engine that waited for it goes on. Its translation is the TLBs' most recent one
(R284, R351, R353). -/
def State.missFilled (s : State) (r : TaskRef) (a : Agent) (va : Nat) : State :=
  let k := r.core
  let s0 :=
    match s.translate k va .fetch false with
    | (_, .ok t) => s.fillEntry k t.entry .core
    | (_, .error _) => s
  let s1 := s0.fillCode k a va
  match a with
  | .seq => if (s1.taskOf r).hold = .fetch then s1.setTaskOf r { s1.taskOf r with hold := .none } else s1
  | .eng e => s1.setCore k ((s1.core k).setRun e { (s1.core k).runOf e with filling := false })

/-- The line that a `code` word has asked for arrives: it is brought in, and a `code.pin` pins it and ends. A data line that another
core has pinned, or that is reserved, is looked at again in the next tick (R112, R127, R280; DEDUCED, log 37). -/
def State.codeArrives (s : State) (r : TaskRef) (c : CacheSel) (va : Nat) (pin : Bool) : State :=
  let go (s : State) : State :=
    if pin && (s.taskOf r).hold == .fetch then s.setTaskOf r ((s.taskOf r).advance (s.tickOf r.core) 0) else s
  match s.translate r.core va c.kind false with
  | (_, .error _) => go s
  | (_, .ok t) =>
    if s.codeSay r.core c va t.pa = .free then
      let s1 := s.bring r c va t.pa
      go (if pin then s1.setCore r.core ((s1.core r.core).setPin c va t.pa true) else s1)
    else s.atTick (seqAt r) (s.tickOf r.core + 1) (.codeCacheFill r.core c va (some pin))

/-- CODE_CACHE_FILL (R284, R332). -/
def execCodeCacheFill (s : State) : Res :=
  match s.ev with
  | .codeCacheFill k c va pin =>
    let r : TaskRef := { core := k, slot := s.cur.slot }
    match pin, c.agent with
    | some p, _ => .next (s.codeArrives r c va p)
    | none, some a => .next (s.missFilled r a va)
    | none, none => .next s
  | _ => .next s

/-! ## Safe points (R128, R254) -/

/-- The safe-map record of a number in the partition's image. -/
def State.safeRec (s : State) (num : Nat) : Option SafeRec :=
  match (s.part s.partNo).image with
  | none => none
  | some i => i.safes.find? (fun r => r.num == num)

/-- Registers of a vector that a mask names; the others are 0. -/
def keepNamed {n w : Nat} (v : Vector (BitVec w) n) (mask : Nat) : Vector (BitVec w) n :=
  Vector.ofFn (fun i : Fin n => if bit mask i.val then vget v i else 0)

/-- A memory with the pieces of `size` bytes cleared that a mask of `n` bits does not name. -/
def keepPieces (m : Memory) (mask size n : Nat) : Memory :=
  m.filter (fun c => decide (size * n ≤ c.1) || bit mask (c.1 / size))

/-- The core-scope items that a live mask can name and does not are set to 0 (R128 step 4). DEDUCED: a write to scratchpad or the
accumulator of the same tick, which is read from the next tick on (R264), survives the clear; one to a v register that lands in
this tick has landed before it (log 138). -/
def Core.clearUnnamed (c : Core) (r : SafeRec) : Core :=
  { c with
    vec := { c.vec with v := keepNamed c.vec.v r.vmask.toNat, dirs := if r.dir then c.vec.dirs else [] }
    tiles := keepPieces c.tiles r.tmask.toNat 32768 8
    scratch := keepPieces c.scratch r.bmask.toNat 131072 16
    acc := keepPieces c.acc r.amask.toNat 8192 64
    sh := keepNamed c.sh r.smask.toNat }

/-- The same of the task's g registers. -/
def Slot.clearUnnamed (t : Slot) (r : SafeRec) : Slot := { t with g := keepNamed t.g r.gmask.toNat }

/-- A save or a time-slice switch is pending on the acting core. -/
def Core.pauseWanted (c : Core) : Bool := c.saveReq.isSome || c.switchReq

/-- The effect of a `safe` on its task and core (R128 steps 1 and 4). -/
def State.safeEffect (s : State) (k : Nat) (i : Fin 4) (r : SafeRec) : State :=
  let s1 := s.releasePins { core := k, slot := i }
  let c := s1.core k
  s1.setCore k ((c.setTask i ((c.task i).clearUnnamed r)).clearUnnamed r)

/-- R128: with a save or a switch pending the task waits. -/
def execSafe (num : BitVec 12) (s : State) : Res :=
  match s.safeRec num.toNat with
  | none => .next (s.seqFault 0x01 0 0 0 0)
  | some r =>
    if s.me.pauseWanted then .next s
    else .next ((s.safeEffect s.cur.core s.cur.slot r).finish 1)

/-! ## Configuration registers (R27 to R31, R129) -/

/-- Register `budget`. -/
def Budget.word (b : Budget) : Word64 :=
  BitVec.ofNat 64 (b.level.toNat + put b.cap.toNat 16 + put b.refill.toNat 32 + put b.low.toNat 40)

/-- Register `mode` of a core. -/
def State.modeWord (s : State) (k : Nat) : Word64 :=
  BitVec.ofNat 64 (b2n (s.part (s.core k).part).fl + put (b2n (s.partnerOf k).isSome) 1)

/-- The configuration registers (R28). -/
inductive CfgReg where
  | tick | wall | coord | mode | fflags | frm | trapen | holdchk | leaselen | clamplo | clamphi | tagbase
  | tdesc (n : TileReg) | qbind (n : QReg) | bfmt (n : Fin 16) | budget | pinbypass | faultinfo
  deriving DecidableEq, Repr

/-- The register of a number; none for an unassigned one (R28). -/
def cfgReg? (n : Nat) : Option CfgReg :=
  if n = 0x000 then some .tick
  else if n = 0x001 then some .wall
  else if n = 0x002 then some .coord
  else if n = 0x003 then some .mode
  else if n = 0x010 then some .fflags
  else if n = 0x011 then some .frm
  else if n = 0x012 then some .trapen
  else if n = 0x013 then some .holdchk
  else if n = 0x020 then some .leaselen
  else if n = 0x021 then some .clamplo
  else if n = 0x022 then some .clamphi
  else if n = 0x023 then some .tagbase
  else if 0x030 ≤ n ∧ n ≤ 0x037 then some (.tdesc (Fin.ofNat 8 (n - 0x030)))
  else if 0x040 ≤ n ∧ n ≤ 0x043 then some (.qbind (Fin.ofNat 4 (n - 0x040)))
  else if 0x050 ≤ n ∧ n ≤ 0x05F then some (.bfmt (Fin.ofNat 16 (n - 0x050)))
  else if n = 0x060 then some .budget
  else if n = 0x061 then some .pinbypass
  else if n = 0x062 then some .faultinfo
  else none

/-- The value of a register (R29). -/
def State.cfgRead (s : State) (r : CfgReg) : Word64 :=
  let t := s.task
  let c := s.me
  match r with
  | .tick => BitVec.ofNat 64 s.tick
  | .wall => s.wall
  | .coord => zx64 (s.coordOf s.meRef)
  | .mode => s.modeWord s.cur.core
  | .fflags => zx64 t.fflags
  | .frm => zx64 t.frm
  | .trapen => zx64 t.trapen
  | .holdchk => flag64 t.holdchk
  | .leaselen => zx64 t.leaselen
  | .clamplo => t.clamplo
  | .clamphi => t.clamphi
  | .tagbase => zx64 t.tagbase
  | .tdesc n => zx64 (vget c.tdesc n)
  | .qbind n => zx64 (vget c.qbind n)
  | .bfmt n => zx64 (vget c.bfmt n)
  | .budget => c.budget.word
  | .pinbypass => zx64 c.pinbypass
  | .faultinfo => t.faultinfo

/-- Whether a task may write some field of a register (R27). -/
def CfgReg.writable (r : CfgReg) : Bool :=
  match r with
  | .tick | .wall | .coord | .mode | .qbind _ | .budget => false
  | .fflags | .frm | .trapen | .holdchk | .leaselen | .clamplo | .clamphi | .tagbase | .tdesc _ | .bfmt _ | .pinbypass
  | .faultinfo => true

/-- Bits below which the field map has fields (R29). -/
def CfgReg.width (r : CfgReg) : Nat :=
  match r with
  | .tick | .wall | .clamplo | .clamphi | .budget => 64
  | .coord => 22
  | .mode => 2
  | .fflags | .trapen => 6
  | .frm => 2
  | .holdchk => 1
  | .leaselen => 16
  | .tagbase => 10
  | .tdesc _ => 20
  | .qbind _ => 18
  | .bfmt _ => 4
  | .pinbypass => 32
  | .faultinfo => 36

/-- A written value has only bits and format codes that the register allows (R27). -/
def CfgReg.legal (r : CfgReg) (v : Word64) : Bool :=
  decide (v.toNat < 2 ^ r.width) &&
    (match r with
     | .bfmt _ => decide (v.toNat ≤ 0xA)
     | .tdesc _ => decide (2 ≤ bitsOf v 16 4) && decide (bitsOf v 16 4 ≤ 5)
     | .tick | .wall | .coord | .mode | .fflags | .frm | .trapen | .holdchk | .leaselen | .clamplo | .clamphi | .tagbase
     | .qbind _ | .budget | .pinbypass | .faultinfo => true)

/-- A write that R27 allows. Flags that merged in the write's tick are added to the written ones (R31). -/
def State.cfgWrite (s : State) (r : CfgReg) (v : Word64) : State :=
  let t := s.task
  let c := s.me
  match r with
  | .fflags =>
    let m : BitVec 6 := if t.merged.1 = s.tick then t.merged.2 else 0
    s.setTask { t with fflags := v.truncate 6 ||| m }
  | .frm => s.setTask { t with frm := v.truncate 2 }
  | .trapen => s.setTask { t with trapen := v.truncate 6 }
  | .holdchk => s.setTask { t with holdchk := v.getLsbD 0 }
  | .leaselen => s.setTask { t with leaselen := if v = 0 then 1 else v.truncate 16 }
  | .clamplo => s.setTask { t with clamplo := v }
  | .clamphi => s.setTask { t with clamphi := v }
  | .tagbase => s.setTask { t with tagbase := v.truncate 10 }
  | .tdesc n => s.setMe { c with tdesc := vset c.tdesc n (v.truncate 20) }
  | .bfmt n => s.setMe { c with bfmt := vset c.bfmt n (v.truncate 4) }
  | .pinbypass => s.setMe { c with pinbypass := 0 }
  | .faultinfo => s.setTask { t with faultinfo := 0 }
  | .tick | .wall | .coord | .mode | .qbind _ | .budget => s

/-- R129, k = 0. -/
def execCfgr (d : GReg) (num : BitVec 12) (s : State) : Res :=
  match cfgReg? num.toNat with
  | none => .next (s.seqFault 0x01 0 0 0 0)
  | some r => .next (s.finishReg d (s.cfgRead r) 1)

/-- R129, k = 1, with the checks of R27 in their order. -/
def execCfgw (a : GReg) (num : BitVec 12) (s : State) : Res :=
  match cfgReg? num.toNat with
  | none => .next (s.seqFault 0x01 0 0 0 0)
  | some r =>
    if !r.writable then .next (s.seqFault 0x09 0 0 0 0)
    else if !r.legal (s.g a) then .next (s.seqFault 0x01 0 0 0 0)
    else .next ((s.cfgWrite r (s.g a)).finish 1)

/-! ## System words (R130, R131) -/

/-- R130, k = 0. -/
def execSyscall (code : BitVec 12) (s : State) : Res := .next (s.seqFault 0x20 0 0 0 code.toNat)
/-- R130, k = 1. -/
def execBrk (code : BitVec 12) (s : State) : Res := .next (s.seqFault 0x21 0 0 0 code.toNat)
/-- R130, k = 2. -/
def execEret (s : State) : Res := if s.task.trapMode then .next (s.leaveTrap 2) else .next (s.seqFault 0x01 0 0 0 0)
/-- R130, k = 3: it waits as `fence.both` does, then the task ends. -/
def execHalt (s : State) : Res :=
  if s.fenceOpen true then .next s else .next ((s.setTask s.task.takeDone).endTask s.meRef none)

/-- Rows in a queue, 0 when it is unbound (R131): iq0–iq3, then oq0–oq3. -/
def Core.depth (c : Core) (q : BitVec 3) : Nat :=
  let i : QReg := Fin.ofNat 4 (q.toNat % 4)
  let bound := if q.toNat < 4 then bitsOf (zx64 (vget c.qbind i)) 16 2 != 0 else (vget c.qbind i).getLsbD 0
  if bound then vget c.depths (Fin.ofNat 8 q.toNat) else 0

/-- R131. -/
def execQdepth (d : GReg) (q : BitVec 3) (s : State) : Res :=
  .next (s.finishReg d (BitVec.ofNat 64 (s.me.depth q)) 1)

/-- R131. -/
def execTstate (d : GReg) (t : TtReg) (s : State) : Res := .next (s.finishReg d (vget s.me.tt t).word 1)

/-- The illegal-word fault of the acting unit (R64). -/
def execIllegalWord (s : State) : Res :=
  match s.cur.unit with
  | .seq => .next (s.seqFault 0x01 0 0 0 0)
  | .eng .vector => .next (s.engFault .vector 0x02 0 0 0)
  | .eng .matrix => .next (s.engFault .matrix 0x03 0 0 0)
  | .eng .transfer => .next (s.engFault .transfer 0x03 0 0 0)
  | .eng .walker => .next (s.engFault .walker 0x04 0 0 0)

end Sys2Proof.Machine
end

