-- ==== Sys2Proof/Machine/Sched.lean ====
section
/-! DEFINITION. Who acts in a tick (spec/14_scheduling.md R291, R299, R304 to R307; spec/05_sequencer_sync.md R128): which
slot is ready, what the arbiter chooses, when the engines issue, a partition's delivered tick and the wall period. -/

namespace Sys2Proof.Machine

/-! ## Ready slots (R304) -/

/-- A `join` waits: for its children, or for a reserved line. -/
def State.joinWaits (s : State) (va : Nat) : Bool :=
  match s.joinSay va with
  | .refused => false
  | .reserved => true
  | .free => !joinReady ((s.flushStores s.meRef).peek va)

/-- A `send` waits: for room in the area, or for a reserved line. -/
def State.sendWaits (s : State) (va : Nat) (target : Word64) : Bool :=
  match s.headerSay va target with
  | .refused => false
  | .reserved => true
  | .free =>
    let s0 := s.flushStores s.meRef
    let len := fld (s0.peek va) 16 6
    let m := s.mbox (bitsOf target 0 12)
    (s0.sendFault va target).isNone && (!m.room (16 * len) || s0.packetSay va len m == .reserved)

/-- A `sev` waits: for a reserved line, or for room at its target's station. -/
def State.sevWaits (s : State) (w : Word64) : Bool :=
  match sevFault w (fun k => (s.part s.partNo).hasCore k) with
  | some _ => false
  | none => s.sevSay (sevHome w s.cur.core) == .reserved

/-- A `code` word waits for a reserved line (R280). -/
def State.codeWaits (s : State) (va : Nat) (c : CacheSel) : Bool :=
  match s.translate s.cur.core va c.kind false with
  | (_, .error _) => false
  | (_, .ok t) => s.codeSay s.cur.core c va t.pa == .reserved

/-- A word that waits in this tick: its meaning would leave the acting task where it is. -/
def State.blocked (s : State) (i : Instr) : Bool :=
  match i with
  | .div _ _ _ | .divn _ _ _ | .rem _ _ _ | .remn _ _ _ => s.divBlocked
  | .stB _ _ _ | .stH _ _ _ | .stW _ _ _ | .stD _ _ _ | .redAdd _ _ _ | .redFadd32 _ _ _ | .redMax _ _ _
  | .redMin _ _ _ | .stl _ _ _ => s.storeWaits
  | .chk d => decide ((vget s.task.tab (tabIndex d)).reg = some d) && s.storesPending
  | .fenceMem => s.fenceOpen false
  | .fenceEngines | .fenceBoth | .halt => s.fenceOpen true
  | .wfe => !s.task.latch
  | .join _ a => (s.joinFault (s.g a).toNat).isNone && s.joinWaits (s.g a).toNat
  | .send _ a b => s.sendWaits (s.g a).toNat (s.g b)
  | .spawn d a _ => s.spawnSay d a == .reserved
  | .sev a => s.sevWaits (s.g a)
  | .barArr _ a _ | .barArrw _ a _ => (match s.barHome (s.g a) with
    | .error _ => false
    | .ok _ => s.wordSay s.meRef [] == .reserved)
  | .runV _ a _ => (s.run .vector).active && !s.rangeBad .vector (s.g a)
  | .runM _ a _ => (s.run .matrix).active && !s.rangeBad .matrix (s.g a)
  | .runX _ a _ => (s.run .transfer).active && !s.rangeBad .transfer (s.g a)
  | .runW _ a _ => (s.run .walker).active && !s.rangeBad .walker (s.g a)
  | .ewaitE mask => !s.enginesIdle mask
  | .ewaitK mask => !s.task.tokensSet mask
  | .safe num => (s.safeRec num.toNat).isSome && s.me.pauseWanted
  | .codePf a c | .codePin a c => s.codeWaits (s.g a).toNat c
  | _ => false

/-- A waiting word (spec/11_assembly_object.md R260). -/
def waitingWord (i : Instr) : Bool :=
  match i with
  | .ewaitE _ | .ewaitK _ | .wfe | .atTick _ | .join _ _ | .barWait _ _ _ | .barArrw _ _ _ | .spawn _ _ _ | .send _ _ _
  | .runV _ _ _ | .runM _ _ _ | .runX _ _ _ | .runW _ _ _ | .fenceEngines | .fenceBoth | .halt | .eret => true
  | _ => false

/-- What the next word of a slot allows. -/
inductive Next where
  | none                          -- nothing to issue
  | miss (va pa : Nat)            -- its line is not held
  | word (i : Option Instr)       -- a word; none for one that is no instruction
  | fault                         -- its fetch faults
  deriving DecidableEq, Repr

/-- The next word of a slot. -/
def State.nextWord (s : State) (k : Nat) (i : Fin 4) : Next :=
  match s.fetch (seqAt { core := k, slot := i }) with
  | .words ws => .word ((decode .seq ws).map (fun x => x.1))
  | .nothing => .none
  | .miss va pa => .miss va pa
  | .fault _ _ _ => .fault

/-- The slot holds a task that may issue as far as its earlier words go (R85, R86). -/
def Slot.free (t : Slot) (tick : Nat) : Bool :=
  t.occupied && t.pendRecs.isEmpty && (t.hold == .none || t.hold == .tick) && decide (t.readyAt ≤ tick)

/-- A slot is ready (R304). -/
def State.ready (s : State) (k : Nat) (i : Fin 4) : Bool :=
  ((s.core k).task i).free (s.tickOf k) &&
    (match s.nextWord k i with
     | .none | .miss _ _ => false
     | .fault | .word none => true
     | .word (some w) => !({ s with cur := seqAt { core := k, slot := i } } : State).blocked w)

/-- The order of a round-robin choice (R304). -/
def rrOrder (last : Fin 4) : List (Fin 4) := [last + 1, last + 2, last + 3, last]

/-- The key of a slot in elastic mode (R305). -/
def Core.slotKey (c : Core) (i : Fin 4) : Nat :=
  let q := (c.task i).stage.toNat % 4
  let iq := c.depth (BitVec.ofNat 3 q)
  let oq := if (vget c.qbind (Fin.ofNat 4 q)).getLsbD 0 then c.depth (BitVec.ofNat 3 (q + 4)) else 64
  iq + 64 - oq

/-- Slot `a` goes before slot `b` in elastic mode; round-robin order settles the rest (R305). -/
def Core.before (c : Core) (a b : Fin 4) : Bool :=
  let low := decide (c.budget.level.toNat < c.budget.low.toNat)
  let ea := if low then (c.task a).est else 0
  let eb := if low then (c.task b).est else 0
  decide (ea < eb) || (ea == eb && decide (c.slotKey b < c.slotKey a))

/-- The best of a list under `f`, the earlier one on a tie. -/
def bestBy (f : Fin 4 → Fin 4 → Bool) : List (Fin 4) → Option (Fin 4)
  | [] => none
  | i :: rest =>
    match bestBy f rest with
    | none => some i
    | some j => if f j i then some j else some i

/-- The arbiter's choice among the slots that satisfy `ok` (R304, R305). -/
def State.pickOf (s : State) (k : Nat) (ok : Fin 4 → Bool) : Option (Fin 4) :=
  let c := s.core k
  let rs := (rrOrder c.last).filter (fun i => s.ready k i && ok i)
  if (s.part c.part).fl then rs.head?
  else
    match rs.find? (fun i => decide (64 ≤ (c.task i).readyFor)) with
    | some i => some i
    | none => bestBy c.before rs

/-! ## Pauses (R128, R260, R291, R344) -/

/-- The slot stands at a `safe`, or waits in a waiting word. -/
def State.stands (s : State) (k : Nat) (i : Fin 4) : Bool :=
  let t := (s.core k).task i
  let here : State := { s with cur := seqAt { core := k, slot := i } }
  match s.nextWord k i with
  | .word (some w) =>
    match w with
    | .safe num => t.free (s.tickOf k) && (here.safeRec num.toNat).isSome
    | w =>
      t.hold == .tick ||
        (waitingWord w && (t.hold == .barrier || t.hold == .spawn || (t.free (s.tickOf k) && here.blocked w)))
  | .none | .miss _ _ | .word none | .fault => t.hold == .tick

/-- The slot stands at a `safe` word itself. -/
def State.atSafe (s : State) (k : Nat) (i : Fin 4) : Bool :=
  match s.nextWord k i with
  | .word (some (.safe num)) =>
    ((s.core k).task i).free (s.tickOf k) &&
      (({ s with cur := seqAt { core := k, slot := i } } : State).safeRec num.toNat).isSome
  | _ => false

/-- Occupied slots of a core. -/
def Core.tasksHere (c : Core) : List (Fin 4) := (List.finRange 4).filter (fun i => (c.task i).occupied)

/-- Every occupied slot stands. -/
def State.allStand (s : State) (k : Nat) : Bool := (s.core k).tasksHere.all (fun i => s.stands k i)

/-- A step of the core is between the reservation of its lines and its commit, or waits for a commit flit's
acknowledgement: a save waits for it. -/
def Core.committing (c : Core) : Bool :=
  c.xfr.steps.any (fun x => x.stage == .reserving || (x.stage == .committed && x.done == 0))

/-- A store of the core is still on its way through the mesh: a save waits until it has been performed, for its flit finds no core
that is saved (R105, R344). -/
def Core.riding (c : Core) : Bool := c.storeQ.any (fun x => x.due == 0)

/-- The exposed pipelines are empty (R77, R128 step 3). -/
def Core.pipesEmpty (c : Core) (tick : Nat) : Bool :=
  c.drained .vector tick && c.drained .matrix tick && c.mat.progress == 0 && !c.mat.bagBusy tick && !c.committing

/-- The slot whose `safe` is to issue in this tick, as the arbiter chooses before the engines issue (R128 step 2). -/
def State.safePick (s : State) (k : Nat) : Option (Fin 4) :=
  match s.pickOf k (fun _ => true) with
  | none => none
  | some i => if s.atSafe k i then some i else none

/-- The engines of a core are held in this tick: a `safe` issues in it (R128 step 2), or a pause is pending and a slot stands
at its `safe`, or every slot stands, or no task is there (step 3, R260, R291, R344). -/
def State.enginesHeld (s : State) (k : Nat) : Bool :=
  let c := s.core k
  if c.pauseWanted then s.allStand k || c.tasksHere.any (fun i => s.atSafe k i) else c.safeNow.isSome

/-- The core has a task, a queued launch or a held delivery (R291). -/
def Core.hasWork (c : Core) : Bool := !c.tasksHere.isEmpty || !c.launchQ.isEmpty || !c.held.isEmpty

/-- A time-slice switch is due (R291): at the quantum, or at once when the core has nothing to do, or, in elastic mode,
when every slot waits in a waiting word. -/
def State.switchDue (s : State) (k : Nat) : Bool :=
  match s.partnerOf k with
  | none => false
  | some m =>
    let c := s.core k
    let p := s.part c.part
    let waits := c.tasksHere.all (fun i => s.stands k i && !s.atSafe k i)
    (s.core m).run == .switchedOut && (s.core m).hasWork &&
      (decide (c.inSince + p.quant * 1024 ≤ p.tick) || !c.hasWork || (!p.fl && waits))

/-! ## Jobs of a tick -/

/-- Jobs put before the rest of the agenda. -/
def State.soon (s : State) (js : List Job) : State := { s with agenda := js ++ s.agenda }

/-- The engine may issue its next word in this tick (R62, R75). -/
def Run.mayIssue (r : Run) (tick : Nat) : Bool :=
  r.active && !r.ending && !r.filling && r.halted.isNone && decide (r.nextAt ≤ tick) && decide (r.upc.toNat < r.endOff.toNat)

/-- A run that has come to its end or its exit word, with nothing of it in flight (R62, R154, R196, R213),
a `wmove` that stands last having its ticks (R220). -/
def Core.runOver (c : Core) (e : Engine) (tick : Nat) : Bool :=
  let r := c.runOf e
  r.active && r.halted.isNone && (r.ending || decide (r.endOff.toNat ≤ r.upc.toNat)) &&
    (match e with
     | .vector => c.drained .vector tick
     | .matrix => c.drained .matrix tick && !c.mat.bagBusy tick
     | .walker => decide (r.nextAt ≤ tick + 1)
     | .transfer => true)

/-- The engines whose runs are over. -/
def Core.endedRuns (c : Core) (tick : Nat) : List Engine :=
  [Engine.vector, Engine.matrix, Engine.transfer, Engine.walker].filter (fun e => c.runOver e tick)

/-- A core comes back from a save or a switch (R174, R218): its array's copy of B is read from its tile register again, 16
ticks before the next row pass, and the time away counts as a wait of its steps. `inSince` holds the tick of the save. DESIGN CHOICE:
where no `mldb` was issued, tile register t0 is read, the reset value of `btile`, though the array was at its reset value (log
140). -/
def Core.enter (c : Core) (tick : Nat) : Core :=
  { c with
    run := .running
    inSince := tick
    held := [], late := []
    mat := { c.mat with b := Memory.window c.tiles (32768 * c.mat.btile.val) 32768, entered := Nat.max c.mat.entered (tick + 16) }
    xfr := { c.xfr with steps := c.xfr.steps.map (fun x =>
      if x.moves then { x with waited := x.waited + (tick - c.inSince), askAt := Nat.max x.askAt tick } else x) } }

/-- The step is an `xpub`, or the final one of a run. -/
def XStep.isPub (x : XStep) : Bool :=
  match x.instr with
  | .xpub _ => true
  | _ => false

/-- Some deferred step of slot `i` is taken by no `xpub`. -/
def Core.openDeferred (c : Core) (i : Fin 4) : Bool :=
  c.xfr.steps.any (fun y => y.slot == i && y.dfr && !c.xfr.steps.any (fun p => p.isPub && p.slot == i && decide (y.id < p.id)))

/-- The transfer unit's next step may begin a publish in its issue tick: `xpub`, `xfill.rel` with a queued fill, or a step that ends
a run with open deferred steps (R213). -/
def State.publishNext (s : State) (k : Nat) : Bool :=
  let r := (s.core k).runOf .transfer
  match s.fetch (engAt k .transfer) with
  | .words ws =>
    match decode (.eng .transfer) ws with
    | some (.xpub _, _) | some (.xfillRel _ _, _) => true
    | some (i, n) =>
      (s.core k).openDeferred r.owner &&
        (decide (r.endOff.toNat ≤ r.upc.toNat + n) || (match i with | .xexit _ => true | _ => false))
    | none => false
  | .nothing | .miss _ _ | .fault _ _ _ => false

/-- The order in which a core's engines issue in a tick: that of R264, but a step that may publish comes first, for a publish
occupies its granules from its first tick on (R265; DEDUCED, log 38). -/
def State.engineOrder (s : State) (k : Nat) : List Engine :=
  if s.publishNext k then [.transfer, .matrix, .vector, .walker] else [.matrix, .vector, .walker, .transfer]

/-- The runs of a core that are over end. -/
def State.endsJob (s : State) (k : Nat) : State :=
  s.soon (((s.core k).endedRuns (s.tickOf k)).map (fun e => .event (engAt k e) (.runEnd k e)))

/-- What an engine's issue puts on the agenda: a transfer step that goes first is followed by the end of its run, whose final
publish occupies its granules from this tick on (R206, R265). -/
def State.issueJobs (s : State) (k : Nat) (e : Engine) : List Job :=
  if e = .transfer ∧ s.publishNext k then [.issue (engAt k e), .ends k] else [.issue (engAt k e)]

/-- Deliveries and launches that wait for an entry of a core's station take those that its partner's switch-in has freed (R293). -/
def State.partnerFills (s : State) (k : Nat) : State :=
  match s.partnerOf k with
  | none => s
  | some m => (s.fillStation m (s.core m).late).now (engAt m .vector) (.launchQueueAccept m)

/-- The engines of a core issue, in the order of R264 (DEDUCED, log 38), those held at a `safe` only to go on with a step already
issued (R357); a core that has finished its save or switch-in goes on
from there. Runs that are over end first; whether a switch is pending is judged anew in every tick (R291). -/
def State.enginesJob (s : State) (k : Nat) : State :=
  let c := s.core k
  let tick := s.tickOf k
  match c.run with
  | .saved | .switchedOut => s
  | .saving till =>
    if tick < till then s
    else
      let s1 := s.setCore k { c with run := .saved, saveReq := none }
      if (s1.part c.part).cores.all (fun j => (s1.core j).run == .saved || (s1.core j).run == .switchedOut) then
        s1.now (engAt k .vector) (.swapDone c.part)
      else s1
  | .entering till =>
    if tick < till then s
    else
      let s1 := (s.setCore k (c.enter tick)).partnerFills k
      let sw := (s.part c.part).swap
      let done := sw.st == 1 && sw.op == 2 && (s.part c.part).cores.all (fun j => (s1.core j).run.here)
      s1.soon ((c.held ++ c.late).map (fun d => .event (engAt k .vector) (.heldDelivery k d)) ++
        (c.xfr.steps.filter (fun x => x.stage == .parked || x.old)).map (fun x => .event (engAt k .transfer) (.stepResume k x.id)) ++
        [.event (engAt k .vector) (.launchQueueAccept k), .engines k] ++
        (if done then [.event (engAt k .vector) (.swapDone c.part)] else []))
  | .running =>
    let ended := c.endedRuns tick
    if ended ≠ [] then s.soon (ended.map (fun e => .event (engAt k e) (.runEnd k e)) ++ [.engines k])
    else
      let s1 := s.setCore k { c with switchReq := c.saveReq.isNone && s.switchDue k }
      let s2 := s1.setCore k { s1.core k with safeNow := if (s1.core k).pauseWanted then none else s1.safePick k }
      let held := s2.enginesHeld k
      s2.soon (((s2.engineOrder k).filter
        (fun e => (c.runOf e).mayIssue tick && (!held || (e == .matrix && c.mat.progress != 0)))).flatMap (s2.issueJobs k))

/-- The counts of ready ticks without issue (R305). -/
def Core.countReady (c : Core) (ready : Fin 4 → Bool) (chosen : Option (Fin 4)) : Core :=
  { c with tasks := Vector.ofFn (fun i : Fin 4 =>
      let t := c.task i
      { t with readyFor := if ready i && chosen != some i then t.readyFor + 1 else 0 }) }

/-- The next word of a slot that may issue is missing: its line is fetched (R284). -/
def State.fillMiss (s : State) (k tick : Nat) (i : Fin 4) : State :=
  match ((s.core k).task i).free tick, s.nextWord k i with
  | true, .miss va pa => s.startFill (seqAt { core := k, slot := i }) va pa
  | _, _ => s

/-- The slot that issues: the `safe` for which the engines were held in this tick, or the arbiter's choice among the words that
are no `safe`, for the engines were not held (R128 step 2, R304). -/
def State.chosen (s : State) (k : Nat) : Option (Fin 4) :=
  match (s.core k).safeNow with
  | some i => if s.ready k i then some i else s.pickOf k (fun i => !s.atSafe k i)
  | none => s.pickOf k (fun i => !s.atSafe k i)

/-- The ready slots wait or have their turn, and the chosen one issues (R304, R305). A packet's count starts with the first word
of its first task, which a fetch that faults has not issued (R302, R337). -/
def State.issueChosen (s : State) (k : Nat) : State :=
  let chosen := s.chosen k
  let s2 := s.setCore k ((s.core k).countReady (fun i => s.ready k i) chosen)
  match chosen with
  | none => s2
  | some i =>
    let s3 := s2.setCore k { s2.core k with last := i }
    let r : TaskRef := { core := k, slot := i }
    let s4 := if (s3.taskOf r).started || s3.nextWord k i == .fault then s3 else s3.startPacket r
    s4.soon [.issue (seqAt r)]

/-- The unit number and place of a halted run's fault. -/
def Run.fault (e : Engine) (f : PendFault) : FaultInfo :=
  { cause := f.cause, unit := (Agent.eng e).unit, loc := f.upc, acc := f.acc, why := f.why, addr := f.addr, sect := 0,
    code := 0 }

/-- What may be recorded for a task in a tick. -/
inductive Report where
  | run (f : FaultInfo)
  | step (x : XStep) (b : BadSector)
  deriving DecidableEq, Repr

/-- The fault of a halted run of slot `i`, once its earlier words have completed (R77, R337). -/
def Core.runReport (c : Core) (i : Fin 4) (tick : Nat) (e : Engine) : Option Report :=
  match (c.runOf e).halted with
  | none => none
  | some f =>
    if c.runFor e i && !((e == .vector || e == .matrix) && !c.drained e tick) then some (.run (Run.fault e f)) else none

/-- The fault of the oldest failing step of slot `i`, of a walker's gathers or of the others (R217). -/
def Core.stepReport (c : Core) (i : Fin 4) (tick : Nat) (gather : Bool) : Option Report :=
  (c.xfr.steps.filter (fun x => x.slot == i && x.isGather == gather && x.stage != .parked)).findSome?
    (fun x => (x.dueBad tick).map (.step x))

/-- The fault that is recorded for slot `i` in a tick: that of the lowest unit number, and of a unit's the earliest step's (R338). What
is not recorded stands again in the next tick, if its task goes on. -/
def Core.report (c : Core) (i : Fin 4) (tick : Nat) : Option Report :=
  if (c.task i).faultTick = some tick ∨ (c.task i).pendRecs ≠ [] then none
  else
    [c.runReport i tick .vector, c.runReport i tick .matrix, c.stepReport i tick false, c.runReport i tick .transfer,
      c.runReport i tick .walker, c.stepReport i tick true].findSome? id

/-- A fault of an engine or step is recorded: a step's page that is not present parks the step, every other one is taken at once
(R217, R337). -/
def State.takeReport (s : State) (k : Nat) (i : Fin 4) (r : Report) : State :=
  match r with
  | .run f => s.takeFault { core := k, slot := i } f false
  | .step x b =>
    if b.cause = 0x08 then s.now (engAt k .transfer) (.sectorPageFault k x.id)
    else s.takeFault { core := k, slot := i } (x.fault b) true

/-- Halted runs and failing steps of a core that runs report their faults at the end of a tick (R338); a run whose task has ended
reports none (R339). -/
def State.reportJob (s : State) (k : Nat) : State :=
  let tick := s.tickOf k
  if (s.core k).run ≠ .running then s
  else
    let s1 := (List.finRange 4).foldl (fun s i =>
      match (s.core k).report i tick with
      | none => s
      | some r => s.takeReport k i r) s
    let c := s1.core k
    if (c.runOf .matrix).orphan && (c.runOf .matrix).halted.isSome && c.drained .matrix tick then s1.setCore k (c.endRun .matrix)
    else s1

/-- The sequencer of a core: runs end, a pause takes place once what has failed in this tick is recorded (R218, R338), misses start
their fills, and the chosen slot issues. -/
def State.arbitrateJob (s : State) (k : Nat) : State :=
  let c := s.core k
  let tick := s.tickOf k
  let ended := c.endedRuns tick
  if c.run ≠ .running then s
  else if ended ≠ [] then s.soon (ended.map (fun e => .event (engAt k e) (.runEnd k e)) ++ [.arbitrate k])
  else if c.pauseWanted ∧ s.allStand k ∧ c.pipesEmpty tick ∧ ¬(c.saveReq.isSome ∧ c.riding) then
    if c.tasksHere.any (fun i => !(c.task i).ended && (c.report i tick).isSome) then s.soon [.report k, .arbitrate k]
    else s.now (engAt k .vector) (if c.saveReq.isSome then .coreSave k else .timeSliceSwitch k)
  else
    ((List.finRange 4).foldl (fun s i => s.fillMiss k tick i) s).issueChosen k

/-! ## The delivered tick (R24, R304 to R307) -/

/-- A barrier request on its way. Requests that reach their homes in one tick are performed together, behind every other job of
the tick (R115). -/
def Timer.isBar (t : Timer) : Bool :=
  match t.ev with
  | .barrierRequestArrival _ => true
  | _ => false

/-- Timers of a clock that are due, barrier requests aside. -/
def State.dueTimers (s : State) (clock : Option Nat) (now_ : Nat) : List Timer :=
  s.timers.filter (fun t => t.clock == clock && decide (t.due ≤ now_) && !t.isBar)

/-- The state without the due timers of a clock. -/
def State.dropTimers (s : State) (clock : Option Nat) (now_ : Nat) : State :=
  { s with timers := s.timers.filter (fun t => !(t.clock == clock && decide (t.due ≤ now_) && !t.isBar)) }

/-- A timer's job. -/
def Timer.job (t : Timer) : Job := .event t.who t.ev

/-- The budget of a core gains its refill, up to cap (R306). -/
def Budget.fill (b : Budget) : Budget :=
  { b with level := BitVec.ofNat 16 (Nat.min (b.level.toNat + b.refill.toNat) b.cap.toNat) }

/-- Queue depths as `qdepth` reads them in a tick (R131): a result queue counts the rows pushed and not yet entered at
their target (spec/07_vector_special.md R378). -/
def Core.snapDepths (c : Core) : Core :=
  { c with depths := Vector.ofFn (fun i : Fin 8 =>
      if i.val < 4 then (vget c.iq (Fin.ofNat 4 i.val)).length else (vget c.oq (Fin.ofNat 4 (i.val - 4))).length) }

/-- A core at the start of a tick: the last tick's writes are settled, matrix writes that are due are made, the budget
of a core that runs is filled (R254, R306), and the depths are taken. -/
def Core.startTick (c : Core) (tick : Nat) : Core :=
  let c0 := c.settle
  let c1 := { c0 with vec := c0.vec.landDirs tick }
  let due := c1.mat.writes.filter (fun w => decide (w.1 ≤ tick))
  let c2 := due.foldl (fun c w => c.spWrite .matrix w.2.1 w.2.2) c1
  let c3 := { c2 with mat := { c2.mat with writes := c2.mat.writes.filter (fun w => decide (tick < w.1)) } }
  let ready := c3.mat.fillTile.filter (fun x => decide (x.2 ≤ tick))
  let left := c3.mat.fillTile.filter (fun x => !decide (x.2 ≤ tick))
  let c4 : Core := { c3 with
    tt := ready.foldl (fun (tt : Vector TileEnt 64) x => vset tt x.1 { vget tt x.1 with st := .ready }) c3.tt
    mat := { c3.mat with fillTile := left } }
  ({ c4 with budget := if c4.run = CoreRun.running then c4.budget.fill else c4.budget, admits := c4.admits.filter (fun a => decide (tick ≤ a.2)),
             spBusy := c4.spBusy.filter (fun b => decide (tick ≤ b.2.2)) }).snapDepths

/-- Pending vector words of a core that write in this tick. -/
def Core.writesDue (c : Core) (tick : Nat) : Nat := (c.vec.pending.filter (fun w => decide (w.at_ ≤ tick))).length

/-- Row passes of a core that land in this tick. -/
def Core.passesDue (c : Core) (tick : Nat) : Nat := (c.mat.passes.filter (fun w => decide (w.at_ ≤ tick))).length

/-- The jobs of a core before any word issues. -/
def Core.landings (c : Core) (k tick : Nat) : List Job :=
  List.replicate (c.writesDue tick) (.event (engAt k .vector) .vectorWriteback) ++
    List.replicate (c.passesDue tick) (.event (engAt k .matrix) (.rowPassLand k))

/-- DELIVERED_TICK (R24, R304, R306, R359): the tick counts, and everything that is due in it is put on the agenda. With
a watchdog expiry nothing of the partition issues. -/
def State.deliveredTick (s : State) (p : Nat) : State :=
  let part := s.part p
  let tick := part.tick + 1
  let s1 := s.setPart p { part with tick := tick }
  let ks := part.cores
  let s2 := ks.foldl (fun s k => s.setCore k ((s.core k).startTick tick)) s1
  match s2.watchdogDue p with
  | some m => s2.now s2.cur (.watchdogExpiry m)
  | none =>
    let due := s2.dueTimers (some p) tick
    let s3 := s2.dropTimers (some p) tick
    let work : List Job :=
      if bit part.root.toNat 0 then
        (ks.filter (fun k => (s3.core k).xfr.steps.any XStep.moves)).map (fun k => .sectors k) ++
          ks.map (fun k => .engines k) ++ ks.map (fun k => .arbitrate k) ++ ks.map (fun k => .report k)
      else []
    s3.soon (due.map Timer.job ++ ks.flatMap (fun k => (s3.core k).landings k tick) ++ work ++ [.barriers p])

/-- The barrier requests of a tick: arrivals in their global order, then waits and queries (R115). -/
def State.barriersJob (s : State) (p : Nat) : State :=
  let (s1, rs) := s.takeBars p (fun _ => true)
  s1.soon ((rs.filter (fun r => r.fn.arrives) ++ rs.filter (fun r => !r.fn.arrives)).map (fun r =>
    .event (seqAt r.who) (.barrierRequestArrival r)))

/-- DELIVERED_TICK. -/
def execDeliveredTick (s : State) : Res :=
  match s.ev with
  | .deliveredTick p => .next (s.deliveredTick p)
  | _ => .next s

/-! ## The wall period (R25, R307) -/

/-- A clock pulse is swallowed: the last `level` of each 16 periods (R307). -/
def swallowed (level wall : Nat) : Bool := decide (16 - level ≤ wall % 16)

/-- Some die of the partition has its clock stopped by a thermal trip (spec/22_platform.md R370). -/
def State.clockStopped (s : State) (p : Part) : Bool := p.dies.any (fun d => (s.die d).clockOff)

/-- A partition receives the tick of a period. -/
def State.delivers (s : State) (p : Part) : Bool :=
  p.valid && p.draining.isNone && !p.frozen && !swallowed p.level s.wall.toNat && !s.clockStopped p

/-- A partition's front ends may take a header in this period: it receives the tick, and it has translation tables. -/
def State.frontServes (s : State) (q : Part) : Bool := s.delivers q && bit q.root.toNat 0

/-- The front ends of all dies, at the end of the period's ticks: each takes at most one header (R299). -/
def State.frontEnds (s : State) : State :=
  s.frontTake ((s.parts.filter (fun e => s.frontServes e.2)).map (fun e => e.1))

/-- WALL_PERIOD (R25, R307): `wall` counts and new levels take effect at the start of a group. The mesh and ring cycles of
the period that ends come first, then the new period's due jobs and delivered ticks, then the front ends. -/
def State.wallPeriod (s : State) : State :=
  let wall := s.wall + 1
  let s1 := { s with wall := wall }
  let s2 :=
    if wall.toNat % 16 = 0 then
      { s1 with parts := s1.parts.map (fun e => (e.1, { e.2 with level := e.2.levelNext, levelWas := e.2.level })) }
    else s1
  let due := s2.dueTimers none wall.toNat
  let ticks := s2.parts.filter (fun e => s2.delivers e.2)
  (s2.dropTimers none wall.toNat).soon
    ([.event s.cur .meshCycle, .event s.cur .meshCycle, .event s.cur .ringCycle, .event s.cur .ringCycle] ++
      due.map Timer.job ++ ticks.map (fun e => .event s.cur (.deliveredTick e.1)) ++
      [.frontEnds])

/-- WALL_PERIOD. -/
def execWallPeriod (s : State) : Res := .next s.wallPeriod

end Sys2Proof.Machine
end

