-- ==== Sys2Proof/Machine/VecCore.lean ====
section
/-! DEFINITION. The vector engine's issue and write ticks (spec/03_encodings.md R75 to R77) and its words for shapes, data
movement, arithmetic, masks and loops (spec/06_vector_core.md R132 to R154). -/

namespace Sys2Proof.Machine

/-! ## Timing (R74, R75) -/

/-- Elements of a type that the engine handles in a tick. -/
def lanes (t : ElemType) : Nat := if t.width = 32 then 128 else 256

/-- n(i) of a word of type `t` (R75). -/
def VecUnit.beats (u : VecUnit) (t : ElemType) : Nat := ceilDiv u.count (lanes t)

/-- The type fits the shape (R14). -/
def VecUnit.fits (u : VecUnit) (bits : Nat) : Bool := decide (u.count * (bits / 8) ≤ 4096)

/-- Words that a vector word takes: the modifier is one of its own (R62). -/
def modLen (m : Option Modifier) : Nat := if m.isSome then 2 else 1

/-- What a modifier adds to a latency (R74). -/
def modLat (m : Option Modifier) : Nat := if m.isSome then 1 else 0

/-! ## The upc and loops (R62, R152) -/

/-- Stage predicates of pass `p` (R152). -/
def stagePreds (p n st : Nat) : BitVec 8 :=
  BitVec.ofNat 8 ((List.range 8).foldl (fun acc j =>
    if j < st ∧ j ≤ p ∧ p - j < n then acc + 2 ^ j else acc) 0)

/-- The end of a loop's body. -/
def VLoop.bodyEnd (l : VLoop) : Nat := l.u + 1 + l.l

/-- The upc moves to `upc`; where that is the end of an active loop's body, the pass ends (R152). -/
def Core.vecGo (c : Core) (upc nextAt : Nat) : Core :=
  let r := { c.runOf .vector with upc := BitVec.ofNat 24 upc, nextAt := nextAt }
  match c.vec.loop with
  | none => c.setRun .vector r
  | some l =>
    if upc ≠ l.bodyEnd then c.setRun .vector r
    else
      let rb := c.vec.rb + 1
      if l.p + 1 < l.n + l.s - 1 then
        ({ c with vec := { c.vec with rb := rb, sg := stagePreds (l.p + 1) l.n l.s,
                                      loop := some { l with p := l.p + 1 } } }).setRun .vector
          { r with upc := BitVec.ofNat 24 (l.u + 1) }
      else ({ c with vec := { c.vec with rb := rb, sg := 0xFF, loop := none } }).setRun .vector r

/-- The word is issued: the engine moves past its `len` words, and its next word may issue from tick T + n + h on. -/
def State.vecNext (s : State) (len n : Nat) (h : Hold) : State :=
  s.setMe (s.me.vecGo ((s.run .vector).upc.toNat + len) (s.tick + n + h.toNat))

/-! ## Results on their way (R75, R76) -/

/-- What a word will write: its bits, the bits it writes, and its flags. -/
structure VOut where
  val   : BitVec 32768
  mask  : BitVec 32768
  flags : Flags
  deriving DecidableEq, Repr

/-- Nothing to write. -/
def VOut.nothing (fl : Flags) : VOut := { val := 0, mask := 0, flags := fl }

/-- The result of a word with elements of width `w`: `f q` gives the encoding and flags of element `q`, or none where the
word writes nothing. -/
def vOut (w n : Nat) (f : Nat → Option (Nat × Flags)) : VOut :=
  let xs := (List.range n).map f
  { val := BitVec.ofNat 32768 (vPack w (xs.map (fun x => match x with
      | none => 0
      | some (v, _) => v)))
    mask := BitVec.ofNat 32768 (vPack w (xs.map (fun x => if x.isSome then 2 ^ w - 1 else 0)))
    flags := xs.foldl (fun acc x => match x with
      | none => acc
      | some (_, fl) => acc ||| fl) 0 }

/-- A read of a register is undersized, or a write with write tick `wt` (R76). -/
def VecUnit.undersized (u : VecUnit) (tick wt : Nat) (srcs : List (Fin 32)) (d : Option (Fin 32)) : Bool :=
  u.pending.any (fun p =>
    match p.dst with
    | none => false
    | some r => (srcs.contains r && decide (tick < p.at_)) || (d == some r && decide (wt ≤ p.at_)))

/-- A word between issue and retirement. -/
def Core.vecPend (c : Core) (wt : Nat) (d : Option (Fin 32)) (o : VOut) : Core :=
  let w : VWrite :=
    { at_ := wt, dst := d, val := o.val, mask := o.mask, flags := o.flags, slot := some (c.runOf .vector).owner }
  { c with vec := { c.vec with pending := c.vec.pending ++ [w] } }

/-- An enabled exception (R140). -/
def Run.traps (r : Run) (fl : Flags) : Bool := fl &&& r.cfg.trapen != 0

/-- A vector word issues (R65, R75 to R77, R140): the hold fault comes after the entry's own checks, and an enabled
exception after it. A word that traps writes nothing and merges its flags. `effect` is what it does at issue beside its
register. -/
def State.vecIssue (s : State) (h : Hold) (len n wt : Nat) (srcs : List VReg) (d : Option VReg) (o : VOut)
    (effect : State → State) : State :=
  let u := s.me.vec
  let dp := d.map u.phys
  if (s.run .vector).cfg.holdchk && u.undersized s.tick wt (srcs.map u.phys) dp then s.engFault .vector 0x06 0 0 0
  else if (s.run .vector).traps o.flags then
    (s.setMe (s.me.vecPend wt none (VOut.nothing o.flags))).engFault .vector 0x0E 0 0 0
  else
    let s1 := effect s
    (s1.setMe (s1.me.vecPend wt dp o)).vecNext len n h

/-- A word of type `t` that writes a register, with latency `lat` (R74). -/
def State.vecWord (s : State) (h : Hold) (m : Option Modifier) (t : ElemType) (lat : Nat) (srcs : List VReg) (d : VReg)
    (o : VOut) : State :=
  let n := s.me.vec.beats t
  s.vecIssue h (modLen m) n (s.tick + n + lat + modLat m) srcs (some d) o id

/-- A ctl word: it retires in the next tick (R75). -/
def State.vecCtl (s : State) (h : Hold) (srcs : List VReg) (fl : Flags) (effect : State → State) : State :=
  s.vecIssue h 1 1 (s.tick + 1) srcs none (VOut.nothing fl) effect

/-- The acting core's vector unit replaced. -/
def State.setVec (s : State) (u : VecUnit) : State := s.setMe { s.me with vec := u }

/-- A vector word faults at issue. -/
def State.vecFault (s : State) (cause addr : Nat) : State := s.engFault .vector cause 0 0 addr

/-- VECTOR_WRITEBACK (R75, R264): the first pending word that is due writes its elements and merges its flags (R31). -/
def State.vectorWriteback (s : State) : State :=
  let c := s.me
  let tick := s.tick
  match c.vec.pending.find? (fun w => decide (w.at_ ≤ tick)) with
  | none => s
  | some w =>
    let v :=
      match w.dst with
      | none => c.vec.v
      | some r => vset c.vec.v r ((vget c.vec.v r &&& ~~~w.mask) ||| (w.val &&& w.mask))
    let c1 := { c with vec := { c.vec with v := v, pending := c.vec.pending.erase w } }
    match w.slot with
    | none => s.setMe c1
    | some i => s.setMe (c1.setTask i ((c1.task i).mergeFlags tick w.flags))

/-- VECTOR_WRITEBACK. -/
def execVectorWriteback (s : State) : Res :=
  match s.ev with
  | .vectorWriteback => .next s.vectorWriteback
  | _ => .next s

/-! ## Shape and memory (R133 to R138) -/

/-- R133. -/
def execVshape (h : Hold) (vp : VpReg) (s : State) : Res :=
  let w := s.vp .vector vp
  let rows := bitsOf w 0 10 + 1
  let cols := bitsOf w 10 12 + 1
  if bitsOf w 22 42 ≠ 0 ∨ 4096 < rows * cols then .next (s.vecFault 0x0A 0)
  else .next (s.vecCtl h [] 0 (fun s => s.setVec { s.me.vec with rows := rows, cols := cols }))

/-- A vector access to scratchpad: its place, the format that fixes its sizes, and its row stride (R134, R135, R310). -/
structure VAcc where
  place  : Place
  bankF  : Fmt
  size   : Fmt
  stride : Nat
  deriving DecidableEq, Repr

/-- The access of a vp register for type `t`, before any check. -/
def State.vAcc (s : State) (w : Word64) (t : ElemType) : VAcc :=
  let c := s.me
  let p := c.place (bit w.toNat 63) (Fin.ofNat 64 (bitsOf w 56 6)) (bitsOf w 17 4) (bitsOf w 0 17)
  let f := c.bankFmt p.bank
  let sz := sizeFmt f t.fmt
  { place := p, bankF := f, size := sz,
    stride := if bitsOf w 21 17 = 0 then rowBytes sz c.vec.cols else bitsOf w 21 17 }

/-- The checks of vld and vst (R135, R136): alignment, then the shape limit, must-be-0 fields and bounds over the whole
footprint, then the tile. -/
def State.admitRows (s : State) (w : Word64) (a : VAcc) (t : ElemType) : Admit :=
  let u := s.me.vec
  let span := (u.rows - 1) * a.stride + rowBytes a.size u.cols
  let m := a.size.bits / 8
  if (m = 2 ∨ m = 4) ∧ (a.place.off % m ≠ 0 ∨ (1 < u.rows ∧ a.stride % m ≠ 0)) then .fault 0x07
  else if !u.fits t.width ∨ (vpAddr? w).isNone ∨ !a.place.fits a.place.off span then .fault 0x0A
  else s.admitTile a.place a.place.off span

/-- The scratchpad place of element (i, j). -/
def VAcc.at_ (a : VAcc) (i j : Nat) : ElemAt := elemAt a.size (a.place.byte (a.place.off + i * a.stride)) j

/-- A vp register of the acting vector run written. -/
def State.setVp (s : State) (i : VpReg) (w : Word64) : State :=
  let r := s.run .vector
  s.setMe (s.me.setRun .vector { r with vp := vset r.vp i w })

/-- The low field of a vp register replaced. -/
def lowField (w : Word64) (n v : Nat) : Word64 := BitVec.ofNat 64 (w.toNat - fld w.toNat 0 n + v % 2 ^ n)

/-- vld and vst with `inc` move the offset past the rows (R137). -/
def State.incOff (s : State) (inc : Bool) (vp : VpReg) (a : VAcc) : State :=
  if inc then
    let w := s.vp .vector vp
    s.setVp vp (lowField w 17 (bitsOf w 0 17 + s.me.vec.rows * a.stride))
  else s

/-- Row and column of a position. -/
def VecUnit.at_ (u : VecUnit) (q : Nat) : Nat × Nat := (q / u.cols, q % u.cols)

/-- The elements a vld writes (R137). -/
def State.loadOut (s : State) (a : VAcc) (t : ElemType) : VOut :=
  let u := s.me.vec
  vOut t.width u.count (fun q =>
    if maskBit u.top q then
      let (i, j) := u.at_ q
      some (convert a.bankF t.fmt .rne (readElem s.me.scratch a.size (a.at_ i j)))
    else none)

/-- R137. -/
def execVld (h : Hold) (t : ElemType) (inc : Bool) (d : VReg) (vp : VpReg) (s : State) : Res :=
  let w := s.vp .vector vp
  let a := s.vAcc w t
  match s.admitRows w a t with
  | .fault cause => .next (s.vecFault cause 0)
  | .wait => .next s
  | .go =>
    let n := s.me.vec.beats t
    let wt := s.tick + n + 2
    .next (s.vecIssue h 1 n wt [] (some d) (s.loadOut a t)
      (fun s => (s.setMe (s.me.holdTile a.place (wt - 1))).incOff inc vp a))

/-- Encodings written at places of the scratchpad, in order: T6 groups merge (R137, R165). -/
def storeElems (m : Memory) (f : Fmt) (xs : List (ElemAt × Nat)) : List (Nat × List Byte) :=
  (xs.foldl (fun (acc : Memory × List (Nat × List Byte)) x =>
    let bs := elemMerge acc.1 f x.1 x.2
    (Memory.store acc.1 x.1.1 bs, acc.2 ++ [(x.1.1, bs)])) (m, [])).2

/-- The enabled elements of `v[d]` converted for a store, with their positions and flags. -/
def State.storeVals (s : State) (a : VAcc) (t : ElemType) (d : VReg) : List (Nat × Nat) × Flags :=
  let u := s.me.vec
  let v := u.reg d
  let qs := (List.range u.count).filter (fun q => maskBit u.top q)
  let cs := qs.map (fun q => (q, convert t.fmt a.bankF .rne (vElem v t.width q)))
  (cs.map (fun c => (c.1, c.2.1)), cs.foldl (fun fl c => fl ||| c.2.2) 0)

/-- Scratchpad writes of the vector engine. -/
def State.vecStores (s : State) (ws : List (Nat × List Byte)) : State :=
  s.setMe (ws.foldl (fun c w => c.spWrite .vector w.1 w.2) s.me)

/-- R137. -/
def execVst (h : Hold) (t : ElemType) (inc : Bool) (d : VReg) (vp : VpReg) (s : State) : Res :=
  let w := s.vp .vector vp
  let a := s.vAcc w t
  match s.admitRows w a t with
  | .fault cause => .next (s.vecFault cause 0)
  | .wait => .next s
  | .go =>
    let n := s.me.vec.beats t
    let wt := s.tick + n + 2
    let (vals, fl) := s.storeVals a t d
    let ws := storeElems s.me.scratch a.size (vals.map (fun x => (let (i, j) := s.me.vec.at_ x.1; a.at_ i j, x.2)))
    .next (s.vecIssue h 1 n wt [d] none (VOut.nothing fl)
      (fun s => ((s.vecStores ws).setMe ((s.vecStores ws).me.holdTile a.place (wt - 1))).incOff inc vp a))

/-- First row and column of an accumulator access, or none where R138 faults it. -/
def State.accPlace (s : State) (w : Word64) (t : ElemType) (exact : Bool) : Option (Nat × Nat) :=
  let u := s.me.vec
  let row := bitsOf w 0 10
  let col := bitsOf w 10 7
  if !u.fits t.width ∨ bitsOf w 17 47 ≠ 0 ∨ 128 < col + u.cols ∨ accRows exact < row + u.rows then none
  else some (row, col)

/-- vldacc and vstacc with `inc` move the row field on (R138). -/
def State.incRow (s : State) (inc : Bool) (vp : VpReg) : State :=
  if inc then
    let w := s.vp .vector vp
    s.setVp vp (lowField w 10 (bitsOf w 0 10 + s.me.vec.rows))
  else s

/-- R138. -/
def execVldacc (h : Hold) (t : ElemType) (inc exact : Bool) (d : VReg) (vp : VpReg) (s : State) : Res :=
  match s.accPlace (s.vp .vector vp) t exact with
  | none => .next (s.vecFault 0x0A 0)
  | some (row, col) =>
    let u := s.me.vec
    let n := u.beats t
    let o := vOut t.width u.count (fun q =>
      if maskBit u.top q then
        let (i, j) := u.at_ q
        some (accOut exact t.fmt (leNat (Memory.load s.me.acc (accAt exact (row + i) (col + j)) (accBytes exact))))
      else none)
    .next (s.vecIssue h 1 n (s.tick + n + 2) [] (some d) o (fun s => s.incRow inc vp))

/-- R138. -/
def execVstacc (h : Hold) (t : ElemType) (inc exact : Bool) (d : VReg) (vp : VpReg) (s : State) : Res :=
  match s.accPlace (s.vp .vector vp) t exact with
  | none => .next (s.vecFault 0x0A 0)
  | some (row, col) =>
    let u := s.me.vec
    let n := u.beats t
    let v := u.reg d
    let cs := ((List.range u.count).filter (fun q => maskBit u.top q)).map
      (fun q => (q, accIn exact t.fmt (vElem v t.width q)))
    let fl := cs.foldl (fun fl c => fl ||| c.2.2) 0
    .next (s.vecIssue h 1 n (s.tick + n + 2) [d] none (VOut.nothing fl) (fun s =>
      (s.setMe (cs.foldl (fun c x =>
        let (i, j) := u.at_ x.1
        c.accWrite .vector (accAt exact (row + i) (col + j)) (leBytes (accBytes exact) x.2.1)) s.me)).incRow inc vp))

/-! ## Element-wise words (R139 to R148) -/

/-- The result of an element-wise word: enabled elements only (R140). -/
def VecUnit.each (u : VecUnit) (t : ElemType) (f : Nat → Nat × Flags) : VOut :=
  vOut t.width u.count (fun q => if maskBit u.top q then some (f q) else none)

/-- A word of type `t`, refused with 0x0A where the type does not fit the shape (R14). -/
def State.vecTyped (s : State) (h : Hold) (m : Option Modifier) (t : ElemType) (lat : Nat) (srcs : List VReg) (d : VReg)
    (o : VOut) : State :=
  if s.me.vec.fits t.width then s.vecWord h m t lat srcs d o else s.vecFault 0x0A 0

/-- R139. -/
def execVmov (h : Hold) (t : ElemType) (d a : VReg) (s : State) : Res :=
  let u := s.me.vec
  let x := u.reg a
  .next (s.vecTyped h none t 2 [a] d (u.each t (fun q => (vElem x t.width q, 0))))

/-- R139. -/
def execVsplat (h : Hold) (t : ElemType) (x : Splat) (d a : VReg) (s : State) : Res :=
  let u := s.me.vec
  let v := u.reg a
  let src (q : Nat) : Nat :=
    match x with
    | .elem => vElem v t.width 0
    | .row => vElem v t.width (q % u.cols)
    | .col => vElem v t.width (q / u.cols * u.cols)
    | .vp => bitsOf (s.vp .vector (Fin.ofNat 4 a.val)) 0 t.width
  .next (s.vecTyped h none t 2 (if x = .vp then [] else [a]) d (u.each t (fun q => (src q, 0))))

/-- The rounding mode of a vector word. -/
def State.vecRm (s : State) (r : Rnd) : RM := RM.select r (s.run .vector).cfg.frm

/-- A two-operand arithmetic word (R141). -/
def State.vecArith (s : State) (op : VOp) (h : Hold) (m : Option Modifier) (t : ElemType) (r : Rnd) (lat : Nat)
    (d a b : VReg) : State :=
  let u := s.me.vec
  let cfg := (s.run .vector).cfg
  let x := u.reg a
  let y := u.reg b
  s.vecTyped h m t lat [a, b] d (u.each t (fun q =>
    elemOp t op (s.vecRm r) m cfg.clamplo cfg.clamphi (vElem x t.width q) (vElem y t.width q)))

/-- R141, op 0x08. -/
def execVadd (h : Hold) (m : Option Modifier) (t : ElemType) (r : Rnd) (d a b : VReg) (s : State) : Res :=
  .next (s.vecArith .add h m t r 2 d a b)
/-- R141, op 0x09. -/
def execVsub (h : Hold) (m : Option Modifier) (t : ElemType) (r : Rnd) (d a b : VReg) (s : State) : Res :=
  .next (s.vecArith .sub h m t r 2 d a b)
/-- R141, op 0x0A. -/
def execVmul (h : Hold) (m : Option Modifier) (t : ElemType) (r : Rnd) (d a b : VReg) (s : State) : Res :=
  .next (s.vecArith .mul h m t r 3 d a b)
/-- R142, op 0x0C. The word has no rounding field: a modifier's scale rounds by the run's frm (DESIGN CHOICE, log 136). -/
def execVmax (h : Hold) (m : Option Modifier) (t : ElemType) (d a b : VReg) (s : State) : Res :=
  .next (s.vecArith .max h m t .dyn 2 d a b)
/-- R142, op 0x0D, rounding as `vmax` does (DESIGN CHOICE, log 136). -/
def execVmin (h : Hold) (m : Option Modifier) (t : ElemType) (d a b : VReg) (s : State) : Res :=
  .next (s.vecArith .min h m t .dyn 2 d a b)
/-- R141, op 0x0E. -/
def execVdiv (h : Hold) (m : Option Modifier) (t : ElemType) (r : Rnd) (d a b : VReg) (s : State) : Res :=
  .next (s.vecArith .div h m t r 6 d a b)

/-- R141: the addend is v[d] without a modifier, and the modifier's register with one (R73). -/
def execVfma (h : Hold) (m : Option Modifier) (t : ElemType) (r : Rnd) (d a b : VReg) (s : State) : Res :=
  let u := s.me.vec
  let cfg := (s.run .vector).cfg
  let c : VReg :=
    match m with
    | none => d
    | some md => md.c
  let x := u.reg a
  let y := u.reg b
  let z := u.reg c
  .next (s.vecTyped h m t 4 [a, b, c] d (u.each t (fun q =>
    elemFma t (s.vecRm r) m cfg.clamplo cfg.clamphi (vElem x t.width q) (vElem y t.width q) (vElem z t.width q))))

/-- R144. -/
def execVcvt (h : Hold) (m : Option Modifier) (t : ElemType) (r : Rnd) (d a : VReg) (src : ElemType) (s : State) : Res :=
  let u := s.me.vec
  let cfg := (s.run .vector).cfg
  let x := u.reg a
  if !u.fits src.width then .next (s.vecFault 0x0A 0)
  else
    .next (s.vecTyped h m t 3 [a] d (u.each t (fun q =>
      elemCvt t src (s.vecRm r) m cfg.clamplo cfg.clamphi (vElem x src.width q))))

/-- A bitwise or shift word on element patterns (R143). -/
def State.vecBits (s : State) (f : Nat → Nat → Nat) (h : Hold) (t : ElemType) (d a b : VReg) : State :=
  let u := s.me.vec
  let x := u.reg a
  let y := u.reg b
  s.vecTyped h none t 2 [a, b] d (u.each t (fun q => (f (vElem x t.width q) (vElem y t.width q), 0)))

/-- R143, op 0x10. -/
def execVand (h : Hold) (t : ElemType) (d a b : VReg) (s : State) : Res := .next (s.vecBits (· &&& ·) h t d a b)
/-- R143, op 0x11. -/
def execVor (h : Hold) (t : ElemType) (d a b : VReg) (s : State) : Res := .next (s.vecBits (· ||| ·) h t d a b)
/-- R143, op 0x12. -/
def execVxor (h : Hold) (t : ElemType) (d a b : VReg) (s : State) : Res := .next (s.vecBits (· ^^^ ·) h t d a b)
/-- R143, op 0x13. -/
def execVshl (h : Hold) (t : ElemType) (d a b : VReg) (s : State) : Res :=
  .next (s.vecBits (fun x u => if u < t.width then x * 2 ^ u % 2 ^ t.width else 0) h t d a b)
/-- R143, op 0x14, x = 0. -/
def execVshrSrl (h : Hold) (t : ElemType) (d a b : VReg) (s : State) : Res :=
  .next (s.vecBits (fun x u => if u < t.width then x / 2 ^ u else 0) h t d a b)
/-- R143, op 0x14, x = 1. -/
def execVshrSra (h : Hold) (t : ElemType) (d a b : VReg) (s : State) : Res :=
  .next (s.vecBits (fun x u => wrapInt t.width (signedOf t.width x / 2 ^ (Nat.min u (t.width - 1)))) h t d a b)

/-- R145. -/
def execVclass (h : Hold) (t : ElemType) (d a : VReg) (s : State) : Res :=
  let u := s.me.vec
  let x := u.reg a
  .next (s.vecTyped h none t 2 [a] d (u.each t (fun q =>
    (match t.fmt.fp? with
     | some f => elemClass f (vElem x t.width q)
     | none => 0, 0))))

/-- R146: every element is written, whatever the mask. -/
def execVsel (h : Hold) (t : ElemType) (d a b : VReg) (s : State) : Res :=
  let u := s.me.vec
  let x := u.reg a
  let y := u.reg b
  .next (s.vecTyped h none t 2 [a, b] d (vOut t.width u.count (fun q =>
    some (if maskBit u.top q then vElem x t.width q else vElem y t.width q, 0))))

/-- R147. -/
def execViota (h : Hold) (t : ElemType) (x : Iota) (d : VReg) (s : State) : Res :=
  let u := s.me.vec
  let val (q : Nat) : Nat :=
    match x with
    | .lin => q | .row => q / u.cols | .col => q % u.cols
  .next (s.vecTyped h none t 2 [] d (u.each t (fun q =>
    (match t.fmt.fp? with
     | some f => (f.fit .rne (Exact.ofInt (val q))).1
     | none => val q % 2 ^ t.width, 0))))

/-- R148: position j·rows + i of v[d] takes element (i, j). -/
def execVtrans (h : Hold) (t : ElemType) (d a : VReg) (s : State) : Res :=
  let u := s.me.vec
  let x := u.reg a
  .next (s.vecTyped h none t 3 [a] d (u.each t (fun p => (vElem x t.width (p % u.rows * u.cols + p / u.rows), 0))))

/-! ## Masks, skips and loops (R149 to R154) -/

/-- R149. DESIGN CHOICE: a ninth push of a type that does not fit the shape takes 0x0A, for R65 orders it against no other cause of the
word (log 139). -/
def execVmpush (h : Hold) (t : ElemType) (c : Cond) (a b : VReg) (s : State) : Res :=
  let u := s.me.vec
  let x := u.reg a
  let y := u.reg b
  let cmp (q : Nat) : Bool × Flags :=
    if maskBit u.top q then elemCmp t c (vElem x t.width q) (vElem y t.width q) else (false, 0)
  if !u.fits t.width then .next (s.vecFault 0x0A 0)
  else if 8 ≤ u.masks.length then .next (s.vecFault 0x02 0)
  else
    let fl := (List.range u.count).foldl (fun acc q => acc ||| (cmp q).2) 0
    .next (s.vecCtl h [a, b] fl (fun s =>
      s.setVec { s.me.vec with masks := maskOf u.count (fun q => (cmp q).1) :: u.masks }))

/-- R150. -/
def execVminv (h : Hold) (s : State) : Res :=
  let u := s.me.vec
  match u.masks with
  | [] => .next (s.vecFault 0x02 0)
  | top :: rest =>
    let below := rest.headD (BitVec.allOnes 4096)
    .next (s.vecCtl h [] 0 (fun s =>
      s.setVec { s.me.vec with masks := maskOf u.count (fun q => !maskBit top q && maskBit below q) :: rest }))

/-- R150. -/
def execVmpop (h : Hold) (s : State) : Res :=
  match s.me.vec.masks with
  | [] => .next (s.vecFault 0x02 0)
  | _ :: rest => .next (s.vecCtl h [] 0 (fun s => s.setVec { s.me.vec with masks := rest }))

/-- The condition of a `vskip` holds (R151). -/
def VecUnit.skips (u : VecUnit) (c : SkipCond) : Bool :=
  match c with
  | .empty => !u.masks.isEmpty && (List.range u.count).all (fun q => !maskBit u.top q)
  | .full => (List.range u.count).all (fun q => maskBit u.top q)
  | .sg j => !u.sg.getLsbD j.val

/-- R151. -/
def execVskip (h : Hold) (c : SkipCond) (n : BitVec 15) (s : State) : Res :=
  let u := s.me.vec
  let r := s.run .vector
  let target := r.upc.toNat + 1 + n.toNat
  let limit :=
    match u.loop with
    | none => r.endOff.toNat
    | some l => Nat.min r.endOff.toNat l.bodyEnd
  if limit < target then .next (s.vecFault 0x02 0)
  else
    let s1 := s.setMe (s.me.vecPend (s.tick + 1) none (VOut.nothing 0))
    .next (s1.vecNext (if u.skips c then 1 + n.toNat else 1) 1 h)

/-- R152. -/
def execVloop (h : Hold) (sm1 : BitVec 3) (l : BitVec 10) (vp : VpReg) (s : State) : Res :=
  let u := s.me.vec
  let r := s.run .vector
  let n := bitsOf (s.vp .vector vp) 0 32
  let st := sm1.toNat + 1
  if l = 0 ∨ r.endOff.toNat < r.upc.toNat + 1 + l.toNat ∨ u.loop.isSome then .next (s.vecFault 0x02 0)
  else
    let s1 := s.setMe (s.me.vecPend (s.tick + 1) none (VOut.nothing 0))
    if n = 0 then .next (s1.vecNext (1 + l.toNat) 1 h)
    else
      let s2 := s1.vecNext 1 1 h
      .next (s2.setVec { s2.me.vec with rb := 0, sg := stagePreds 0 n st,
                                        loop := some { n := n, s := st, l := l.toNat, u := r.upc.toNat, p := 0 } })

/-- R154: the run ends once its words have retired. -/
def execVexit (h : Hold) (s : State) : Res :=
  let c := s.me.vecPend (s.tick + 1) none (VOut.nothing 0)
  .next (s.setMe (c.exitRun .vector 1 (s.tick + 1 + h.toNat)))

end Sys2Proof.Machine
end

