-- ==== Sys2Proof/Machine/VecMath.lean ====
section
/-! DEFINITION. The exact function values of the special-function words (spec/07_vector_special.md R157, R158): the exact and
special results first, else the value's leading bits with a sticky bit, from bounds in fixed-point arithmetic. -/

namespace Sys2Proof.Machine

/-! ## Fixed-point bounds -/

/-- Fraction bits of every bound. Each operand is a multiple of 2^−149 (spec/02_number_formats.md R39), so that the bounds
of a value that is not exact meet in more bits than any format keeps. -/
def fixBits : Nat := 448

/-- 1 in fixed point. -/
def fixOne : Nat := 2 ^ fixBits

/-- A value between two bounds. -/
structure Bounds where
  lo : Nat
  hi : Nat
  deriving DecidableEq, Repr

/-- Product of fixed-point bounds. -/
def Bounds.mul (a b : Bounds) : Bounds :=
  { lo := a.lo * b.lo / fixOne, hi := a.hi * b.hi / fixOne + 1 }

/-- Terms `k`, `k + 1`, … of the sum over n of 1/(n·2^n), rounded down. -/
def ln2Sum : Nat → Nat → Nat
  | 0, _ => 0
  | m + 1, k => fixOne / (k * 2 ^ k) + ln2Sum m (k + 1)

/-- ln 2: each of the terms loses less than one unit, and the rest of the sum is below one. -/
def ln2 : Bounds :=
  let lo := ln2Sum fixBits 1
  { lo := lo, hi := lo + fixBits + 1 }

/-- The rest of the exponential series after a term `t` of index `k`. -/
def expTail (y : Bounds) : Nat → Nat → Bounds → Bounds
  | 0, _, t => { lo := 0, hi := t.hi + 1 }
  | m + 1, k, t =>
    let p := t.mul y
    let t' : Bounds := { lo := p.lo / (k + 1), hi := p.hi / (k + 1) + 1 }
    let r := expTail y m (k + 1) t'
    { lo := t'.lo + r.lo, hi := t'.hi + r.hi }

/-- e^y for 0 ≤ y < 1. After 100 terms the rest of the series is below the last term. -/
def expSmall (y : Bounds) : Bounds :=
  let r := expTail y 100 0 { lo := fixOne, hi := fixOne }
  { lo := fixOne + r.lo, hi := fixOne + r.hi }

/-- m·2^e in fixed point, for a multiple of 2^−448. -/
def toFix (m : Nat) (e : Int) : Nat := m * 2 ^ (e + fixBits).toNat

/-- e^x = 2^n·r for fixed-point x, with 1/2 ≤ r < 3. -/
def expReduce (x : Nat) : Nat × Bounds :=
  let n := x / ln2.hi
  (n, expSmall { lo := x - n * ln2.hi, hi := x - n * ln2.lo })

/-- The largest r with r·r ≤ n, bit by bit. -/
def isqrtGo (n : Nat) : Nat → Nat → Nat
  | 0, r => r
  | b + 1, r => let c := r + 2 ^ b; if c * c ≤ n then isqrtGo n b c else isqrtGo n b r

/-- ⌊√n⌋. -/
def isqrt (n : Nat) : Nat := isqrtGo n (n.log2 / 2 + 1) 0

/-- A positive value that is not a multiple of 2^(−128) of its leading bit, given by bounds in units of 2^e: its leading
129 bits and a sticky bit. -/
def boundsFin (neg : Bool) (b : Bounds) (e : Int) : Exact :=
  let k := b.lo.log2 - 128
  .fin neg (b.lo / 2 ^ k) (e + k) true

/-- A quotient of positive bounds, in fixed point. -/
def Bounds.div (a b : Bounds) : Bounds := { lo := a.lo * fixOne / b.hi, hi := a.hi * fixOne / b.lo + 1 }

/-! ## The functions on finite operands -/

/-- 2^a for a = ±m·2^e. Beyond ±4096 every format overflows or underflows as at ±4096. -/
def exp2Fin (neg : Bool) (m : Nat) (e : Int) : Exact :=
  if 12 < (m.log2 : Int) + e then
    if neg then .fin false 1 (-5000) true else .fin false 1 5000 true
  else
    let x := toFix m e
    let q := x / fixOne
    let r := x % fixOne
    if r = 0 then .fin false 1 (if neg then -(q : Int) else q) false
    else
      let (n, f) : Int × Nat := if neg then (-(q : Int) - 1, fixOne - r) else (q, r)
      boundsFin false (expSmall (Bounds.mul { lo := f, hi := f } ln2)) (n - fixBits)

/-- Fraction bits of log₂ of a fixed-point value in [1, 2): squaring gives them one by one. -/
def log2Bits : Nat → Nat → Nat → Nat
  | 0, _, acc => acc
  | n + 1, y, acc =>
    let z := y * y / fixOne
    if 2 * fixOne ≤ z then log2Bits n (z / 2) (2 * acc + 1) else log2Bits n z (2 * acc)

/-- log₂ a for a = m·2^e > 0. The 128 squarings double an error of one unit each time, far below the fraction's last
bit. -/
def log2Fin (m : Nat) (e : Int) : Exact :=
  let t := m.log2
  let n : Int := e + t
  if m = 2 ^ t then .fin (decide (n < 0)) n.natAbs 0 false
  else
    let i : Int := n * 2 ^ 128 + log2Bits 128 (m * 2 ^ (fixBits - t)) 0
    if 0 ≤ i then .fin false i.natAbs (-128) true else .fin true (i.natAbs - 1) (-128) true

/-- 1/√a for a = m·2^e > 0. -/
def rsqrtFin (m : Nat) (e : Int) : Exact :=
  let (m, e) := if e % 2 = 0 then (m, e) else (2 * m, e - 1)
  let k := 128 + m.log2
  let q := isqrt (2 ^ (2 * k) / m)
  .fin false q (-(e / 2) - k) (q * q * m != 2 ^ (2 * k))

/-- tanh a for a = ±m·2^e ≠ 0: a − a³/3 < tanh a < a for small a > 0, and 1 − 2^−100 < tanh a < 1 for large a. -/
def tanhFin (neg : Bool) (m : Nat) (e : Int) : Exact :=
  let top : Int := m.log2 + e
  if top < -41 then .fin neg (m * 2 ^ 40 - 1) (e - 40) true
  else if 6 ≤ top then .fin neg (2 ^ 100 - 1) (-100) true
  else
    let (n, r) := expReduce (2 * toFix m e)
    let u := fixOne / 2 ^ n
    let num : Bounds := { lo := r.lo - u - 1, hi := r.hi - u }
    let den : Bounds := { lo := r.lo + u, hi := r.hi + u + 1 }
    boundsFin neg (num.div den) (-(fixBits : Int))

/-- 1/(1 + e^(−a)) for a = ±m·2^e ≠ 0. -/
def sigFin (neg : Bool) (m : Nat) (e : Int) : Exact :=
  let top : Int := m.log2 + e
  if 12 ≤ top then (if neg then .fin false 1 (-5000) true else .fin false (2 ^ 100 - 1) (-100) true)
  else if !neg && decide (7 ≤ top) then .fin false (2 ^ 100 - 1) (-100) true
  else
    let (n, r) := expReduce (toFix m e)
    let u := fixOne / 2 ^ n
    let den : Bounds := { lo := r.lo + u, hi := r.hi + u + 1 }
    if neg then boundsFin false (Bounds.div { lo := fixOne, hi := fixOne } den) (-(fixBits : Int) - n)
    else boundsFin false (r.div den) (-(fixBits : Int))

/-! ## The six words on any operand (R157, R158) -/

/-- The special functions. -/
inductive SFn where
  | exp2 | log2 | rcp | rsqrt | tanh | sig
  deriving DecidableEq, Repr

/-- +1 or −1. -/
def exOne (neg : Bool) : Exact := .fin neg 1 0 false

/-- +0 or −0. -/
def exZero (neg : Bool) : Exact := .fin neg 0 0 false

/-- The exact value of a function and the flags its special operands raise. -/
def SFn.value (f : SFn) (x : Exact) : Exact × Flags :=
  match x with
  | .nan _ _ => (x, sigFlag [x])
  | .inf n =>
    match f with
    | .exp2 => (if n then exZero false else .inf false, 0)
    | .log2 => if n then (Exact.genNan, fNV) else (.inf false, 0)
    | .rcp => (exZero n, 0)
    | .rsqrt => if n then (Exact.genNan, fNV) else (exZero false, 0)
    | .tanh => (exOne n, 0)
    | .sig => (if n then exZero false else exOne false, 0)
  | .fin n m e _ =>
    if m = 0 then
      match f with
      | .exp2 => (exOne false, 0)
      | .log2 => (.inf true, fDZ)
      | .rcp => (.inf n, fDZ)
      | .rsqrt => (.inf n, fDZ)
      | .tanh => (exZero n, 0)
      | .sig => (.fin false 1 (-1) false, 0)
    else
      match f with
      | .exp2 => (exp2Fin n m e, 0)
      | .log2 => if n then (Exact.genNan, fNV) else (log2Fin m e, 0)
      | .rcp => divExact (exOne false) x
      | .rsqrt => if n then (Exact.genNan, fNV) else (rsqrtFin m e, 0)
      | .tanh => (tanhFin n m e, 0)
      | .sig => (sigFin n m e, 0)

/-- One element of a special-function word. -/
def elemSFn (t : ElemType) (f : SFn) (rm : RM) (m : Option Modifier) (lo hi : Word64) (a : Nat) : Nat × Flags :=
  match t.fmt.fp? with
  | some g =>
    let (r, fl) := f.value (g.decode a)
    let (bits, fl2) := g.finish rm m lo hi r
    (bits, fl ||| fl2)
  | none => (a, 0)

end Sys2Proof.Machine
end

