-- ==== Sys2Proof/Machine/VecSpecial.lean ====
section
/-! DEFINITION. The vector words for special functions, reductions, selection, indexing, random numbers, the predictor
check and the queues (spec/07_vector_special.md R156 to R173, R378). -/

namespace Sys2Proof.Machine

/-! ## Special functions (R157, R158) -/

/-- A special-function word. -/
def State.vecSFn (s : State) (f : SFn) (h : Sys2Proof.Hold) (m : Option Modifier) (t : ElemType) (r : Rnd) (d a : VReg) :
    State :=
  let u := s.me.vec
  let cfg := (s.run .vector).cfg
  let x := u.reg a
  s.vecTyped h m t 6 [a] d (u.each t (fun q => elemSFn t f (s.vecRm r) m cfg.clamplo cfg.clamphi (vElem x t.width q)))

/-- R157, op 0x1B. -/
def execVexp2 (h : Sys2Proof.Hold) (m : Option Modifier) (t : ElemType) (r : Rnd) (d a : VReg) (s : State) : Res :=
  .next (s.vecSFn .exp2 h m t r d a)
/-- R157, op 0x1C. -/
def execVlog2 (h : Sys2Proof.Hold) (m : Option Modifier) (t : ElemType) (r : Rnd) (d a : VReg) (s : State) : Res :=
  .next (s.vecSFn .log2 h m t r d a)
/-- R157, op 0x1D. -/
def execVrcp (h : Sys2Proof.Hold) (m : Option Modifier) (t : ElemType) (r : Rnd) (d a : VReg) (s : State) : Res :=
  .next (s.vecSFn .rcp h m t r d a)
/-- R157, op 0x1E. -/
def execVrsqrt (h : Sys2Proof.Hold) (m : Option Modifier) (t : ElemType) (r : Rnd) (d a : VReg) (s : State) : Res :=
  .next (s.vecSFn .rsqrt h m t r d a)
/-- R157, op 0x1F. -/
def execVtanh (h : Sys2Proof.Hold) (m : Option Modifier) (t : ElemType) (r : Rnd) (d a : VReg) (s : State) : Res :=
  .next (s.vecSFn .tanh h m t r d a)
/-- R157, op 0x20. -/
def execVsig (h : Sys2Proof.Hold) (m : Option Modifier) (t : ElemType) (r : Rnd) (d a : VReg) (s : State) : Res :=
  .next (s.vecSFn .sig h m t r d a)

/-! ## Reductions (R159) -/

/-- The sets of a direction: the position written, and the positions reduced in increasing order. -/
def reduceSets (dir : Dir) (rows cols : Nat) : List (Nat × List Nat) :=
  match dir with
  | .all => [(0, List.range (rows * cols))]
  | .row => (List.range rows).map (fun i => (i * cols, (List.range cols).map (fun j => i * cols + j)))
  | .col => (List.range cols).map (fun j => (j, (List.range rows).map (fun i => i * cols + j)))

/-- The exact sum of float addends that holds no NaN. -/
def sumNums (rm : RM) (xs : List Exact) : Exact × Flags :=
  let infs := xs.filter (fun x => match x with
    | .inf _ => true
    | .nan _ _ | .fin _ _ _ _ => false)
  match infs with
  | i :: rest => if rest.all (fun x => x.sign == i.sign) then (i, 0) else (Exact.genNan, fNV)
  | [] =>
    let (i, e) := xs.foldl (fun (acc : Int × Int) x =>
      match x with
      | .fin n m e _ => alignSum (decide (acc.1 < 0)) acc.1.natAbs acc.2 n m e
      | .nan _ _ | .inf _ => acc) (0, 0)
    if i = 0 then (exZero (rm == .rdn || xs.all Exact.sign), 0) else (.fin (decide (i < 0)) i.natAbs e false, 0)

/-- The sum of a set's encodings. -/
def sumSet (t : ElemType) (rm : RM) (vs : List Nat) : Nat × Flags :=
  match t.fmt.fp? with
  | none => (wrapInt t.width ((vs.map (signedOf t.width)).foldl (· + ·) 0), 0)
  | some f =>
    let xs := vs.map f.decode
    match xs, firstNan xs with
    | [], _ => (0, 0)
    | _, some n => ((f.fit rm n).1, sigFlag xs)
    | _, none =>
      let (x, fl) := sumNums rm xs
      let (b, fl2) := f.fit rm x
      (b, fl ||| fl2)

/-- The last of a list that nothing before or after it beats under `lt`. -/
def bestOf {α : Type} (lt : α → α → Bool) : List α → Option α
  | [] => none
  | x :: rest =>
    match bestOf lt rest with
    | none => some x
    | some y => if lt x y then some y else some x

/-- The largest or smallest of a set's encodings. -/
def extremeSet (t : ElemType) (isMax : Bool) (vs : List Nat) : Nat × Flags :=
  let order (x y : Nat) : Bool :=
    let a := decodeFmt t.fmt x
    let b := decodeFmt t.fmt y
    if isMax then ltOrdered a b else ltOrdered b a
  match t.fmt.fp? with
  | none =>
    match bestOf order vs with
    | some v => (v, 0)
    | none => (wrapInt t.width (if isMax then t.fmt.range.1 else t.fmt.range.2), 0)
  | some f =>
    let xs := vs.map f.decode
    match bestOf order (vs.filter (fun v => !(f.decode v).isNan)), firstNan xs with
    | none, none => (f.inf isMax, 0)
    | some v, none => (v, 0)
    | some v, some n => if xs.any Exact.isSig then ((f.fit .rne n).1, fNV) else (v, 0)
    | none, some n => ((f.fit .rne n).1, sigFlag xs)

/-- A reduction word: `f` combines the enabled elements of a set. -/
def State.vecReduce (s : State) (f : List Nat → Nat × Flags) (h : Sys2Proof.Hold) (t : ElemType) (dir : Dir) (d a : VReg) :
    State :=
  let u := s.me.vec
  let x := u.reg a
  let res : Tbl (Nat × Flags) := (reduceSets dir u.rows u.cols).map (fun st =>
    (st.1, f ((st.2.filter (fun q => maskBit u.top q)).map (fun q => vElem x t.width q))))
  s.vecTyped h none t 5 [a] d (vOut t.width u.count (fun q => Tbl.get? res q))

/-- R159, op 0x21. -/
def execVredsum (h : Sys2Proof.Hold) (t : ElemType) (r : Rnd) (dir : Dir) (d a : VReg) (s : State) : Res :=
  .next (s.vecReduce (sumSet t (s.vecRm r)) h t dir d a)
/-- R159, op 0x22. -/
def execVredmax (h : Sys2Proof.Hold) (t : ElemType) (dir : Dir) (d a : VReg) (s : State) : Res :=
  .next (s.vecReduce (extremeSet t true) h t dir d a)
/-- R159, op 0x23. -/
def execVredmin (h : Sys2Proof.Hold) (t : ElemType) (dir : Dir) (d a : VReg) (s : State) : Res :=
  .next (s.vecReduce (extremeSet t false) h t dir d a)

/-! ## Selection (R160 to R162) -/

/-- A candidate: its value for the order, its score as written, and its id. -/
structure Cand where
  val   : Exact
  score : Nat
  id    : Nat
  deriving DecidableEq, Repr

/-- The id of an empty entry (R160). -/
def emptyId : Nat := 0xFFFFFFFF

/-- Candidate `a` ranks before candidate `b`, their places apart. -/
def Cand.before (max byId : Bool) (a b : Cand) : Bool :=
  let above := if max then ltOrdered b.val a.val else ltOrdered a.val b.val
  let below := if max then ltOrdered a.val b.val else ltOrdered b.val a.val
  above || (!below && byId && decide (a.id < b.id))

/-- A candidate put in its rank among the best `k`, after its equals. -/
def insertCand (max byId : Bool) : Nat → Cand → List Cand → List Cand
  | 0, _, _ => []
  | _ + 1, c, [] => [c]
  | k + 1, c, x :: rest =>
    if c.before max byId x then c :: (x :: rest).take k else x :: insertCand max byId k c rest

/-- The words of a row's selection: real entries by rank, then empty ones. -/
def rankWords (max byId : Bool) (k : Nat) (cs : List Cand) : List Nat :=
  let best := cs.foldl (fun acc c => insertCand max byId k c acc) []
  best.flatMap (fun c => [c.score, c.id]) ++ (List.replicate (k - best.length) [0, emptyId]).flatten

/-- A score as 32 bits (R160). -/
def scoreWord (t : ElemType) (b : Nat) : Nat :=
  match t.fmt.fp? with
  | some f => (fp32.fit .rne (f.decode b)).1
  | none => wrapInt 32 (if t.isSigned then signedOf t.width b else (b % 2 ^ t.width : Nat))

/-- A candidate unless it is a NaN or has the empty id, and what a signalling NaN raises. -/
def candOf (t : ElemType) (b id : Nat) : Option Cand × Flags :=
  let v := decodeFmt t.fmt b
  if v.isNan || id == emptyId then (none, sigFlag [v]) else (some { val := v, score := scoreWord t b, id := id }, 0)

/-- k of a selection word, or none where the word faults (R161). -/
def State.selK (s : State) (vpk : VpReg) : Option Nat :=
  let u := s.me.vec
  let k := bitsOf (s.vp .vector vpk) 0 16
  if 1 ≤ k ∧ k ≤ u.cols ∧ u.rows * 2 * k ≤ 1024 then some k else none

/-- A selection register written whole. -/
def selOut (ws : List Nat) (fl : Flags) : VOut :=
  { vOut 32 ws.length (fun q => some (ws.getD q 0, 0)) with flags := fl }

/-- Indices and ids are 32-bit elements under the shape (R156). -/
def VecUnit.idsFit (u : VecUnit) : Bool := u.fits 32

/-- R161. -/
def execVtopk (h : Sys2Proof.Hold) (t : ElemType) (max byId : Bool) (vpk : VpReg) (d a b : VReg) (s : State) : Res :=
  let u := s.me.vec
  match s.selK vpk with
  | none => .next (s.vecFault 0x0A 0)
  | some k =>
    if byId && !u.idsFit then .next (s.vecFault 0x0A 0)
    else
      let x := u.reg a
      let y := u.reg b
      let cand (i j : Nat) : Option Cand × Flags :=
        let q := i * u.cols + j
        if maskBit u.top q then candOf t (vElem x t.width q) (if byId then vElem y 32 q else j) else (none, 0)
      let rows := (List.range u.rows).map (fun i => (List.range u.cols).map (cand i))
      let ws := rows.flatMap (fun cs => rankWords max byId k (cs.filterMap (fun c => c.1)))
      let fl := rows.foldl (fun acc cs => cs.foldl (fun acc c => acc ||| c.2) acc) 0
      .next (s.vecTyped h none t 6 (if byId then [a, b] else [a]) d (selOut ws fl))

/-- R162: the mask plays no part. DESIGN CHOICE: an entry with the empty id raises no nv whatever its score word holds, while a candidate
of `vtopk` with that id does (log 139). -/
def execVtopm (h : Sys2Proof.Hold) (t : ElemType) (max byId : Bool) (vpk : VpReg) (d a b : VReg) (s : State) : Res :=
  let u := s.me.vec
  match s.selK vpk with
  | none => .next (s.vecFault 0x0A 0)
  | some k =>
    let entry (v : BitVec 32768) (i r : Nat) : Option Cand × Flags :=
      let w := i * 2 * k + 2 * r
      let id := vElem v 32 (w + 1)
      if id = emptyId then (none, 0) else candOf t (vElem v 32 w) id
    let rows := (List.range u.rows).map (fun i =>
      (List.range k).map (entry (u.reg a) i) ++ (List.range k).map (entry (u.reg b) i))
    let ws := rows.flatMap (fun cs => rankWords max byId k (cs.filterMap (fun c => c.1)))
    let fl := rows.foldl (fun acc cs => cs.foldl (fun acc c => acc ||| c.2) acc) 0
    .next (s.vecTyped h none t 6 [a, b] d (selOut ws fl))

/-! ## Element-grain indexing (R163 to R165) -/

/-- R163. -/
def execVperm (h : Sys2Proof.Hold) (t : ElemType) (g : Grain) (d a b : VReg) (s : State) : Res :=
  let u := s.me.vec
  let x := u.reg a
  let y := u.reg b
  if !u.idsFit then .next (s.vecFault 0x0A 0)
  else
    .next (s.vecTyped h none t 3 [a, b] d (u.each t (fun q =>
      let i := vElem y 32 q
      (match g with
       | .row => if i < u.cols then vElem x t.width (q / u.cols * u.cols + i) else 0
       | .lin => if i < u.count then vElem x t.width i else 0, 0))))

/-- Offset of the base of position `q` in `vgath` and `vscat`. -/
def VAcc.base (a : VAcc) (g : Grain) (cols q : Nat) : Nat :=
  match g with
  | .lin => a.place.off
  | .row => a.place.off + q / cols * a.stride

/-- Offset of the first byte of element `i` counted from a base. -/
def VAcc.elemOff (a : VAcc) (base i : Nat) : Nat := (elemAt a.size base i).1

/-- The checks of `vgath` and `vscat` on the enabled positions `qs` with indices `idx` (R164). -/
def State.admitElems (s : State) (w : Word64) (a : VAcc) (g : Grain) (t : ElemType) (qs : List Nat) (idx : Nat → Nat) :
    Admit :=
  let u := s.me.vec
  let m := a.size.bits / 8
  let first (q : Nat) : Nat := a.elemOff (a.base g u.cols q) (idx q)
  if (m = 2 ∨ m = 4) ∧ qs.any (fun q => a.base g u.cols q % m != 0) then .fault 0x07
  else if !u.fits t.width ∨ !u.idsFit ∨ (vpAddr? w).isNone ∨ qs.any (fun q => !a.place.fits (first q) (elemBytes a.size)) then
    .fault 0x0A
  else
    match s.me.tileSay a.place with
    | .fault => .fault 0x0B
    | .wait => .wait
    | .go =>
      if qs.any (fun q => s.me.publishing s.tick (a.place.byte (first q)) (elemBytes a.size)) then .wait else .go

/-- The scratchpad place of the element that position `q` names. -/
def VAcc.target (a : VAcc) (g : Grain) (cols q i : Nat) : ElemAt := elemAt a.size (a.place.byte (a.base g cols q)) i

/-- Enabled positions. -/
def VecUnit.enabled (u : VecUnit) : List Nat := (List.range u.count).filter (fun q => maskBit u.top q)

/-- R164, op 0x27. -/
def execVgath (h : Sys2Proof.Hold) (t : ElemType) (g : Grain) (d : VReg) (vp : VpReg) (b : VReg) (s : State) : Res :=
  let u := s.me.vec
  let w := s.vp .vector vp
  let a := s.vAcc w t
  let y := u.reg b
  match s.admitElems w a g t u.enabled (vElem y 32) with
  | .fault cause => .next (s.vecFault cause 0)
  | .wait => .next s
  | .go =>
    let n := u.beats t
    let wt := s.tick + n + 3
    let o := u.each t (fun q =>
      convert a.bankF t.fmt .rne (readElem s.me.scratch a.size (a.target g u.cols q (vElem y 32 q))))
    .next (s.vecIssue h 1 n wt [b] (some d) o (fun s => s.setMe (s.me.holdTile a.place (wt - 1))))

/-- R164, op 0x28; R165: the later position prevails. -/
def execVscat (h : Sys2Proof.Hold) (t : ElemType) (g : Grain) (d : VReg) (vp : VpReg) (b : VReg) (s : State) : Res :=
  let u := s.me.vec
  let w := s.vp .vector vp
  let a := s.vAcc w t
  let y := u.reg b
  match s.admitElems w a g t u.enabled (vElem y 32) with
  | .fault cause => .next (s.vecFault cause 0)
  | .wait => .next s
  | .go =>
    let n := u.beats t
    let wt := s.tick + n + 2
    let (vals, fl) := s.storeVals a t d
    let ws := storeElems s.me.scratch a.size (vals.map (fun x => (a.target g u.cols x.1 (vElem y 32 x.1), x.2)))
    .next (s.vecIssue h 1 n wt [d, b] none (VOut.nothing fl)
      (fun s => (s.vecStores ws).setMe ((s.vecStores ws).me.holdTile a.place (wt - 1))))

/-! ## Random and quasi-random numbers (R166 to R169) -/

/-- R166. -/
def mix (c k : Word64) : Nat :=
  let z := c ^^^ k
  let z := (z ^^^ (z >>> 32)) * 0xA3C59E172B6D4F31
  let z := (z ^^^ (z >>> 29)) * 0x7B2F0D94E5C186AB
  let z := z ^^^ k.rotateRight 23
  let z := (z ^^^ (z >>> 32)) * 0xA3C59E172B6D4F31
  bitsOf (z ^^^ (z >>> 31)) 32 32

/-- The element value of 32 random bits (R167). -/
def randElem (t : ElemType) (bits : Nat) : Nat :=
  let unif (f : FpFmt) (n : Nat) : Nat := (f.fit .rne (.fin false (bits / 2 ^ (32 - n)) (-(n : Int)) false)).1
  match t with
  | .f32 => unif fp32 24
  | .f16 => unif fp16 11
  | .b16 => unif bf16 8
  | .i32 | .i16 | .i8 | .n32 | .n8 => bits / 2 ^ (32 - t.width)

/-- R167. -/
def execVrand (h : Sys2Proof.Hold) (t : ElemType) (_ : RandVar) (d : VReg) (vpa vpb : VpReg) (s : State) : Res :=
  let u := s.me.vec
  let key := s.vp .vector vpa
  let o := s.vp .vector vpb
  let ctr (q : Nat) : Word64 :=
    BitVec.ofNat 64 (put (bitsOf o 48 16) 48 + put ((bitsOf o 20 28 + q / u.cols) % 2 ^ 28) 20
      + (bitsOf o 0 20 + q % u.cols) % 2 ^ 20)
  .next (s.vecTyped h none t 4 [] d (u.each t (fun q => (randElem t (mix (ctr q) key), 0))))

/-- Direction word k of a dimension. -/
def VecUnit.dir (u : VecUnit) (dim k : Nat) : BitVec 32 := Tbl.getD u.dirs (32 * dim + k) 0

/-- A dimension is still being loaded in a tick: its words can be read from the next on (R168). -/
def VecUnit.dirBusy (u : VecUnit) (tick dim : Nat) : Bool := u.dirLoads.any (fun x => x.2.1 == dim && decide (tick ≤ x.1))

/-- One coordinate of a quasi-random point (R169). -/
def VecUnit.coord (u : VecUnit) (dim n : Nat) (scr : Option Word64) : BitVec 32 :=
  let y := (List.range 32).foldl (fun (y : BitVec 32) k => if bit n k then y ^^^ u.dir dim k else y) 0
  match scr with
  | none => y
  | some k => y ^^^ BitVec.ofNat 32 (mix (BitVec.ofNat 64 dim) k)

/-- R169. DESIGN CHOICE: the word waits for every dimension db to db + cols − 1 that a `vqdir` loads, whatever its mask disables (log
139). -/
def execVqrs (h : Sys2Proof.Hold) (t : ElemType) (_ : RandVar) (d : VReg) (vpa vpb : VpReg) (s : State) : Res :=
  let u := s.me.vec
  let w := s.vp .vector vpa
  let db := bitsOf w 32 6
  if 64 < db + u.cols ∨ bitsOf w 39 25 ≠ 0 then .next (s.vecFault 0x0A 0)
  else if (List.range u.cols).any (fun j => u.dirBusy s.tick (db + j)) then .next s
  else
    let scr := if bit w.toNat 38 then some (s.vp .vector vpb) else none
    .next (s.vecTyped h none t 5 [] d (u.each t (fun q =>
      (randElem t (u.coord (db + q % u.cols) ((bitsOf w 0 32 + q / u.cols) % 2 ^ 32) scr).toNat, 0))))

/-- R168: dimension first + q lands in the q-th tick after its issue; `vqrs` waits for the dimensions it reads. -/
def execVqdir (h : Sys2Proof.Hold) (vpa vpb : VpReg) (s : State) : Res :=
  let u := s.me.vec
  let w := s.vp .vector vpa
  let sel := s.vp .vector vpb
  let first := bitsOf sel 0 6
  let cnt := bitsOf sel 6 7
  let p := s.me.place (bit w.toNat 63) (Fin.ofNat 64 (bitsOf w 56 6)) (bitsOf w 17 4) (bitsOf w 0 17)
  if 64 < first + cnt ∨ cnt = 0 ∨ bitsOf sel 13 51 ≠ 0 ∨ (vpAddr? w).isNone ∨ !p.fits p.off (128 * cnt) then
    .next (s.vecFault 0x0A 0)
  else if p.off % 4 ≠ 0 then .next (s.vecFault 0x07 0)
  else
    match s.admitTile p p.off (128 * cnt) with
    | .fault cause => .next (s.vecFault cause 0)
    | .wait => .next s
    | .go =>
      let word (i : Nat) : BitVec 32 := BitVec.ofNat 32 (leNat (s.me.spRead (p.byte (p.off + 4 * i)) 4))
      let loads := (List.range cnt).map (fun q => (s.tick + q, first + q, (List.range 32).map (fun k => word (32 * q + k))))
      .next (s.vecIssue h 1 1 (s.tick + cnt) [] none (VOut.nothing 0) (fun s =>
        let s1 := s.setVec ({ s.me.vec with dirLoads := s.me.vec.dirLoads ++ loads }.landDirs s.tick)
        s1.setMe (s1.me.holdTile p (s.tick + cnt - 1))))

/-! ## The predictor check (R170) -/

/-- |c − p|, or +∞ for a NaN or an infinity. -/
def errOf (p c : Exact) : Exact :=
  match p, c with
  | .fin _ _ _ _, .fin _ _ _ _ =>
    match (subExact .rne c p).1 with
    | .fin _ m e st => .fin false m e st
    | .nan _ _ => .inf false
    | .inf _ => .inf false
  | _, _ => .inf false

/-- R170. -/
def execVpchk (h : Sys2Proof.Hold) (t : ElemType) (vp : VpReg) (d a b : VReg) (s : State) : Res :=
  let u := s.me.vec
  let w := s.vp .vector vp
  let theta := fp32.decode (bitsOf w 0 32)
  let eps := fp32.decode (bitsOf w 32 32)
  let x := u.reg a
  let y := u.reg b
  let p (q : Nat) : Exact := decodeFmt t.fmt (vElem x t.width q)
  let c (q : Nat) : Exact := decodeFmt t.fmt (vElem y t.width q)
  let err := (u.enabled).foldl (fun e q => let x := errOf (p q) (c q); if ltOrdered e x then x else e) (exZero false)
  let far := err == .inf false
  let listed (q : Nat) : Bool :=
    !maskBit u.top q && (far || (!(p q).isNan && !theta.isNan && decide (0 < cmpNum (addNum .rne (p q) err).1 theta)))
  let found :=
    if !theta.isNan && !eps.isNan && decide (0 < cmpNum err eps) then (List.range u.count).filter listed else []
  let shown := found.take 1022
  let ws := [shown.length + put found.length 16, (fp32.fit .rup err).1] ++ shown ++
    List.replicate (1022 - shown.length) emptyId
  let sig := theta.isSig || eps.isSig || (List.range u.count).any (fun q => (p q).isSig) ||
    u.enabled.any (fun q => (c q).isSig)
  .next (s.vecTyped h none t 5 [a, b] d (selOut ws (flagIf sig fNV)))

/-! ## Queues (R171 to R173, R378) -/

/-- The target of a bound result queue: its core and operand queue (R29). -/
def Core.targetOf (c : Core) (q : QReg) : Nat × QReg :=
  let b := zx64 (vget c.qbind q)
  (64 * (bitsOf b 3 2 + 4 * bitsOf b 5 3) + bitsOf b 8 6, Fin.ofNat 4 (bitsOf b 1 2))

/-- Source of an operand queue (R29): 0 unbound, 1 peer, 2 local Carder. -/
def Core.srcOf (c : Core) (q : QReg) : Nat := bitsOf (zx64 (vget c.qbind q)) 16 2

/-- Rows that stand in an operand queue or are in transit toward it (R171). -/
def State.queued (s : State) (k : Nat) (q : QReg) : Nat :=
  (vget (s.core k).iq q).length + s.cores.foldl (fun n e =>
    (List.finRange 4).foldl (fun n i => n + ((vget e.2.oq i).filter (fun x => x.core == k && x.q == q)).length) n) 0

/-- The transit time of a row (R378). -/
def rowTime (src dst : Nat) : Nat :=
  if src = dst then 1 else if dieOf src = dieOf dst then 4 else 4 + 24 * hops (dieOf src) (dieOf dst)

/-- R171: the bytes and tags enter at issue; the rows arrive by R378, in elastic mode no earlier. -/
def execVpush (h : Sys2Proof.Hold) (t : ElemType) (q : QReg) (a : VReg) (vpb : VpReg) (s : State) : Res :=
  let c := s.me
  let u := c.vec
  let (k, iq) := c.targetOf q
  let size := t.width / 8
  if !u.fits t.width ∨ 256 < u.cols * size ∨ 64 < u.rows then .next (s.vecFault 0x0A 0)
  else if !(vget c.qbind q).getLsbD 0 then .next (s.vecFault 0x11 0)
  else if (s.core k).srcOf iq ≠ 1 then .next (s.vecFault 0x11 0)
  else if 64 < s.queued k iq + u.rows then .next s
  else
    let n := u.beats t
    let v := u.reg a
    let tag := s.vp .vector vpb
    let extra := if (s.part s.partNo).fl then 0 else Config.elasticExtra s.fresh
    let sent := (vget c.oq q) ++ (List.finRange 4).flatMap (fun i => (vget c.oq i).filter (fun x => x.core == k && x.q == iq))
    let due := sent.foldl (fun n x => Nat.max n x.due) (s.tick + rowTime s.cur.core k + extra)
    let row (i : Nat) : QRow :=
      { bytes := leBytes 256 (v.toNat / 2 ^ (8 * (i * u.cols * size)) % 2 ^ (8 * (u.cols * size)))
        tag := BitVec.ofNat 16 (tag.toNat + i), carder := none, at_ := 0 }
    let rows := (List.range u.rows).map (fun i => ({ row := row i, core := k, q := iq, due := due } : QTransit))
    .next (s.vecIssue h 1 n (s.tick + n + 2) [a] none (VOut.nothing 0) (fun s =>
      let c := s.me
      let s1 := s.setMe { c with oq := vset c.oq q (vget c.oq q ++ rows) }
      (rows.foldl (fun s _ => s.atTick (engAt s.cur.core .vector) due (.queueRowDelivery s.cur.core q)) s1).bump))

/-- A row leaves result queue `q` of core `k` and enters its operand queue. -/
def State.enterRow (s : State) (k : Nat) (q : QReg) (x : QTransit) : State :=
  let c := s.core k
  let s1 := s.setCore k { c with oq := vset c.oq q ((vget c.oq q).erase x) }
  let m := s1.core x.core
  s1.setCore x.core { m with iq := vset m.iq x.q (vget m.iq x.q ++ [{ x.row with at_ := s.tickOf x.core }]) }

/-- Rows of result queue `q` of core `k` for core `dst` that the station of `dst` already holds. -/
def State.heldRows (s : State) (k : Nat) (q : QReg) (dst : Nat) : Nat := ((s.core dst).held.filter (fun d => d == .row k q)).length

/-- A row comes to its operand queue, or is held at the station of a core that does not run, while it stays in its result queue
(R292, R378). -/
def State.deliverRow (s : State) (k : Nat) (q : QReg) : State :=
  let tick := s.tickOf k
  let held (dst : Nat) : Nat := if (s.core dst).run = .running then 0 else s.heldRows k q dst
  let here := (vget (s.core k).oq q).filter (fun x => decide (x.due ≤ tick))
  let free := here.zipIdx.find? (fun e => decide (held e.1.core ≤ ((here.take e.2).filter (fun y => y.core == e.1.core)).length))
  match free with
  | none => s
  | some (x, _) =>
    let m := s.core x.core
    if m.run = .running then s.enterRow k q x else s.setCore x.core { m with held := m.held ++ [.row k q] }

/-- A held row of result queue `q` of core `k` enters its operand queue at core `dst` (R292). -/
def State.heldRow (s : State) (k : Nat) (q : QReg) (dst : Nat) : State :=
  match (vget (s.core k).oq q).find? (fun x => x.core == dst) with
  | none => s
  | some x => s.enterRow k q x

/-- QUEUE_ROW_DELIVERY. -/
def execQueueRowDelivery (s : State) : Res :=
  match s.ev with
  | .queueRowDelivery k q => .next (s.deliverRow k q)
  | _ => .next s

/-- R172: rows that entered before this tick are taken at issue. -/
def execVpop (h : Sys2Proof.Hold) (t : ElemType) (d : VReg) (q : QReg) (s : State) : Res :=
  let c := s.me
  let u := c.vec
  let rows := (vget c.iq q).filter (fun x => decide (x.at_ < s.tick))
  if !u.fits t.width ∨ 256 < u.cols * (t.width / 8) ∨ 64 < u.rows then .next (s.vecFault 0x0A 0)
  else if c.srcOf q = 0 then .next (s.vecFault 0x11 0)
  else if rows.length < u.rows then .next s
  else
    let vals := rows.map (fun x => leNat x.bytes)
    let o := u.each t (fun p => (vals.getD (p / u.cols) 0 / 2 ^ (t.width * (p % u.cols)) % 2 ^ t.width, 0))
    let n := u.beats t
    .next (s.vecIssue h 1 n (s.tick + n + 2) [] (some d) o (fun s =>
      s.setMe { s.me with iq := vset s.me.iq q ((vget s.me.iq q).drop u.rows) }))

end Sys2Proof.Machine
end

