-- ==== Sys2Proof/Machine/Transfer.lean ====
section
/-! DEFINITION. Transfer steps from their issue to their fill (spec/09_transfer_steps.md R197 to R218): the sides of a
movement, the issue conditions, the checks of each step, the sectors and rows that are moved, and parking. Publishing
follows in Publish.lean. -/

namespace Sys2Proof

/-- The token that a step names. -/
def XHdr.tok (h : XHdr) : Option Tok := if h.kv then some h.k else none

end Sys2Proof

namespace Sys2Proof.Machine

/-! ## The sides of a movement (R200, R202, R207, R208) -/

/-- Bytes of a side's footprint in the order e; rows and lines are counted by sector, not here. -/
def shapeBytes (sh : Shape) (f : Fmt) : Nat := sh.rows * sh.planes * rowBytes f sh.cols

/-- Address of footprint byte `b` of a slot at offset `o`, with elements of size format `f` (R200). -/
def Shape.byteAt (sh : Shape) (f : Fmt) (o : Int) (b : Nat) : Nat :=
  if f = .t6 then
    let n := rowBytes .t6 sh.cols
    let r := b / n
    wrapAddr (sh.base + o + (r / sh.rows : Nat) * sh.ppitch + (r % sh.rows : Nat) * sh.rpitch + (b % n : Nat))
  else
    let n := f.bits / 8
    wrapAddr ((sh.elem f o (b / n)).1 + (b % n : Nat))

/-- Virtual addresses of the bytes of sector `i` of a side (R217): 4096 bytes of a slot's footprint, one row of a table,
or a line. -/
def XSide.sector (x : XSide) (f : Fmt) (i : Nat) : List Nat :=
  match x with
  | .none | .spad _ => []
  | .shape slot o =>
    let sh := shapeOf slot
    let n := Nat.min 4096 (shapeBytes sh f - 4096 * i)
    (List.range n).map (fun j => sh.byteAt f o (4096 * i + j))
  | .rows base pitch n idx => (List.range n).map (fun j => wrapAddr (base + (idx.getD i 0 : Nat) * pitch + (j : Nat)))
  | .line va => if i = 0 then (List.range 64).map (fun j => va + j) else []

/-- Formats that fix the sizes of a step's two sides (R310). -/
def XStep.srcFmt (x : XStep) : Fmt := sizeFmt x.sf x.df

/-- The format that fixes sizes on the destination side. -/
def XStep.dstFmt (x : XStep) : Fmt := sizeFmt x.df x.sf

/-- The step writes lines of global memory in a publish. -/
def XStep.publishes (x : XStep) : Bool := x.dest == .global

/-- Access kind on the destination side. -/
def XStep.dstKind (x : XStep) : AccKind :=
  match x.dest with
  | .reduce _ _ => .readWrite
  | .nothing | .spad _ _ | .global | .tileReg _ | .shapeSlot _ | .scaleQueue | .mailbox _ | .cores => .write

/-- Source bytes got so far, in order. -/
def XStep.got (x : XStep) : List Byte := x.parts.flatMap (fun p => p.2)

/-- The packed source rows as converted encodings, and the flags (R203, R50 to R53). -/
def XStep.elems (x : XStep) : List (List Nat) × Flags :=
  let n := rowBytes x.srcFmt x.cols
  let bs := x.got
  let rows := (List.range (ceilDiv bs.length n)).map (fun r => unpackRow x.srcFmt ((bs.drop (r * n)).take n) x.cols)
  let conv := rows.map (fun row => row.map (convert x.sf x.df .rne))
  (conv.map (fun row => row.map (fun v => v.1)), conv.foldl (fun f row => row.foldl (fun f v => f ||| v.2) f) 0)

/-- A list cut into pieces of `n`; `fuel` bounds their number. -/
def chunks {α : Type} (n : Nat) : Nat → List α → List (List α)
  | 0, _ => []
  | fuel + 1, xs => if xs.isEmpty then [] else xs.take n :: chunks n fuel (xs.drop n)

/-- The packed destination rows: those of the source, or the same elements in the rows of another slot (R207). -/
def XStep.result (x : XStep) : List Byte × Flags :=
  let (rows, fl) := x.elems
  let rows := match x.repack with
    | none => rows
    | some n => chunks n rows.flatten.length rows.flatten
  (rows.flatMap (packRow x.dstFmt), fl)

/-! ## Steps in flight (R198) -/

/-- Step `id` of a core. -/
def Core.xstep? (c : Core) (id : Nat) : Option XStep := c.xfr.steps.find? (fun x => x.id == id)

/-- The core with a step replaced. -/
def Core.setStep (c : Core) (x : XStep) : Core :=
  { c with xfr := { c.xfr with steps := c.xfr.steps.map (fun y => if y.id = x.id then x else y) } }

/-- The state with a step of core `k` replaced. -/
def State.setStep (s : State) (k : Nat) (x : XStep) : State := s.setCore k ((s.core k).setStep x)

/-- Bytes of a step's shadow: `xscale` and `xsend` have none (R204). -/
def XStep.shadow (x : XStep) : Nat :=
  match x.dest with
  | .scaleQueue | .mailbox _ => 0
  | .nothing | .spad _ _ | .global | .reduce _ _ | .tileReg _ | .shapeSlot _ | .cores => x.bytes

/-- Bytes of the shadows of a core's steps. -/
def Core.shadowBytes (c : Core) : Nat := c.xfr.steps.foldl (fun n x => n + x.shadow) 0

/-- Scale bytes that steps in flight will queue (R211). -/
def Core.scalesBooked (c : Core) : Nat :=
  c.xfr.steps.foldl (fun n x => if x.dest == .scaleQueue then n + x.bytes else n) 0

/-- The limits of R198 and R199 allow a step of slot `i` with a shadow of `n` bytes and token `tok`. -/
def Core.stepRoom (c : Core) (i : Fin 4) (tok : Option Tok) (n : Nat) : Bool :=
  decide (c.xfr.steps.length < 16) && decide (c.shadowBytes + n ≤ 4194304) &&
    (match tok with
     | none => true
     | some k => vget (c.task i).pend k != 0xFF)

/-! ## Issue (R79, R197 to R199, R201, R279) -/

/-- What a step's entry says at issue. -/
inductive XIssue where
  | fault (cause addr : Nat)
  | wait
  | go (x : XStep)
  deriving DecidableEq, Repr

/-- A step as it issues now on engine `e`, before its entry fills it in. -/
def State.newStep (s : State) (e : Engine) (i : Instr) (h : XHdr) : XStep :=
  let r := s.run e
  let t := s.me.task r.owner
  { id := s.me.xfr.nextId, instr := i, slot := r.owner, upc := r.upc, cfg := r.cfg, issued := s.tick, src := .none,
    dst := .none, sf := .raw, df := .raw, cols := 1, repack := none, sectors := 1, sector := 0, asked := 0, again := [], askAt := s.tick + 1, missing := [],
    judged := [], fails := 0, waited := 0, srcPad := 2, dstPad := 2, seen := [], parts := [], targets := [], bad := [], stage := .working, done := 0,
    parkedAt := 0, stamp := Nat.max t.ts (t.tokenStamp h.wm), tok := h.tok, dfr := false, dest := .nothing,
    claimed := false, source := none, drain := false, bytes := 0, flags := 0, landAt := 0, waiting := [],
    dropped := none, lines := [], old := false }

/-- A step enters flight: its token is claimed, its tile moves (R199, R214). -/
def State.addStep (s : State) (x : XStep) : State :=
  let c := s.me
  let t := c.task x.slot
  let t1 := match x.tok with
    | none => t
    | some k => t.claimToken k
  let tt1 :=
    match x.source, x.drain with
    | some n, true => vset c.tt n { vget c.tt n with st := .draining }
    | _, _ => c.tt
  let tt2 :=
    match x.dest with
    | .spad _ (some n) => vset tt1 n { vget tt1 n with fq := (vget tt1 n).fq + 1 }
    | .spad _ none | .nothing | .global | .reduce _ _ | .tileReg _ | .shapeSlot _ | .scaleQueue | .mailbox _ | .cores => tt1
  let c1 := { c.setTask x.slot t1 with tt := tt2, xfr := { steps := c.xfr.steps ++ [x], nextId := c.xfr.nextId + 1 } }
  let s1 := s.setMe c1
  match x.dest with
  | .spad _ (some n) => s1.now (engAt s.cur.core .transfer) (.tileClaim s.cur.core n)
  | .spad _ none | .nothing | .global | .reduce _ _ | .tileReg _ | .shapeSlot _ | .scaleQueue | .mailbox _ | .cores => s1

/-- Addresses that miss the die TLB. -/
def State.lost (s : State) (k : Nat) (vas : List Nat) : List Nat :=
  let p := (s.core k).part
  let tlb := (s.die (dieOf k)).tlb
  vas.filter (fun va => (tlbFind tlb (s.part p).asid va).isNone && decide (va < 2 ^ 48))

/-- The ticks that a sector's walks add: 1080 in fixed-latency mode, those of its pages one after the other in elastic mode
(R283, R332). -/
def State.sectorWalk (s : State) (k : Nat) (lost : List Nat) : Nat :=
  let p := (s.core k).part
  if (s.part p).fl then 1080 else (firstOfPages lost).foldl (fun n va => n + s.walkTicks p (dieOf k) va) 0

/-- The sectors that miss the die TLB are judged at issue (spec/21_program_watchdog.md R357): those of a copy's or
reduction's sides. Rows are judged as they are requested (spec/20_program_eviction.md R356). -/
def State.missingSectors (s : State) (k : Nat) (x : XStep) : List (Nat × Nat) :=
  if x.gathers then []
  else (List.range x.sectors).filterMap (fun i =>
    let vas := s.lost k (x.src.sector x.srcFmt i ++ x.dst.sector x.dstFmt i)
    if vas.isEmpty then none else some (i, s.sectorWalk k vas))

/-- Extra ticks of an elastic engine access (R26, R284). -/
def State.extra (s : State) (k : Nat) : Nat := if (s.part (s.core k).part).fl then 0 else Config.elasticExtra s.fresh

/-- Homes of a step's destination lines, when they are all one die (spec/18_program_mesh_chase.md R332). -/
def XStep.oneHome (x : XStep) : Option Nat :=
  let ts := x.targets.flatMap (fun p => p.2)
  match ts with
  | [] => none
  | t :: rest =>
    if t.window.isSome || region t.addr == 1 then none
    else if rest.all (fun u => u.window.isNone && region u.addr != 1 && homeDie u.addr == homeDie t.addr) then
      some (homeDie t.addr)
    else none

/-- The publish of the step crosses the mesh as the flits of R332: an elastic `xcopy.s2g` without dfr to one die. -/
def State.flitHome (s : State) (k : Nat) (x : XStep) : Option Nat :=
  match x.instr with
  | .xcopyS2g _ false _ _ _ _ => if (s.part (s.core k).part).fl then none else x.oneHome
  | _ => none

/-- The ticks of listed walks. -/
def walksOf (ms : List (Nat × Nat)) : Nat := ms.foldl (fun n m => n + m.2) 0

/-- Walks and other waits that a step's time holds (R217, R283). -/
def XStep.delay (x : XStep) : Nat := walksOf x.missing + x.fails + x.waited

/-- Some destination byte lies in a port window. -/
def XStep.windowed (x : XStep) : Bool := x.targets.any (fun p => p.2.any (fun t => t.window.isSome))

/-- C of R283, with the window's figure of R329. -/
def XStep.completion (x : XStep) : Nat :=
  x.issued + 2 + 16 * x.sectors + x.srcPad + (if x.windowed then 6000 else x.dstPad) + x.delay

/-- Every sector is moved: the tick in which the shadow is filled is set (R283, R332). -/
def State.scheduleFill (s : State) (k : Nat) (x : XStep) : State :=
  let c := x.completion + s.extra k
  let fill :=
    match s.flitHome k x with
    | some d => x.issued + 2 + ceilDiv x.bytes 512 + 16 + 6 * hops (dieOf k) d + x.delay
    | none =>
      if x.windowed then c - 6000 else c
  ((s.setStep k { x with done := if (s.flitHome k x).isSome then 0 else c }).atTick (engAt k .transfer)
    (Nat.max (s.tickOf k) fill) (.shadowFilled k x.id)).bump

/-- A step issues on engine `e`: the transfer unit's own, or a walker's gather. Steps without a global side are filled by
their padded time alone. -/
def State.startStep (s : State) (x : XStep) : State :=
  let k := s.cur.core
  let x1 := { x with missing := s.missingSectors k x }
  let s1 := s.addStep x1
  if x1.src.global || x1.dst.global then s1
  else
    match x1.dest with
    | .nothing | .cores => s1
    | .spad _ _ | .global | .reduce _ _ | .tileReg _ | .shapeSlot _ | .scaleQueue | .mailbox _ => s1.scheduleFill k x1

/-- A step of the transfer run: it waits for its tokens, faults, waits, or issues and lets the next step issue in the next
tick (R79, R198). -/
def State.xissue (s : State) (len : Nat) (h : XHdr) (r : XIssue) : State :=
  let owner := (s.run .transfer).owner
  if !(s.me.task owner).tokensWere h.wm s.tick then s
  else
    match r with
    | .fault cause addr => s.engFault .transfer cause 0 0 addr
    | .wait => s
    | .go x =>
      if s.me.stepRoom owner x.tok x.shadow then
        (s.setMe (s.me.stepRun .transfer len (s.tick + 1))).startStep x
      else s

/-- The largest destination of a step (R198). -/
def tooBig (n : Nat) : Bool := decide (2097152 < n)

/-- The slot of a step that moves elements names T6 with a stride (R200, R202). -/
def t6Stride (sh : Shape) : Bool := sh.fmt == .t6 && sh.estride != 0

/-- A packed row start that the size format does not allow (R135, R202). -/
def packMisaligned (p : Place) (f : Fmt) : Bool := f != .t6 && p.off % (f.bits / 8) != 0

/-- A scratchpad source's tile at issue (R19, R214): `none` to go on. A tile that a publish makes ready in this tick is read from the
next one on: the step sees the whole publish (R264, R265, R376). -/
def Core.srcTile (c : Core) (p : Place) (drain : Bool) (tick : Nat) : Option XIssue :=
  match p.tile with
  | none => none
  | some t =>
    match (vget c.tt t).say with
    | .fault => some (.fault 0x0B 0)
    | .wait => some .wait
    | .go => if (drain && c.tileHeld t tick) || c.publishBegan tick (p.byte p.lo) (p.hi - p.lo) then some .wait else none

/-- A scratchpad destination's tile at issue: a fill waits while 15 are queued (R214). -/
def Core.dstTile (c : Core) (p : Place) : Option XIssue :=
  match p.tile with
  | none => none
  | some t => if (vget c.tt t).fq = 15 then some .wait else none

/-- The first answer of several checks, else the step. -/
def firstIssue (x : XStep) : List (Option XIssue) → XIssue
  | [] => .go x
  | some r :: _ => r
  | none :: rest => firstIssue x rest

/-- A check list as an answer, with an address. -/
def faultOf (cs : List (Bool × Nat)) (addr : Nat) : Option XIssue := (firstOf cs).map (fun c => .fault c addr)

/-! ## Copies (R207) -/

/-- `xcopy` between a slot's elements and packed rows. `out` is s2g. -/
def State.copyIssue (s : State) (i : Instr) (h : XHdr) (dfr drain out : Bool) (sl : ShReg) (sp : SpadAddr) (off : Word32) :
    XIssue :=
  let c := s.me
  let p := c.placeOf sp
  let slot := vget c.sh sl
  let sh := shapeOf slot
  let o := offsetOf off
  let bf := c.bankFmt p.bank
  let ge := sizeFmt sh.fmt bf
  let se := sizeFmt bf sh.fmt
  let gb := shapeBytes sh ge
  let sb := shapeBytes sh se
  if c.slotBusy sl then .wait
  else
    let checks := faultOf [(t6Stride sh, 0x0A)] 0
    let checks1 := faultOf [(!sh.aligned ge o, 0x07)] (wrapAddr (sh.base + o))
    let checks2 := faultOf [(packMisaligned p se, 0x07), (!p.fits p.off sb, 0x0A), (tooBig (if out then gb else sb), 0x0A)] 0
    let x0 := s.newStep .transfer i h
    let x : XStep :=
      if out then
        { x0 with src := .spad (p.byte p.off), dst := .shape slot o, sf := bf, df := sh.fmt, cols := sh.cols,
                  sectors := ceilDiv gb 4096, srcPad := 2, dstPad := 0, parts := [(0, c.spRead (p.byte p.off) sb)],
                  dfr := dfr, dest := .global, source := p.tile, drain := drain, bytes := gb }
      else
        { x0 with src := .shape slot o, dst := .spad (p.byte p.off), sf := sh.fmt, df := bf, cols := sh.cols,
                  sectors := ceilDiv gb 4096, srcPad := 0, dstPad := 2 + ceilDiv sb 512, dfr := dfr,
                  dest := .spad p.bank p.tile, bytes := sb }
    firstIssue x [checks, checks1, checks2, if out then c.srcTile p drain s.tick else c.dstTile p]

/-- R207, g2s. -/
def execXcopyG2s (x : XHdr) (dfr : Bool) (sl : ShReg) (sp : SpadAddr) (off : Word32) (s : State) : Res :=
  .next (s.xissue 3 x (s.copyIssue (.xcopyG2s x dfr sl sp off) x dfr false false sl sp off))

/-- R207, s2g. -/
def execXcopyS2g (x : XHdr) (dfr drain : Bool) (sl : ShReg) (sp : SpadAddr) (off : Word32) (s : State) : Res :=
  .next (s.xissue 3 x (s.copyIssue (.xcopyS2g x dfr drain sl sp off) x dfr drain true sl sp off))

/-- R207, s2s: the slot gives only the counts. -/
def execXcopyS2s (x : XHdr) (dfr drain : Bool) (sl : ShReg) (src dst : SpadAddr) (s : State) : Res :=
  let c := s.me
  let p := c.placeOf src
  let q := c.placeOf dst
  let sh := shapeOf (vget c.sh sl)
  let f1 := c.bankFmt p.bank
  let f2 := c.bankFmt q.bank
  let e1 := sizeFmt f1 f2
  let e2 := sizeFmt f2 f1
  let n1 := shapeBytes sh e1
  let n2 := shapeBytes sh e2
  let checks := faultOf [(packMisaligned p e1 || packMisaligned q e2, 0x07), (!p.fits p.off n1 || !q.fits q.off n2, 0x0A),
    (tooBig n2, 0x0A)] 0
  let st : XStep := { s.newStep .transfer (.xcopyS2s x dfr drain sl src dst) x with
    src := .spad (p.byte p.off), dst := .spad (q.byte q.off), sf := f1, df := f2, cols := sh.cols
    sectors := ceilDiv (Nat.max n1 n2) 4096, srcPad := 2, dstPad := 2 + ceilDiv n2 512
    parts := [(0, c.spRead (p.byte p.off) n1)], dfr := dfr, dest := .spad q.bank q.tile, source := p.tile, drain := drain
    bytes := n2 }
  .next (s.xissue 3 x
    (if c.slotBusy sl then .wait else firstIssue st [checks, c.srcTile p drain s.tick, c.dstTile q]))

/-- R207: `xcopy2`. -/
def execXcopy2 (x : XHdr) (dfr : Bool) (sl dl : ShReg) (s : State) : Res :=
  let c := s.me
  let sa := shapeOf (vget c.sh sl)
  let sd := shapeOf (vget c.sh dl)
  let es := sizeFmt sa.fmt sd.fmt
  let ed := sizeFmt sd.fmt sa.fmt
  let gs := shapeBytes sa es
  let gd := shapeBytes sd ed
  let checks := faultOf [(t6Stride sa || t6Stride sd, 0x0A)] 0
  let checks2 := faultOf [(!sa.aligned es 0, 0x07)] sa.base
  let checks3 := faultOf [(!sd.aligned ed 0, 0x07), (decide (sa.count ≠ sd.count), 0x0A), (tooBig gd, 0x0A)] sd.base
  let st : XStep := { s.newStep .transfer (.xcopy2 x dfr sl dl) x with
    src := .shape (vget c.sh sl) 0, dst := .shape (vget c.sh dl) 0, sf := sa.fmt, df := sd.fmt, cols := sa.cols, repack := some sd.cols
    sectors := ceilDiv (Nat.max gs gd) 4096, srcPad := 0, dstPad := 0, dfr := dfr, dest := .global, bytes := gd }
  .next (s.xissue 2 x
    (if c.slotBusy sl || c.slotBusy dl then .wait else firstIssue st [checks, checks2, checks3]))

/-! ## Gathers (R208) -/

/-- Elements of a table row of `n` bytes. -/
def rowElems (f : Fmt) (n : Nat) : Nat := if f = .t6 then n / 3 * 4 else n / (f.bits / 8)

/-- Bytes that a row size and a row start are multiples of. -/
def rowUnit (f : Fmt) : Nat := if f = .t6 then 3 else f.bits / 8

/-- Bytes that a row start is a multiple of: T6 rows start anywhere. -/
def rowAlign (f : Fmt) : Nat := if f = .t6 then 1 else f.bits / 8

/-- The first row start that is misaligned. -/
def rowMisaligned (base : Nat) (pitch : Int) (f : Fmt) (idx : List Nat) : Option Nat :=
  (idx.map (fun i => wrapAddr (base + (i : Nat) * pitch))).find? (fun va => va % rowAlign f != 0)

/-- The source side of a gather, with what its list and table slot fail in. -/
structure GatherSrc where
  idx   : List Nat
  sh    : Shape
  ef    : Fmt
  ne    : Nat
  list7 : Bool              -- the list is misaligned
  bad   : Bool              -- list bounds, a T6 stride, or rowbytes

/-- A gather's source: the list at a place, `n` entries, and slot `sl`, toward format `df`. -/
def State.gatherSrc (s : State) (sl : ShReg) (p : Place) (n : Nat) (df : Fmt) : GatherSrc :=
  let c := s.me
  let sh := shapeOf (vget c.sh sl)
  let ef := sizeFmt sh.fmt df
  let bs := c.spRead (p.byte p.off) (4 * n)
  let idx := (List.range n).map (fun i => leNat ((bs.drop (4 * i)).take 4))
  { idx := idx, sh := sh, ef := ef, ne := rowElems ef sh.rowbytes,
    list7 := p.off % 4 != 0
    bad := !p.fits p.off (4 * n) || t6Stride sh || sh.rowbytes == 0 || sh.rowbytes % rowUnit ef != 0 }

/-- The checks of a gather in the order of R65 and R208: misaligned places, then what the list and the row sizes fail in (0x0A),
then misaligned rows, which a list in a tile shows once the tile is ready, then the destination's bounds, then the list's tile. A
list that leaves its region names no rows. -/
def State.gatherChecks (s : State) (p : Place) (g : GatherSrc) (dst7 size : Bool) (rows : Option Nat) (big : Bool) :
    List (Option XIssue) :=
  [faultOf [(g.list7 || dst7, 0x07), (g.bad || size, 0x0A)] 0,
    if s.me.srcTile p false s.tick = none then rows.map (fun va => .fault 0x07 va) else none,
    faultOf [(big, 0x0A)] 0, s.me.srcTile p false s.tick]

/-- The misaligned row of a gather's source. -/
def GatherSrc.rowBad (g : GatherSrc) : Option Nat := rowMisaligned g.sh.base g.sh.rpitch g.ef g.idx

/-- A gather into scratchpad on engine `e`, as `xgath` and `wgo` submit it (R208, spec/10_walker.md R236). -/
def State.gatherIssue (s : State) (e : Engine) (i : Instr) (h : XHdr) (dfr : Bool) (sl : ShReg) (p : Place) (n : Nat)
    (q : Place) : XIssue :=
  let c := s.me
  let bf := c.bankFmt q.bank
  let g := s.gatherSrc sl p n bf
  let ed := sizeFmt bf g.sh.fmt
  let nb := n * rowBytes ed g.ne
  let st : XStep := { s.newStep e i h with
    src := .rows g.sh.base g.sh.rpitch g.sh.rowbytes g.idx, dst := .spad (q.byte q.off), sf := g.sh.fmt, df := bf
    cols := g.ne, sectors := n, srcPad := 0, dstPad := 2 + ceilDiv nb 512, dfr := dfr, dest := .spad q.bank q.tile
    bytes := nb }
  if c.slotBusy sl then .wait
  else firstIssue st
    (s.gatherChecks p g (packMisaligned q ed) false g.rowBad (!q.fits q.off nb || tooBig nb) ++ [c.dstTile q])

/-- A step has entered flight between two states. -/
def State.issuedIn (s t : State) : Bool := t.me.xfr.nextId != s.me.xfr.nextId

/-- A list that an issuing step reads from a tile: once the step has issued in `t`, the access is admitted for the tick. -/
def State.admitList (s : State) (p : Place) (t : State) : State :=
  if s.issuedIn t then t.setMe (t.me.holdTile p s.tick) else t

/-- R208: `xgath`. -/
def execXgath (x : XHdr) (dfr : Bool) (sl : ShReg) (list : SpadAddr) (n : BitVec 13) (dst : SpadAddr) (s : State) : Res :=
  let p := s.me.placeOf list
  let r := s.gatherIssue .transfer (.xgath x dfr sl list n dst) x dfr sl p n.toNat (s.me.placeOf dst)
  .next (s.admitList p (s.xissue 4 x r))

/-- R208: `xcomp`. -/
def execXcomp (x : XHdr) (dfr : Bool) (sl : ShReg) (list : SpadAddr) (n : BitVec 13) (dl : ShReg) (s : State) : Res :=
  let c := s.me
  let p := c.placeOf list
  let sd := shapeOf (vget c.sh dl)
  let g := s.gatherSrc sl p n.toNat sd.fmt
  let ed := sizeFmt sd.fmt g.sh.fmt
  let rbd := rowBytes ed g.ne
  let pos := List.range n.toNat
  let st : XStep := { s.newStep .transfer (.xcomp x dfr sl list n dl) x with
    src := .rows g.sh.base g.sh.rpitch g.sh.rowbytes g.idx, dst := .rows sd.base sd.rpitch rbd pos, sf := g.sh.fmt
    df := sd.fmt, cols := g.ne, sectors := n.toNat, srcPad := 0, dstPad := 0, dfr := dfr, dest := .global
    bytes := n.toNat * rbd }
  let r :=
    if c.slotBusy sl || c.slotBusy dl then .wait
    else firstIssue st (s.gatherChecks p g false (t6Stride sd || decide (sd.rowbytes ≠ rbd))
      (match g.rowBad with
       | some va => some va
       | none => rowMisaligned sd.base sd.rpitch ed pos) (tooBig (n.toNat * rbd)))
  .next (s.admitList p (s.xissue 4 x r))

/-! ## Reductions (R209) -/

/-- The pairs of R209. -/
def redPair (f : Fmt) (op : RedOp) : Bool :=
  match op with
  | .fadd => f == .fp32
  | .add | .max | .min => f == .i32 || f == .n32

/-- R209. The format faults 0x05 come before misalignment and bounds, which need the format (DESIGN CHOICE, log 126). -/
def execXred (x : XHdr) (op : RedOp) (sl : ShReg) (sp : SpadAddr) (off : Word32) (s : State) : Res :=
  let c := s.me
  let p := c.placeOf sp
  let slot := vget c.sh sl
  let sh := shapeOf slot
  let o := offsetOf off
  let bf := c.bankFmt p.bank
  let n := shapeBytes sh sh.fmt
  let st : XStep := { s.newStep .transfer (.xred x op sl sp off) x with
    src := .spad (p.byte p.off), dst := .shape slot o, sf := sh.fmt, df := sh.fmt, cols := sh.cols
    sectors := ceilDiv n 4096, srcPad := 2, dstPad := 0, parts := [(0, c.spRead (p.byte p.off) n)]
    dest := .reduce op (sh.fmt == .i32), source := p.tile }
  .next (s.xissue 3 x
    (if c.slotBusy sl then .wait
     else firstIssue st [faultOf [(!redPair sh.fmt op || (bf != sh.fmt && bf != .raw), 0x05)] 0,
       faultOf [(!sh.aligned sh.fmt o, 0x07)] (wrapAddr (sh.base + o)),
       faultOf [(packMisaligned p sh.fmt, 0x07), (!p.fits p.off n, 0x0A)] 0, c.srcTile p false s.tick]))

/-! ## Tile registers, scales, slots (R201, R210, R211) -/

/-- R210: `tdescN` and the bank's format are read at issue. -/
def execXtile (x : XHdr) (tn : TileReg) (sp : SpadAddr) (s : State) : Res :=
  let c := s.me
  let p := c.placeOf sp
  let d := (vget c.tdesc tn).toNat
  let rows := fld d 0 8 + 1
  let cols := fld d 8 8 + 1
  let tf := (Fmt.ofCode? (fld d 16 4)).getD .raw
  let bf := c.bankFmt p.bank
  let se := sizeFmt bf tf
  let n := rows * rowBytes se cols
  let nb := rows * cols * 2
  let st : XStep := { s.newStep .transfer (.xtile x tn sp) x with
    src := .spad (p.byte p.off), sf := bf, df := tf, cols := cols, sectors := ceilDiv (Nat.max n nb) 4096, srcPad := 2
    dstPad := 2 + ceilDiv nb 512, parts := [(0, c.spRead (p.byte p.off) n)], dest := .tileReg tn, source := p.tile
    bytes := nb }
  .next (s.xissue 2 x (firstIssue st [faultOf [(packMisaligned p se, 0x07), (!p.fits p.off n, 0x0A)] 0,
    c.srcTile p false s.tick]))

/-- R211. -/
def execXscale (x : XHdr) (sp : SpadAddr) (n : BitVec 7) (s : State) : Res :=
  let c := s.me
  let p := c.placeOf sp
  let st : XStep := { s.newStep .transfer (.xscale x sp n) x with
    src := .spad (p.byte p.off), srcPad := 2, dstPad := 3, parts := [(0, c.spRead (p.byte p.off) n.toNat)]
    dest := .scaleQueue, source := p.tile, bytes := n.toNat }
  .next (s.xissue 3 x (firstIssue st [faultOf [(!p.fits p.off n.toNat, 0x0A)] 0, c.srcTile p false s.tick,
    if 64 < c.scaleQ.length + c.scalesBooked + n.toNat then some .wait else none]))

/-- The address of `xslot` and `xslev`. -/
def State.slotLine (s : State) (vp : VpReg) (off : Word32) : Nat := wrapAddr ((s.vp .transfer vp).toNat + offsetOf off)

/-- R201: `xslot`. -/
def execXslot (x : XHdr) (sl : ShReg) (vp : VpReg) (off : Word32) (s : State) : Res :=
  let va := s.slotLine vp off
  let st : XStep := { s.newStep .transfer (.xslot x sl vp off) x with
    src := .line va, srcPad := 0, dstPad := 3, cols := 64, dest := .shapeSlot sl }
  .next (s.xissue 2 x (if va % 64 ≠ 0 then .fault 0x07 va else if s.me.slotBusy sl then .wait else .go st))

/-- R201: `xslev`. -/
def execXslev (x : XHdr) (sl : ShReg) (vp : VpReg) (off : Word32) (s : State) : Res :=
  let va := s.slotLine vp off
  let st : XStep := { s.newStep .transfer (.xslev x sl vp off) x with
    dst := .line va, srcPad := 2, dstPad := 0, cols := 64, parts := [(0, leBytes 64 (vget s.me.sh sl).toNat)], dest := .global
    bytes := 64 }
  .next (s.xissue 2 x (if va % 64 ≠ 0 then .fault 0x07 va else if s.me.slotBusy sl then .wait else .go st))

/-! ## Multicasts (R216, R283) -/

/-- The cores of a target set, in increasing die, then core. -/
def setCores (w : Nat) : List Nat :=
  ((List.range 32).filter (fun d => decide (fld w 12 2 ≤ d % 4) && decide (d % 4 ≤ fld w 14 2) &&
      decide (fld w 16 3 ≤ d / 4) && decide (d / 4 ≤ fld w 19 3))).flatMap
    (fun d => (List.range (fld w 6 6 + 1)).map (fun i => d * 64 + fld w 0 6 + i))

/-- A target set is malformed. -/
def setBad (w : Nat) : Bool :=
  decide (fld w 14 2 < fld w 12 2) || decide (fld w 19 3 < fld w 16 3) || decide (63 < fld w 0 6 + fld w 6 6)

/-- R216: the landing tick is the later of vp and the arrival. The destination footprint of R198 counts every target core's bytes
(DEDUCED, log 129). -/
def execXmcast (x : XHdr) (vp : VpReg) (src : SpadAddr) (g : BitVec 10) (set_ : BitVec 22) (s : State) : Res :=
  let c := s.me
  let k := s.cur.core
  let p := c.placeOf src
  let n := 256 * g.toNat
  let cores := setCores set_.toNat
  let hm := cores.foldl (fun m t => Nat.max m (hops (dieOf k) (dieOf t))) 0
  let a := s.tick + 2 + g.toNat + 24 + 24 * hm + s.extra k
  let st : XStep := { s.newStep .transfer (.xmcast x vp src g set_) x with
    src := .spad (p.byte p.off), parts := [(0, c.spRead (p.byte p.off) n)], dest := .cores, bytes := n * cores.length
    landAt := Nat.max (s.vp .transfer vp).toNat a, waiting := cores }
  let r := firstIssue st [faultOf [(!p.fits p.off n, 0x0A), (setBad set_.toNat, 0x0A), (tooBig st.bytes, 0x0A),
    (cores.any (fun t => !(s.part c.part).hasCore t), 0x09)] 0]
  let s1 := s.xissue 4 x r
  .next (if s.issuedIn s1 then
    (cores.foldl (fun s t => s.atTick (engAt k .transfer) st.landAt (.multicastLanding k st.id t)) s1).bump
  else s1)

/-! ## Deferred publishes, messages, tiles, waits (R206, R212 to R215) -/

/-- R206: `xpub` waits in flight for the shadows it takes. -/
def execXpub (x : XHdr) (s : State) : Res :=
  let st := s.newStep .transfer (.xpub x) x
  let s1 := s.xissue 1 x (.go st)
  .next (if s.issuedIn s1 then s1.now (engAt s.cur.core .transfer) (.shadowFilled s.cur.core st.id) else s1)

/-- R212. -/
def execXsend (x : XHdr) (sp : SpadAddr) (mbox : BitVec 12) (s : State) : Res :=
  let c := s.me
  let p := c.placeOf sp
  let head := c.spRead (p.byte p.off) 16
  let n := 16 * fld (leNat head) 16 6
  let m := s.mbox mbox.toNat
  let pad :=
    match s.partPhys m.part.toNat (m.base.toNat + m.packetOff n) with
    | .ok pa => homePad (dieOf s.cur.core) pa
    | .error _ => 0
  let st : XStep := { s.newStep .transfer (.xsend x sp mbox) x with
    src := .spad (p.byte p.off), srcPad := 2, dstPad := pad, parts := [(0, c.spRead (p.byte p.off) n)]
    dest := .mailbox mbox.toNat, source := p.tile, bytes := n }
  .next (s.xissue 3 x (firstIssue st [faultOf [(p.off % 16 != 0, 0x07), (!p.fits p.off 16, 0x0A)] 0, c.srcTile p false s.tick,
    faultOf [(decide (512 < n), 0x0A), (!p.fits p.off n, 0x0A), (!m.writable c.part, 0x09)] 0]))

/-- A step that is over in its issue tick (R199, R213, R215): its token is claimed and set in that tick. -/
def State.xnow (s : State) (len : Nat) (h : XHdr) (r : XIssue) (f : Core → Core) : State :=
  let owner := (s.run .transfer).owner
  if !(s.me.task owner).tokensWere h.wm s.tick then s
  else
    match r with
    | .fault cause addr => s.engFault .transfer cause 0 0 addr
    | .wait => s
    | .go x =>
      if s.me.stepRoom owner h.tok 0 then
        let c := f (s.me.stepRun .transfer len (s.tick + 1))
        let t := c.task owner
        let t1 := match h.tok with
          | none => t
          | some k => (t.claimToken k).settleToken k x.stamp s.tick
        s.setMe (c.setTask owner { t1 with doneStamp := Nat.max t1.doneStamp x.stamp })
      else s

/-- R214: `xfill.def` waits until the tile is empty with nothing queued or admitted. -/
def execXfillDef (x : XHdr) (tt : TtReg) (sp : SpadAddr) (len : BitVec 13) (s : State) : Res :=
  let c := s.me
  let p := c.placeOf sp
  let e := vget c.tt tt
  let n := (len.toNat + 1) * 16
  let wait := e.st ≠ .empty || e.fq != 0 || c.tileHeld tt s.tick
  .next (s.xnow 3 x
    (firstIssue (s.newStep .transfer (.xfillDef x tt sp len) x)
      [faultOf [(p.off % 16 != 0, 0x07), (!p.fits p.off n, 0x0A)] 0, if wait then some .wait else none])
    (fun c => { c with tt := vset c.tt tt ⟨.empty, BitVec.ofNat 4 p.bank, BitVec.ofNat 13 (p.off / 16), len, 0⟩ }))

/-- R214: `xfill.rel`. The next queued fill may claim the tile. -/
def execXfillRel (x : XHdr) (tt : TtReg) (s : State) : Res :=
  let c := s.me
  let e := vget c.tt tt
  let r : XIssue :=
    match e.say with
    | .fault => .fault 0x0B 0
    | .wait => .wait
    | .go => if c.tileHeld tt s.tick then .wait else .go (s.newStep .transfer (.xfillRel x tt) x)
  let s1 := s.xnow 3 x r (fun c => { c with tt := vset c.tt tt { vget c.tt tt with st := .empty } })
  .next (if (vget s1.me.tt tt).st = .empty ∧ e.st = .ready then
    s1.now (engAt s.cur.core .transfer) (.tileClaim s.cur.core tt) else s1)

/-- R213: `xwait`. -/
def execXwait (x : XHdr) (s : State) : Res := .next (s.xnow 1 x (.go (s.newStep .transfer (.xwait x) x)) id)

/-- The in-use bits of `g` granules from a scratchpad byte, set or cleared. -/
def Core.setBusy (c : Core) (a g : Nat) (on : Bool) : Core :=
  let m := BitVec.ofNat 8192 (put (2 ^ g - 1) (a / 256))
  { c with inUse := if on then c.inUse ||| m else c.inUse &&& ~~~m }

/-- `xbusy` (R215). -/
def State.busyWord (s : State) (i : Instr) (h : XHdr) (sp : SpadAddr) (g : BitVec 10) (on : Bool) : State :=
  let p := s.me.placeOf sp
  s.xnow 3 h (firstIssue (s.newStep .transfer i h)
    [faultOf [(p.off % 256 != 0, 0x07), (!p.fits p.off (256 * g.toNat), 0x0A)] 0])
    (fun c => c.setBusy (p.byte p.off) g.toNat on)

/-- R215: `xbusy.set`. -/
def execXbusySet (x : XHdr) (sp : SpadAddr) (g : BitVec 10) (s : State) : Res :=
  .next (s.busyWord (.xbusySet x sp g) x sp g true)

/-- R215: `xbusy.clr`. -/
def execXbusyClr (x : XHdr) (sp : SpadAddr) (g : BitVec 10) (s : State) : Res :=
  .next (s.busyWord (.xbusyClr x sp g) x sp g false)

/-- R213: `xexit` ends the run at its issue; steps in flight go on. -/
def execXexit (wm : BitVec 8) (s : State) : Res :=
  let owner := (s.run .transfer).owner
  if !(s.me.task owner).tokensWere wm s.tick then .next s
  else if s.me.stepRoom owner none 0 then .next (s.setMe (s.me.exitRun .transfer 1 (s.tick + 1)))
  else .next s

/-! ## Translation of a sector (R217) -/

/-- A translation by a transfer unit: the die TLB, or a walk. -/
def State.xlate (s : State) (k va : Nat) (a : AccKind) (publish : Bool) : Except TransFail Trans :=
  let p := (s.core k).part
  if 2 ^ 48 ≤ va then .error { cause := 0x08, why := 1 }
  else
    match (s.dieLookup k va).2 with
    | .error f => .error f
    | .ok e =>
      match s.permit p e va a publish with
      | some f => .error f
      | none => .ok { pa := e.phys va, entry := e, level := 1 }

/-- The translations of the pages of a sector, or the first failure with its address. -/
def State.xlatePages (s : State) (k : Nat) (a : AccKind) (publish : Bool) :
    List Nat → Except (TransFail × Nat) (List (Nat × Trans))
  | [] => .ok []
  | va :: rest =>
    match s.xlate k va a publish with
    | .error f => .error (f, va)
    | .ok t =>
      match s.xlatePages k a publish rest with
      | .error f => .error f
      | .ok ts => .ok ((va / 65536, t) :: ts)

/-- Where an address of a translated page goes. -/
def targetIn (pages : List (Nat × Trans)) (va : Nat) (lbase : Nat → Nat) : Target :=
  match pages.find? (fun p => p.1 == va / 65536) with
  | none => { window := none, addr := va }
  | some (_, t) =>
    if t.entry.pe then { window := some t.entry.pch.toNat, addr := va - lbase t.entry.pch.toNat }
    else { window := none, addr := t.entry.phys va }

/-- The targets of a sector's addresses, or the first failure. -/
def State.xtargets (s : State) (k : Nat) (vas : List Nat) (a : AccKind) (publish : Bool) :
    Except (TransFail × Nat) (List Target) :=
  match s.xlatePages k a publish (firstOfPages vas) with
  | .error f => .error f
  | .ok pages => .ok (vas.map (fun va => targetIn pages va (fun c => bitsOf (s.channel c).w3 0 48)))

/-- The padding of targets: their farthest home (R283). -/
def targetPad (die : Nat) (ts : List Target) : Nat :=
  ts.foldl (fun n t => if t.window.isSome then n else Nat.max n (homePad die t.addr)) 0

/-- Lines of targets, in increasing order. -/
def targetLines (ts : List Target) : List Nat :=
  ts.foldl (fun ls t => if t.window.isSome then ls else insertNat (lineOf t.addr) ls) []

/-- A line among those a step has read. -/
def seenLine (seen : List (Nat × List Byte)) (l : Nat) : Option (List Byte) := (seen.find? (fun x => x.1 == l)).map (fun x => x.2)

/-- The lines of a sector's targets that the step has not read yet, in order. -/
def unseenLines (seen : List (Nat × List Byte)) (ts : List Target) : List Nat :=
  ts.foldl (fun ls t =>
    let l := lineOf t.addr
    if (seenLine seen l).isSome || ls.contains l then ls else ls ++ [l]) []

/-- The bytes at targets: each line is read atomically, once in a step, in order (R104, R272, R279). The lines read so far come
with them. -/
def State.readTargets (s : State) (k : Nat) (seen : List (Nat × List Byte)) (ts : List Target) (stamp lease : Nat) :
    State × List Byte × Nat × List (Nat × List Byte) :=
  let ls := unseenLines seen ts
  let (s1, all, st) := ls.foldl (fun (acc : State × List (Nat × List Byte) × Nat) l =>
    let (s1, bs, st) := acc.1.homeRead (l * 64) 64 acc.2.2 lease
    (s1, (l, bs) :: acc.2.1, st)) (s.disown (dieOf k) ls, seen, stamp)
  (s1, ts.map (fun t => ((seenLine all (lineOf t.addr)).getD []).getD (t.addr % 64) 0), st, all)

/-- The bytes of a side follow one another: two of its sectors share at most the line between them. -/
def XSide.packed (x : XSide) (f : Fmt) : Bool :=
  match x with
  | .shape slot _ =>
    let sh := shapeOf slot
    (f == .t6 || sh.es f == (f.bits / 8 : Nat)) && (sh.rows == 1 || sh.rpitch == (rowBytes f sh.cols : Nat)) &&
      (sh.planes == 1 || sh.ppitch == (sh.rows * rowBytes f sh.cols : Nat))
  | .none | .spad _ | .rows _ _ _ _ | .line _ => true

/-! ## Sectors in order (R217) -/

/-- Ticks of a sector or row: in elastic mode a sector takes 8, the rate of R332. -/
def State.pace (s : State) (k : Nat) : Nat := if (s.part (s.core k).part).fl then 16 else 8

/-- The tick in which sector `i` of a copy or reduction is moved: the walk of a sector that misses has then ended. -/
def State.sectorDue (s : State) (k : Nat) (x : XStep) : Nat :=
  x.issued + 2 + s.pace k * x.sector + walksOf (x.missing.filter (fun m => decide (m.1 ≤ x.sector))) + x.fails + x.waited

/-- A step has failed in a sector, or as a whole: it goes no further, and its fault is recorded at the end of a tick (R217,
R338). -/
def State.stepFails (s : State) (k : Nat) (x : XStep) (b : BadSector) : State := s.setStep k { x with bad := x.bad ++ [b] }

/-- A step's failure of this tick without a walk. -/
def State.badNow (s : State) (k cause why acc addr : Nat) : BadSector :=
  { at_ := s.tickOf k, walk := 0, sector := 0, cause := cause, why := why, acc := acc, addr := addr }

/-- What the recording of a failing sector waits for (R217): a page that is not present is recorded when its walk has ended, the
walks of the sectors before it having been waited for; any other failure at once. -/
def State.badSector (s : State) (k : Nat) (x : XStep) (i : Nat) (f : TransFail) (acc va : Nat) : BadSector :=
  let key := if x.gathers then va / 65536 * 65536 else i
  let walk :=
    match x.missing.find? (fun m => m.1 == key) with
    | some m => m.2
    | none => if (s.part (s.core k).part).fl then 1080 else 0
  let before := if x.gathers then x.missing.takeWhile (fun m => m.1 != key) else x.missing.filter (fun m => decide (m.1 < i))
  let due := x.issued + 2 + s.pace k * i + walksOf before + walk + x.fails + x.waited
  { at_ := if f.cause = 0x08 then Nat.max (s.tickOf k) due else s.tickOf k, walk := walk, sector := i, cause := f.cause,
    why := f.why, acc := acc, addr := va }

/-- Walks of a sector's pages have ended: the TLBs are filled, and an entry that serves is the one used last (R351, R353). -/
def State.noteSector (s : State) (k : Nat) (vas : List Nat) : State :=
  (firstOfPages vas).foldl (fun s va =>
    match s.dieLookup k va with
    | (1, .ok e) =>
      s.touchDie (dieOf k) e
    | (2, .ok e) => s.fillEntry k e .core
    | _ => s) s

/-- The next sector of a copy or reduction is moved. -/
def State.moveSector (s : State) (k : Nat) (x : XStep) : State :=
  let rd := x.src.sector x.srcFmt x.sector
  let wr := x.dst.sector x.dstFmt x.sector
  let gone := s.lost k (rd ++ wr)
  if !gone.isEmpty && !x.missing.any (fun m => m.1 == x.sector) then
    s.setStep k { x with missing := x.missing ++ [(x.sector, s.sectorWalk k gone)] }
  else
    let s1 := s.noteSector k (rd ++ wr)
    match s1.xtargets k rd .read false, s1.xtargets k wr x.dstKind x.publishes with
    | .error (f, va), _ => s1.stepFails k x (s1.badSector k x x.sector f 0 va)
    | _, .error (f, va) => s1.stepFails k x (s1.badSector k x x.sector f (accCode x.dstKind) va)
    | .ok rts, .ok wts =>
      match s1.linesSay k (some x.id) (unseenLines x.seen rts) with
      | .refused => s.setStep k { x with waited := x.waited + 16 }
      | .reserved => s.setStep k { x with waited := x.waited + 1 }
      | .free =>
        let (s2, bs, st, all) := s1.readTargets k x.seen rts x.stamp x.cfg.leaselen.toNat
        let die := dieOf k
        let x1 : XStep := { x with
          sector := x.sector + 1, stamp := st, seen := if x.src.packed x.srcFmt then all.take 1 else all
          parts := if rd.isEmpty then x.parts else Tbl.set x.parts x.sector bs
          targets := if wr.isEmpty then x.targets else Tbl.set x.targets x.sector wts
          srcPad := Nat.max x.srcPad (targetPad die rts), dstPad := Nat.max x.dstPad (targetPad die wts) }
        let s3 := (s2.setStep k x1).linesTravel k (unseenLines x.seen rts) false
        if x1.sector < x1.sectors then s3 else s3.scheduleFill k x1

/-! ## Rows (R208, R318, R356) -/

/-- A page of `2 ^ size` bytes at `base` is judged: the first row on it decides whether it is counted, and it is counted once
(R356). A page that had no translation at an earlier request was judged then, block by block. -/
def XStep.judgePage (x : XStep) (base size : Nat) (held : Bool) (walk : Nat) : XStep :=
  let inPage (j : Nat) : Bool := decide (base ≤ j) && decide (j < base + 2 ^ size)
  if x.judged.any inPage then
    let first := x.missing.find? (fun m => inPage m.1)
    { x with missing := x.missing.filter (fun m => !inPage m.1 || first == some m) }
  else { x with judged := x.judged ++ [base], missing := if held then x.missing else x.missing ++ [(base, walk)] }

/-- The pages that a step's row lies on are judged at the request of its first such row (R356): one that lies in neither the die
TLB nor the Picker's cache is counted, with the ticks of its walk. A page without a translation is known by its 64 KiB block. -/
def State.judgePages (s : State) (k : Nat) (x : XStep) (vas : List Nat) : XStep :=
  let p := (s.core k).part
  let d := s.die (dieOf k)
  vas.foldl (fun (x : XStep) va =>
    match tlbFind d.tlb (s.part p).asid va, tlbFind d.pickTlb (s.part p).asid va with
    | some e, _ => x.judgePage e.base e.size true 0
    | none, some e => x.judgePage e.base e.size true 0
    | none, none =>
      match s.walk p va with
      | .ok e => x.judgePage e.base e.size false (s.walkTicks p (dieOf k) va)
      | .error _ => x.judgePage (va / 65536 * 65536) 16 false (s.walkTicks p (dieOf k) va)) x

/-- The walks that a row's destination needs start, and end in their time; an entry that serves is the one used last (R351,
R353). -/
def State.noteTargets (s : State) (k : Nat) (vas : List Nat) : State :=
  (firstOfPages vas).foldl (fun s va =>
    match s.dieLookup k va with
    | (1, .ok e) =>
      s.touchDie (dieOf k) e
    | (2, .ok e) => s.startWalk k va .core (s.walkTicks (s.core k).part (dieOf k) va) (.ok e)
    | _ => s) s

/-- The step after the request of its next row. -/
def XStep.rowAsked (x : XStep) : XStep :=
  match x.again with
  | _ :: rest => { x with again := rest }
  | [] => { x with asked := x.asked + 1 }

/-- The start of row `i` of a side. -/
def XSide.rowStart (x : XSide) (i : Nat) : Nat :=
  match x with
  | .rows base pitch _ idx => wrapAddr (base + (idx.getD i 0 : Nat) * pitch)
  | .none | .spad _ | .shape _ _ | .line _ => 0

/-- Bytes of a row of a side. -/
def XSide.rowLen (x : XSide) : Nat :=
  match x with
  | .rows _ _ n _ => n
  | .none | .spad _ | .shape _ _ | .line _ => 0

/-- The gather's next row is requested of the Picker (R318, R319); `xcomp` translates the row's destination with it. Its pages
are judged at the first request, whatever the row's line answers it (R356). -/
def State.askGather (s : State) (k : Nat) (x0 : XStep) : State :=
  match x0.nextRow with
  | none => s
  | some i =>
    let va := x0.src.rowStart i
    let n := x0.src.rowLen
    if !s.rowFree k va n then s
    else
      let wr := x0.dst.sector x0.dstFmt i
      let x : XStep := s.judgePages k x0 ((pageParts va n).map (fun p => p.1) ++ firstOfPages wr)
      match s.rowSay k va n with
      | .refused => s.setStep k { x with waited := x.waited + 16, askAt := s.tickOf k + 16 }
      | .reserved => s.setStep k { x with waited := x.waited + 1, askAt := s.tickOf k + 1 }
      | .free =>
        let pad := (s.rowParts k va n).pad
        let x1 : XStep := x.rowAsked
        let x2 : XStep :=
          match s.xtargets k wr .write true with
          | .error (f, va) =>
            { x1 with bad := x1.bad ++ [s.badSector k x1 i f 1 va] }
          | .ok ts =>
            { x1 with targets := if wr.isEmpty then x1.targets else Tbl.set x1.targets i ts,
                      dstPad := Nat.max x1.dstPad (targetPad (dieOf k) ts) }
        let x3 : XStep := { x2 with srcPad := Nat.max x2.srcPad pad }
        let s1 := (s.setStep k x3).noteTargets k wr
        let (s2, st) := s1.askRow k (some x.id) i va n (rowAlign x.srcFmt) x.stamp x.cfg.leaselen.toNat none
        match (s2.core k).xstep? x.id with
        | none => s2
        | some y => s2.setStep k { y with stamp := Nat.max y.stamp st }

/-- Every row of a gather has been delivered. -/
def XStep.rowsIn (x : XStep) : Bool := decide (x.parts.length = x.sectors) && x.bad.isEmpty

/-- A row of a gather arrives, or is reported as faulting: a page that is not present parks the step, any other cause ends
its task, each when it is recorded (R208, R217, R338). -/
def State.gatherRow (s : State) (k id pos : Nat) (r : RowResult) : State :=
  match (s.core k).xstep? id with
  | none => s
  | some x =>
    let x1 : XStep :=
      match r with
      | .bytes bs => { x with parts := Tbl.set x.parts pos bs, sector := x.sector + 1 }
      | .faulting cause why addr =>
        { x with bad := x.bad ++ [s.badSector k x pos { cause := cause, why := why } 0 addr] }
    let s1 := s.setStep k x1
    if x1.rowsIn then s1.scheduleFill k x1 else s1

/-- PICKER_ROW_DELIVERY (R318): the row slot is free again, and the row goes to the open bag or to its gather. -/
def State.rowDelivered (s : State) (k id : Nat) : State :=
  let d := s.die (dieOf k)
  match d.rows.find? (fun r => r.id == id) with
  | none => s
  | some r =>
    let s1 := s.setDie (dieOf k) { d with rows := d.rows.filter (fun x => x.id != id) }
    if r.gone then s1
    else
    match r.step with
    | none => s1.now (engAt k .matrix) (.bagRowArrival k r.pos r.res)
    | some step => s1.gatherRow k step r.pos r.res

/-- PICKER_ROW_DELIVERY. -/
def execPickerRowDelivery (s : State) : Res :=
  match s.ev with
  | .pickerRowDelivery k id => .next (s.rowDelivered k id)
  | _ => .next s

/-! ## What a transfer unit moves in a tick -/

/-- The next sectors of a step that are due are moved. -/
def State.moveDue (s : State) (k tick id : Nat) : State :=
  match (s.core k).xstep? id with
  | none => s
  | some y => if y.moves && decide (s.sectorDue k y ≤ tick) then s.moveSector k y else s

/-- The sectors of a core's steps that are due are moved, and its oldest gather requests one row. -/
def State.sectorsJob (s : State) (k : Nat) : State :=
  let tick := s.tickOf k
  let c := s.core k
  if c.run ≠ .running then s
  else
    let s1 := (c.xfr.steps.filter (fun x => x.moves && !x.gathers)).foldl (fun s x => s.moveDue k tick x.id) s
    match (s1.core k).xfr.steps.find? (fun x => x.moves && x.gathers && decide (x.askAt ≤ tick)) with
    | none => s1
    | some x => s1.askGather k x

/-! ## Parking (R217, R348) -/

/-- SECTOR_PAGE_FAULT (R217): the fault is recorded and the step parks; a task in trap mode ends. -/
def execSectorPageFault (s : State) : Res :=
  match s.ev with
  | .sectorPageFault k id =>
    match (s.core k).xstep? id with
    | none => .next s
    | some x =>
      match x.stage, x.dueBad (s.tickOf k) with
      | .working, some b =>
        let s1 := s.setStep k { x with stage := .parked, parkedAt := s.tickOf k }
        let r : TaskRef := { core := k, slot := x.slot }
        .next (s1.takeFault r (x.fault b) true)
      | _, _ => .next s
  | _ => .next s

/-- A parked step goes on: the walk that failed counts, the parked ticks are added, and the failed sector is tried
first. -/
def XStep.resume (x : XStep) (tick : Nat) : XStep :=
  if x.stage = .parked then
    { x with stage := .working, fails := x.fails + (x.dueBad tick).elim 0 (fun b => b.walk), waited := x.waited + (tick - x.parkedAt), bad := [],
             again := if x.gathers then (x.again ++ x.bad.map (fun b => b.sector)).eraseDups else [] }
  else x

/-- The destinations of the sectors already moved, translated again after the time in which the step was parked: an
invalidation does not wait for them (spec/19_faults_translation.md R355). -/
def State.retarget (s : State) (k : Nat) (x : XStep) : Except BadSector (Tbl (List Target)) :=
  x.targets.foldl (fun (acc : Except BadSector (Tbl (List Target))) e =>
    match acc with
    | .error b => .error b
    | .ok ts =>
      match s.xtargets k (x.dst.sector x.dstFmt e.1) x.dstKind x.publishes with
      | .error (f, va) => .error (s.badSector k x e.1 f (accCode x.dstKind) va)
      | .ok t => .ok (ts ++ [(e.1, t)])) (.ok [])

/-- STEP_RESUME (R217). A step that has nothing to move tries its packet's area again (R212). A step that comes back with its core, and
has sectors translated through dropped entries, has them translated again as well (R355). -/
def execStepResume (s : State) : Res :=
  match s.ev with
  | .stepResume k id =>
    match (s.core k).xstep? id with
    | none => .next s
    | some x =>
      let y := x.resume (s.tickOf k)
      match s.retarget k y with
      | .ok ts =>
        let s1 := s.setStep k { y with targets := ts, old := false }
        .next (if x.stage = .parked ∧ !y.moves then s1.now (engAt k .transfer) (.shadowFilled k id) else s1)
      | .error b => .next (if x.stage = .parked ∨ x.old then s.stepFails k { y with old := false } b else s)
  | _ => .next s

end Sys2Proof.Machine
end

