-- ==== Sys2Proof/Machine/Links.lean ====
section
/-! DEFINITION. The Chegen links of the scale-up ports (spec/16_fabric.md R326, R327; spec/22_platform.md R360): flits,
acknowledgements, resends, retraining and compression blocks. -/

namespace Sys2Proof

/-- A flit breaks the frame of R326: an unknown type, a nonzero reserved bit, or more payload than it has room for. -/
def ChegenFlit.broken (f : ChegenFlit) : Bool := decide (4 < f.type) || f.resv != 0 || decide (256 < f.payload.length)

/-- The 8-byte header of a flit (R326). -/
def ChegenFlit.header (f : ChegenFlit) : Nat :=
  (f.type % 16 + put (f.vc % 4) 4 + put (f.seq % 4096) 6 + put (f.ackn % 4096) 18 + put (f.cred % 256) 30 + put f.resv 38) % 2 ^ 64

/-- One byte of a 64-bit CRC with the ECMA-182 polynomial, most significant bit first (PRESUMED, log 131). -/
def crc64Byte (c : BitVec 64) (b : Byte) : BitVec 64 :=
  (List.range 8).foldl (fun c _ => if c.msb then (c <<< 1) ^^^ 0x42F0E1EBA9EA3693#64 else c <<< 1)
    (c ^^^ (b.zeroExtend 64 <<< 56))

/-- The 64-bit CRC of bytes. -/
def crc64 (bs : List Byte) : BitVec 64 := bs.foldl crc64Byte 0

/-- The 256 payload bytes of a flit: a control flit carries none, and they are zeros (R326; DESIGN CHOICE, log 131). -/
def ChegenFlit.bytes (f : ChegenFlit) : List Byte := f.payload ++ List.replicate (256 - f.payload.length) 0

/-- The check word over the header and the payload (R326). -/
def ChegenFlit.word (f : ChegenFlit) : BitVec 64 :=
  crc64 ((List.range 8).map (fun i => BitVec.ofNat 8 (f.header / 2 ^ (8 * i))) ++ f.bytes)

/-- The check word of a flit matches. -/
def ChegenFlit.good (f : ChegenFlit) : Bool := f.check == f.word

/-- A flit with its check word. -/
def ChegenFlit.seal (f : ChegenFlit) : ChegenFlit := { f with check := f.word }

/-- The bytes of a flit on the wire, 272 of them for a payload of at most 256 (R326). -/
def ChegenFlit.wire (f : ChegenFlit) : List Byte :=
  (List.range 8).map (fun i => BitVec.ofNat 8 (f.header / 2 ^ (8 * i))) ++ f.bytes ++ (List.range 8).map (fun i => BitVec.ofNat 8 (f.check.toNat / 2 ^ (8 * i)))

end Sys2Proof

namespace Sys2Proof.Machine

/-! ## Who is hurt by a link (R326, R360) -/

/-- The port of a channel. -/
def State.channelPort (s : State) (c : Nat) : Nat := bitsOf (s.channel c).w0 7 4

/-- Partitions with port traffic on a port in flight: some step of theirs writes a window of it. -/
def State.portUsers (s : State) (port : Nat) : List Nat :=
  (s.cores.filter (fun e => e.2.xfr.steps.any (fun x =>
    x.targets.any (fun p => p.2.any (fun t =>
      match t.window with
      | none => false
      | some c => s.channelPort c == port))))).foldl (fun ps e => insertNat e.2.part ps) []

/-- A partition-class fault for each of several partitions. -/
def State.faultParts (s : State) (ps : List Nat) (cause : Nat) : State := ps.foldl (fun s p => s.partFault p cause 0 0) s

/-- LINK_PROTOCOL_ERROR (R325): fault 0x42 of a partition. -/
def execLinkProtocolError (s : State) : Res :=
  match s.ev with
  | .linkProtocolError p => .next (s.partFault p 0x42 0 0)
  | _ => .next s

/-- A protocol error on a port: fault 0x42 for every partition with traffic on it (R326). -/
def State.portError (s : State) (port : Nat) : State :=
  s.soon ((s.portUsers port).map (fun p => .event s.cur (.linkProtocolError p)))

/-! ## Compression blocks (R327) -/

/-- `n` bytes copied one at a time from `d` bytes back in an output held newest first. -/
def copyBack (out : List Byte) (d : Nat) : Nat → List Byte
  | 0 => out
  | n + 1 => copyBack (out.getD (d - 1) 0 :: out) d n

/-- The segments of a compressed body, on the output newest first: none when a segment breaks R327. -/
def segments (want : Nat) (out : List Byte) (body : List Byte) : Nat → Option (List Byte)
  | 0 => none
  | fuel + 1 =>
    match body with
    | [] => if out.length = want then some out else none
    | c :: rest =>
      let n := c.toNat % 64
      let go (out1 rest1 : List Byte) : Option (List Byte) :=
        if want < out1.length then none else segments want out1 rest1 fuel
      match c.toNat / 64 with
      | 0 => if rest.length < n + 1 then none else go ((rest.take (n + 1)).reverse ++ out) (rest.drop (n + 1))
      | 1 => go (zeroBytes (4 * (n + 1)) ++ out) rest
      | 2 =>
        match rest with
        | [] => none
        | b :: rest1 => go (List.replicate (n + 3) b ++ out) rest1
      | _ =>
        match rest with
        | lo :: hi :: rest1 =>
          let d := leNat [lo, hi]
          if d = 0 ∨ 4095 < d ∨ out.length < d then none else go (copyBack out d (n + 4)) rest1
        | _ => none

/-- A block's source bytes, given its header and body; none for a protocol error. -/
def blockBytes (h : Nat) (body : List Byte) : Option (List Byte) :=
  let n := fld h 2 13 + 1
  let blen := fld h 15 13
  if fld h 28 36 ≠ 0 ∨ 4096 < n then none
  else
    match fld h 0 2 with
    | 0 => if blen = n then some body else none
    | 1 => if 1 ≤ blen ∧ blen ≤ 4096 then (segments n [] body (blen + 1)).map List.reverse else none
    | 2 => if blen = 0 then some (zeroBytes n) else none
    | _ => none

/-- What a decoder finds in a byte stream: the decoded bytes, the bytes left, and whether a block broke R327. -/
structure Decoded where
  out  : List Byte
  rest : List Byte
  bad  : Bool
  deriving DecidableEq, Repr

/-- COMPRESSION_BLOCK_DECODE: whole blocks are decoded one after the other; a block that is not whole stays. -/
def decodeBlocks (bs : List Byte) : Nat → Decoded
  | 0 => { out := [], rest := bs, bad := false }
  | fuel + 1 =>
    if bs.length < 8 then { out := [], rest := bs, bad := false }
    else
      let h := leNat (bs.take 8)
      let n := fld h 15 13
      if bs.length < 8 + n then { out := [], rest := bs, bad := false }
      else
        match blockBytes h ((bs.drop 8).take n) with
        | none => { out := [], rest := bs.drop (8 + n), bad := true }
        | some out =>
          let d := decodeBlocks (bs.drop (8 + n)) fuel
          { d with out := out ++ d.out }

/-- The block of 1 to 4096 source bytes that the port sends: mode 2 for zeros, mode 0 otherwise. A sender may choose its
segments, and this one uses none (R327). -/
def blockOf (bs : List Byte) : List Byte :=
  if bs.all (· == 0) then leBytes 8 (2 + put (bs.length - 1) 2)
  else leBytes 8 (put (bs.length - 1) 2 + put bs.length 15) ++ bs

/-- Blocks filled up to whole flits by one more block, whose bytes lie beyond those that the peer takes: of zeros where only its
header fits, and stored otherwise (R326, R327; DESIGN CHOICE, log 103). -/
def wholeFlits (blocks : List Byte) : List Byte :=
  let r := (256 - blocks.length % 256) % 256
  let n := if r < 8 then r + 248 else r - 8
  if r = 0 then blocks
  else if n = 0 then blocks ++ blockOf [0]
  else blocks ++ blockOf (List.replicate n 0xFF)

/-- Bytes cut into pieces of at most `n`. -/
def pieces (n : Nat) (bs : List Byte) : List (List Byte) :=
  (List.range (ceilDiv bs.length n)).map (fun i => (bs.drop (i * n)).take n)

/-! ## Flits (R326) -/

/-- A control flit of the link: its acknowledgement rides on every flit, with `cred` credits of a channel (R326). -/
def Link.control (l : Link) (type vc cred : Nat) : ChegenFlit :=
  ({ type := type, vc := vc, seq := 0, ackn := l.ackn.toNat, cred := cred, resv := 0, payload := [], check := 0 } : ChegenFlit).seal

/-- A data flit of channel 1, on which the port's data travels (R322), is put on the wire under the next number. -/
def Link.sendData (l : Link) (payload : List Byte) : Link :=
  let f := ({ type := 1, vc := 1, seq := l.txSeq.toNat, ackn := l.ackn.toNat, cred := 0, resv := 0, payload := payload
              check := 0 } : ChegenFlit).seal
  { l with txSeq := l.txSeq + 1, used := l.used + 1, outbox := l.outbox ++ [(f, 0)]
           wire := if l.back.isSome then l.wire else l.wire ++ [f] }

/-- The link may send a data flit: the receiver has a buffer for it, and its number is not one that still awaits its
acknowledgement. A receiver has at least 64 buffers (R326; DESIGN CHOICE, log 100). -/
def Link.maySend (l : Link) : Bool :=
  decide (l.used < 64 + Config.bufferExtra 1 + Tbl.getD l.credits 1 0) && decide (l.outbox.length < 4095)

/-- Payloads that wait are sent while the link may send. -/
def Link.drain (l : Link) : List (List Byte) → Link
  | [] => { l with unsent := [] }
  | p :: rest => if l.maySend then (l.sendData p).drain rest else { l with unsent := p :: rest }

/-- Bytes sent through a port, as blocks in data flits of 256 payload bytes. -/
def State.portSend (s : State) (port : Nat) (bs : List Byte) : State :=
  let blocks := (pieces 4096 bs).flatMap blockOf
  let l := s.link port
  s.setLink port (l.drain (l.unsent ++ pieces 256 (wholeFlits blocks)))

/-- Sequence distance modulo 4096. -/
def seqAfter (a b : Nat) : Nat := (a + 4096 - b % 4096) % 4096

/-- The acknowledgement and credits that ride on a flit are taken: flits up to `ackn` leave the outbox. -/
def Link.take (l : Link) (f : ChegenFlit) : Link :=
  let n := seqAfter f.ackn l.peerAck.toNat
  let known := decide (n ≤ l.outbox.length)
  { l with
    peerAck := if known then BitVec.ofNat 12 f.ackn else l.peerAck
    outbox := if known then l.outbox.drop n else l.outbox
    credits := if f.cred = 0 then l.credits else Tbl.set l.credits f.vc (Tbl.getD l.credits f.vc 0 + f.cred) }

/-- Every flit not acknowledged is sent again, and counts it. -/
def Link.resend (l : Link) : Link :=
  { l with outbox := l.outbox.map (fun x => (x.1, x.2 + 1)), wire := l.wire ++ l.outbox.map (fun x => x.1) }

/-- A flit is received on a port: a disabled or retraining link takes none, one with a bad check word is answered with
nak, a broken one is a protocol error, and any other is handed on. -/
def State.receive (s : State) (port : Nat) (f : ChegenFlit) (go : State → Link → State) : State :=
  let l := s.link port
  if l.off || l.back.isSome then s
  else if !f.good then s.setLink port { l with wire := l.wire ++ [l.control 4 1 0] }
  else if f.broken then s.portError port
  else
    let l1 := l.take f
    go s (l1.drain l1.unsent)

/-- DATA (R326): a flit in order is taken, acknowledged, with the credit of its channel's buffer, and decoded; one out of order is dropped, since its sender goes
back to the number of the nak. -/
def State.dataFlit (s : State) (port : Nat) (f : ChegenFlit) : State :=
  s.receive port f (fun s l =>
    if f.seq ≠ l.rxSeq.toNat then s.setLink port l
    else
      let d := decodeBlocks (l.input ++ f.bytes) (l.input.length + 256)
      let l1 := { l with rxSeq := l.rxSeq + 1, ackn := BitVec.ofNat 12 f.seq, input := d.rest, output := l.output ++ d.out }
      let s1 := s.setLink port { l1 with wire := l1.wire ++ [l1.control 3 f.vc 1] }
      if d.bad then s1.portError port else s1)

/-- DATA. -/
def execData (s : State) : Res :=
  match s.ev with
  | .data port f => .next (s.dataFlit port f)
  | _ => .next s

/-- NAK (R326): the sender resends every flit not acknowledged; when one is sent again the sixteenth time, the link retrains. -/
def State.nakFlit (s : State) (port : Nat) (f : ChegenFlit) : State :=
  s.receive port f (fun s l =>
    if l.outbox = [] then s.setLink port l
    else
      let s1 := s.setLink port l.resend
      if l.resend.outbox.any (fun x => x.2 == 16) then s1.now s.cur (.linkRetrain port false) else s1)

/-- NAK. -/
def execNak (s : State) : Res :=
  match s.ev with
  | .nak port f => .next (s.nakFlit port f)
  | _ => .next s

/-- ACK (R326). -/
def execAck (s : State) : Res :=
  match s.ev with
  | .ack port f => .next (s.receive port f (fun s l => s.setLink port l))
  | _ => .next s

/-- CREDIT (R326). -/
def execCredit (s : State) : Res :=
  match s.ev with
  | .credit port f => .next (s.receive port f (fun s l => s.setLink port l))
  | _ => .next s

/-- IDLE (R326): its acknowledgement and credit fields are taken. -/
def execIdle (s : State) : Res :=
  match s.ev with
  | .idle port f => .next (s.receive port f (fun s l => s.setLink port l))
  | _ => .next s

/-! ## Retraining (R326, R360) -/

/-- A port link retrains for at most 2048 mesh cycles, which are 1024 wall periods. -/
def State.retrainPort (s : State) (port : Nat) : State :=
  let due := s.wall.toNat + 1024
  (s.setLink port { s.link port with outbox := (s.link port).outbox.map (fun x => (x.1, 0)), back := some due }).atWall due (.linkRetrainDone (.port port) true)

/-- A lane of a port fails: the spare is brought in and the link retrains, or, with the spare in use, the link is disabled
and every partition with traffic on it takes fault 0x42. -/
def State.portLaneFails (s : State) (port : Nat) : State :=
  let l := s.link port
  if l.off then s
  else if l.spare then (s.setLink port { l with off := true, back := none }).portError port
  else (s.setLink port { l with spare := true }).retrainPort port

/-- LINK_RETRAIN (R326). -/
def execLinkRetrain (s : State) : Res :=
  match s.ev with
  | .linkRetrain port laneFailed => .next (if laneFailed then s.portLaneFails port else s.retrainPort port)
  | _ => .next s

/-- A retraining port link comes back and resends what is not acknowledged, or is declared failed (R326, R360). -/
def State.portTrained (s : State) (port : Nat) (up : Bool) : State :=
  let l := s.link port
  if l.back.isNone then s
  else if up then s.setLink port { l with back := none, wire := l.wire ++ l.outbox.map (fun x => x.1) }
  else (s.setLink port { l with back := none, off := true }).portError port

/-! ## Window data (R329) -/

/-- Bytes of an element group of a format, and the elements in it. -/
def groupOf (f : Fmt) : Nat × Nat := if f = .t6 then (3, 4) else (f.bits / 8, 1)

/-- The elements of a channel's window that addressed bytes write, by number, with their encodings. -/
def windowElems (f : Fmt) (cells : List (Nat × Byte)) : List (Nat × Nat) :=
  let (n, m) := groupOf f
  let mem := Memory.scatter [] cells
  let groups := cells.foldl (fun gs c => insertNat (c.1 / n) gs) []
  groups.flatMap (fun g => (List.range m).map (fun k => (g * m + k, readElem mem f (g * n, k))))

/-- Formats of a channel: a raw side takes the other's (R203). -/
def State.channelFmts (s : State) (c : Nat) : Fmt × Fmt :=
  let w := (s.channel c).w0
  ((Fmt.ofCode? (bitsOf w 23 4)).getD .raw, (Fmt.ofCode? (bitsOf w 27 4)).getD .raw)

/-- The elements of a step's bytes in a channel's window, by number, converted with no flag (R329, step 1). -/
def State.windowConverted (s : State) (c : Nat) (cells : List (Nat × Byte)) : List (Nat × Nat) :=
  let (sf, df) := s.channelFmts c
  (windowElems (sizeFmt sf df) cells).map (fun e => (e.1, (convert sf df .rne e.2).1))

/-- The bytes that cross the link for a step's bytes in a channel's window. -/
def State.windowBytes (s : State) (c : Nat) (cells : List (Nat × Byte)) : List Byte :=
  let (sf, df) := s.channelFmts c
  packRow (sizeFmt df sf) ((s.windowConverted c cells).map (fun e => e.2))

/-- Where element `e` of a format goes in a peer range: the address of its first byte, or of its group, and its slot in the group
(R329, step 2). -/
def peerPlace (f : Fmt) (base e : Nat) : Nat × Nat :=
  let (n, m) := groupOf f
  (base + e / m * n, e % m)

/-- What a step writes at the peer of a channel (R329, step 2). -/
def State.peerWrite (s : State) (c core step : Nat) (cells : List (Nat × Byte)) : PeerWrite :=
  let ch := s.channel c
  let (sf, df) := s.channelFmts c
  { peer := bitsOf ch.w0 11 12, core := core, step := step
    elems := (s.windowConverted c cells).map (fun e =>
      let (a, k) := peerPlace (sizeFmt df sf) (bitsOf ch.w1 0 44) e.1
      (a, k, e.2)) }

/-- The die of a port (R311, R328): ports 0 to 7 lie on the dies of row 0, ports 8 to 15 on those of row 7. -/
def portDie (port : Nat) : Nat := if port < 8 then port / 2 else 28 + (port - 8) / 2

/-- A step's bytes in a channel's window cross the channel's port. -/
def State.postWindow (s : State) (c core step : Nat) (cells : List (Nat × Byte)) : State :=
  let port := s.channelPort c
  let l := s.link port
  let s1 := s.setLink port { l with posted := l.posted ++ [s.peerWrite c core step cells] }
  (s1.travel (dieOf core) (s.physOf core) (portDie port) (95 + port % 2) 1 (s.core core).part cells.length 8).portSend port
    (s.windowBytes c cells)

/-- The peer has answered a step: its writes are no longer on their way. -/
def State.peerAnswered (s : State) (core step : Nat) : State :=
  { s with links := s.links.map (fun e =>
      (e.1, { e.2 with posted := e.2.posted.filter (fun w => !(w.core == core && w.step == step)) })) }

/-- PORT_WINDOW_COMMIT at this package as the peer: the bytes of a window step of another package are committed as one
system-scope publish, or refused when they leave the DRAM region. -/
def State.peerCommit (s : State) (port : Nat) (cells : List (Nat × Byte)) : State :=
  if cells.any (fun c => region c.1 != 0 || decide (2 ^ 44 ≤ c.1)) then
    { s with endpoint := { s.endpoint with notices := s.endpoint.notices ++ [.windowRefused port] } }
  else
    let ls := linesOf cells
    if ls.any (fun l => (s.line l).resv.isSome || !(s.line l).pins.isEmpty) then
      s.atWall (s.wall.toNat + 16) (.peerCommit port cells)
    else (s.disown 32 ls).commitCells cells (s.commitStamp ls 0)

end Sys2Proof.Machine
end

