-- ==== Sys2Proof/Machine/Publish.lean ====
section
/-! DEFINITION. Transfer steps from their fill to their completion (spec/09_transfer_steps.md R204 to R216; spec/
12_memory_consistency.md R265, R280; spec/16_fabric.md R329): shadows, publishes, landings, reductions and tokens. -/

namespace Sys2Proof.Machine

/-! ## Cells of a shadow -/

/-- The destination bytes of a filled step, in the order e, with their targets. -/
def XStep.cells (x : XStep) : List (Target × Byte) := (x.targets.flatMap (fun p => p.2)).zip x.result.1

/-- Those that go to physical memory. -/
def XStep.lineCells (x : XStep) : List (Nat × Byte) :=
  x.cells.filterMap (fun c => if c.1.window.isNone then some (c.1.addr, c.2) else none)

/-- Those that go to a window of channel `n`. -/
def XStep.windowCells (x : XStep) (n : Nat) : List (Nat × Byte) :=
  x.cells.filterMap (fun c => if c.1.window = some n then some (c.1.addr, c.2) else none)

/-- The channels whose windows a step writes. -/
def XStep.channels (x : XStep) : List Nat :=
  x.cells.foldl (fun cs c =>
    match c.1.window with
    | none => cs
    | some n => insertNat n cs) []

/-! ## Deferred steps (R206) -/

/-- The shadow may publish: it is filled, nothing of it has failed, and its tile is claimed (R214, R217). -/
def XStep.ready (x : XStep) : Bool :=
  x.stage == .filled && x.bad.isEmpty &&
    (match x.dest with
     | .spad _ (some _) => x.claimed
     | .spad _ none | .nothing | .global | .reduce _ _ | .tileReg _ | .shapeSlot _ | .scaleQueue | .mailbox _ | .cores =>
       true)

/-- The deferred steps that an `xpub` publishes: those its task issued before it that no earlier `xpub` takes. -/
def Core.pubMembers (c : Core) (x : XStep) : List XStep :=
  c.xfr.steps.filter (fun y => y.slot == x.slot && y.dfr && decide (y.id < x.id) &&
    !c.xfr.steps.any (fun p => p.isPub && p.slot == x.slot && decide (y.id < p.id) && decide (p.id < x.id)))

/-- An `xpub` may publish: its own members are ready, and every other deferred step before it has filled its shadow. -/
def Core.pubReady (c : Core) (x : XStep) : Bool :=
  x.isPub && x.stage == .working && (c.pubMembers x).all XStep.ready &&
    c.xfr.steps.all (fun y => !(y.slot == x.slot && y.dfr && decide (y.id < x.id)) || (y.stage != .working && y.stage != .parked))

/-- What one publish makes visible: the members of an `xpub`, or the step itself. -/
def Core.members (c : Core) (x : XStep) : List XStep := if x.isPub then c.pubMembers x else [x]

/-- The `xpub`s of a core whose shadows are all filled go to their publish, the oldest first. -/
def State.tryPubs (s : State) (k : Nat) : State :=
  let c := s.core k
  let xs := c.xfr.steps.filter c.pubReady
  (xs.foldl (fun s x => s.setStep k { x with stage := .filled }) s).soon
    (xs.map (fun x => .event (engAt k .transfer) (.publishReserve k x.id)))

/-- A step's publish begins, when its shadow may publish. A deferred step's fill lets every `xpub` go that waited for it. -/
def State.beginPublish (s : State) (k : Nat) (x : XStep) : State :=
  if x.dfr then s.tryPubs k
  else if !x.ready then s
  else
    match x.dest with
    | .spad _ _ => s.now (engAt k .transfer) (.scratchpadPublish k x.id)
    | .global => s.now (engAt k .transfer) (.publishReserve k x.id)
    | .nothing | .reduce _ _ | .tileReg _ | .shapeSlot _ | .scaleQueue | .mailbox _ | .cores => s

/-! ## Effects at the fill that need no line (R201, R210 to R212) -/

/-- The cells of a tile register from packed elements: cells outside the written ones are 0 (R210). -/
def tileCells (n : Nat) (rows : List (List Nat)) : Memory :=
  (rows.zipIdx.flatMap (fun r => Memory.cells (32768 * n + 256 * r.2) (r.1.flatMap (fun v => leBytes 2 v))))

/-- A tile register written whole. Elements beyond its 128 rows and columns, which R20 gives no place, are dropped (DESIGN CHOICE,
log 141). -/
def Core.writeTile (c : Core) (n : Nat) (rows : List (List Nat)) : Core :=
  { c with tiles := c.tiles.filter (fun x => x.1 < 32768 * n) ++
      (tileCells n ((rows.take 128).map (fun r => r.take 128)) ++ c.tiles.filter (fun x => 32768 * (n + 1) ≤ x.1)) }

/-- The step's own end is due now. -/
def State.endStep (s : State) (k id : Nat) : State := s.now (engAt k .transfer) (.stepComplete k id)

/-- A fault of a step at its end: 0x09 of a mailbox it may not write, which is a write, or 0x0A of a slot line, which is
read (R201, R212). -/
def State.stepFault (s : State) (k : Nat) (x : XStep) (cause addr : Nat) : State :=
  s.stepFails k x (s.badNow k cause 0 (if cause = 0x0A then 0 else 1) addr)

/-- The packet of an `xsend` is written to its mailbox, once there is room (R212). A page of the area that is not present parks the
step, as a sector's (R217). -/
def State.sendPacket (s : State) (k : Nat) (x : XStep) (m : Nat) : State :=
  let n := x.bytes
  let later : State := s.atTick (engAt k .transfer) (s.tickOf k + 1) (.shadowFilled k x.id)
  if !(s.mbox m).writable (s.core k).part then s.stepFault k x 0x09 0
  else if !(s.mbox m).room n then later
  else
    match s.packetCells (s.mbox m) x.got with
    | .error (f, addr) => s.stepFails k x (s.badNow k f.cause f.why 1 addr)
    | .ok cells =>
      match s.linesSay k (some x.id) (linesOf cells) with
      | .refused => s.atTick (engAt k .transfer) (s.tickOf k + 16) (.shadowFilled k x.id)
      | .reserved => later
      | .free =>
        let (s1, st) := s.putPacket m cells n x.stamp
        ((s1.setStep k { x with stage := .committed, stamp := st }).linesTravel k (linesOf cells) true).endStep k x.id

/-- The lines of a reduction, each once, in increasing order. -/
def XStep.redLines (x : XStep) : List Nat := targetLines (x.targets.flatMap (fun p => p.2))

/-- SHADOW_FILLED (R206, R283): the last sector is in the shadow. A core that is saved or switched out goes on when it is
back (R218). -/
def State.shadowFilled (s : State) (k : Nat) (x : XStep) : State :=
  let tick := s.tickOf k
  if (s.core k).run ≠ .running then s.atTick (engAt k .transfer) (tick + 1) (.shadowFilled k x.id)
  else if x.isPub then s.tryPubs k
  else
    let x1 : XStep := { x with stage := .filled, flags := x.result.2 }
    match x.dest with
    | .spad _ _ | .global => (s.setStep k x1).beginPublish k x1
    | .tileReg n =>
      (s.setCore k (((s.core k).writeTile n.val x.elems.1).setStep { x1 with stage := .committed })).endStep k x.id
    | .shapeSlot n =>
      let v := BitVec.ofNat 512 (leNat x.got)
      if slotLegal v then
        let c := s.core k
        (s.setCore k { c with sh := vset c.sh n v }).endStep k x.id
      else s.stepFault k x 0x0A 0
    | .scaleQueue =>
      let c := s.core k
      (s.setCore k { c with scaleQ := c.scaleQ ++ x.got }).endStep k x.id
    | .mailbox m => s.sendPacket k x m
    | .reduce _ _ =>
      let ls := x.redLines
      (s.setStep k { x with stage := .filled, lines := ls }).soon
        (ls.map (fun l => .event (engAt k .transfer) (.xredLineApply k x.id l)))
    | .nothing | .cores => s

/-- SHADOW_FILLED. -/
def execShadowFilled (s : State) : Res :=
  match s.ev with
  | .shadowFilled k id =>
    match (s.core k).xstep? id with
    | none => .next s
    | some x => .next (s.shadowFilled k x)
  | _ => .next s

/-! ## Tiles (R214) -/

/-- The oldest queued fill of a tile. -/
def Core.oldestFill (c : Core) (t : TtReg) : Option XStep :=
  c.xfr.steps.find? (fun x => !x.claimed &&
    (match x.dest with
     | .spad _ (some u) => u == t
     | .spad _ none | .nothing | .global | .reduce _ _ | .tileReg _ | .shapeSlot _ | .scaleQueue | .mailbox _ | .cores =>
       false))

/-- TILE_CLAIM (R214): an empty tile goes to its oldest queued fill, whose shadow may now publish. -/
def execTileClaim (s : State) : Res :=
  match s.ev with
  | .tileClaim k t =>
    let c := s.core k
    let e := vget c.tt t
    match c.oldestFill t with
    | none => .next s
    | some x =>
      if e.st = .empty then
        let x1 : XStep := { x with claimed := true }
        let c1 := { c.setStep x1 with tt := vset c.tt t { e with st := .filling, fq := e.fq - 1 } }
        .next ((s.setCore k c1).beginPublish k x1)
      else .next s
  | _ => .next s

/-! ## Publishes into scratchpad (R204, R265) -/

/-- A shadow published into scratchpad at this tick: its bytes are read from the next tick on, and its granules are busy to
the last tick of the copy. A filled tile becomes ready. -/
def Core.publishSpad (c : Core) (tick : Nat) (x : XStep) : Core :=
  match x.dst, x.dest with
  | .spad a, .spad b tile =>
    let n := x.bytes
    let c1 := c.spWrite .transfer a x.result.1
    let tt := match tile with
      | none => c1.tt
      | some t => vset c1.tt t { vget c1.tt t with st := .ready }
    { c1.setStep { x with stage := .committed, dest := .spad b none } with
      tt := tt, spBusy := c1.spBusy ++ [(a, n, tick + ceilDiv n 512 - 1)] }
  | _, _ => c

/-- Bytes that the matrix engine has still to write lie in a granule of the bytes [a, a + n): an access admitted before a copy
completes before the copy begins (R265). -/
def Core.writesIn (c : Core) (a n : Nat) : Bool :=
  c.mat.writes.any (fun w => overlap (a / 256 * 256) ((a + n + 255) / 256 * 256 - a / 256 * 256) w.2.1 w.2.2.length)

/-- The same of a step's destination. -/
def Core.landingIn (c : Core) (x : XStep) : Bool :=
  match x.dst with
  | .spad a => c.writesIn a x.bytes
  | .none | .shape _ _ | .rows _ _ _ _ | .line _ => false

/-- SCRATCHPAD_PUBLISH (R265, R283): the step completes in its publish tick, in which the copy starts. -/
def execScratchpadPublish (s : State) : Res :=
  match s.ev with
  | .scratchpadPublish k id =>
    match (s.core k).xstep? id with
    | none => .next s
    | some x =>
      if x.ready && !x.dfr && (s.core k).landingIn x then
        .next (s.atTick (engAt k .transfer) (s.tickOf k + 1) (.scratchpadPublish k id))
      else if x.ready && !x.dfr then
        .next ((s.setCore k ((s.core k).publishSpad (s.tickOf k) x)).endStep k id)
      else .next s
  | _ => .next s

/-! ## Publishes to global memory (R280, R206, R329, R332) -/

/-- The lines that a publish writes. -/
def State.publishLines (s : State) (k : Nat) (x : XStep) : List Nat :=
  ((s.core k).members x).foldl (fun ls y => (linesOf y.lineCells).foldl (fun ls l => insertNat l ls) ls) []

/-- Lines reserved for a step (R280). -/
def State.reserveLines (s : State) (k id : Nat) (ls : List Nat) : State :=
  ls.foldl (fun s l => s.setLine l { s.line l with resv := some (k, id) }) s

/-- The commit flits of R332: flit j is head at the issuing die's router in cycle 2(T + F + j) + 8, where T + F is this
tick. -/
def State.commitFlits (s : State) (k : Nat) (x : XStep) (goal : Nat) : State :=
  let n := ceilDiv x.bytes 256
  let hs := (homeStation (x.lines.headD 0 * 64)).2
  s.send (dieOf k) (s.physOf k) goal hs 1 (s.core k).part x.bytes (fun j => 2 * j) []
    (fun j => .commit k x.id j (decide (j + 1 = n))) true

/-- Lines reserved for a step one after the other, in increasing address, until one refuses or waits (R280). -/
def State.reserveRising (s : State) (k id : Nat) : List Nat → State × LinesSay
  | [] => (s, .free)
  | l :: rest =>
    match s.linesSay k (some id) [l] with
    | .free => ((s.disown (dieOf k) [l]).reserveLines k id [l]).reserveRising k id rest
    | .refused => (s, .refused)
    | .reserved => (s, .reserved)

/-- PUBLISH_RESERVE (R280): the lines are reserved in increasing address; a pin refuses the request, which is repeated 16 ticks
later (R112, R278), and it waits while another step's reservation stands. The lines below keep their reservations meanwhile. -/
def execPublishReserve (s : State) : Res :=
  match s.ev with
  | .publishReserve k id =>
    match (s.core k).xstep? id with
    | none => .next s
    | some x =>
      let ls := s.publishLines k x
      let again (s : State) (n : Nat) : State := s.atTick (engAt k .transfer) (s.tickOf k + n) (.publishReserve k id)
      if (x.stage ≠ .filled ∧ x.stage ≠ .reserving) ∨ !x.bad.isEmpty then .next s
      else if (s.core k).run ≠ .running ∨ ((s.core k).members x).any (s.core k).landingIn then .next (again s 1)
      else
        let (s1, say) := s.reserveRising k id ls
        let part := ls.any (fun l => (s1.line l).resv == some (k, id))
        let s2 := if say = .free ∨ part then s1.setStep k { x with stage := .reserving, lines := ls } else s1
        match say with
        | .refused => .next (again s2 16)
        | .reserved => .next (again s2 1)
        | .free =>
          match s.flitHome k x with
          | some d => .next (s2.commitFlits k x d)
          | none => .next ((s2.linesTravel k ls true).now (engAt k .transfer) (.publishCommit k id))
  | _ => .next s

/-- The bytes of a step's windows cross their ports. -/
def State.sendWindows (s : State) (k : Nat) (x : XStep) : State :=
  x.channels.foldl (fun s c => s.postWindow c k x.id (x.windowCells c)) s

/-- One member of a publish, after its lines are committed at stamp `st`: its scratchpad bytes, its windows, and its
completion. A step with windows completes on the peer's acknowledgement. -/
def State.memberDone (s : State) (k : Nat) (st : Nat) (x : XStep) : State :=
  let tick := s.tickOf k
  match x.dest with
  | .spad _ _ => (s.setCore k ((s.core k).publishSpad tick { x with stamp := Nat.max x.stamp st }))
  | .global =>
    let s1 := (s.setStep k { x with stage := .committed, stamp := st, lines := [] }).sendWindows k x
    s1
  | .nothing | .reduce _ _ | .tileReg _ | .shapeSlot _ | .scaleQueue | .mailbox _ | .cores =>
    s.setStep k { x with stage := .committed, stamp := Nat.max x.stamp st, lines := [] }

/-- The completions of a publish's members, in order; a member with windows waits for its peer. An `xpub` completes after its last
member (R206). -/
def State.endMembers (s : State) (k : Nat) (xs : List XStep) : State :=
  s.soon ((xs.filter (fun x => !x.windowed)).map (fun x => .event (engAt k .transfer) (.stepComplete k x.id)))

/-- PUBLISH_COMMIT (R280, R206): all lines are written at one stamp, their reservations end, and the step completes: at C in
fixed-latency mode, with the acknowledgement in elastic mode. -/
def State.publishCommit (s : State) (k : Nat) (x : XStep) : State :=
  let ms := (s.core k).members x
  let ts := ms.foldl (fun n y => Nat.max n y.stamp) x.stamp
  let st := s.commitStamp x.lines ts
  let cells := ms.flatMap XStep.lineCells
  let s1 := s.commitCells cells st
  let s2 := if x.isPub then s1.setStep k { x with stage := .committed, stamp := st, lines := [] } else s1
  let s3 := ms.foldl (fun s y => s.memberDone k st y) s2
  match s.flitHome k x with
  | some d =>
    let p := (s.core k).part
    (s3.ringWays p (ringHops 2 d (homeStation (x.lines.headD 0 * 64)).2 (dieOf k) (s.physOf k) 8)).injectAt d (dieOf k) 2 s3.meshCyc p
      (.commitAck k x.id) none
  | none => if x.isPub ∧ ms = [] then s3.endStep k x.id else s3.endMembers k ms

/-- PUBLISH_COMMIT. -/
def execPublishCommit (s : State) : Res :=
  match s.ev with
  | .publishCommit k id =>
    match (s.core k).xstep? id with
    | none => .next s
    | some x => .next (if x.stage = .reserving then s.publishCommit k x else s)
  | _ => .next s

/-- PORT_WINDOW_COMMIT (R329): the peer's acknowledgement completes the step, in fixed-latency mode no earlier than its padded
time, or its refusal is fault 0x09. As a peer, this package commits a step of another one. -/
def execPortWindowCommit (s : State) : Res :=
  match s.ev with
  | .portWindowCommit k id accepted =>
    match (s.core k).xstep? id with
    | none => .next s
    | some x =>
      if x.stage ≠ .committed ∨ !x.windowed then .next s
      else if !accepted then .next ((s.peerAnswered k id).stepFault k x 0x09 0)
      else if (s.part (s.core k).part).fl ∧ s.tickOf k < x.done then .next ((s.peerAnswered k id).atTick (engAt k .transfer) x.done (.stepComplete k id))
      else .next ((s.peerAnswered k id).endStep k id)
  | .peerCommit port cells => .next (s.peerCommit port cells)
  | _ => .next s

/-! ## Reductions (R209) -/

/-- The new value of an element of `xred`: the memory word is the first operand (R110, R59). -/
def redValue (op : RedOp) (signed : Bool) (old v : Nat) : Nat :=
  let pickv (mx : Bool) : Nat :=
    let a := if signed then signedOf 32 old else (old : Int)
    let b := if signed then signedOf 32 v else (v : Int)
    if (if mx then decide (a < b) else decide (b < a)) then v else old
  match op with
  | .add => (old + v) % 2 ^ 32
  | .fadd => fadd32 old v
  | .max => pickv true
  | .min => pickv false

/-- The elements of a reduction: physical address and source encoding. -/
def XStep.redElems (x : XStep) : List (Nat × Nat) :=
  let addrs := (x.targets.flatMap (fun p => p.2)).zipIdx.filterMap (fun t => if t.2 % 4 = 0 then some t.1.addr else none)
  addrs.zip (x.elems.1.flatten)

/-- XRED_LINE_APPLY (R209): a line's elements are reduced at one point; a pin refuses it and a reservation delays it. -/
def State.redLine (s : State) (k : Nat) (x : XStep) (l : Nat) : State :=
  let again (n : Nat) : State := s.atTick (engAt k .transfer) (s.tickOf k + n) (.xredLineApply k x.id l)
  match x.dest with
  | .reduce op signed =>
    if !x.lines.contains l then s
    else
      match s.linesSay k (some x.id) [l] with
      | .refused => again 16
      | .reserved => again 1
      | .free =>
        let mine := x.redElems.filter (fun e => lineOf e.1 == l)
        let s0 := s.disown (dieOf k) [l]
        let st := s0.commitStamp [l] x.stamp
        let s1 := mine.foldl (fun (s : State) e =>
          s.commitCells ((leBytes 4 (redValue op signed (leNat (s.physLoad e.1 4)) e.2)).zipIdx.map
            (fun b => (e.1 + b.2, b.1))) st) s0
        let x1 : XStep := { x with lines := x.lines.erase l, stamp := Nat.max x.stamp st }
        let s2 := (s1.setStep k (if x1.lines = [] then { x1 with stage := .committed } else x1)).exchange k (l * 64) 1 (4 * mine.length) 8
        if x1.lines = [] then s2.endStep k x.id else s2
  | .nothing | .spad _ _ | .global | .tileReg _ | .shapeSlot _ | .scaleQueue | .mailbox _ | .cores => s

/-- XRED_LINE_APPLY. -/
def execXredLineApply (s : State) : Res :=
  match s.ev with
  | .xredLineApply k id l =>
    match (s.core k).xstep? id with
    | none => .next s
    | some x => .next (s.redLine k x l)
  | _ => .next s

/-! ## Landings (R216, R292) -/

/-- The 256-byte piece from a scratchpad byte meets a granule in use. -/
def Core.granuleUsed (c : Core) (a : Nat) : Bool := c.inUse.getLsbD (a / 256) || c.inUse.getLsbD ((a + 255) / 256)

/-- The granules of a multicast land on core `t`: those in use are dropped, the others published together. -/
def Core.land (c : Core) (tick a : Nat) (bs : List Byte) : Core × Option Nat :=
  let pcs := (pieces 256 bs).zipIdx.map (fun p => (a + 256 * p.2, p.1))
  let (bad, good) := pcs.partition (fun p => c.granuleUsed p.1)
  let c1 := good.foldl (fun c p => c.spWrite .transfer p.1 p.2) c
  let last := tick + ceilDiv (256 * good.length) 512 - 1
  ({ c1 with spBusy := c1.spBusy ++ good.map (fun p => (p.1, 256, last)) }, bad.head?.map (fun p => p.1))

/-- The earlier of two dropped granules, in increasing core, then address. -/
def firstDrop (a b : Option Nat) : Option Nat :=
  match a, b with
  | none, x => x
  | x, none => x
  | some x, some y => some (Nat.min x y)

/-- MULTICAST_LANDING (R216): it waits for what the matrix engine has still to write to its granules (R265). After the last target the step completes, or its task takes fault 0x0D if a granule was
dropped. A target that is not running holds the landing (R292). -/
def State.landing (s : State) (k id t : Nat) : State :=
  match (s.core k).xstep? id with
  | none => s
  | some x =>
    if (s.core t).run ≠ .running then s.holdDelivery t (.landing k id)
    else
      match x.src with
      | .spad a =>
        if (s.core t).writesIn a x.got.length then
          s.atTick (engAt k .transfer) (s.tickOf k + 1) (.multicastLanding k id t)
        else
        let (c1, drop) := (s.core t).land (s.tickOf t) a x.got
        let s1 := s.setCore t c1
        let x1 : XStep := { x with
          waiting := x.waiting.erase t, dropped := firstDrop x.dropped (drop.map (fun b => t * 2 ^ 21 + b)) }
        let s2 := s1.setStep k x1
        if x1.waiting ≠ [] then s2
        else
          match x1.dropped with
          | none => s2.endStep k id
          | some b => s2.stepFails k x1 (s2.badNow k 0x0D 0 1 (b % 2 ^ 21))
      | .none | .shape _ _ | .rows _ _ _ _ | .line _ => s

/-- MULTICAST_LANDING. -/
def execMulticastLanding (s : State) : Res :=
  match s.ev with
  | .multicastLanding k id t => .next (s.landing k id t)
  | _ => .next s

/-! ## Completion (R199, R53, R276) -/

/-- The state of a core after a step has left its unit: a drained tile is empty. -/
def Core.stepOver (c : Core) (x : XStep) : Core :=
  let tt :=
    match x.source, x.drain with
    | some t, true => vset c.tt t { vget c.tt t with st := .empty }
    | _, _ => c.tt
  { c with tt := tt, xfr := { c.xfr with steps := c.xfr.steps.filter (fun y => y.id != x.id) } }

/-- The `xpub` whose last member has left its unit. -/
def Core.pubOver (c : Core) (x : XStep) : Option XStep :=
  if x.dfr then
    c.xfr.steps.find? (fun p => p.isPub && p.stage == .committed && p.slot == x.slot && decide (x.id < p.id) &&
      (c.pubMembers p).isEmpty)
  else none

/-- STEP_COMPLETE (R199): the step leaves flight, its flags merge (R53), and its token's count falls. -/
def State.stepComplete (s : State) (k : Nat) (x : XStep) : State :=
  if (s.core k).run ≠ .running then s.atTick (engAt k .transfer) (s.tickOf k + 1) (.stepComplete k x.id)
  else
    let tick := s.tickOf k
    let c := (s.core k).stepOver x
    let t := (c.task x.slot).mergeFlags tick x.flags
    let t1 := { t with doneStamp := Nat.max t.doneStamp x.stamp }
    let t2 := match x.tok with
      | none => t1
      | some n => t1.settleToken n x.stamp tick
    let s1 := s.setCore k (c.setTask x.slot t2)
    let s2 := match c.pubOver x with
      | none => s1
      | some p => s1.endStep k p.id
    match x.source, x.drain with
    | some t, true => s2.now (engAt k .transfer) (.tileClaim k t)
    | _, _ => s2

/-- STEP_COMPLETE. -/
def execStepComplete (s : State) : Res :=
  match s.ev with
  | .stepComplete k id =>
    match (s.core k).xstep? id with
    | none => .next s
    | some x => .next (s.stepComplete k x)
  | _ => .next s

/-! ## The end of a run (R62, R154, R196, R206, R213, R237) -/

/-- The deferred steps of a run that ends are published as by a final `xpub`. -/
def State.finalPub (s : State) (k : Nat) : State :=
  let c := s.core k
  let r := c.runOf .transfer
  let h : XHdr := { k := 0, kv := false, wm := 0 }
  let x := ({ s with cur := engAt k .transfer } : State).newStep .transfer (.xpub h) h
  if c.openDeferred r.owner then
    (s.setCore k { c with xfr := { steps := c.xfr.steps ++ [x], nextId := c.xfr.nextId + 1 } }).now (engAt k .transfer)
      (.shadowFilled k x.id)
  else s

/-- RUN_END: the engine is idle again; a transfer run leaves its deferred steps to a final publish. -/
def execRunEnd (s : State) : Res :=
  match s.ev with
  | .runEnd k e =>
    let s1 := if e = .transfer then s.finalPub k else s
    .next (s1.setCore k ((s1.core k).finishRun e (s1.tickOf k)))
  | _ => .next s

end Sys2Proof.Machine
end

