-- ==== Sys2Proof/Machine/Preempt.lean ====
section
/-! DEFINITION. Stopped tasks and fault queues (spec/19_faults_translation.md R336, R337), partition faults with their reset
(R340 to R342), saves and restores through the Hatbox (R343 to R348), and cores that share a physical core
(spec/14_scheduling.md R291 to R294). -/

namespace Sys2Proof.Machine

open Sys2Proof

/-- A command that names something the package does not have. -/
def noObject : Res := .fault .noSuchObject

/-- A notice to the system cores. -/
def State.notify (s : State) (n : Notice) : State :=
  { s with endpoint := { s.endpoint with notices := s.endpoint.notices ++ [n] } }

/-- A command that package management refuses: nothing changes but the notice. -/
def State.refuse (s : State) : State := s.notify .refused

/-! ## Stopped tasks (R130, R337) -/

/-- TASK_RESUME (R130, R337). A task that is not stopped is not resumed. -/
def execTaskResume (s : State) : Res :=
  match s.ev with
  | .taskResume r how => if r.core < 2048 then .next (s.resume r how) else noObject
  | _ => .next s

/-- The fault with which the system cores may end a task: the one that stopped it, or the page fault of a step of it that is
parked (R217, R337). -/
def State.endCause (s : State) (r : TaskRef) : Option FaultInfo :=
  let t := s.taskOf r
  match t.hold, (s.core r.core).xfr.steps.find? (fun x => x.slot == r.slot && x.stage == .parked) with
  | .stopped cause, _ => some (FaultInfo.plain cause 0 t.pc.toNat)
  | .ending _, _ => none
  | _, some x => (x.dueBad (s.tickOf r.core)).map x.fault
  | _, none => none

/-- TASK_END (R217, R337): a stopped task ends with its cause, one with a parked step with 0x08. -/
def execTaskEnd (s : State) : Res :=
  match s.ev with
  | .taskEnd r => .next (if (s.taskOf r).pendRecs = [] ∧ (s.endCause r).isSome then s.endTask r (s.endCause r) else s)
  | _ => .next s

/-- The records of a partition's tasks that wait for room, in increasing core, then slot. -/
def State.waitingRecords (s : State) (p : Nat) : List (TaskRef × FaultRec) :=
  (s.part p).cores.flatMap (fun k => (List.finRange 4).flatMap (fun i =>
    ((s.core k).task i).pendRecs.map (fun x => ({ core := k, slot := i }, x))))

/-- A record that waited is appended, and its task goes on as R337 gives: it ends, stays stopped, or, its step being
parked, continues. -/
def State.releaseRecord (s : State) (p : Nat) (r : TaskRef) (x : FaultRec) : State :=
  let s1 := (s.appendRecord p x).setTaskOf r { s.taskOf r with pendRecs := (s.taskOf r).pendRecs.drop 1 }
  if x.res then s1 else s1.endTask r (some (FaultInfo.plain x.cause.toNat x.unit.toNat x.loc.toNat))

/-- FAULT_RECORD_REMOVE (R336): the oldest record goes, and a record that waited for room enters. -/
def execFaultRecordRemove (s : State) : Res :=
  match s.ev with
  | .faultRecordRemove p =>
    if 64 ≤ p then noObject
    else
      let s1 := s.setPart p { s.part p with records := (s.part p).records.drop 1 }
      match s1.waitingRecords p with
      | [] =>
        match (s1.part p).waiting with
        | [] => .next s1
        | x :: rest =>
          .next (if (s1.part p).hasRoom 2 then s1.setPart p { s1.part p with
            records := (s1.part p).records ++ [x], waiting := rest } else s1)
      | (r, x) :: _ => .next (if (s1.part p).hasRoom 0 then s1.releaseRecord p r x else s1)
  | _ => .next s

/-! ## Partition faults (R340, R341) -/

/-- A die's Hatbox set. -/
def Die.hat (d : Die) (set : Bool) : Tbl HatSlot := if set then d.hat1 else d.hat0

/-- The die with a Hatbox set replaced. -/
def Die.setHat (d : Die) (set : Bool) (h : Tbl HatSlot) : Die := if set then { d with hat1 := h } else { d with hat0 := h }

/-- An uncorrectable error lies in a Hatbox slot, or in what the shadow reserve holds with it: a restore will find it (R347,
R364). -/
def State.hatboxError (s : State) (d : Nat) (set : Bool) (core : Nat) : State :=
  let die := s.die d
  match Tbl.get? (die.hat set) core with
  | none => s
  | some h => s.setDie d (die.setHat set (Tbl.set (die.hat set) core { h with sound := false }))

/-- UNCORRECTABLE_MEMORY_ERROR (R334, R340, R364): fault 0x41 of the partition whose access met it; in the Hatbox it is reported at
the restore. -/
def execUncorrectableMemoryError (s : State) : Res :=
  match s.ev with
  | .uncorrectableMemoryError p (.phys pa) => if 64 ≤ p then noObject else .next (s.partFault p 0x41 0 pa)
  | .uncorrectableMemoryError _ (.hatbox d set core) =>
    if 32 ≤ d ∨ 64 ≤ core then noObject else .next (s.hatboxError d set core)
  | _ => .next s

/-- A core of a partition at its reset values (R13, R29). Of two doubled cores the one with the lower number has the
physical core first. Step numbers go on, so that a late acknowledgement finds no step (R341). -/
def State.freshCore (s : State) (p k : Nat) : Core :=
  { Core.reset with
    part := p
    xfr := { steps := [], nextId := (s.core k).xfr.nextId }
    run := match s.partnerOf k with
      | none => .running
      | some m => if m < k then .switchedOut else .running }

/-- A flit that carries a push: it serves copies of every partition on its die. -/
def FlitKind.isPush (k : FlitKind) : Bool :=
  match k with
  | .carries _ (.leasePush _ _ _ _ _ _) => true
  | _ => false

/-- The requests that are still on their way, and what waits for a tick of the partition, are discarded (R341). -/
def State.discardTraffic (s : State) (p : Nat) : State :=
  let ks := (s.part p).cores
  let mine (r : Nat) : Bool := ks.contains r
  let die (d : Die) : Die :=
    { d with slots := d.slots.filter (fun e => e.2.part != p), queues := d.queues.filter (fun x => x.part != p),
             flits := d.flits.filter (fun f => f.part != p || f.kind.isPush), rows := d.rows.filter (fun r => r.part != p),
             walks := d.walks.filter (fun w => w.part != p) }
  let line (x : Line) : Line :=
    { x with caches := x.caches.filter (fun k => !mine k), pins := x.pins.filter (fun r => !mine r.core),
             resv := match x.resv with
               | none => none
               | some (k, id) => if mine k then none else some (k, id) }
  { s with
    dies := s.dies.map (fun e => (e.1, die e.2))
    lines := s.lines.map (fun e => (e.1, line e.2))
    slices := s.slices.map (fun e => (e.1, { e.2 with copies := e.2.copies.map (fun c =>
      (c.1, { c.2 with caches := c.2.caches.filter (fun k => !mine k) })) }))
    timers := s.timers.filter (fun t => t.clock != some p)
    streams := (ks.foldl (fun ss k => Tbl.erase ss (streamKey (s.seqStream k))) s.streams).map (fun e =>
      (e.1, { e.2 with msgs := e.2.msgs.filter (fun m => m.part != p) })) }

/-- The partition's cores take their reset values, and its images and translations go (R340, step 3). -/
def State.clearPart (s : State) (p : Nat) : State :=
  let s1 := (s.part p).cores.foldl (fun s k => s.setCore k (s.freshCore p k)) s
  let keep (h : Tbl HatSlot) : Tbl HatSlot := h.filter (fun e => e.2.part.toNat != p)
  { s1 with dies := s1.dies.map (fun e =>
      (e.1, { e.2 with hat0 := keep e.2.hat0, hat1 := keep e.2.hat1, tlb := e.2.tlb.filter (fun x => x.part != p),
                       pickTlb := e.2.pickTlb.filter (fun x => x.part != p) })) }

/-- PARTITION_RESET (R340, steps 2 and 3): the drain and the clear of a stopped partition. -/
def execPartitionReset (s : State) : Res :=
  match s.ev with
  | .partitionReset p =>
    match (s.part p).draining with
    | none => .next s
    | some _ => .next ((s.discardTraffic p).clearPart p)
  | _ => .next s

/-- A mailbox after a partition reset (R300). -/
def Mbox.reopen (m : Mbox) : Mbox :=
  { m with fo := m.wo, fl := m.wl, ro := m.wo, rl := m.wl, pkts := [], wrote := [], st := if m.st = 2 then 1 else m.st }

/-- The lines of a section that a code cache of `n` lines holds after a fill from its start (R266). -/
def sectionLines (s : State) (x : Section) (n : Nat) : List CLine :=
  (List.range (Nat.min n (ceilDiv (x.base % 64 + 4 * x.len) 64))).map (fun i =>
    let va := x.base / 64 * 64 + 64 * i
    let pa := match x.pas.find? (fun p => p.1 == va / 65536) with
      | none => va
      | some (_, q) => q * 65536 + va % 65536
    { line := va / 64, data := BitVec.ofNat 512 (leNat (s.physLoad pa 64)), pin := false })

/-- The code caches of a core are invalidated and filled from the loaded image, and every cache pin goes (R127, R266). -/
def State.fillCaches (s : State) (p k : Nat) : State :=
  match (s.part p).image with
  | none => s
  | some img =>
    let c := s.core k
    s.setCore k { c with
      dcache := c.dcache.map (fun d => { d with pin := false })
      bypass := Vector.replicate 5 none
      icaches := Vector.ofFn (fun i : Fin 5 => sectionLines s (vget img.sections i) (if i.val = 0 then 512 else 256)) }

/-- The code caches of every core of a partition are filled. -/
def State.fillAllCaches (s : State) (p : Nat) : State := (s.part p).cores.foldl (fun s k => s.fillCaches p k) s

/-- Unit of a partition-class record: the fabric for memory, link and ring faults, package management otherwise
(DEDUCED, log 41). -/
def partUnit (cause : Nat) : Nat := if 0x41 ≤ cause ∧ cause ≤ 0x43 then 6 else 7

/-- The record of a partition-class fault (R336). -/
def partRecord (p : Nat) (d : Drain) : FaultRec where
  cause := BitVec.ofNat 8 d.cause
  unit := BitVec.ofNat 3 (partUnit d.cause)
  cls := 1
  res := false
  who := 0
  acc := 0
  why := 0
  mbox := d.mbox
  loc := 0
  addr := BitVec.ofNat 64 d.addr
  sect := 0
  code := 0
  part := BitVec.ofNat 6 p

/-- PARTITION_REOPEN (R340, step 4): the tick restarts, the mailboxes are reset, the code caches filled, and the record is
appended. A swap in progress has failed (R342). -/
def execPartitionReopen (s : State) : Res :=
  match s.ev with
  | .partitionReopen p =>
    let q := s.part p
    match q.draining with
    | none => .next s
    | some d =>
      let rec_ := if q.hasRoom 1 then q.records ++ [partRecord p d] else q.records
      let swap := if q.swap.st = 1 then { q.swap with st := 3 } else q.swap
      let s1 := s.setPart p { q with tick := 0, draining := none, frozen := false, records := rec_, swap := swap, iop := 0 }
      let reopened (m : Mbox) : Mbox := if m.part.toNat = p then m.reopen else m
      let s2 : State := { s1 with mboxes := s1.mboxes.map (fun (e : Nat × Mbox) => (e.1, reopened e.2)) }
      .next ((s2.fillAllCaches p).notify (.partitionReset p d.cause))
  | _ => .next s

/-! ## Saving a core (R344 to R346, R128, R174, R218) -/

/-- The safe-map record of the `safe` at which a saved slot stands: the one before its pc, or before the `at` it has
issued. -/
def State.standRec (s : State) (k : Nat) (i : Fin 4) : Option SafeRec :=
  let w := (((s.core k).task i).pc.toNat - s.sectionBase k .seq) / 4
  match (s.part (s.core k).part).image with
  | none => none
  | some img =>
    match img.safes.find? (fun r => r.woff + 1 == w) with
    | some r => some r
    | none => img.safes.find? (fun r => r.woff + 2 == w)

/-- The live state that safe-map masks name together, with the fixed 16 KiB (R255). -/
def liveBytes (rs : List SafeRec) : Nat :=
  let un (f : SafeRec → Nat) : Nat := rs.foldl (fun m r => m ||| f r) 0
  16384 + 4096 * popcount 32 (un (fun r => r.vmask.toNat)) + 32768 * popcount 8 (un (fun r => r.tmask.toNat)) +
    131072 * popcount 16 (un (fun r => r.bmask.toNat)) + 8192 * popcount 64 (un (fun r => r.amask.toNat)) +
    64 * popcount 32 (un (fun r => r.smask.toNat)) + (if rs.any (fun r => r.dir) then 8192 else 0)

/-- Bytes of the image of a core, header included (R255, R346). -/
def State.imageLen (s : State) (k : Nat) : Nat := liveBytes ((s.core k).tasksHere.filterMap (fun i => s.standRec k i))

/-- Ticks of a save or restore of `n` bytes (R346). -/
def swapTicks (fl : Bool) (n : Nat) : Nat := if fl then 1028 else 4 + ceilDiv n 256

/-- The slots that stand at a `safe` take its effect and stand after it (R128). -/
def State.leaveSafes (s : State) (k : Nat) : State :=
  (s.core k).tasksHere.foldl (fun s i =>
    match s.nextWord k i with
    | .word (some (.safe num)) =>
      match (s.part (s.core k).part).image.bind (fun g => g.safes.find? (fun r => r.num == num.toNat)) with
      | none => s
      | some r =>
        if s.atSafe k i then
          let s1 := s.safeEffect k i r
          let c := s1.core k
          s1.setCore k (c.setTask i ((c.task i).advance (s.tickOf k) 0))
        else s
    | _ => s) s

/-- What a save keeps of a core: cache contents, pins and the marks of address tables go (R94, R127, R254). -/
def Core.kept (c : Core) : Core :=
  { c with
    dcache := []
    icaches := Vector.replicate 5 []
    bypass := Vector.replicate 5 none
    l1tlb := []
    tasks := c.tasks.map (fun t => { t with tab := t.tab.map (fun e => { e with v := false }) }) }

/-- The items that any of several live masks names (R255). -/
def liveUnion (rs : List SafeRec) : SafeRec :=
  rs.foldl (fun a r => { a with
    vmask := a.vmask ||| r.vmask, amask := a.amask ||| r.amask, smask := a.smask ||| r.smask, tmask := a.tmask ||| r.tmask
    bmask := a.bmask ||| r.bmask, dir := a.dir || r.dir })
    { woff := 0, num := 0, span := 0, gmask := 0, vmask := 0, amask := 0, smask := 0, tmask := 0, bmask := 0, dir := false }

/-- A save keeps, of the items that masks can name, those that the `safe` words at which the slots stand name: core state by the
union of their masks, each task's g registers by its own (R128 step 3). What none names reads 0 afterwards (DEDUCED, log 130). -/
def State.keepNamedItems (s : State) (k : Nat) : State :=
  match ((s.core k).tasksHere.mapM (fun i => (s.standRec k i).map (fun r => (i, r)))) with
  | none => s
  | some rs =>
    let c := rs.foldl (fun (c : Core) x => c.setTask x.1 ((c.task x.1).clearUnnamed x.2)) (s.core k)
    s.setCore k (c.clearUnnamed (liveUnion (rs.map (fun x => x.2))))

/-- CORE_SAVE (R344): the core stops and its save begins. -/
def State.coreSave (s : State) (k : Nat) : State :=
  let s1 := (s.leaveSafes k).keepNamedItems k
  let c := s1.core k
  let tick := s.tickOf k
  let n := swapTicks (s.part c.part).fl (s1.imageLen k)
  s1.setCore k { c.kept with run := .saving (tick + n), safeNow := none, inSince := tick }

/-- CORE_SAVE. -/
def execCoreSave (s : State) : Res :=
  match s.ev with
  | .coreSave k => .next (if (s.core k).run = .running ∧ s.allStand k ∧ (s.core k).riding = false then s.coreSave k else s)
  | _ => .next s

/-- The image of core `k` as its slot holds it (R345): the timers of the partition that concern the core go with it, those
of no core of the partition with its first core. -/
def State.hatImage (s : State) (k : Nat) : HatSlot :=
  let c := s.core k
  let p := s.part c.part
  let own (t : Timer) : Bool :=
    t.clock == some c.part && (t.who.core == k || (!p.cores.contains t.who.core && p.cores.head? == some k))
  { part := BitVec.ofNat 6 c.part, core := BitVec.ofNat 6 (k % 64), asid := p.asid
    len := BitVec.ofNat 18 (s.imageLen k - 64), tick := p.tick, crc := Config.imageCrc s.fresh
    sound := true, back := false, image := c, timers := s.timers.filter own }

/-- A core as the Hatbox slot of its switch-out gives it: the slot's image, with what has come to the core since, if the system
cores have copied the slot in; otherwise the slot holds what the core's entry does (R10, R345). -/
def HatSlot.core_ (h : HatSlot) (c : Core) : Core :=
  if h.back then
    { h.image with held := c.held, late := c.late, storeQ := c.storeQ, accSeq := c.accSeq, oq := c.oq, run := c.run, part := c.part }
  else c

/-- The core that a switched-out core will be when it comes in. -/
def State.outside (s : State) (k : Nat) : Core :=
  let c := s.core k
  if c.run ≠ .switchedOut then c
  else
    match Tbl.get? (s.die (dieOf k)).hat0 (k % 64) with
    | none => c
    | some h => h.core_ c

/-- A Hatbox slot written. -/
def State.setSlot (s : State) (set : Bool) (k : Nat) (h : HatSlot) : State :=
  let d := s.die (dieOf k)
  s.setDie (dieOf k) (d.setHat set (Tbl.set (d.hat set) (k % 64) h))

/-- The image `c` of core `k` goes into its slot. -/
def State.storeImage (s : State) (set : Bool) (k : Nat) (c : Core) : State :=
  (s.setSlot set k { s.hatImage k with image := c }).bump

/-- A save is complete (R344): the images lie in the Hatbox, the cores hold nothing, and the tick stands still. -/
def State.saveDone (s : State) (p : Nat) : State :=
  let q := s.part p
  let s1 := q.cores.foldl (fun s k => s.storeImage q.swap.set k (s.outside k)) s
  let s2 := q.cores.foldl (fun s k => s.setCore k { s.freshCore p k with run := .saved }) s1
  { s2 with timers := s2.timers.filter (fun t => t.clock != some p) }.setPart p
    { q with frozen := true, swap := { q.swap with st := 2 } }

/-- SWAP_DONE (R344). -/
def execSwapDone (s : State) : Res :=
  match s.ev with
  | .swapDone p =>
    let q := s.part p
    if q.swap.st ≠ 1 then .next s
    else if q.swap.op = 1 then .next (s.saveDone p)
    else .next (s.setPart p { q with swap := { q.swap with st := 2 } })
  | _ => .next s

/-- SWAP_SAVE (R343, R344): the request is marked pending on every core of the partition. -/
def execSwapSave (s : State) : Res :=
  match s.ev with
  | .swapSave p set =>
    let q := s.part p
    if 64 ≤ p then noObject
    else if q.swap.st = 1 then .next s.refuse
    else if !q.valid || q.frozen || q.draining.isSome || (!set && q.cores.any (fun k => (s.partnerOf k).isSome)) then
      .next ((s.setPart p { q with swap := { q.swap with op := 3 } }).refuse)
    else
      let s1 := s.setPart p { q with swap := { op := 1, set := set, st := 1, cause := 0 } }
      .next (q.cores.foldl (fun s k => s.setCore k { s.core k with saveReq := some set }) s1)
  | _ => .next s

/-! ## Restoring (R346 to R348) -/

/-- A partition holds a task, an engine run or a step in flight (R287). -/
def State.partBusy (s : State) (p : Nat) : Bool :=
  (s.part p).cores.any (fun k =>
    let c := s.core k
    !c.tasksHere.isEmpty || !c.xfr.steps.isEmpty ||
      [Engine.vector, Engine.matrix, Engine.transfer, Engine.walker].any (fun e => (c.runOf e).active))

/-- The slot of core `k` may be restored into partition `p` (R347). -/
def HatSlot.fits (h : HatSlot) (p k : Nat) : Bool :=
  h.part.toNat == p && h.core.toNat == k % 64 && decide (h.len.toNat ≤ 262080) && h.sound

/-- The slots of a partition's cores, if every one passes its checks. -/
def State.images (s : State) (p : Nat) (set : Bool) : Option (List (Nat × HatSlot)) :=
  (s.part p).cores.mapM (fun k =>
    match Tbl.get? ((s.die (dieOf k)).hat set) (k % 64) with
    | none => none
    | some h => if h.fits p k then some (k, h) else none)

/-- A core loaded from its image at a tick, to run when its restore is over (R346). What has come to it meanwhile is held behind what
it held before (R292, R344), and its step numbers go on. -/
def HatSlot.loaded (h : HatSlot) (p : Nat) (fl : Bool) (tick : Nat) (c : Core) : Core :=
  { h.image with
    part := p
    run := if h.image.run = .switchedOut then .switchedOut else .entering (tick + swapTicks fl (h.len.toNat + 64))
    held := h.image.held ++ c.held
    late := h.image.late ++ c.late
    xfr := { h.image.xfr with nextId := Nat.max h.image.xfr.nextId c.xfr.nextId }
    saveReq := none, switchReq := false }

/-- One core of a partition is loaded from its image; one that was switched out has its state in its slot of set 0 again. -/
def State.restoreImage (s : State) (p : Nat) (fl : Bool) (h : Nat × HatSlot) : State :=
  let s1 := s.setCore h.1 (h.2.loaded p fl (s.part p).tick (s.core h.1))
  if h.2.image.run = .switchedOut then s1.setSlot false h.1 { h.2 with back := false } else s1

/-- SWAP_RESTORE (R343, R344, R347): every core is loaded, or the partition takes fault 0x44. A core that was switched out when its
partition was saved is so again, its state in its slot of set 0. -/
def execSwapRestore (s : State) : Res :=
  match s.ev with
  | .swapRestore p set =>
    let q := s.part p
    if 64 ≤ p then noObject
    else if q.swap.st = 1 then .next s.refuse
    else if !q.valid || q.draining.isSome || s.partBusy p then
      .next ((s.setPart p { q with swap := { q.swap with op := 3 } }).refuse)
    else
      match s.images p set with
      | none =>
        .next ((s.setPart p { q with swap := { op := 2, set := set, st := 3, cause := 0x44 } }).partFault p 0x44 0 0)
      | some hs =>
        let s1 := s.setPart p { q with
          swap := { op := 2, set := set, st := 1, cause := 0 }, frozen := false
          tick := hs.foldl (fun n h => Nat.max n h.2.tick) q.tick }
        let s2 := hs.foldl (fun s h => s.restoreImage p q.fl h) s1
        .next { s2 with timers := s2.timers ++ hs.flatMap (fun h => h.2.timers) }
  | _ => .next s

/-! ## Shared physical cores (R291 to R294) -/

/-- The slot of set 0 from which core `m` comes in passes the checks of a restore (R347). Only a core that has not run yet may have
none. -/
def State.slotFits (s : State) (m : Nat) : Bool :=
  match Tbl.get? (s.die (dieOf m)).hat0 (m % 64) with
  | none => (s.core m).inSince == 0
  | some h => h.fits (s.core m).part m

/-- TIME_SLICE_SWITCH (R10, R291): core `k` goes out into its slot of set 0 and its partner comes in from its own. A slot that
fails its checks is a context image error (R347). -/
def State.timeSliceSwitch (s : State) (k m : Nat) : State :=
  let s1 := (s.leaveSafes k).keepNamedItems k
  let tick := s.tickOf k
  let p := (s.core k).part
  let n := if (s.part p).fl then 2056 else 8 + ceilDiv (s1.imageLen k) 256 + ceilDiv (s1.imageLen m) 256
  let s2 := s1.setCore k { (s1.core k).kept with run := .switchedOut, switchReq := false, safeNow := none, inSince := tick }
  let s3 := s2.storeImage false k (s2.core k)
  if s3.slotFits m then s3.setCore m { (s3.outside m).kept with run := .entering (tick + n) }
  else s3.partFault p 0x44 0 0

/-- TIME_SLICE_SWITCH. -/
def execTimeSliceSwitch (s : State) : Res :=
  match s.ev with
  | .timeSliceSwitch k =>
    match s.partnerOf k with
    | none => .next s
    | some m =>
      if (s.core k).run = .running ∧ (s.core m).run = .switchedOut ∧ s.allStand k then .next (s.timeSliceSwitch k m)
      else .next s
  | _ => .next s

/-- HELD_DELIVERY (R292): a held delivery is applied at switch-in. A launch that finds no room waits a tick. -/
def execHeldDelivery (s : State) : Res :=
  match s.ev with
  | .heldDelivery k d =>
    match d with
    | .launch l =>
      match s.acceptLaunch k l with
      | some s1 => .next s1
      | none => .next (s.atTick (engAt k .vector) (s.tickOf k + 1) (.heldDelivery k d))
    | .sev slot stamp => .next (s.sevAt { core := k, slot := slot } stamp)
    | .barrier r => .next (s.barPerform r)
    | .landing sender step => .next (s.landing sender step k)
    | .row producer q => .next (s.heldRow producer q k)
  | _ => .next s

end Sys2Proof.Machine
end

