-- ==== Sys2Proof/Machine/Loader.lean ====
section
/-! DEFINITION. Loading an image (spec/11_assembly_object.md R250 to R262): the loader's checks on what it read
from the file, with the span and control-flow analysis of R259 and R260, and the placement. -/

namespace Sys2Proof.Machine

open Sys2Proof

/-! ## Control flow of `.seq` (R259, R260) -/

/-- A word that R259 counts with a full access: loads, reads and fences of memory. -/
def fullAccess (i : Instr) : Bool :=
  match i with
  | .ldB _ _ _ | .ldH _ _ _ | .ldW _ _ _ | .ldD _ _ _ | .ldBn _ _ _ | .ldHn _ _ _ | .ldWn _ _ _ | .ldS _ _ _ | .chk _
  | .amoSwap _ _ _ _ | .amoAdd _ _ _ _ | .amoAnd _ _ _ _ | .amoOr _ _ _ _ | .amoXor _ _ _ _ | .amoMax _ _ _ _
  | .amoMin _ _ _ _ | .amoMaxn _ _ _ _ | .amoMinn _ _ _ _ | .cas _ _ _ _ | .lda _ _ _ | .fenceMem | .codePf _ _
  | .codePin _ _ => true
  | _ => false

/-- A store, `stl` or `red`. -/
def storeWord (i : Instr) : Bool :=
  match i with
  | .stB _ _ _ | .stH _ _ _ | .stW _ _ _ | .stD _ _ _ | .stl _ _ _ | .redAdd _ _ _ | .redFadd32 _ _ _ | .redMax _ _ _
  | .redMin _ _ _ => true
  | _ => false

/-- Ticks that R259 counts for a word: those of R86 but for its cases. `st` says that a store stands before it on the path
with no full access since. An illegal word, which ends the path, counts 1. -/
def countedTicks (w : Option Instr) (st : Bool) : Nat :=
  match w with
  | none => 1
  | some i =>
    if fullAccess i then (if st then 3360 else 1680)
    else
      match i with
      | .barInit _ _ _ | .barArr _ _ _ | .barQuery _ _ _ => 288
      | .div _ _ _ | .divn _ _ _ | .rem _ _ _ | .remn _ _ _ => 80
      | .mul _ _ _ | .mulh _ _ _ | .mulhn _ _ _ => 3
      | .jal _ _ | .jalr _ _ _ => 2
      | _ => 1

/-- Ticks counted for a branch that is taken. -/
def takenTicks (w : Option Instr) (st : Bool) : Nat :=
  match w with
  | some (.beq _ _ _) | some (.bne _ _ _) | some (.blt _ _ _) | some (.bge _ _ _) | some (.bltn _ _ _)
  | some (.bgen _ _ _) => 2
  | w => countedTicks w st

/-- A word links: a `jal` or `jalr` with d ≠ 0. -/
def linkWord (w : Option Instr) : Bool :=
  match w with
  | some (.jal d _) => d != 0
  | some (.jalr d _ _) => d != 0
  | _ => false

/-- Where the words after a `syscall` or `brk` start. -/
def trapWord (w : Option Instr) : Bool :=
  match w with
  | some (.syscall _) | some (.brk _) => true
  | _ => false

/-- Word indexes of a list whose word satisfies `f`, each plus 1. -/
def afterWords (ws : List (Option Instr)) (f : Option Instr → Bool) : List Int :=
  ws.zipIdx.filterMap (fun x => if f x.1 then some ((x.2 : Int) + 1) else none)

/-- What control-flow analysis needs of an image: its words, its start points, and what a `jalr` may follow. -/
structure Flow where
  words  : List (Option Instr)
  starts : List Int
  jumps  : List Int
  deriving DecidableEq, Repr

/-- The flow of an image. -/
def imageFlow (g : Image) : Flow :=
  let ws := g.seq.words.map (fun w => (decode .seq [w.toNat]).map (fun x => x.1))
  { words := ws
    starts := g.syms.map Int.ofNat ++ g.mboxes.map (fun m => Int.ofNat m.entry) ++ afterWords ws trapWord
    jumps := g.syms.map Int.ofNat ++ afterWords ws linkWord }

/-- Where a path goes on from word `n`: the indexes, each with the ticks of the word on that way. No index: the path ends
there (R259). -/
def Flow.next (f : Flow) (n : Nat) (st : Bool) : List (Int × Nat) :=
  let w := (f.words.getD n none)
  let c := countedTicks w st
  let fall : Int × Nat := ((n : Int) + 1, c)
  let branch (off : BitVec 16) : List (Int × Nat) := [fall, ((n : Int) + off.toInt, takenTicks w st)]
  match w with
  | none | some (.safe _) | some .halt | some (.syscall _) | some (.brk _) => []
  | some (.beq _ _ off) | some (.bne _ _ off) | some (.blt _ _ off) | some (.bge _ _ off) | some (.bltn _ _ off)
  | some (.bgen _ _ off) => branch off
  | some (.jal _ off) => [((n : Int) + off.toInt, c)]
  | some (.jalr _ _ _) => f.jumps.map (fun t => (t, c))
  | some .eret => f.starts.map (fun t => (t, c))
  | some _ => [fall]

/-- After word `n`, a store stands on the path with no full access since. -/
def Flow.storeAfter (f : Flow) (n : Nat) (st : Bool) : Bool :=
  match f.words.getD n none with
  | none => st
  | some i => storeWord i || (st && !fullAccess i)

/-- Where the loader's walks begin: the start points, and the word after each `safe` (R259). -/
def Flow.seeds (f : Flow) : List Int :=
  f.starts ++ afterWords f.words (fun w => match w with
    | some (.safe _) => true
    | _ => false)

/-- The words among some targets that are not in a list, each once. -/
def Flow.newWords (f : Flow) (seen : List Nat) (ts : List Int) : List Nat :=
  ts.foldl (fun (ns : List Nat) (i : Int) =>
    if decide (0 ≤ i) && decide (i < f.words.length) && !seen.contains i.toNat && !ns.contains i.toNat then i.toNat :: ns
    else ns) []

/-- The words that walks reach from a frontier, in layers; `seen` are those already reached. -/
def Flow.reachFrom (f : Flow) (seen frontier : List Nat) : Nat → List Nat
  | 0 => seen
  | fuel + 1 =>
    let new := f.newWords seen (frontier.flatMap (fun n => (f.next n false).map (fun x => x.1)))
    if new = [] then seen else f.reachFrom (new ++ seen) new fuel

/-- The words on some path that the loader walks. -/
def Flow.reached (f : Flow) : List Nat :=
  let first := f.newWords [] f.seeds
  f.reachFrom first first f.words.length

/-- Longest sums from each word, without and with a store before it. -/
abbrev Sums := List (Nat × Nat)

/-- The sum at a word. -/
def Sums.at_ (t : Sums) (n : Int) (st : Bool) : Nat :=
  if n < 0 then 0 else let x := t.getD n.toNat (0, 0); if st then x.2 else x.1

/-- The words from which some path is longer than `k` words, for `k` layers: those whose paths never end when `k` is the number of
words. -/
def Flow.longer (f : Flow) : Nat → List Nat
  | 0 => List.range f.words.length
  | k + 1 =>
    let ns := f.longer k
    ns.filter (fun n => (f.next n false).any (fun x => decide (0 ≤ x.1) && ns.contains x.1.toNat))

/-- One more word of every path. -/
def Flow.extend (f : Flow) (t : Sums) : Sums :=
  (List.range f.words.length).map (fun n =>
    let one (st : Bool) : Nat :=
      match f.next n st with
      | [] => countedTicks (f.words.getD n none) st
      | xs => xs.foldl (fun m x => Nat.max m (x.2 + t.at_ x.1 (f.storeAfter n st))) 0
    (one false, one true))

/-- The sums over paths of at most `n` more words. -/
def Flow.sums (f : Flow) (t : Sums) : Nat → Sums
  | 0 => t
  | n + 1 =>
    let t1 := f.extend t
    if t1 = t then t else f.sums t1 n

/-- What the walks of an image find: the largest sums, the words from which a path never ends because a cycle of words contains no
`safe`, and the words on some path. A sum counts only where every path ends. -/
structure Walked where
  sums    : Sums
  endless : List Nat
  reached : List Nat
  deriving DecidableEq, Repr

/-- The walks of an image (R259). -/
def Flow.walked (f : Flow) : Walked :=
  { sums := f.sums (f.words.map (fun _ => (0, 0))) f.words.length
    endless := f.longer f.words.length
    reached := f.reached }

/-- Every target on a path lies in `.seq`. -/
def Flow.inside (f : Flow) (w : Walked) : Bool :=
  let ok (n : Int) : Bool := decide (0 ≤ n) && decide (n < f.words.length)
  f.starts.all ok && w.reached.all (fun n => (f.next n false).all (fun x => ok x.1))

/-- A word that must directly follow a `safe` (R260). -/
def needsSafe (w : Option Instr) : Bool :=
  match w with
  | some (.jalr _ _ _) => true
  | some i => waitingWord i
  | none => false

/-- Some word or label leads to word `n` other than by the word before it. -/
def Flow.labelled (f : Flow) (n : Nat) : Bool :=
  f.starts.contains (n : Int) || (List.range f.words.length).any (fun m =>
    match f.words.getD m none with
    | some (.beq _ _ off) | some (.bne _ _ off) | some (.blt _ _ off) | some (.bge _ _ off) | some (.bltn _ _ off)
    | some (.bgen _ _ off) => (m : Int) + off.toInt == (n : Int)
    | some (.jal _ off) => (m : Int) + off.toInt == (n : Int)
    | _ => false)

/-- R260: each such word directly follows a `safe`, with no label on it. -/
def Flow.waitsOk (f : Flow) : Bool :=
  (List.range f.words.length).all (fun n =>
    !needsSafe (f.words.getD n none) ||
      (decide (0 < n) && (match f.words.getD (n - 1) none with | some (.safe _) => true | _ => false) && !f.labelled n))

/-! ## The checks (R255, R261) -/

/-- The five code sections, in the order of the code caches. -/
def imageCode (g : Image) : List CodeImage := [g.seq, g.vec, g.mat, g.xfr, g.wlk]

/-- Check 4: the header's mode suits the partition's (R26). -/
def modeOk (mode : Nat) (fl : Bool) : Bool := mode == 0 || (mode == 1 && fl) || (mode == 2 && !fl)

/-- Check 6, a mailbox record: its fields in range, its cores inside the partition's rectangle (R256). -/
def mboxRecOk (q : Part) (m : MboxRec) : Bool :=
  decide (m.x0 ≤ m.x1) && decide (q.x0 + m.x1 ≤ q.x1) &&
    decide (m.y0 ≤ m.y1) && decide (q.y0 + m.y1 ≤ q.y1) && decide (q.core0 ≤ m.core) &&
    decide (m.core + m.cntm1 ≤ q.core0 + q.cntm1) && m.area % 512 == 0 && decide (512 ≤ m.area) &&
    decide (m.area ≤ 16777216) && decide (1 ≤ m.wdog) && decide (m.wdog ≤ 2 ^ 40)

/-- Check 6, a queue binding: the core and a bound queue's peer lie inside the rectangle, and isrc is legal (R257). -/
def qbindRecOk (q : Part) (r : QbindRec) : Bool :=
  let v := r.val.toNat
  let at_ (x y core : Nat) : Bool :=
    decide (q.x0 + x ≤ q.x1) && decide (q.y0 + y ≤ q.y1) && decide (q.core0 ≤ core) && decide (core ≤ q.core0 + q.cntm1)
  at_ r.x r.y r.core && (!bit v 0 || at_ (fld v 3 2) (fld v 5 3) (fld v 8 6)) && decide (fld v 16 2 ≠ 3)

/-- Check 6. -/
def imageBindingsOk (g : Image) (q : Part) : Bool :=
  g.bindsClean && g.mboxes.all (mboxRecOk q) && g.qbinds.all (qbindRecOk q) && distinct (g.mboxes.map (fun m => m.idx)) &&
    distinct (g.qbinds.map (fun r => (r.x, r.y, r.core, r.n)))

/-- Check 7: one record for each `safe` word, with its number and span; numbers unique; bit 0 of gmask 0 (R254). A `safe` after
which some path never ends has no span. -/
def imageSafesOk (g : Image) (f : Flow) (t : Walked) : Bool :=
  let safes : List (Nat × Nat) := f.words.zipIdx.filterMap (fun x =>
    match x.1 with
    | some (.safe num) => some (x.2, num.toNat)
    | _ => none)
  g.safesClean && decide (safes.length = g.safes.length) && distinct (g.safes.map (fun r => r.num)) &&
    safes.all (fun w => g.safes.any (fun r =>
      r.woff == w.1 && r.num == w.2 && !t.endless.contains (w.1 + 1) && r.span == t.sums.at_ ((w.1 : Int) + 1) false &&
        !r.gmask.getLsbD 0))

/-- Check 8: the live state of the union of all masks is at most 256 KiB (R255). -/
def imageLiveOk (g : Image) : Bool := decide (liveBytes g.safes ≤ 262144)

/-- The bound on a path's ticks (R259). -/
def imageBound (g : Image) (q : Part) : Nat := if g.spacing = 0 then q.spacing else Nat.min q.spacing g.spacing

/-- Check 9. -/
def imageFlowOk (g : Image) (q : Part) (f : Flow) (t : Walked) : Bool :=
  f.inside t && f.waitsOk && !t.reached.any t.endless.contains &&
    f.starts.all (fun n => decide (t.sums.at_ n false ≤ imageBound g q)) &&
    g.safes.all (fun r => decide (r.span ≤ imageBound g q))

/-- The first of the checks 6 to 9 that an image fails (R261). -/
def State.imageFault (s : State) (p : Nat) (g : Image) : Option Nat :=
  let q := s.part p
  let f := imageFlow g
  let t := f.walked
  if !imageBindingsOk g q then some 6
  else if !imageSafesOk g f t then some 7
  else if !imageLiveOk g then some 8
  else if !imageFlowOk g q f t then some 9
  else none

/-- The verdict on a file: the first check of R261 that it fails, or its image. -/
def State.readImage (s : State) (p : Nat) (file : List Byte) (place : Placement) : Except Nat Image :=
  if !headerOk file then .error 1
  else if !s.signatureOk p file then .error 2
  else if !sectionsOk file then .error 3
  else if !modeOk (fld (fileNat file 0 8) 48 2) (s.part p).fl then .error 4
  else if !relocsOk file then .error 5
  else
    let g := imageOf file place
    match s.imageFault p g with
    | some c => .error c
    | none => .ok g

/-! ## Placement (R262, R257, R266) -/

/-- The words of a code section, written to the pages that hold it. -/
def State.placeCode (s : State) (pas : List (Nat × Nat)) (c : CodeImage) : State :=
  c.words.zipIdx.foldl (fun s x =>
    let va := c.base + 4 * x.2
    match pas.find? (fun e => e.1 == va / 65536) with
    | none => s
    | some (_, q) => s.physStore (q * 65536 + va % 65536) (leBytes 4 x.1.toNat)) s

/-- A core before an image is placed: a bank or binding for which the image has no record has its reset value (R257, R262). -/
def Core.bare (c : Core) : Core :=
  { c with scratch := [], bfmt := Vector.replicate 16 0, qbind := Vector.replicate 4 0 }

/-- A bank image written into its bank, whose format is set. -/
def Core.placeBank (c : Core) (b : Nat × Nat × List Byte) : Core :=
  { c with
    scratch := Memory.store c.scratch (spByte b.1 0) (b.2.2 ++ zeroBytes (131072 - b.2.2.length))
    bfmt := vset c.bfmt (Fin.ofNat 16 b.1) (BitVec.ofNat 4 b.2.1) }

/-- The value of a queue binding with the partition's first die added (R257); bits 15:14 read 0 (R29). -/
def qbindValue (q : Part) (r : QbindRec) : BitVec 18 :=
  let v := r.val.toNat - put (fld r.val.toNat 14 2) 14
  BitVec.ofNat 18 (v - put (fld v 3 2) 3 - put (fld v 5 3) 5 + put ((fld v 3 2 + q.x0) % 4) 3 + put ((fld v 5 3 + q.y0) % 8) 5)

/-- A queue binding written into its register. -/
def State.placeBinding (s : State) (q : Part) (r : QbindRec) : State :=
  let k := ((q.y0 + r.y) * 4 + q.x0 + r.x) * 64 + r.core
  s.setCore k { s.core k with qbind := vset (s.core k).qbind r.n (qbindValue q r) }

/-- A mailbox record bound to its package mailbox (R256, R295): it takes messages from now on. -/
def State.placeMbox (s : State) (p : Nat) (g : Image) (m : MboxRec) : State :=
  let q := s.part p
  s.setMbox m.pkg { s.mbox m.pkg with
    base := BitVec.ofNat 48 m.areaVa, part := BitVec.ofNat 6 p, area := BitVec.ofNat 25 m.area, wdog := BitVec.ofNat 41 m.wdog
    wo := 0, wl := false, ro := 0, rl := false, fo := 0, fl := false, pkts := [], wrote := [], st := 1
    entry := BitVec.ofNat 48 (g.seq.base + 4 * m.entry)
    tset := BitVec.ofNat 25 (m.core + put m.cntm1 6 + put ((m.x0 + q.x0) % 4) 12 + put ((m.x1 + q.x0) % 4) 14 +
      put ((m.y0 + q.y0) % 8) 16 + put ((m.y1 + q.y0) % 8) 19 + put m.stage 22) }

/-- What the partition keeps of a loaded image. -/
def imageLoaded (g : Image) : Loaded :=
  { sections := Vector.ofFn (fun i : Fin 5 =>
      let c := (imageCode g).getD i.val { base := 0, words := [] }
      { base := c.base, len := c.words.length, pas := g.codePa })
    safes := g.safes }

/-- The leaf descriptor of a page, with the rights of the section that lies on it (R262, R350). -/
def State.placeLeaf (s : State) (xs : List (Section_ × Nat)) (g : PlacedPage) : State :=
  match xs.find? (fun x => onPage x g.va) with
  | none => s
  | some x => s.physStore g.leaf (leBytes 8 (1 + x.1.rights + g.pa * 65536))

/-- The leaf descriptors of a placement. -/
def State.placeLeaves (s : State) (file : List Byte) (place : Placement) : State :=
  place.pages.foldl (fun s x => s.placeLeaf (placedSections file place) x) s

/-- An image that has passed its checks is placed (R262). -/
def State.placeImage (s : State) (p : Nat) (g : Image) : State :=
  let q := s.part p
  let s1 := g.data.foldl (fun (s : State) d => s.physStore d.pa d.bytes) ((imageCode g).foldl (fun s c => s.placeCode g.codePa c) s)
  let s2 := q.cores.foldl (fun s k => s.setCore k (g.banks.foldl Core.placeBank (s.core k).bare)) s1
  let s3 := g.qbinds.foldl (fun s r => s.placeBinding q r) s2
  let digest := if g.signed then shaExtend q.digest g.digest else q.digest
  let s4 := s3.setPart p { q with image := some (imageLoaded g), digest := digest }
  g.mboxes.foldl (fun s m => s.placeMbox p g m) (s4.fillAllCaches p)

/-- IMAGE_LOAD (R261, R262): nothing of a rejected image is loaded, and its code is reported. An image is loaded while the
partition is stopped, on a placement that suits it (log 117). -/
def execImageLoad (s : State) : Res :=
  match s.ev with
  | .imageLoad p file place =>
    if 64 ≤ p then noObject
    else if !(s.part p).valid || s.partBusy p then .next s.refuse
    else
      match s.readImage p file place with
      | .error check => .next (s.notify (.imageRefused p check))
      | .ok g =>
        if !placementOk file place then .next s.refuse
        else .next ((s.placeLeaves file place).placeImage p g)
  | _ => .next s

end Sys2Proof.Machine
end

