-- ==== Sys2Proof/Machine/Manage.lean ====
section
/-! DEFINITION. The tables of package management (spec/14_scheduling.md R287 to R289, R295; spec/16_fabric.md R312 to R316,
R324, R328; spec/19_faults_translation.md R354, R355, R345; spec/12_memory_consistency.md R269; spec/22_platform.md R361, R364):
what a write checks, and what it does. A write that fails a check changes nothing. -/

namespace Sys2Proof.Machine

open Sys2Proof

/-! ## Ring shares (R312 to R314) -/

/-- The owner of lane `l` in a table entry. -/
def ringOwner (v : BitVec 32) (l : Nat) : Nat := fld v.toNat (8 * l) 7

/-- Entry `i` of a die's ring table; every owner open at reset. -/
def Die.ringEntry (d : Die) (i : Nat) : BitVec 32 := Tbl.getD d.ringTab i 0x7F7F7F7F

/-- The entries of a share (R314). -/
def shareEntries (w : Word64) : List Nat :=
  (List.range (bitsOf w 10 11)).map (fun j => (bitsOf w 0 10 + j * 2 ^ bitsOf w 25 4) % 1024)

/-- The lanes of a share. -/
def shareLanes (w : Word64) : List Nat := (List.range 4).filter (fun l => bit w.toNat (21 + l))

/-- Fields of a share out of range (R314). -/
def shareBad (w : Word64) : Bool :=
  bitsOf w 29 35 != 0 || decide (1024 < bitsOf w 10 11) || decide (10 < bitsOf w 25 4) ||
    decide (1024 < bitsOf w 10 11 * 2 ^ bitsOf w 25 4)

/-- Two shares name a common lane and entry. -/
def sharesMeet (a b : Word64) : Bool :=
  (shareLanes a).any (shareLanes b).contains && (shareEntries a).any (shareEntries b).contains

/-- Physical cores of a partition on a die. -/
def State.stations (s : State) (q : Part) (d : Nat) : List Nat :=
  (List.range (q.cntm1 + 1)).map (fun i => s.physOf (d * 64 + q.core0 + i))

/-- Every 64 cyclically consecutive entries hold one of `is`. -/
def spread (is : List Nat) : Bool := (List.range 1024).all (fun w => is.any (fun i => decide ((i + 1024 - w) % 1024 < 64)))

/-- The table of die `d` suits the share of a partition (R314): its entries name the partition's own stations or are open;
in fixed-latency mode none is open, and each station is named in every 64 entries. -/
def State.shareFits (s : State) (q : Part) (d : Nat) : Bool :=
  let own := s.stations q d
  let die := s.die d
  let es := shareEntries q.d2
  let ls := shareLanes q.d2
  es.all (fun i => ls.all (fun l =>
    let o := ringOwner (die.ringEntry i) l
    own.contains o || (o == 0x7F && !q.fl))) &&
    (!q.fl || own.all (fun k => spread (es.filter (fun i => ls.any (fun l => ringOwner (die.ringEntry i) l == k)))))

/-! ## Partition descriptors (R287, R288, R314, R361) -/

/-- A descriptor's fields out of range, or a nonzero bit that must be 0 (R288). `tlbw` 0 stands for 16 ways (DEDUCED, log 43). -/
def descBad (q : Part) : Bool :=
  bitsOf q.d0 25 7 != 0 || bitsOf q.d0 48 16 != 0 || bitsOf q.d1 23 9 != 0 || bitsOf q.d1 36 28 != 0 || q.d3 != 0 ||
    decide (q.x1 < q.x0) || decide (q.y1 < q.y0) || decide (63 < q.core0 + q.cntm1) || decide (q.spacing < 4096) ||
    decide (65536 < q.spacing) || q.quant == 0 || shareBad q.d2

/-- Die-TLB ways of a partition. -/
def Part.ways (q : Part) : Nat := if q.tlbw = 0 then 16 else q.tlbw

/-- Other valid partitions than `p`. -/
def State.others (s : State) (p : Nat) : List Part :=
  (s.parts.filter (fun e => e.1 != p && e.2.valid)).map (fun e => e.2)

/-- The remap entries of a partition's cores on die `d` form a valid table (R289): each places its core on a physical core of
the die, alone or with the partner that names it back and belongs to the partition too (R361). -/
def State.remapOk (s : State) (q : Part) (d : Nat) : Bool :=
  let die := s.die d
  let entry (i : Nat) : Nat := (die.remapOf i).toNat
  let ids := (List.range (q.cntm1 + 1)).map (fun i => q.core0 + i)
  ids.all (fun i =>
    let e := entry i
    let same := (List.range 64).filter (fun j => j != i && fld (entry j) 0 7 == fld e 0 7)
    bit e 14 && decide (fld e 0 7 < 72) &&
      (if bit e 7 then
        let m := fld e 8 6
        ids.contains m && bit (entry m) 7 && fld (entry m) 8 6 == i && same == [m]
      else same.isEmpty))

/-- The descriptor `q` of partition `p` is refused: its cores overlap another partition's, cannot be placed, its asid is
taken, the die-TLB ways are used up, or its share does not fit. -/
def State.descRefused (s : State) (p : Nat) (q : Part) : Bool :=
  let os := s.others p
  os.any (fun o => o.asid == q.asid) || q.cores.any (fun k => os.any (fun o => o.hasCore k)) ||
    q.dies.any (fun d => !s.remapOk q d || !s.shareFits q d ||
      (q.fl && decide (16 < ((os.filter (fun o => o.fl && o.hasDie d)).foldl (fun n o => n + o.ways) q.ways))) ||
      os.any (fun o => o.hasDie d && sharesMeet o.d2 q.d2))

/-- A Hatbox slot somewhere holds an image of the partition. -/
def State.suspended (s : State) (p : Nat) : Bool :=
  s.dies.any (fun e => (e.2.hat0 ++ e.2.hat1 ++ e.2.hatOut).any (fun h => h.2.part.toNat == p))

/-- A core of a partition at its reset values. One that shares a physical core and waits for its first turn has no image in its
slot of set 0 (R291). -/
def State.beginCore (s : State) (p k : Nat) : State :=
  let c := s.freshCore p k
  let s1 := s.setCore k c
  let d := s.die (dieOf k)
  if c.run = .switchedOut then s1.setDie (dieOf k) { d with hat0 := Tbl.erase d.hat0 (k % 64) } else s1

/-- A partition comes into being (R24, R358): its tick is 0, its cores take their reset values, its translations are empty.
The image and its digest stay with a partition that the Hatbox holds (DEDUCED, log 44). -/
def State.createPart (s : State) (p : Nat) (q : Part) : State :=
  let keep := s.suspended p
  let q1 : Part := { q with
    tick := 0, level := 0, levelWas := 0, levelNext := 0, iop := 0, records := [], waiting := [], frozen := false, draining := none
    swap := if keep then q.swap else Part.reset.swap
    image := if keep then q.image else none
    digest := if keep then q.digest else 0 }
  let s1 := s.setPart p q1
  let s2 := q1.cores.foldl (fun s k => s.beginCore p k) s1
  { s2 with
    timers := s2.timers.filter (fun t => t.clock != some p)
    dies := s2.dies.map (fun e => (e.1, { e.2 with
      tlb := e.2.tlb.filter (fun x => x.part != p && x.asid != q.asid)
      pickTlb := e.2.pickTlb.filter (fun x => x.part != p && x.asid != q.asid) })) }

/-- A stopped partition's descriptor changes: cores that it gains take their reset values. -/
def State.changePart (s : State) (p : Nat) (q : Part) : State :=
  let gained := q.cores.filter (fun k => !(s.part p).hasCore k)
  gained.foldl (fun s k => s.beginCore p k) (s.setPart p q)

/-- PARTITION_DESCRIPTOR_WRITE (R287, R288). -/
def execPartitionDescriptorWrite (s : State) : Res :=
  match s.ev with
  | .partitionDescriptorWrite p w0 w1 w2 w3 =>
    let old := s.part p
    let q : Part := { old with d0 := w0, d1 := w1, d2 := w2, d3 := w3 }
    if 64 ≤ p then noObject
    else if descBad q || (old.valid && (s.partBusy p || old.draining.isSome)) then .next s.refuse
    else if !q.valid then
      .next ((if old.valid then s.discardTraffic p else s).setPart p q)
    else if s.descRefused p q then .next s.refuse
    else if old.valid then .next (s.changePart p q)
    else .next (s.createPart p q)
  | _ => .next s

/-- REMAP_TABLE_WRITE (R289): an entry of a logical core of no valid partition. The conditions on a valid table are checked
when a partition is created on it (DEDUCED, log 45). -/
def execRemapTableWrite (s : State) : Res :=
  match s.ev with
  | .remapTableWrite d i v =>
    if 32 ≤ d ∨ 64 ≤ i then noObject
    else if bit v.toNat 15 || decide (72 ≤ fld v.toNat 0 7) || s.parts.any (fun e => e.2.valid && e.2.hasCore (d * 64 + i)) then
      .next s.refuse
    else .next (s.setDie d { s.die d with remap := Tbl.set (s.die d).remap i v })
  | _ => .next s

/-! ## Mailbox state blocks (R295, R298) -/

/-- A target set lies within its partition. -/
def State.targetsOk (s : State) (m : Mbox) : Bool :=
  let w := m.tset.toNat
  let q := s.part m.part.toNat
  decide (fld w 12 2 ≤ fld w 14 2) && decide (fld w 16 3 ≤ fld w 19 3) && decide (fld w 0 6 + fld w 6 6 ≤ 63) &&
    m.targets.all q.hasCore

/-- The system cores have moved the read offset past `n` bytes at `off`: they are freed in their place, as a skip is (R298,
R300). -/
def Mbox.passOver (m : Mbox) (off n : Nat) : Mbox :=
  freeFront m (m.pkts ++ [{ off := off, len := n, left := 0, started := none, toLaunch := [] }])

/-- One doubleword of a state block written; none where package management refuses it. Fields that only the device writes
stay. -/
def State.mboxWrite (s : State) (m : Mbox) (f : Nat) (v : Word64) : Option Mbox :=
  match f with
  | 0 =>
    let m1 := { m with base := BitVec.ofNat 48 (bitsOf v 0 48), part := BitVec.ofNat 6 (bitsOf v 48 6) }
    if bitsOf v 54 10 ≠ 0 ∨ bitsOf v 0 48 % 512 ≠ 0 ∨ (m.st ≠ 0 ∧ !s.targetsOk m1) then none else some m1
  | 1 =>
    let n := bitsOf v 0 25
    if bitsOf v 25 39 ≠ 0 ∨ n % 512 ≠ 0 ∨ n < 512 ∨ 16777216 < n then none
    else some { m with area := BitVec.ofNat 25 n }
  | 2 =>
    let n := bitsOf v 0 41
    if bitsOf v 41 23 ≠ 0 ∨ n < 1 ∨ 2 ^ 40 < n then none else some { m with wdog := BitVec.ofNat 41 n }
  | 3 =>
    if bitsOf v 26 6 ≠ 0 ∨ bitsOf v 58 6 ≠ 0 then none
    else
      let ro := BitVec.ofNat 25 (bitsOf v 32 25)
      let rl := bit v.toNat 57
      if (ro ≠ m.ro ∨ rl ≠ m.rl) ∧ m.st ≠ 2 then none
      else
        let m1 := ({ m with ro := ro, rl := rl, wrote := [] } : Mbox)
        let m2 := if ro = m.ro ∧ rl = m.rl then m
          else
            let m3 := m1.passOver m.ro.toNat (m.unparsed - m1.unparsed)
            { m3 with wrote := [(m1.unparsed, m.stamp)] }
        some (m2.moveWo (BitVec.ofNat 25 (bitsOf v 0 25)) (bit v.toNat 25) s.endpoint.ts)
  | 4 =>
    let st := BitVec.ofNat 2 (bitsOf v 32 2)
    if st = 3 ∨ (st = 1 ∧ !s.targetsOk m) then none else some { m with st := st }
  | 5 =>
    if bitsOf v 48 16 ≠ 0 ∨ bitsOf v 0 2 ≠ 0 then none else some { m with entry := BitVec.ofNat 48 (bitsOf v 0 48) }
  | 6 =>
    let m1 := { m with tset := BitVec.ofNat 25 (bitsOf v 0 25) }
    if bitsOf v 25 39 ≠ 0 ∨ !s.targetsOk m1 then none else some m1
  | _ => some { m with snd := v }

/-- MAILBOX_STATE_WRITE (R295): writing st = 1 starts parsing again at ro (R298). -/
def execMailboxStateWrite (s : State) : Res :=
  match s.ev with
  | .mailboxStateWrite m f v =>
    if 4096 ≤ m then noObject
    else
      match s.mboxWrite (s.mbox m) f.val v with
      | none => .next s.refuse
      | some b => .next (s.setMbox m b)
  | _ => .next s

/-! ## Ring and mesh registers (R312, R316, R324) -/

/-- The die has scale-up ports. -/
def hasPorts (d : Nat) : Bool := d / 4 == 0 || d / 4 == 7

/-- An owner field that a die's table may hold (R312). -/
def ownerOk (d o : Nat) : Bool := o == 127 || decide (o ≤ 94) || (decide (o ≤ 96) && hasPorts d)

/-- An entry that a die's table may hold (R312). -/
def ringEntryOk (d : Nat) (v : BitVec 32) : Bool :=
  (List.range 4).all (fun l => !bit v.toNat (8 * l + 7) && ownerOk d (ringOwner v l))

/-- RING_TABLE_WRITE (R312, R314): a valid partition's share must still fit the table. -/
def execRingTableWrite (s : State) : Res :=
  match s.ev with
  | .ringTableWrite d i v =>
    if 32 ≤ d ∨ 1024 ≤ i then noObject
    else if !ringEntryOk d v then .next s.refuse
    else
      let s1 := s.setDie d { s.die d with ringTab := Tbl.set (s.die d).ringTab i v }
      if s.parts.any (fun e => e.2.valid && e.2.hasDie d && (shareEntries e.2.d2).contains i && !s1.shareFits e.2 d) then
        .next s.refuse
      else .next s1
  | _ => .next s

/-- Some partition with cores on the die runs: it holds a task, a run or a step in flight. -/
def State.dieRuns (s : State) (d : Nat) : Bool := s.parts.any (fun e => e.2.valid && e.2.hasDie d && s.partBusy e.1)

/-- RINGCTL_WRITE (R316): `spl` while no partition of the die runs, `cec` cleared by 0. -/
def execRingctlWrite (s : State) : Res :=
  match s.ev with
  | .ringctlWrite d v =>
    let die := s.die d
    let spl := BitVec.ofNat 3 (bitsOf v 0 3)
    if 32 ≤ d then noObject
    else if (4 ≤ spl.toNat ∧ spl.toNat ≤ 6) ∨ (spl ≠ die.spl ∧ s.dieRuns d) then .next s.refuse
    else .next (s.setDie d { die with spl := spl, cec := if bitsOf v 16 16 = 0 then 0 else die.cec })
  | _ => .next s

/-- Weights and a threshold that `meshcfg` may hold (R324). -/
def meshcfgOk (v : Nat) : Bool := (List.range 4).all (fun i => fld v (4 * i) 4 != 0) && fld v 16 10 != 0

/-- MESHCFG_WRITE (R324): in effect from the next mesh cycle. -/
def execMeshcfgWrite (s : State) : Res :=
  match s.ev with
  | .meshcfgWrite d v =>
    if 32 ≤ d then noObject
    else if !meshcfgOk v.toNat then .next s.refuse
    else .next (s.setDie d { s.die d with meshcfg := BitVec.ofNat 26 (bitsOf v 0 26) })
  | _ => .next s

/-! ## Port channels (R328) -/

/-- A channel's words are refused: a reserved bit or format, an unaligned window, or a peer range beyond 2^44. -/
def channelBad (c : Channel) : Bool :=
  let bitsOfFmt (n : Nat) : Nat := ((Fmt.ofCode? n).getD .raw).bits
  let sf := bitsOf c.w0 23 4
  let df := bitsOf c.w0 27 4
  let size := bitsOf c.w2 0 41
  bitsOf c.w0 32 32 != 0 || bitsOf c.w1 44 20 != 0 || bitsOf c.w2 41 23 != 0 || bitsOf c.w3 48 16 != 0 ||
    decide (10 < sf) || decide (10 < df) || size % 65536 != 0 || bitsOf c.w3 0 48 % 65536 != 0 ||
    decide (2 ^ 44 < bitsOf c.w1 0 44 + size * bitsOfFmt df / bitsOfFmt sf)

/-- PORT_CHANNEL_BIND (R328). -/
def execPortChannelBind (s : State) : Res :=
  match s.ev with
  | .portChannelBind ch w0 w1 w2 w3 =>
    let c : Channel := { w0 := w0, w1 := w1, w2 := w2, w3 := w3 }
    if 64 ≤ ch then noObject
    else if channelBad c then .next s.refuse
    else .next { s with channels := Tbl.set s.channels ch c }
  | _ => .next s

/-! ## Translation blocks and invalidations (R354, R355) -/

/-- TRANSLATION_BLOCK_WRITE (R354). -/
def execTranslationBlockWrite (s : State) : Res :=
  match s.ev with
  | .translationBlockWrite p w =>
    let q := s.part p
    if 64 ≤ p then noObject
    else if bitsOf w 1 8 ≠ 0 ∨ bitsOf w 44 20 ≠ 0 ∨ (bitsOf w 9 35 ≠ bitsOf q.root 9 35 ∧ s.partBusy p) then .next s.refuse
    else .next (s.setPart p { q with root := w })
  | _ => .next s

/-- An address lies in the range of 2^n bytes that holds `va`. -/
def inRange (va n a : Nat) : Bool := a / 2 ^ n == va / 2 ^ n

/-- Every translation of the partition that `gone` names is dropped from every TLB of the package, and so is one that a walk has
found and brings: the TLBs are filled with what is found when it ends (R355). -/
def State.dropEntries (s : State) (p : Nat) (gone : TlbEntry → Bool) : State :=
  let asid := (s.part p).asid
  let keep (es : List TlbEntry) : List TlbEntry := es.filter (fun e => !(e.asid == asid && gone e))
  let keepWalk (x : Walk) : Bool := !(x.found.any (fun e => e.asid == asid && gone e))
  { s with
    dies := s.dies.map (fun e =>
      (e.1, { e.2 with tlb := keep e.2.tlb, pickTlb := keep e.2.pickTlb, walks := e.2.walks.filter keepWalk }))
    cores := s.cores.map (fun e => (e.1, { e.2 with l1tlb := keep e.2.l1tlb })) }

/-- An address in the range of 2^n bytes that a step's sectors have been translated in. -/
def XStep.translatedIn (x : XStep) (va n : Nat) : Bool :=
  x.targets.any (fun e => (x.dst.sector x.dstFmt e.1).any (inRange va n))

/-- The accesses and steps of a core that may have been translated in the range are marked (R355). -/
def Core.markOld (c : Core) (va n : Nat) : Core :=
  let mark (x : Access) : Access := { x with old := x.old || inRange va n x.va }
  { c with
    storeQ := c.storeQ.map mark
    tasks := c.tasks.map (fun t => { t with accReq := t.accReq.map mark })
    xfr := { c.xfr with steps := c.xfr.steps.map (fun x => { x with old := x.old || x.translatedIn va n }) } }

/-- Every access, sector and row part of the partition that may have been translated in the range is marked, in its saved images as
well (R355). -/
def State.markOld (s : State) (p va n : Nat) : State :=
  let slots (t : Tbl HatSlot) : Tbl HatSlot :=
    t.map (fun e => if e.2.part.toNat = p then (e.1, { e.2 with image := e.2.image.markOld va n }) else e)
  { s with
    dies := s.dies.map (fun e =>
      (e.1, { e.2 with rows := e.2.rows.map (fun r => { r with old := r.old || r.part == p })
                       hat0 := slots e.2.hat0, hat1 := slots e.2.hat1, hatOut := slots e.2.hatOut }))
    cores := s.cores.map (fun e => if e.2.part = p then (e.1, e.2.markOld va n) else e) }

/-- Some marked access, sector or row part of the partition is still in progress; a store that a saved core holds is. A parked step, or
one in an image, is not: its sectors translate again when it goes on. -/
def State.oldInUse (s : State) (p : Nat) : Bool :=
  let q := s.part p
  s.dies.any (fun e => e.2.rows.any (fun r => r.part == p && r.old) ||
      (q.frozen && (e.2.hat q.swap.set).any (fun h => h.2.part.toNat == p && h.2.image.storeQ.any (fun x => x.old)))) ||
    q.cores.any (fun k =>
      let c := s.core k
      c.storeQ.any (fun x => x.old) ||
        c.tasksHere.any (fun i => (c.task i).accReq.any (fun x => x.old)) ||
        c.xfr.steps.any (fun x => x.stage != .parked && x.old))

/-- An invalidation is complete once nothing translated through a dropped entry is in progress, which is looked at in every wall
period (R355). -/
def State.invalidated (s : State) (p : Nat) (e : Ev) : State :=
  if (s.part p).iop = 0 then s
  else if s.oldInUse p then s.atWall (s.wall.toNat + 1) e
  else s.setPart p { s.part p with iop := 0 }

/-- A command to invalidate the entries that satisfy `gone`, all in the range of 2^n bytes at `va`. While one is in progress it is
refused, and iop reads 3 until that one is done (R354; DEDUCED, log 133). -/
def State.invalidate (s : State) (p : Nat) (iop : BitVec 2) (va n : Nat) (gone : TlbEntry → Bool) (e : Ev) : State :=
  let q := s.part p
  if q.iop ≠ 0 then (s.setPart p { q with iop := 3 }).refuse
  else (((s.setPart p { q with iop := iop, iva := BitVec.ofNat 48 va }).dropEntries p gone).markOld p va n).invalidated p e

/-- INVALIDATE_VA (R355). A page or block has at most 2^29 bytes. -/
def execInvalidateVa (s : State) : Res :=
  match s.ev with
  | .invalidateVa p va again =>
    if 64 ≤ p ∨ 2 ^ 48 ≤ va then noObject
    else if again then .next (s.invalidated p (.invalidateVa p va true))
    else
      .next (s.invalidate p 1 va 29 (fun e => decide (e.base ≤ va) && decide (va < e.base + 2 ^ e.size))
        (.invalidateVa p va true))
  | _ => .next s

/-- INVALIDATE_ASID (R355). -/
def execInvalidateAsid (s : State) : Res :=
  match s.ev with
  | .invalidateAsid p again =>
    if 64 ≤ p then noObject
    else if again then .next (s.invalidated p (.invalidateAsid p true))
    else .next (s.invalidate p 2 0 48 (fun _ => true) (.invalidateAsid p true))
  | _ => .next s

/-! ## The Hatbox (R345, R364) -/

/-- A slot of the Hatbox bank address `i` holds an image: bank address `i` serves the four slots 4·i to 4·i + 3, set 1
following set 0 (DEDUCED, log 46). -/
def Die.bankHolds (d : Die) (i : Nat) : Bool :=
  d.hat0.any (fun e => e.1 / 4 == i) || d.hat1.any (fun e => 16 + e.1 / 4 == i)

/-- HATBOX_BANK_MAP_WRITE (R364). -/
def execHatboxBankMapWrite (s : State) : Res :=
  match s.ev with
  | .hatboxBankMapWrite d i b =>
    if 32 ≤ d ∨ 32 ≤ i then noObject
    else if 36 ≤ b.toNat ∨ (s.die d).bankHolds i then .next s.refuse
    else .next (s.setDie d { s.die d with bankMap := Tbl.set (s.die d).bankMap i b })
  | _ => .next s

/-- HATBOX_SLOT_COPY (R345): a slot out to the system cores' memory, or one of the copies kept there back. A copy stays where it is
kept. A slot copied out holds its image on, or is freed, so that its bank may be replaced (R364; DEDUCED, log 46). -/
def State.slotCopy (s : State) (d : Nat) (set : Bool) (core : Nat) (way : SlotCopy) : State :=
  let die := s.die d
  let key (id : Nat) : Nat := id * 128 + (if set then 64 else 0) + core
  match way with
  | .out id free =>
    match Tbl.get? (die.hat set) core with
    | none => s
    | some h =>
      let d1 := if free then die.setHat set (Tbl.erase (die.hat set) core) else die
      s.setDie d { d1 with hatOut := Tbl.set die.hatOut (key id) h }
  | .back id altered =>
    match Tbl.get? die.hatOut (key id) with
    | none => s
    | some h => s.setDie d (die.setHat set (Tbl.set (die.hat set) core { h with back := true, sound := h.sound && !altered }))

/-- HATBOX_SLOT_COPY. -/
def execHatboxSlotCopy (s : State) : Res :=
  match s.ev with
  | .hatboxSlotCopy d set core way => if 32 ≤ d ∨ 64 ≤ core then noObject else .next (s.slotCopy d set core way)
  | _ => .next s

/-! ## Registers with no row of their own (R29, R269, R330, R343, R367) -/

/-- The lines of a set beyond its capacity leave, least recently used first (R269). -/
def State.trimSet (s : State) (k : Nat) (set cap : Nat) (ls : List Nat) : State :=
  let out := ((ls.filter (fun l => (s.line l).pins.isEmpty && (s.line l).owner.isNone)).reverse).take (ls.length - cap)
  out.foldl (fun s v =>
    let sl := s.slice k
    (s.setSlice k { sl with sets := Tbl.set sl.sets set ((Tbl.getD sl.sets set []).erase v) }).evict k v) s

/-- Cache ways of a set of a slice on a die with `rw` resident ways. -/
def Slice.ways (sl : Slice) (rw set : Nat) : Nat := 12 - rw - b2n (bit (Tbl.getD sl.spare set 0).toNat 5)

/-- A die's resident ways replaced; what the resident region held is gone (R269). -/
def State.setWays (s : State) (d rw : Nat) : State :=
  { s.setDie d { s.die d with rw := rw } with mem := Memory.clear s.mem (2 * 2 ^ 40 + d * 2 ^ 26) (2 ^ 26) }

/-- The ways of a die's slices are assigned again: the resident region is cleared, and the caches shrink to what is left. -/
def State.assignWays (s : State) (d rw : Nat) : State :=
  (List.range 16).foldl (fun s i =>
    let k := d * 16 + i
    (s.slice k).sets.foldl (fun s e => s.trimSet k e.1 ((s.slice k).ways rw e.1) e.2) s) (s.setWays d rw)

/-- A binding that package management refuses: a reserved bit or source, or a bound result queue whose peer lies outside the
partition of the core (R29). -/
def State.qbindBad (s : State) (k : Nat) (v : Word64) : Bool :=
  let peer := 64 * (bitsOf v 3 2 + 4 * bitsOf v 5 3) + bitsOf v 8 6
  let q := s.part (s.core k).part
  bitsOf v 14 2 != 0 || bitsOf v 18 46 != 0 || bitsOf v 16 2 == 3 || !q.valid || !q.hasCore k ||
    (bit v.toNat 0 && !q.hasCore peer)

/-- A key list is signed with the vendor key of stage 0 (R367). The signature covers the SHA-256 digest of the list's digests, each
32 bytes big-endian (DESIGN CHOICE, log 21). -/
def keyListOk (keys : List Nat) (sig : EcSig) : Bool :=
  ecdsaOk Config.fusedKey (sha256 (keys.flatMap (beBytes 32))).toNat sig.r sig.s

/-- PM_REGISTER_WRITE. -/
def State.pmWrite (s : State) (r : PmReg) : State :=
  match r with
  | .budget k cap refill low =>
    let b := (s.core k).budget
    if 65535 < cap ∨ 255 < refill ∨ 65535 < low then s.refuse
    else s.setCore k { s.core k with budget :=
      { b with cap := BitVec.ofNat 16 cap, refill := BitVec.ofNat 8 refill, low := BitVec.ofNat 16 low } }
  | .residentWays d rw => if 8 < rw ∨ s.dieRuns d then s.refuse else s.assignWays d rw
  | .hostBase base => { s with endpoint := { s.endpoint with hostBase := base } }
  | .hostPage page opened =>
    let rest := s.endpoint.pages.filter (fun x => x != page)
    { s with endpoint := { s.endpoint with pages := if opened then insertNat page rest else rest } }
  | .qbind k n v => if s.qbindBad k v then s.refuse
    else s.setCore k { s.core k with qbind := vset (s.core k).qbind n (BitVec.ofNat 18 v.toNat) }
  | .keyList keys sig =>
    if 64 < keys.length ∨ !keyListOk keys sig then s.refuse else { s with boot := { s.boot with keys := keys } }
  | .flashUpdate img => { s with boot := { s.boot with device := !s.boot.used_, update := some img } }
  | .swapAck p =>
    let q := s.part p
    if q.swap.st = 1 then s.refuse else s.setPart p { q with swap := { q.swap with st := 0, cause := 0 } }

/-- The register's object exists. -/
def pmExists (r : PmReg) : Bool :=
  match r with
  | .budget k _ _ _ => decide (k < 2048)
  | .residentWays d _ => decide (d < 32)
  | .hostPage page _ => decide (page < 2 ^ 24)
  | .swapAck p => decide (p < 64)
  | .qbind k _ _ => decide (k < 2048)
  | .hostBase _ | .keyList _ _ | .flashUpdate _ => true

/-- PM_REGISTER_WRITE. -/
def execPmRegisterWrite (s : State) : Res :=
  match s.ev with
  | .pmRegisterWrite r => if pmExists r then .next (s.pmWrite r) else noObject
  | _ => .next s

end Sys2Proof.Machine
end

