-- ==== Sys2Proof/Machine/Fabric.lean ====
section
/-! DEFINITION. The ring and the die mesh (spec/16_fabric.md R311 to R317, R322 to R324; spec/18_program_mesh_chase.md R332,
R333; spec/22_platform.md R360, R363). -/

namespace Sys2Proof.Machine

open Sys2Proof

/-! ## Who owns a ring slot (R312 to R314) -/

/-- Entry `i` on lane `l` lies in a share. -/
def inShare (w : Word64) (i l : Nat) : Bool :=
  let off := (i + 1024 - bitsOf w 0 10) % 1024
  bit w.toNat (21 + l) && off % 2 ^ bitsOf w 25 4 == 0 && decide (off / 2 ^ bitsOf w 25 4 < bitsOf w 10 11)

/-- The partition in whose share an entry lies on a die, or none for a common entry. -/
def State.shareOwner (s : State) (d i l : Nat) : Option Nat :=
  (s.parts.find? (fun e => e.2.valid && e.2.hasDie d && inShare e.2.d2 i l)).map (fun e => e.1)

/-- Partitions with cores on a die. -/
def State.partsOn (s : State) (d : Nat) : List Nat := (s.parts.filter (fun e => e.2.valid && e.2.hasDie d)).map (fun e => e.1)

/-- Position of the slot with key lane·128 + n in cycle `c`. -/
def slotPos (c key : Nat) : Nat := (key + c) % 128

/-- The slot that passes position `p` on lane `l` in cycle `c`. -/
def slotKey (c l p : Nat) : Nat := l * 128 + (p + 128 - c % 128) % 128

/-- The identity of the slot at position `p` in cycle `c` (R312). -/
def slotId (c p : Nat) : Nat := (c + 1024 - p) % 1024

/-! ## A ring cycle (R311, R313, R315) -/

/-- A packet that a station took in this cycle, on a lane. -/
structure RingTake where
  lane : Nat
  pos  : Nat
  part : Nat
  deriving DecidableEq, Repr

/-- A packet with a number of a stream is ready once its number is within reach of the oldest without a reply (R325). -/
def State.mayNumber (s : State) (x : RingPkt) : Bool :=
  match x.flit with
  | none => true
  | some f =>
    match f.num with
    | none => true
    | some (sm, n) => (s.stream sm).inWindow n

/-- A packet takes its slot: its flit leaves, later by the cycles that it has waited (R315, R332). -/
def State.ringLeaves (s : State) (d : Nat) (x : RingPkt) : State :=
  match x.flit with
  | none => s
  | some f => s.injectAt d f.goal f.vc (f.head + (s.ringCyc - x.ready)) x.part f.kind f.num

/-- The slot passing station `x.src` on lane `l` admits the packet (R313); none of a partition in a swallowed period (R307), which
is the one before this tick. A packet lost with its lane takes the first empty slot that the spare brings past its source, before
any other packet there: its wait is at most 128 ring cycles (R363). -/
def State.ringAdmits (s : State) (d : Nat) (takes : List RingTake) (l : Nat) (x : RingPkt) : Bool :=
  let die := s.die d
  let i := slotId s.ringCyc x.src
  let own := ringOwner (die.ringEntry i) l
  let q := s.part x.part
  let level := if s.wall.toNat % 16 = 0 then q.levelWas else q.level
  let spare := die.spl.toNat == l
  (Tbl.get? die.slots (slotKey s.ringCyc l x.src)).isNone && decide (x.ready ≤ s.ringCyc) && s.mayNumber x &&
    (if x.again then spare
     else
       !(spare && die.queues.any (fun y => y.again)) && !swallowed level ((s.wall.toNat + 2 ^ 64 - 1) % 16) &&
         (own == x.src ||
           takes.any (fun t => t.lane == l && t.pos == x.src &&
             (match s.shareOwner d i l with
              | some p => p == x.part
              | none => t.part == x.part)) ||
           (own == 127 && !q.fl)))

/-- Stations place packets on a lane: each the oldest one that its slot admits. `seen` are the stations that have had
their turn on this lane. -/
def State.ringPlace (s : State) (d : Nat) (takes : List RingTake) (l : Nat) (seen : List Nat) : List RingPkt → State
  | [] => s
  | x :: rest =>
    if !seen.contains x.src && s.ringAdmits d takes l x then
      let die := s.die d
      ((s.setDie d { die with
        slots := Tbl.set die.slots (slotKey s.ringCyc l x.src) { x with again := false, flit := none }
        queues := die.queues.erase x }).ringLeaves d x).ringPlace d takes l
          (x.src :: seen) rest
    else s.ringPlace d takes l seen rest

/-- A station has taken a packet: what follows it, at the next die or as the answer, is ready at its station (R313). -/
def State.ringNext (s : State) (x : RingPkt) : State := s.ringWays x.part x.next

/-- One ring cycle of a die: stations take what is addressed to them and their input buffers have room for, the rest circling once
more, then place what they have ready, the answer to a packet just taken among it (R313). When a buffer is full is the device's own (DESIGN CHOICE, log 99). -/
def State.ringDie (s : State) (d : Nat) : State :=
  let die := s.die d
  let taken (e : Nat × RingPkt) : Bool := slotPos s.ringCyc e.1 == e.2.dst && !Config.ringFull d (e.1 / 128) s.ringCyc
  let here := die.slots.filter taken
  let takes := here.map (fun e => { lane := e.1 / 128, pos := e.2.dst, part := e.2.part : RingTake })
  let s1 := s.setDie d { die with slots := die.slots.filter (fun e => !taken e), taken := die.taken + here.length }
  let s2 := here.foldl (fun s e => s.ringNext e.2) s1
  (List.range 4).foldl (fun s l => s.ringPlace d takes l [] (s.die d).queues) s2

/-- RING_CYCLE: the ring of a die whose clocks are stopped stands still (R370). -/
def State.ringCycle (s : State) : State :=
  let ds := (s.dies.filter (fun e => !e.2.clockOff && (!e.2.slots.isEmpty || !e.2.queues.isEmpty))).map (fun e => e.1)
  let s1 := ds.foldl (fun s d => s.ringDie d) s
  { s1 with ringCyc := s1.ringCyc + 1 }

/-- RING_CYCLE. -/
def execRingCycle (s : State) : Res := .next s.ringCycle

/-! ## Ring errors (R317, R363) -/

/-- The faults of R317. The packet in the affected slot goes when its partition takes the fault. -/
def State.ringError (s : State) (d i l : Nat) (laneFailure : Bool) : State :=
  let ps := if laneFailure then s.partsOn d
    else match s.shareOwner d i l with
      | some p => [p]
      | none => s.partsOn d
  let die := s.die d
  let p := (s.ringCyc + 1024 - i) % 1024
  let hit (e : Nat × RingPkt) : Bool :=
    ps.contains e.2.part && e.1 / 128 == l && (laneFailure || (decide (p < 128) && e.1 == slotKey s.ringCyc l p))
  (s.setDie d { die with slots := die.slots.filter (fun e => !hit e) }).faultParts ps 0x43

/-- An error of the table entry read for a slot: one that the code corrects is counted, up to 65,535, and has no other effect
(R312, R316). -/
def State.ringTableErr (s : State) (d i l : Nat) (k : RingErr) : State :=
  match k with
  | .corrected =>
    let die := s.die d
    s.setDie d { die with cec := if die.cec = 0xFFFF then die.cec else die.cec + 1 }
  | .uncorrectable => s.ringError d i l false
  | .laneFailure => s.ringError d i l true

/-- RING_TABLE_ERROR (R312, R317). -/
def execRingTableError (s : State) : Res :=
  match s.ev with
  | .ringTableError d i l k => if 32 ≤ d ∨ 1024 ≤ i then noObject else .next (s.ringTableErr d i l.val k)
  | _ => .next s

/-- RING_LANE_FAILURE (R363): with `bad` set the failure is a ring table error. Otherwise the spare lane takes over and the lane's
packets are sent again by their sources, or, with the spare in use, `bad` is set. -/
def State.ringLaneFails (s : State) (d : Nat) (l : Fin 4) : State :=
  let die := s.die d
  if die.bad then s.now s.cur (.ringTableError d 0 l .laneFailure)
  else if die.spl = 7 then
    let lost := die.slots.filter (fun e => e.1 / 128 == l.val)
    s.setDie d { die with
      spl := BitVec.ofNat 3 l.val, slots := die.slots.filter (fun e => e.1 / 128 != l.val)
      queues := lost.map (fun e => { e.2 with again := true }) ++ die.queues }
  else s.setDie d { die with bad := true }

/-- RING_LANE_FAILURE. -/
def execRingLaneFailure (s : State) : Res :=
  match s.ev with
  | .ringLaneFailure d l => if 32 ≤ d then noObject else .next (s.ringLaneFails d l)
  | _ => .next s

/-! ## Router arbitration (R323, R324) -/

/-- An output at power-on; the first turn of each channel starts at the west input. -/
def OutState.reset : OutState := { cur := 0, used := 0, rr := Vector.replicate 4 4 }

/-- Weight of a channel in `meshcfg`. -/
def Die.weight (d : Die) (vc : Fin 4) : Nat := fld d.meshcfg.toNat (4 * vc.val) 4

/-- The promotion threshold. -/
def Die.threshold (d : Die) : Nat := fld d.meshcfg.toNat 16 10

/-- The head flit of a channel at an input in mesh cycle `g`: the one that has been head, or could be, the longest. -/
def headFlit (fs : List Flit) (g : Nat) (inp : Port) (vc : Fin 4) : Option Flit :=
  fs.foldl (fun best f =>
    if f.inp = inp ∧ f.vc = vc ∧ f.head ≤ g then
      match best with
      | none => some f
      | some b => if f.head < b.head then some f else some b
    else best) none

/-- All head flits of a router. -/
def headFlits (fs : List Flit) (g : Nat) : List Flit :=
  Port.all.flatMap (fun i => (List.finRange 4).filterMap (fun vc => headFlit fs g i vc))

/-- Flits that a router's input buffer holds of each channel: the 12 cycles that a flit and its credit take at 4 flits a cycle, and
what the device has more (R332, R333; DESIGN CHOICE, log 100). -/
def bufferDepth : Nat := 48 + Config.bufferExtra 0

/-- The buffer of a channel behind an output has a credit (R323). -/
def State.credit (s : State) (d : Nat) (out : Port) (vc : Fin 4) : Bool :=
  out.leaves d ||
    decide (((s.die (out.nextDie d)).flits.filter (fun f => f.inp == out.facing && f.vc == vc)).length < bufferDepth)

/-- The head flits that an output may grant: they want it, and the buffer behind it has a credit (R323). A packet is one flit, so no
other packet holds the channel. A disabled or retraining link grants nothing (R360). -/
def State.eligible (s : State) (d g : Nat) (out : Port) : List Flit :=
  let die := s.die d
  if die.linksOff.contains out || (Tbl.get? die.linkBack out.idx.val).isSome then []
  else (headFlits die.flits g).filter (fun f => route f.vc f.die f.goal == out && s.credit d out f.vc)

/-- A flit counts as promoted. -/
def Die.promotes (d : Die) (f : Flit) : Bool := f.promoted || decide (d.threshold ≤ f.age)

/-- Inputs whose turn comes next, after the one served last. -/
def turnOrder (last : Fin 5) : List (Fin 5) := [last + 1, last + 2, last + 3, last + 4, last]

/-- The flit of a channel whose input's turn it is. -/
def byTurn (fs : List Flit) (last : Fin 5) : Option Flit :=
  (turnOrder last).findSome? (fun i => fs.find? (fun f => f.inp.idx == i))

/-- One grant of an output (R323): the flit, and the arbiter after it. -/
def grant (d : Die) (fs : List Flit) (o : OutState) : Option (Flit × OutState) :=
  let served (o : OutState) (f : Flit) : Flit × OutState := (f, { o with rr := vset o.rr f.vc f.inp.idx })
  let pro := fs.filter d.promotes
  let age := pro.foldl (fun n f => Nat.max n f.age) 0
  let oldest := pro.filter (fun f => f.age == age)
  let onVc (v : Fin 4) : List Flit := fs.filter (fun f => f.vc == v)
  if pro ≠ [] then
    ((List.finRange 4).findSome? (fun v => byTurn (oldest.filter (fun f => f.vc == v)) (vget o.rr v))).map (served o)
  else if onVc o.cur ≠ [] ∧ o.used < d.weight o.cur then
    (byTurn (onVc o.cur) (vget o.rr o.cur)).map (served { o with used := o.used + 1 })
  else
    match [o.cur + 1, o.cur + 2, o.cur + 3, o.cur].find? (fun v => onVc v != []) with
    | none => none
    | some v => (byTurn (onVc v) (vget o.rr v)).map (served { o with cur := v, used := 1 })

/-! ## What a flit does at its goal (R332) -/

/-- A request has reached the die it was sent to: the slice that performs it, or one that sends it on because another die does by
now. The endpoint takes a time of its own (R284; DESIGN CHOICE, log 20). -/
def State.requestArrives (s : State) (f : Flit) (r : TaskRef) (x : Access) : State :=
  let e : Ev := .requestAtHome (s.seqStream r.core) x.seq
  let goal := s.performDie r.core x (s.taskOf r).ts
  if f.goal = 32 then (s.atTick (seqAt r) (s.tickOf r.core + 1 + Config.elasticExtra s.fresh) e).bump
  else if goal = f.goal then s.soon [.event (seqAt r) e]
  else s.inject f.goal goal 0 0 f.part f.kind

/-- A code fetch has reached its line's home, which reads it as R332 gives (R284). -/
def State.fetchArrives (s : State) (f : Flit) (who : Cur) (c : CacheSel) (pin : Option Bool) (va pa : Nat) : State :=
  let e : Ev := .codeCacheFill who.core c va pin
  let late := if s.sliceHolds pa then 24 else 256
  if f.goal = 32 then (s.atTick who (s.tickOf who.core + 1 + Config.elasticExtra s.fresh) e).bump
  else
    s.send f.goal (homeStation pa).2 (dieOf who.core) (s.physOf who.core) 2 f.part 64 (fun _ => late - 8) [] (fun _ => .carries who e) true

/-- What a flit does where it is granted: at its goal's local output, or out of the mesh to the I/O die. -/
def State.arriveDo (s : State) (f : Flit) : State :=
  match f.kind with
  | .request r =>
    match (s.taskOf r).accReq with
    | none => s
    | some x => s.requestArrives f r x
  | .store r n =>
    match (s.storesOf r).find? (fun x => x.seq == n) with
    | none => s
    | some x => s.requestArrives f r x
  | .fetch who c pin va pa => s.fetchArrives f who c pin va pa
  | .traffic back n =>
    (List.range n).foldl (fun s j => s.inject f.goal back 2 (16 + 2 * j) f.part (.traffic back 0)) s
  | .reply r => s.atTick (seqAt r) (s.tickOf r.core + 5) (.loadReply r)
  | .commit k id _ last => if last then s.soon [.event (engAt k .transfer) (.publishCommit k id)] else s
  | .carries who (.barrierRequestArrival r) => s.atTick who (s.tickOf r.home + 1) (.barrierRequestArrival r)
  | .carries who (.codeCacheFill k c va pin) => s.atTick who (s.tickOf k + 5) (.codeCacheFill k c va pin)
  | .carries who e => s.soon [.event who e]
  | .commitAck k id => s.atTick (engAt k .transfer) (s.tickOf k + 5) (.stepComplete k id)

/-- A flit of a task's request, whose number its home judges (R325). -/
def FlitKind.ofTask (k : FlitKind) : Bool :=
  match k with
  | .request _ | .store _ _ => true
  | .reply _ | .commit _ _ _ _ | .commitAck _ _ | .fetch _ _ _ _ _ | .traffic _ _ | .carries _ _ => false

/-- A flit has arrived. A numbered request takes effect once: its number is performed, and it is answered with that; one performed
before has no effect, and one too old is a protocol error (R325; DEDUCED, log 101). -/
def State.arrive (s : State) (f : Flit) : State :=
  match f.num with
  | none => s.arriveDo f
  | some (sm, n) =>
    let y := s.stream sm
    if f.kind.ofTask then s.arriveDo f
    else if y.performed n then s
    else if y.tooOld n then s.now s.cur (.linkProtocolError f.part)
    else (s.setStream sm { y.perform n with msgs := y.msgs.filter (fun m => m.num != n) }).arriveDo f

/-- A flit granted at an output in cycle `g` is head at the next router in cycle g + 6, or has arrived. -/
def State.forward (s : State) (g : Nat) (f : Flit) (out : Port) : State :=
  let d := s.die f.die
  let s1 := s.setDie f.die { d with flits := d.flits.erase f }
  if out.leaves f.die then s1.arrive f
  else
    let n := out.nextDie f.die
    let x := s1.die n
    s1.setDie n { x with flits := x.flits ++
      [{ f with die := n, inp := out.facing, head := g + 6, age := 0, promoted := false }] }

/-- One lane of one output. -/
def State.meshGrant (s : State) (g d : Nat) (out : Port) : State :=
  let die := s.die d
  match grant die (s.eligible d g out) (Tbl.getD die.outs out.idx.val OutState.reset) with
  | none => s
  | some (f, o) => (s.setDie d { die with outs := Tbl.set die.outs out.idx.val o }).forward g f out

/-- The first flits equal to those of a list, which heads are, are changed; those behind them wait. -/
def onHeads (h : Flit → Flit) : List Flit → List Flit → List Flit
  | _, [] => []
  | hs, f :: fs => if hs.contains f then h f :: onHeads h (hs.erase f) fs else f :: onHeads h hs fs

/-- The heads that are left wait one more cycle (R324, R333). -/
def Die.ageHeads (d : Die) (g : Nat) : Die :=
  { d with flits := onHeads (fun f => { f with age := Nat.min 1023 (f.age + 1) }) (headFlits d.flits g) d.flits }

/-- Heads that reach the threshold are promoted. -/
def Die.promotions (d : Die) (k g : Nat) : List Job :=
  ((headFlits d.flits g).filter (fun f => d.promotes f && !f.promoted)).map (fun f =>
    .event { core := k * 64, slot := 0, unit := .seq } (.flitPromotion k (route f.vc f.die f.goal) f.vc.val))

/-- MESH_CYCLE (R322 to R324): four grants at each output of each router, then the ages. A router whose die's clocks are stopped
stands still (R370). -/
def State.meshCycle (s : State) : State :=
  let g := s.meshCyc
  let ds := (s.dies.filter (fun e => !e.2.clockOff && !e.2.flits.isEmpty)).map (fun e => e.1)
  let s1 := (List.range 4).foldl (fun s _ =>
    ds.foldl (fun s d => Port.all.foldl (fun s out => s.meshGrant g d out) s) s) s
  let s2 := ds.foldl (fun s d => s.setDie d ((s.die d).ageHeads g)) s1
  let s3 : State := { s2 with meshCyc := g + 1 }
  s3.soon (ds.flatMap (fun d => (s3.die d).promotions d g))

/-- MESH_CYCLE. -/
def execMeshCycle (s : State) : Res := .next s.meshCycle

/-- FLIT_PROMOTION (R324): the heads of a channel that want an output and have reached the threshold. -/
def execFlitPromotion (s : State) : Res :=
  match s.ev with
  | .flitPromotion d out vc =>
    let die := s.die d
    if 32 ≤ d then noObject
    else
      let hs := (headFlits die.flits s.meshCyc).filter (fun f =>
        f.vc.val == vc && route f.vc f.die f.goal == out && decide (die.threshold ≤ f.age))
      .next (s.setDie d { die with flits := onHeads (fun f => { f with promoted := true }) hs die.flits })
  | _ => .next s

/-! ## Mesh links (R360) -/

/-- A flit is on its way over the link of output `out` of a die. -/
def State.crossing (s : State) (out : Port) (f : Flit) : Bool := f.inp == out.facing && decide (s.meshCyc < f.head)

/-- Partitions with traffic in flight on an output of a die: waiting for it, or on the link. -/
def State.meshUsers (s : State) (d : Nat) (out : Port) : List Nat :=
  let waiting := (s.die d).flits.filter (fun f => route f.vc f.die f.goal == out)
  let onLink := if out.leaves d then [] else (s.die (out.nextDie d)).flits.filter (s.crossing out)
  (waiting ++ onLink).foldl (fun ps f => insertNat f.part ps) []

/-- The flits on a link are there at a mesh cycle: while a link retrains they are sent again (R360). -/
def State.holdLink (s : State) (d : Nat) (out : Port) (head : Nat) : State :=
  if out.leaves d then s
  else
    let n := out.nextDie d
    let x := s.die n
    s.setDie n { x with flits := x.flits.map (fun f => if s.crossing out f then { f with head := head } else f) }

/-- A mesh link is disabled: every partition with traffic on it takes fault 0x42. -/
def State.meshLinkOff (s : State) (d : Nat) (out : Port) : State :=
  let die := s.die d
  (s.setDie d { die with
    linksOff := if die.linksOff.contains out then die.linksOff else die.linksOff ++ [out]
    linkBack := Tbl.erase die.linkBack out.idx.val }).soon
    ((s.meshUsers d out).map (fun p => .event s.cur (.linkProtocolError p)))

/-- A lane of a mesh link fails: the spare is brought in and the link retrains for at most 2048 mesh cycles, or the link is
disabled. -/
def State.meshLaneFails (s : State) (d : Nat) (out : Port) : State :=
  let die := s.die d
  if die.linksOff.contains out then s
  else if Tbl.getD die.spares out.idx.val false then s.meshLinkOff d out
  else
    let due := s.wall.toNat + 1024
    ((s.setDie d { die with
      spares := Tbl.set die.spares out.idx.val true
      linkBack := Tbl.set die.linkBack out.idx.val (s.meshCyc + 2048) }).holdLink d out (s.meshCyc + 2054)).atWall due (.linkRetrainDone (.mesh d out) true)

/-- MESH_LANE_FAILURE (R360). -/
def execMeshLaneFailure (s : State) : Res :=
  match s.ev with
  | .meshLaneFailure l =>
    if !l.present then noObject
    else
      match l with
      | .mesh d out => .next (s.meshLaneFails d out)
      | .port p => .next (s.portLaneFails p)
  | _ => .next s

/-- LINK_RETRAIN_DONE (R326, R360): the link comes back, or is declared failed. -/
def execLinkRetrainDone (s : State) : Res :=
  match s.ev with
  | .linkRetrainDone l up =>
    if !l.present then noObject
    else
      match l with
      | .port p => .next (s.portTrained p up)
      | .mesh d out =>
        let die := s.die d
        if (Tbl.get? die.linkBack out.idx.val).isNone then .next s
        else if up then
          .next ((s.setDie d { die with linkBack := Tbl.erase die.linkBack out.idx.val }).holdLink d out (s.meshCyc + 6))
        else .next (s.meshLinkOff d out)
  | _ => .next s

end Sys2Proof.Machine
end

