-- ==== Sys2Proof/Machine/Matrix.lean ====
section
/-! DEFINITION. The matrix step words and the engine's landings (spec/08_matrix_steps.md R174 to R196; spec/
13_program_tag_bag.md R286; spec/10_walker.md R234). A step that takes its rows or accumulator rows one at a time issues
again for each of them, counted in `progress`, and moves the upc with the last. -/

namespace Sys2Proof.Machine

/-! ## The step frame -/

/-- The acting core's matrix unit replaced. -/
def State.setMat (s : State) (m : MatUnit) : State := s.setMe { s.me with mat := m }

/-- A matrix step faults at issue, or at the row it has reached. -/
def State.matFault (s : State) (cause : Nat) : State := s.engFault .matrix cause 0 0 0

/-- The step is over: the upc moves past its `len` words and the next step may issue from `at_` on. A run whose task has ended
stops here (R339). -/
def State.matNext (s : State) (len at_ : Nat) : State :=
  let c := s.me.stepRun .matrix len at_
  let r := c.runOf .matrix
  s.setMe { c.setRun .matrix { r with ending := r.ending || r.orphan } with mat := { c.mat with progress := 0 } }

/-- The step goes on: it issues again from `at_` on, with `n` of its parts done. -/
def State.matStay (s : State) (n at_ : Nat) : State :=
  let c := s.me
  s.setMe { c.setRun .matrix { c.runOf .matrix with nextAt := at_ } with mat := { c.mat with progress := n } }

/-- The step waits for the open bag (R188). -/
def State.bagHolds (s : State) : Bool := s.me.mat.progress == 0 && s.me.mat.bagBusy s.tick

/-- A publish is copying into a granule of the place's bytes [o, o + n): the access waits (R265). -/
def State.granulesBusy (s : State) (p : Place) (o n : Nat) : Bool := s.me.publishing s.tick (p.byte o) n

/-- An accumulator range leaves its view (R179). -/
def rangeOut (exact : Bool) (first n : Nat) : Bool := decide (accRows exact < first + n)

/-- The scales of one row or entry. -/
inductive Scales where
  | taken (xs : List Byte)
  | wait
  | missing
  deriving DecidableEq, Repr

/-- What the scale queue says to a row (R191). -/
def Core.rowScales (c : Core) : Scales :=
  let n := c.mat.scales
  if n ≤ c.scaleQ.length then .taken (c.scaleQ.take n) else if c.scalesComing then .wait else .missing

/-- The core without the scales that a row took. -/
def Core.dropScales (c : Core) (xs : List Byte) : Core := { c with scaleQ := c.scaleQ.drop xs.length }

/-! ## Formats and B (R176, R182) -/

/-- A combination of R176. -/
def comboOk (af bf : BitVec 4) (ex : Bool) : Bool :=
  (tapered af && tapered bf) || (af == 2 && bf == 2) || (af == 3 && bf == 3 && !ex)

/-- R176. -/
def execMfmt (af bf : BitVec 4) (ex : Bool) (s : State) : Res :=
  if s.bagHolds then .next s
  else if !tileFmtCode af.toNat || !tileFmtCode bf.toNat then .next (s.matFault 0x03)
  else if !comboOk af bf ex then .next (s.matFault 0x05)
  else .next ((s.setMat { s.me.mat with af := af, bf := bf, ex := ex }).matNext 1 (s.tick + 1))

/-- Every earlier pass has entered the array (R175). -/
def MatUnit.allEntered (m : MatUnit) (tick : Nat) : Bool := m.passes.all (fun p => decide (p.at_ ≤ tick + 130))

/-- The copy of a tile register as the new B (R182): passes enter no earlier than 16 ticks later (R175). A `tdesc` that gives more
than the 128 rows or columns that a tile register holds (R20) gives 128 (DESIGN CHOICE, log 141). -/
def State.loadB (s : State) (tn : TileReg) (scales : Memory) (len : Nat) : State :=
  let c := s.me
  let m := c.mat
  let d := (vget c.tdesc tn).toNat
  (s.setMat { m with
    b := Memory.window c.tiles (32768 * tn.val) 32768, bk := Nat.min 128 (fld d 0 8 + 1), bn := Nat.min 128 (fld d 8 8 + 1), bfmt := m.bf
    bscale := scales, btile := tn, entered := Nat.max m.entered (s.tick + 16) }).matNext len (s.tick + 1)

/-- The descriptor of a tile register names another format than bf (R176). -/
def Core.tdescOther (c : Core) (tn : TileReg) : Bool := decide (fld (vget c.tdesc tn).toNat 16 4 ≠ c.mat.bf.toNat)

/-- R182 without scales. -/
def execMldb (tn : TileReg) (s : State) : Res :=
  let c := s.me
  if s.bagHolds then .next s
  else if c.tdescOther tn then .next (s.matFault 0x05)
  else if !c.mat.allEntered s.tick || c.tileComing tn then .next s
  else .next (s.loadB tn [] 1)

/-- R182 with scales. The format fault 0x05 of the tile register comes after the 0x0A of the scales (DESIGN CHOICE, log 126). -/
def execMldbScaled (tn : TileReg) (sc : SpadAddr) (s : State) : Res :=
  let c := s.me
  let p := c.placeOf sc
  if s.bagHolds then .next s
  else
    match firstOf [(!tapered c.mat.bf, 0x03), (!p.fits p.off 512, 0x0A), (c.tdescOther tn, 0x05)] with
    | some cause => .next (s.matFault cause)
    | none =>
      match s.admitTile p p.off 512 with
      | .fault cause => .next (s.matFault cause)
      | .wait => .next s
      | .go =>
        if !c.mat.allEntered s.tick || c.tileComing tn then .next s
        else
          let s1 := s.loadB tn (Memory.window c.scratch (p.byte p.off) 512) 2
          .next (s1.setMe (s1.me.holdTile p s.tick))

/-! ## Dense rows (R183) -/

/-- A source format other than af, or a loaded B of another format than bf (R176). -/
def MatUnit.rowFmtBad (m : MatUnit) (f : Fmt) : Bool := f != fmtOf m.af || m.bfmt != m.bf

/-- The element size of af that a row start must be a multiple of. -/
def MatUnit.align (m : MatUnit) : Nat := if tapered m.af then 1 else 2

/-- Row `r` of an `mrows` is fetched: it enters 2 ticks later. -/
def State.mrowsRow (s : State) (p : Place) (stride n dst r len : Nat) (steer : Bool) : State :=
  let c := s.me
  let m := c.mat
  let o := p.off + r * stride
  let kept := if r = 0 then s else s.setMe (c.holdTile p (s.tick + 1))
  if s.granulesBusy p o m.rowLen then kept
  else
    match c.rowScales with
    | .wait => kept
    | .missing => s.matFault 0x0C
    | .taken xs =>
      let bs := c.spRead (p.byte o) m.rowLen
      let c1 := ((c.dropScales xs).enterRow (s.tick + 2) (dst + r) steer false bs (m.dense bs) xs).holdTile p
        (if r + 1 < n then s.tick + m.rate else s.tick)
      let s1 := s.setMe c1
      if r + 1 < n then s1.matStay (r + 1) (s.tick + m.rate) else s1.matNext len (s.tick + m.rate)

/-- R183. -/
def execMrows (st : Bool) (n : BitVec 11) (dst : BitVec 10) (a : SpadAddr) (pitch : Option (BitVec 17)) (s : State) : Res :=
  let c := s.me
  let m := c.mat
  let p := c.placeOf a
  let pv := match pitch with
    | some x => x.toNat
    | none => 0
  let stride := if pv = 0 then m.rowLen else pv
  let len := if pitch.isSome then 3 else 2
  let go : State := s.mrowsRow p stride n.toNat dst.toNat m.progress len st
  if s.bagHolds then .next s
  else if m.progress ≠ 0 then .next go
  else
    let misaligned := p.off % m.align != 0 || (decide (1 < n.toNat) && stride % m.align != 0)
    match firstOf [(m.rowFmtBad (c.bankFmt p.bank), 0x05), (misaligned, 0x07),
        (!p.fits p.off ((n.toNat - 1) * stride + m.rowLen), 0x0A), (rangeOut m.ex dst.toNat n.toNat, 0x0A)] with
    | some cause => .next (s.matFault cause)
    | none =>
      match c.tileSay p with
      | .fault => .next (s.matFault 0x0B)
      | .wait => .next s
      | .go => .next go

/-! ## Queued rows (R184, R234) -/

/-- A row taken from a queue enters, or is discarded with a fault. A Carder row of another format than af takes no scales before its
fault (R191, R234). A step whose task has ended does not wait for rows that the
queue does not hold (R339; DESIGN CHOICE, log 128). -/
def State.mfeedRow (s : State) (q : QReg) (n dst r : Nat) (steer tagged : Bool) : State :=
  let c := s.me
  let m := c.mat
  match vget c.iq q with
  | [] => if (s.run .matrix).orphan then s.matNext 1 (s.tick + 1) else s
  | x :: rest =>
    if s.tick ≤ x.at_ then s
    else
      let other := match x.carder with
        | none => false
        | some (fmt, _, _) => fmt != m.af
      if other then (s.setMe { c with iq := vset c.iq q rest }).matFault 0x05
      else
      match c.rowScales with
      | .wait => s
      | .missing => s.matFault 0x0C
      | .taken xs =>
        let c1 := { c.dropScales xs with iq := vset c.iq q rest }
        let row := if tagged then m.curTag.toNat + x.tag.toNat else dst + r
        let elems := match x.carder with
          | none => m.dense x.bytes
          | some (_, cols, pres) => m.sparse x.bytes cols pres
        if accRows m.ex ≤ row then (s.setMe c1).matFault 0x13
        else
          let s1 := s.setMe (c1.enterRow (s.tick + 2) row steer false x.bytes elems xs)
          if r + 1 < n then s1.matStay (r + 1) (s.tick + 1) else s1.matNext 1 (s.tick + 1)

/-- R184. The format fault 0x05 of a loaded B comes after 0x0A and 0x11, whose order the entry gives without it (DESIGN CHOICE,
log 126). -/
def execMfeed (st tg : Bool) (q : QReg) (n : BitVec 11) (dst : BitVec 10) (s : State) : Res :=
  let c := s.me
  let m := c.mat
  let go : State := s.mfeedRow q n.toNat dst.toNat m.progress st tg
  if s.bagHolds then .next s
  else if m.progress ≠ 0 then .next go
  else
    match firstOf [(!tg && rangeOut m.ex dst.toNat n.toNat, 0x0A), (bitsOf (zx64 (vget c.qbind q)) 16 2 == 0, 0x11),
        (m.bfmt != m.bf, 0x05)] with
    | some cause => .next (s.matFault cause)
    | none => .next go

/-! ## Bags (R185 to R191) -/

/-- The entries of a list (R185). -/
def listEntries (bs : List Byte) (n : Nat) : List BagEntry :=
  (List.range n).map (fun i =>
    let w := leNat ((bs.drop (8 * i)).take 8)
    { idx := fld w 0 32, mid := fld w 32 16, tag := fld w 48 10, scale := [], fate := .waiting })

/-- Some entry has a nonzero must-be-0 bit. -/
def listBad (bs : List Byte) (n : Nat) : Bool :=
  (List.range n).any (fun i => leNat ((bs.drop (8 * i)).take 8) / 2 ^ 58 != 0)

/-- Bytes of a report (R186). -/
def reportLen (e : Nat) : Nat := 32 + 16 * ceilDiv e 64

/-- The next entry of the open bag is requested: at most one a tick, when the Picker has a slot and the scale queue its
scales (R175, R191, R319). A refused row is asked for again 16 ticks later (R112, R278). -/
def State.bagAsk (s : State) : State :=
  let c := s.me
  let m := c.mat
  let k := s.cur.core
  match m.bag with
  | none => s.matNext 4 (s.tick + 1)
  | some b =>
    match b.entries[b.asked]? with
    | none => s.matNext 4 (s.tick + 1)
    | some e =>
      let sh := shapeOf b.slot
      let va := wrapAddr (sh.base + e.idx * sh.rpitch)
      if !s.rowFree k va sh.rowbytes then s
      else
        match c.rowScales with
        | .wait => s
        | .missing => (s.dropBag k).matFault 0x0C
        | .taken xs =>
          let say := if va % m.align ≠ 0 || decide (b.e ≤ e.mid) then .free else s.rowSay k va sh.rowbytes
          if say = .refused then s.matStay 1 (s.tick + 16)
          else if say = .reserved then s.matStay 1 (s.tick + 1)
          else
          let b1 := { b with
            entries := b.entries.zipIdx.map (fun x => if x.2 = b.asked then { x.1 with scale := xs } else x.1)
            asked := b.asked + 1 }
          let s1 := s.setMe { c.dropScales xs with mat := { m with bag := some b1 } }
          let pre := if b.e ≤ e.mid then some (0x0A, 0) else none
          let (s2, st) := s1.askRow k none b.asked va sh.rowbytes m.align b.stamp (s.run .matrix).cfg.leaselen.toNat pre
          let s3 := s2.setMat { s2.me.mat with
            bag := some { b1 with stamp := Nat.max b1.stamp st }, stamp := Nat.max s2.me.mat.stamp st }
          if b1.asked < b1.entries.length then s3.matStay 1 (s.tick + 1) else s3.matNext 4 (s.tick + 1)

/-- The step stamp at issue: the task's ts (R279). -/
def State.matTs (s : State) : Nat := (s.me.task (s.run .matrix).owner).ts

/-- R186: the list is read and checked at issue, and the entries are requested from the next tick on. The tile state, 0x0B, is tested
after alignment and bounds and before what the list and the slot hold, since the list is read only then (DESIGN CHOICE, log 126). A report in tile form has its address fixed here, and nothing holds its
tile until the report is written (DESIGN CHOICE, log 140). -/
def execMbag (st : Bool) (sl : ShReg) (list : SpadAddr) (n e : BitVec 13) (rep : SpadAddr) (s : State) : Res :=
  let c := s.me
  let m := c.mat
  let p := c.placeOf list
  let q := c.placeOf rep
  let sh := shapeOf (vget c.sh sl)
  if m.progress ≠ 0 then .next s.bagAsk
  else if s.bagHolds || c.slotBusy sl then .next s
  else
    let bs := c.spRead (p.byte p.off) (8 * n.toNat)
    match firstOf [(m.bag.isSome, 0x03), (p.off % 8 != 0 || q.off % 16 != 0, 0x07),
        (!p.fits p.off (8 * n.toNat) || !q.fits q.off (reportLen e.toNat), 0x0A)] with
    | some cause => .next (s.matFault cause)
    | none =>
      match s.admitTile p p.off (8 * n.toNat), c.tileSay q with
      | .fault cause, _ => .next (s.matFault cause)
      | _, .fault => .next (s.matFault 0x0B)
      | .wait, _ => .next s
      | _, .wait => .next s
      | .go, .go =>
        let es := listEntries bs n.toNat
        match firstOf [(m.rowFmtBad sh.fmt, 0x05), (decide (sh.rowbytes ≠ m.rowLen), 0x0A), (listBad bs n.toNat, 0x0A),
            (es.any (fun x => decide (accRows m.ex ≤ m.curTag.toNat + x.tag)), 0x13)] with
        | some cause => .next (s.matFault cause)
        | none =>
          let report : SpadAddr :=
            { off := BitVec.ofNat 17 q.off, bank := BitVec.ofNat 4 q.bank, tile := 0, tf := false }
          let b : Bag :=
            { entries := es, e := e.toNat, base := m.curTag.toNat, steer := st, report := report, slot := vget c.sh sl,
              asked := 0, stamp := s.matTs, till := 0 }
          let c1 := { c.holdTile p s.tick with mat := { m with bag := some b, stamp := Nat.max m.stamp s.matTs } }
          .next ((s.setMe c1).matStay 1 (s.tick + 1))
/-- BAG_ROW_ARRIVAL (R187). -/
def execBagRowArrival (s : State) : Res :=
  match s.ev with
  | .bagRowArrival k pos r => .next (s.setCore k ((s.core k).bagArrive (s.tickOf k) pos r))
  | _ => .next s

/-- ROW_PASS_LAND (R180). -/
def execRowPassLand (s : State) : Res :=
  match s.ev with
  | .rowPassLand k => .next (s.setCore k ((s.core k).landPass (s.tickOf k)))
  | _ => .next s

/-- Every earlier effect has landed, in an earlier tick (R175, R193). -/
def State.matSettled (s : State) : Bool :=
  let m := s.me.mat
  decide (m.settled ≤ s.tick) && m.passes.isEmpty && m.writes.isEmpty

/-- R189. -/
def execMclose (s : State) : Res :=
  let m := s.me.mat
  if m.bagBusy s.tick || !s.matSettled then .next s
  else
    match m.bag with
    | none => .next (s.matNext 1 (s.tick + 1))
    | some b =>
      if s.me.publishing s.tick (spByte b.report.bank.toNat b.report.off.toNat) (reportLen b.e) then .next s
      else .next ((s.setMe (s.me.closeBag s.tick)).matNext 1 (s.tick + 1))

/-! ## Accumulator rows (R192) -/

/-- Every earlier accumulator update has landed, in an earlier tick (R175). -/
def State.accQuiet (s : State) : Bool := decide (s.me.mat.accFree ≤ s.tick) && s.me.mat.passes.isEmpty

/-- Row `r` of `n` of a step on accumulator rows is done; its last write to the accumulator or the scratchpad comes `late`
ticks from now. -/
def State.accRowDone (s : State) (r n len late : Nat) : State :=
  let m := s.me.mat
  let s1 := s.setMat { m with settled := Nat.max m.settled (s.tick + late + 1), accFree := Nat.max m.accFree (s.tick + 1) }
  if r + 1 < n then s1.matStay (r + 1) (s.tick + 1) else s1.matNext len (s.tick + 1)

/-- Bytes of one accumulator row of a view (R16). -/
def accRowLen (exact : Bool) : Nat := if exact then 2048 else 512

/-- Row `i` of a view set to 0 bytes. -/
def Core.clearRow (c : Core) (exact : Bool) (i : Nat) : Core :=
  c.accWrite .matrix (accAt exact i 0) (zeroBytes (accRowLen exact))

/-- R192: `mclr`. -/
def execMclr (vw : Bool) (n : BitVec 11) (first : BitVec 10) (s : State) : Res :=
  let r := s.me.mat.progress
  if s.bagHolds then .next s
  else if r = 0 && rangeOut vw first.toNat n.toNat then .next (s.matFault 0x0A)
  else if r = 0 && !s.accQuiet then .next s
  else .next ((s.setMe (s.me.clearRow vw (first.toNat + r))).accRowDone r n.toNat 1 0)

/-- The target or source format of a drain or fill. -/
def drainFmt (h : Bool) : Fmt := if h then .fp16 else .fp32

/-- The checks of `mfill` and `mdrain` (R179, R192). -/
def Core.accFault (c : Core) (p : Place) (h vw : Bool) (n first : Nat) : Option Nat :=
  let f := drainFmt h
  let es := f.bits / 8
  firstOf [(c.bankFmt p.bank != .raw && c.bankFmt p.bank != f, 0x05), (p.off % es != 0, 0x07),
    (!p.fits p.off (n * 128 * es), 0x0A), (rangeOut vw first n, 0x0A)]

/-- Row `r` of an `mdrain`: read now, written 2 ticks later. -/
def State.mdrainRow (s : State) (p : Place) (clr h vw : Bool) (n first r : Nat) : State :=
  let c := s.me
  let f := drainFmt h
  let w := 128 * (f.bits / 8)
  if s.granulesBusy p (p.off + r * w) w then s
  else
    let es := (List.range 128).map (fun j =>
      accOut vw f (leNat (Memory.load c.acc (accAt vw (first + r) j) (accBytes vw))))
    let bytes := es.flatMap (fun e => leBytes (f.bits / 8) e.1)
    let fl := es.foldl (fun acc e => acc ||| e.2) 0
    let c1 := if clr then c.clearRow vw (first + r) else c
    let last := r + 1 == n
    let m := c1.mat
    let c2 := { c1 with mat := { m with
      flags := m.flags ||| flagsToMat fl, writes := m.writes ++ [(s.tick + 2, p.byte (p.off + r * w), bytes)]
      fillTile := match p.tile with
        | some t => if last then m.fillTile ++ [(t, s.tick + 3)] else m.fillTile
        | none => m.fillTile } }
    (s.setMe c2).accRowDone r n 2 2

/-- R192: `mdrain`. In tile form it waits until its tile is empty or ready with no admitted access, fills it, and leaves it
ready in the tick from which its last byte is read. -/
def execMdrain (clr h vw : Bool) (n : BitVec 11) (first : BitVec 10) (a : SpadAddr) (s : State) : Res :=
  let c := s.me
  let p := c.placeOf a
  let r := c.mat.progress
  if s.bagHolds then .next s
  else if r ≠ 0 then .next (s.mdrainRow p clr h vw n.toNat first.toNat r)
  else
    match c.accFault p h vw n.toNat first.toNat with
    | some cause => .next (s.matFault cause)
    | none =>
      if !s.accQuiet || s.granulesBusy p p.off (n.toNat * 128 * ((drainFmt h).bits / 8)) then .next s
      else
        match p.tile with
        | none => .next (s.mdrainRow p clr h vw n.toNat first.toNat 0)
        | some t =>
          let e := vget c.tt t
          if (e.st = .empty ∨ e.st = .ready) ∧ !c.tileHeld t s.tick then
            let s1 := s.setMe { c with tt := vset c.tt t { e with st := .filling } }
            .next (s1.mdrainRow p clr h vw n.toNat first.toNat 0)
          else .next s

/-- R192: row `r` of an `mfill`. -/
def State.mfillRow (s : State) (p : Place) (h vw : Bool) (n first r : Nat) : State :=
  let c := s.me
  let f := drainFmt h
  let w := 128 * (f.bits / 8)
  if s.granulesBusy p (p.off + r * w) w then (if r = 0 then s else s.setMe (c.holdTile p (s.tick + 1)))
  else
    let es := (unpackRow f (c.spRead (p.byte (p.off + r * w)) w) 128).map (accIn vw f)
    let fl := es.foldl (fun acc e => acc ||| e.2) 0
    let c1 := (c.accWrite .matrix (accAt vw (first + r) 0) (es.flatMap (fun e => leBytes (accBytes vw) e.1))).holdTile p
      (if r + 1 < n then s.tick + 1 else s.tick)
    (s.setMe { c1 with mat := { c1.mat with flags := c1.mat.flags ||| flagsToMat fl } }).accRowDone r n 2 0

/-- R192: `mfill`. -/
def execMfill (h vw : Bool) (n : BitVec 11) (first : BitVec 10) (a : SpadAddr) (s : State) : Res :=
  let c := s.me
  let p := c.placeOf a
  let r := c.mat.progress
  if s.bagHolds then .next s
  else if r ≠ 0 then .next (s.mfillRow p h vw n.toNat first.toNat r)
  else
    match c.accFault p h vw n.toNat first.toNat with
    | some cause => .next (s.matFault cause)
    | none =>
      match s.admitTile p p.off (n.toNat * 128 * ((drainFmt h).bits / 8)) with
      | .fault cause => .next (s.matFault cause)
      | .wait => .next s
      | .go => if s.accQuiet then .next (s.mfillRow p h vw n.toNat first.toNat 0) else .next s

/-! ## Tag base, completion, flags, charging (R190, R193 to R196) -/

/-- R190. -/
def execMtagb (base : BitVec 10) (s : State) : Res :=
  .next ((s.setMat { s.me.mat with curTag := base }).matNext 1 (s.tick + 1))

/-- The matrix flags merge into the `fflags` of the run's task (R31, R49). -/
def State.mergeMatFlags (s : State) : State :=
  let i := (s.run .matrix).owner
  s.setMe (s.me.setTask i ((s.me.task i).mergeFlags s.tick (matToFlags s.me.mat.flags)))

/-- The stamp that a completed matrix step gives its task and token (R276). -/
def State.matStamp (s : State) : Nat := Nat.max s.me.mat.stamp (s.me.task (s.run .matrix).owner).ts

/-- R193. It claims its token when it issues, and completes in the tick after the last earlier effect has landed. Of a task that has
ended it has no effect (R339). -/
def execMsync (kv : Bool) (k : Tok) (s : State) : Res :=
  let m := s.me.mat
  let i := (s.run .matrix).owner
  let t := s.me.task i
  if (s.run .matrix).orphan then .next (s.matNext 1 (s.tick + 1))
  else if s.bagHolds || (kv && m.progress == 0 && vget t.pend k == 0xFF) then .next s
  else
    let s1 := if kv && m.progress == 0 then s.setMe (s.me.setTask i (t.claimToken k)) else s
    if !s1.matSettled then .next (s1.matStay 1 (s.tick + 1))
    else
      let s2 := s1.mergeMatFlags
      if matToFlags m.flags &&& (s.run .matrix).cfg.trapen ≠ 0 then .next (s2.matFault 0x0E)
      else
        let t2 := s2.me.task i
        let t3 := { t2 with doneStamp := Nat.max t2.doneStamp s.matStamp }
        let t4 := if kv then t3.settleToken k s.matStamp s.tick else t3
        .next ((s2.setMe (s2.me.setTask i t4)).matNext 1 (s.tick + 1))

/-- R194. -/
def execMflags (clear : BitVec 5) (a : SpadAddr) (s : State) : Res :=
  let c := s.me
  let m := c.mat
  let p := c.placeOf a
  if s.bagHolds then .next s
  else
    match firstOf [(p.off % 4 != 0, 0x07), (!p.fits p.off 4, 0x0A)] with
    | some cause => .next (s.matFault cause)
    | none =>
      match s.admitTile p p.off 4 with
      | .fault cause => .next (s.matFault cause)
      | .wait => .next s
      | .go =>
        if !s.matSettled then .next s
        else
          let s1 := s.mergeMatFlags
          if matToFlags m.flags &&& (s.run .matrix).cfg.trapen ≠ 0 then .next (s1.matFault 0x0E)
          else
            let c1 := s1.me.spWrite .matrix (p.byte p.off) (leBytes 4 m.flags.toNat)
            let m1 := { c1.mat with flags := m.flags &&& ~~~clear, settled := Nat.max m.settled (s.tick + 1) }
            .next ((s1.setMe { c1.holdTile p s.tick with mat := m1 }).matNext 2 (s.tick + 1))

/-- R195. -/
def execMcharge (fx : Bool) (units : BitVec 4) (s : State) : Res :=
  if !fx && units != 0 then .next (s.matFault 0x03)
  else .next ((s.setMat { s.me.mat with fx := fx, units := units }).matNext 1 (s.tick + 1))

/-- R196: the run ends once every earlier step has taken effect, an open bag closing as `mclose` closes it. -/
def execMexit (s : State) : Res := .next (s.setMe (s.me.exitRun .matrix 1 (s.tick + 1)))

end Sys2Proof.Machine
end

