-- ==== Sys2Proof/Machine/Platform.lean ====
section
/-! DEFINITION. The host endpoint, boot, attestation, power and the spares that the device brings in by itself
(spec/16_fabric.md R330; spec/22_platform.md R360 to R370). -/

namespace Sys2Proof

/-- A number in a reading; nothing is drawn where none is given. -/
def readingOf (xs : List (Nat × Nat)) (k : Nat) : Nat :=
  match xs.find? (fun e => e.1 == k) with
  | none => 0
  | some e => e.2

/-- What a partition draws on a die, or on the package (`none`). -/
def PowerReading.watts (r : PowerReading) (d : Option Nat) (p : Nat) : Nat :=
  r.partWatts.foldl (fun n e => if e.2.1 = p ∧ (d = none ∨ d = some e.1) then n + e.2.2 else n) 0

/-- The partition of a list that draws most on a die, or on the package. -/
def PowerReading.largest (r : PowerReading) (d : Option Nat) (ps : List Nat) : Option Nat :=
  ps.foldl (fun best p =>
    match best with
    | none => some p
    | some b => if r.watts d b < r.watts d p then some p else some b) none

/-- A die is beyond its limits. -/
def PowerReading.dieOver (r : PowerReading) (d : Nat) : Bool :=
  decide (240 < readingOf r.dieWatts d) || decide (95 < readingOf r.dieDeg d)

end Sys2Proof

namespace Sys2Proof.Machine

open Sys2Proof

/-! ## Who may command the package (R330, R365, R366) -/

/-- A command of the host. -/
def hostSends (e : Ev) : Bool :=
  match e with
  | .doorbell _ _ | .hostDramAccess _ _ _ | .quoteRequest _ _ => true
  | _ => false

/-- A command of the system cores: they own package management (R366). -/
def systemSends (e : Ev) : Bool :=
  match e with
  | .partitionReset _ | .partitionReopen _ | .swapSave _ _ | .swapRestore _ _ | .taskResume _ _ | .faultRecordRemove _
  | .partitionDescriptorWrite _ _ _ _ _ | .remapTableWrite _ _ _ | .mailboxStateWrite _ _ _ | .ringTableWrite _ _ _
  | .ringctlWrite _ _ | .meshcfgWrite _ _ | .portChannelBind _ _ _ _ _ | .translationBlockWrite _ _ | .invalidateVa _ _ _
  | .invalidateAsid _ _ | .hatboxBankMapWrite _ _ _ | .hatboxSlotCopy _ _ _ _ | .pmRegisterWrite _ | .imageLoad _ _ _ => true
  | _ => false

/-- The package takes an input: the host's once stage 1 has opened PCIe enumeration, the system cores' once stage 2 has started
their operating system, and a device event or a boot stage at any time; none once the boot has failed (R365; DEDUCED, log 107). -/
def State.takes (s : State) (e : Ev) : Bool :=
  !s.boot.failed && (!hostSends e || s.endpoint.pcie) && (!systemSends e || s.boot.stage == 3)

/-! ## The host endpoint (R330) -/

/-- A host request waits behind those before it. -/
def State.hostWaits (s : State) (e : Ev) : Bool :=
  match s.endpoint.queue with
  | [] => false
  | h :: _ => h != e

/-- A host request joins the queue of the endpoint. -/
def State.hostQueue (s : State) (e : Ev) : State :=
  { s with endpoint := { s.endpoint with queue := s.endpoint.queue ++ [e] } }

/-- A host request is done, and those behind it follow in order. -/
def State.hostDone (s : State) : State :=
  let rest := s.endpoint.queue.drop 1
  ({ s with endpoint := { s.endpoint with queue := [] } } : State).soon (rest.map (fun e => .event s.cur e))

/-- A host request cannot be done yet: it heads the queue and is tried again in a later wall period. -/
def State.hostBlocked (s : State) (e : Ev) (n : Nat) : State :=
  (if s.endpoint.queue = [] then s.hostQueue e else s).atWall (s.wall.toNat + n) e

/-- A doorbell write is dropped: any other offset, a mailbox that is disabled, or a write offset outside the area or beyond
the free offset. -/
def State.doorbellDropped (s : State) (off : Nat) (v : Word64) : Bool :=
  let m := s.mbox (off / 16)
  let m1 := { m with wo := BitVec.ofNat 25 (bitsOf v 0 25), wl := bit v.toNat 25 }
  off % 16 != 0 || decide (65536 ≤ off) || m.st == 0 || decide (m.area.toNat ≤ m1.wo.toNat) ||
    decide (m.area.toNat < m1.used) || (m1.wl == m.fl && decide (m1.wo.toNat < m.fo.toNat))

/-- DOORBELL (R330): every earlier host access comes before the packet that it announces. -/
def State.doorbell (s : State) (off : Nat) (v : Word64) : State :=
  if s.doorbellDropped off v then { s with endpoint := { s.endpoint with dropped := s.endpoint.dropped + 1 } }
  else
    let n := off / 16
    let m := s.mbox n
    s.setMbox n (m.moveWo (BitVec.ofNat 25 (bitsOf v 0 25)) (bit v.toNat 25) s.endpoint.ts)

/-- An access to BAR0: a write is a doorbell, and a read returns 0 (R330). -/
def State.bar0 (s : State) (off : Nat) (v : Option Word64) : State :=
  match v with
  | some v => s.doorbell off v
  | none => s.notify (.hostData (zeroBytes 8))

/-- DOORBELL. -/
def execDoorbell (s : State) : Res :=
  match s.ev with
  | .doorbell off v =>
    if s.hostWaits (.doorbell off v) then .next (s.hostQueue (.doorbell off v)) else .next (s.bar0 off v).hostDone
  | _ => .next s

/-- Bytes cut at line boundaries: the address and length of each part. -/
def hostParts (q n : Nat) : List (Nat × Nat) :=
  if n = 0 then [] else (List.range (lineOf (q + n - 1) - lineOf q + 1)).map (fun i =>
    let a := Nat.max q ((lineOf q + i) * 64)
    (a, Nat.min (q + n) ((lineOf q + i + 1) * 64) - a))

/-- Every page of a host access is open and lies in the window. -/
def State.hostOpen (s : State) (q n : Nat) : Bool :=
  decide (q + n ≤ 2 ^ 40) && (hostParts q n).all (fun x => s.endpoint.pages.contains (x.1 / 65536))

/-- The bytes of a host write by line. -/
def State.hostWrite (s : State) (q : Nat) (bs : List Byte) : State :=
  (hostParts q bs.length).foldl (fun s x =>
    let (s1, st) := s.homeWrite x.1 ((bs.drop (x.1 - q)).take x.2) s.endpoint.ts
    { s1 with endpoint := { s1.endpoint with ts := st } }) s

/-- The bytes of a host read, line by line. -/
def State.hostRead (s : State) (q n : Nat) : State × List Byte :=
  (hostParts q n).foldl (fun (acc : State × List Byte) x =>
    let (s1, bs, st) := acc.1.homeRead x.1 x.2 acc.1.endpoint.ts 0
    ({ s1 with endpoint := { s1.endpoint with ts := st } }, acc.2 ++ bs)) (s, [])

/-- HOST_DRAM_ACCESS (R330): a system-scope access at the homes of its lines. It waits while a line is reserved, and is
refused and repeated while a task pins one. -/
def State.hostAccess (s : State) (q : Nat) (write : Option (List Byte)) (len : Nat) : State :=
  let n := match write with
    | none => len
    | some bs => bs.length
  let ls := (hostParts q n).map (fun x => lineOf x.1)
  let e : Ev := .hostDramAccess q write len
  if !s.hostOpen q n then (s.notify (.unsupportedRequest q)).hostDone
  else if ls.any (fun l => !(s.line l).pins.isEmpty) then s.hostBlocked e 16
  else if ls.any (fun l => (s.line l).resv.isSome) then s.hostBlocked e 1
  else
    let s1 := s.disown 32 ls
    match write with
    | some bs => (s1.hostWrite q bs).hostDone
    | none =>
      let (s2, bs) := s1.hostRead q n
      (s2.notify (.hostData bs)).hostDone

/-- HOST_DRAM_ACCESS. -/
def execHostDramAccess (s : State) : Res :=
  match s.ev with
  | .hostDramAccess q w n =>
    if s.hostWaits (.hostDramAccess q w n) then .next (s.hostQueue (.hostDramAccess q w n)) else .next (s.hostAccess q w n)
  | _ => .next s

/-! ## Boot (R361, R365, R368) -/

/-- A later stage's image is measured, and the stage runs. -/
def Boot.advance (b : Boot) (digest : Nat) : Boot :=
  { b with stage := b.stage + 1, measure := shaExtend b.measure digest }

/-- A boot image passes its check: its bytes have its digest, the fused key's owner has signed that digest, and its version is not
below the fused counter (R365). -/
def bootImageOk (i : BootImage) (counter : Nat) : Bool :=
  (sha256 i.bytes).toNat == i.digest && ecdsaOk Config.fusedKey i.digest i.sig.r i.sig.s && decide (counter ≤ i.version)

/-- The boot cannot go on: the package stays in reset and reports through the endpoint. -/
def State.bootFails (s : State) : State :=
  ({ s with boot := { s.boot with failed := true } } : State).notify .bootFailed

/-- BOOT_STAGE0 (R365): the boot image of the device to be read first, or of the other if that fails its check. -/
def execBootStage0 (s : State) : Res :=
  match s.ev with
  | .bootStage0 a b =>
    let dev := s.boot.device
    let go (d : Bool) (i : BootImage) : State :=
      { s with boot := ({ s.boot with used_ := d, version := i.version } : Boot).advance i.digest }
    let first := if dev then b else a
    let second := if dev then a else b
    if s.boot.stage ≠ 0 ∨ s.boot.failed then .next s.refuse
    else if bootImageOk first s.boot.counter then .next (go dev first)
    else if bootImageOk second s.boot.counter then .next (go (!dev) second)
    else .next s.bootFails
  | _ => .next s

/-- A remap entry (R289). -/
def remapEntry (phys ptnr : Nat) (dbl : Bool) : BitVec 16 :=
  BitVec.ofNat 16 (phys + put (b2n dbl) 7 + put ptnr 8 + put 1 14)

/-- The remap table that the firmware fills for a die with these working physical cores (R361): entry `i`. -/
def bootEntry (working : List Nat) (i : Nat) : BitVec 16 :=
  let d := 64 - working.length
  if working.length < 32 then 0
  else if i < 64 - 2 * d then remapEntry (working.getD i 0) 0 false
  else
    let j := (i - (64 - 2 * d)) / 2
    remapEntry (working.getD (64 - 2 * d + j) 0) (if i % 2 = 0 then i + 1 else i - 1) true

/-- The remap table of a die at boot. -/
def bootRemap (working : List Nat) : Tbl (BitVec 16) := (List.range 64).map (fun i => (i, bootEntry working i))

/-- The set's spare is in service for another way, or is being brought in: a further cache way is disabled, and a further
resident or shadow way is reported, as is one beyond those (R362). -/
def State.secondWay (s : State) (k set way : Nat) : State :=
  let sl := s.slice k
  let rw := (s.die (k / 16)).rw
  let e := Tbl.getD sl.spare set 0
  if (bit e.toNat 4 ∧ fld e.toNat 0 4 = way) ∨ way < rw + 4 ∨ bit e.toNat 5 then s.notify (.secondWayFailed k set)
  else
    let s1 := s.setSlice k { sl with spare := Tbl.set sl.spare set (BitVec.ofNat 8 (e.toNat + 32)) }
    s1.trimSet k set (11 - rw) (Tbl.getD (s1.slice k).sets set [])

/-- The spare serves the way (R362). -/
def State.spareServes (s : State) (k set way : Nat) : State :=
  let sl := s.slice k
  let e := Tbl.getD sl.spare set 0
  s.setSlice k { sl with
    spare := Tbl.set sl.spare set (BitVec.ofNat 8 (way + put 1 4 + put (b2n (bit e.toNat 5)) 5)), moving := Tbl.erase sl.moving set }

/-- A way of a set that has failed its test is served by the set's spare (R362). -/
def State.bootWay (s : State) (k set way : Nat) : State :=
  if bit (Tbl.getD (s.slice k).spare set 0).toNat 4 then s.secondWay k set way else s.spareServes k set way

/-- A failed lane of a mesh link or port is served by its spare; with the spare in use the link is disabled (R360). -/
def State.bootLink (s : State) (l : LinkRef) : State :=
  match l with
  | .mesh d out =>
    if Tbl.getD (s.die d).spares out.idx.val false then s.meshLinkOff d out
    else s.setDie d { s.die d with spares := Tbl.set (s.die d).spares out.idx.val true }
  | .port p => s.setLink p (if (s.link p).spare then { s.link p with off := true } else { s.link p with spare := true })

/-- What stage 1 finds and loads, die by die (R360 to R365). -/
def State.bootFound (s : State) (f : BootReport) : State :=
  let upd (s : State) (d : Nat) (g : Die → Die) : State := s.setDie d (g (s.die d))
  let s1 := f.cores.foldl (fun s e =>
    upd s e.1 (fun d => { d with remap := bootRemap (e.2.foldl (fun ws c => insertNat c ws) []) })) s
  let s2 := f.ways.foldl (fun s e => s.bootWay e.1 e.2.1 e.2.2) s1
  let s3 := f.ringLanes.foldl (fun s e => s.ringLaneFails e.1 e.2) s2
  let s4 := f.links.foldl State.bootLink s3
  let s5 := f.dataLanes.foldl (fun s e => upd s e.1 (fun d => { d with dataLanes := insertNat e.2 d.dataLanes })) s4
  let s6 := f.banks.foldl (fun s e => upd s e.1 (fun d => { d with bankMap := Tbl.set d.bankMap e.2.1 e.2.2 })) s5
  let s7 := f.rings.foldl (fun s e => upd s e.1 (fun d => { d with ringTab := Tbl.set d.ringTab e.2.1 e.2.2 })) s6
  let s8 := f.mesh.foldl (fun s e => upd s e.1 (fun d => { d with meshcfg := e.2 })) s7
  f.reserves.foldl (fun s e => upd s e.1 (fun d => { d with shadowAt := some e.2 })) s8

/-- Every site has its shadow reserve, 256 MiB of the DRAM of its die (R270). -/
def reservesOk (rs : List (Nat × Nat)) : Bool :=
  (List.range 32).all (fun d => (rs.filter (fun e => e.1 == d)).length == 1) &&
    rs.all (fun e => decide (e.1 < 32) && decide (e.1 * 2 ^ 35 ≤ e.2) && decide (e.2 + 2 ^ 28 ≤ (e.1 + 1) * 2 ^ 35))

/-- A report names what the package has, each failed way and ring lane once, with values that its registers may hold. -/
def bootReportOk (f : BootReport) : Bool :=
  decide f.ways.Nodup && decide f.ringLanes.Nodup &&
  f.cores.all (fun e => decide (e.1 < 32) && e.2.all (fun c => decide (c < 72))) &&
    f.ways.all (fun e => decide (e.1 < 512) && decide (e.2.1 < 4096) && decide (e.2.2 < 16)) &&
    f.ringLanes.all (fun e => decide (e.1 < 32)) && f.links.all LinkRef.present &&
    f.dataLanes.all (fun e => decide (e.1 < 32) && decide (e.2 < 16)) &&
    f.banks.all (fun e => decide (e.1 < 32) && decide (e.2.1 < 32) && decide (e.2.2.toNat < 36)) &&
    f.rings.all (fun e => decide (e.1 < 32) && decide (e.2.1 < 1024) && ringEntryOk e.1 e.2.2) &&
    f.mesh.all (fun e => decide (e.1 < 32) && meshcfgOk e.2.toNat) && reservesOk f.reserves

/-- The identity key pair is derived from the fused secret (R368), and PCIe enumeration opens (R365). -/
def State.bootOpens (s : State) : State :=
  let d := ecSecret Config.identitySecret
  { s with boot := { s.boot with secret := d, pub := ecPublic d }, endpoint := { s.endpoint with pcie := true } }

/-- BOOT_STAGE1 (R361, R365, R368): the management core checks the next image, and brings the package up. -/
def execBootStage1 (s : State) : Res :=
  match s.ev with
  | .bootStage1 next found =>
    if s.boot.stage ≠ 1 ∨ s.boot.failed then .next s.refuse
    else if !bootReportOk found then noObject
    else if !bootImageOk next s.boot.counter then .next s.bootFails
    else .next (({ s with boot := s.boot.advance next.digest } : State).bootFound found).bootOpens
  | _ => .next s

/-- BOOT_STAGE2 (R365): the operating-system loader is checked and started. The image has booted once, and the fused counter
rises to its version. -/
def execBootStage2 (s : State) : Res :=
  match s.ev with
  | .bootStage2 next =>
    let b := s.boot.advance next.digest
    if s.boot.stage ≠ 2 ∨ s.boot.failed then .next s.refuse
    else if !bootImageOk next s.boot.counter then .next s.bootFails
    else .next { s with boot := { b with counter := Nat.max b.counter b.version } }
  | _ => .next s

/-- The bytes of a quote that its signature covers (R368). -/
def State.quoteBody (s : State) (p : Nat) (nonce : BitVec 256) : List Byte :=
  beBytes 32 nonce.toNat ++ beBytes 32 s.boot.measure.toNat ++ beBytes 32 (s.part p).digest.toNat ++ leBytes 8 p ++
    leBytes 8 s.wall.toNat

/-- The 176 bytes of a quote, with the identity key's signature (R368). -/
def State.quote (s : State) (p : Nat) (nonce : BitVec 256) : List Byte :=
  let body := s.quoteBody p nonce
  let sig := ecdsaSign s.boot.secret (sha256 body).toNat (Config.signNonce s.fresh)
  body ++ beBytes 32 sig.1 ++ beBytes 32 sig.2

/-- QUOTE_REQUEST (R368): the measurement stands after stage 2. -/
def execQuoteRequest (s : State) : Res :=
  match s.ev with
  | .quoteRequest p nonce =>
    if 64 ≤ p then noObject
    else if s.boot.stage ≠ 3 then .next s.refuse
    else .next (s.notify (.quote (s.quote p nonce))).bump
  | _ => .next s

/-! ## Power (R307, R370) -/

/-- The partitions to raise: the largest on the package when it exceeds 7.6 kW, and the largest on each die beyond its
limits. -/
def State.powerRaised (s : State) (r : PowerReading) : List Nat :=
  let ps := (s.parts.filter (fun e => e.2.valid)).map (fun e => e.1)
  let pkg := if 7600 < r.package then (r.largest none ps).toList else []
  let dies := (List.range 32).flatMap (fun d =>
    if r.dieOver d then (r.largest (some d) (ps.filter (fun p => (s.part p).hasDie d))).toList else [])
  (pkg ++ dies).foldl (fun acc p => insertNat p acc) []

/-- POWER_LEVEL_UPDATE (R370). -/
def State.powerUpdate (s : State) (r : PowerReading) : State :=
  let beyond := decide (7600 < r.package) || (List.range 32).any r.dieOver
  let up := s.powerRaised r
  { s with parts := s.parts.map (fun e =>
      let q := e.2
      if !q.valid then e
      else if beyond then (e.1, if up.contains e.1 then { q with levelNext := Nat.min 12 (q.levelNext + 1) } else q)
      else if q.dies.all (fun d => decide (readingOf r.dieWatts d < 210) && decide (readingOf r.dieDeg d < 85)) then
        (e.1, { q with levelNext := q.levelNext - 1 })
      else e) }

/-- A reading that waits for the firmware's next look. -/
def Timer.isReading (t : Timer) : Bool :=
  match t.ev with
  | .powerLevelUpdate _ => true
  | _ => false

/-- What the sensors show is read by the firmware once in every 65,536th wall period: in between it waits, and a later reading takes
its place (R370). -/
def State.powerRead (s : State) (r : PowerReading) : State :=
  if s.wall.toNat % 65536 = 0 ∧ s.boot.looked ≠ s.wall.toNat then
    ({ s with boot := { s.boot with looked := s.wall.toNat } } : State).powerUpdate r
  else
    ({ s with timers := s.timers.filter (fun t => !t.isReading) } : State).atWall ((s.wall.toNat / 65536 + 1) * 65536)
      (.powerLevelUpdate r)

/-- POWER_LEVEL_UPDATE. -/
def execPowerLevelUpdate (s : State) : Res :=
  match s.ev with
  | .powerLevelUpdate r => .next (s.powerRead r)
  | _ => .next s

/-- THERMAL_TRIP (R370): every partition with cores on the die takes fault 0x40, and the die's clocks stop. -/
def execThermalTrip (s : State) : Res :=
  match s.ev with
  | .thermalTrip d =>
    if 32 ≤ d then noObject
    else
      let ps := (s.parts.filter (fun e => e.2.valid && e.2.hasDie d)).map (fun e => e.1)
      .next ((s.setDie d { s.die d with clockOff := true }).faultParts ps 0x40)
  | _ => .next s

/-- DIE_TEMPERATURE_RECOVERY (R370): the die has fallen below 85 °C. -/
def execDieTemperatureRecovery (s : State) : Res :=
  match s.ev with
  | .dieTemperatureRecovery d =>
    if 32 ≤ d then noObject else .next (s.setDie d { s.die d with clockOff := false })
  | _ => .next s

/-! ## Spares of memory (R360, R362) -/

/-- The line that a cache way of a set holds: the set's lines stand in its cache ways in turn (DESIGN CHOICE, log 132). Ways are
numbered resident first, then 4 shadow ways, then the cache. -/
def State.wayLine (s : State) (k set way : Nat) : Option Nat :=
  let rw := (s.die (k / 16)).rw
  if way < rw + 4 then none else (Tbl.getD (s.slice k).sets set [])[way - rw - 4]?

/-- The reservation of a line that a slice moves to its spare: it stands for no step of a core. -/
def spareResv (k : Nat) : Nat × Nat := (2048 + k, 0)

/-- The spare serves the way, and the line that it held is released (R362). -/
def State.wayMoved (s : State) (k set way : Nat) (line : Option Nat) : State :=
  let s1 := s.spareServes k set way
  match line with
  | none => s1
  | some l => s1.setLine l { s1.line l with resv := none }

/-- The set's spare takes a way: at once when the way holds no line, and otherwise once its line, reserved meanwhile, is copied
(R280, R362). -/
def State.wayMove (s : State) (k set way : Nat) : State :=
  let sl := s.slice k
  let again : Ev := .sliceWayReplace k set way .copied
  let mark (l : Option Nat) : State := s.setSlice k { sl with moving := Tbl.set sl.moving set (way, l) }
  match s.wayLine k set way with
  | none => s.wayMoved k set way none
  | some l =>
    if (s.line l).resv.isSome then (mark none).atWall (s.wall.toNat + 1) again
    else
      let s1 := mark (some l)
      ((s1.setLine l { s1.line l with resv := some (spareResv k) }).atWall (s.wall.toNat + 1 + Config.spareTime s.fresh) again).bump

/-- The move of a way goes on: its line, once reserved, has been copied; until then its reservation is tried again. -/
def State.wayGoesOn (s : State) (k set : Nat) : State :=
  match Tbl.get? (s.slice k).moving set with
  | none => s
  | some (way, none) => s.wayMove k set way
  | some (way, some l) => s.wayMoved k set way (some l)

/-- SLICE_WAY_REPLACE (R362): the set's spare takes the way; a second way is disabled or reported. -/
def State.wayReplace (s : State) (k set way : Nat) : State :=
  match Tbl.get? (s.slice k).moving set with
  | some (w, _) => if w = way then s else s.secondWay k set way
  | none => if bit (Tbl.getD (s.slice k).spare set 0).toNat 4 then s.secondWay k set way else s.wayMove k set way

/-- One more corrected error of a way: the fourth has it replaced (R362). -/
def State.wayError (s : State) (k set way : Nat) : State :=
  let sl := s.slice k
  let key := set * 16 + way
  let n := Tbl.getD sl.errs key 0 + 1
  let s1 := s.setSlice k { sl with errs := Tbl.set sl.errs key n }
  if n = 4 then s1.wayReplace k set way else s1

/-- SLICE_WAY_REPLACE. -/
def execSliceWayReplace (s : State) : Res :=
  match s.ev with
  | .sliceWayReplace k set way why =>
    if 512 ≤ k ∨ 4096 ≤ set ∨ 16 ≤ way then noObject
    else
      match why with
      | .failed => .next (s.wayReplace k set way)
      | .corrected => .next (s.wayError k set way)
      | .copied => .next (s.wayGoesOn k set)
  | _ => .next s

/-- A DRAM row takes one of the 32 spares of its bank, once the controller has copied it in a refresh window (R360). -/
def State.rowSpared (s : State) (d bank row : Nat) : State :=
  let die := s.die d
  let rows := Tbl.getD die.rowSpares bank []
  if rows.contains row || decide (32 ≤ rows.length) then s
  else s.setDie d { die with rowSpares := Tbl.set die.rowSpares bank (insertNat row rows) }

/-- One more corrected error of a DRAM row: the eighth has it copied. -/
def State.rowError (s : State) (d bank row : Nat) : State :=
  let die := s.die d
  let errs := row :: Tbl.getD die.rowErrs bank []
  let s1 := s.setDie d { die with rowErrs := Tbl.set die.rowErrs bank errs }
  if errs.count row = 8 then
    (s1.atWall (s.wall.toNat + 1 + Config.spareTime s.fresh) (.dramRowSpare d bank row .copied)).bump
  else s1

/-- DRAM_ROW_SPARE (R360). -/
def execDramRowSpare (s : State) : Res :=
  match s.ev with
  | .dramRowSpare d bank row why =>
    if 32 ≤ d then noObject
    else
      match why with
      | .corrected => .next (s.rowError d bank row)
      | .failed | .copied => .next (s.rowSpared d bank row)
  | _ => .next s

/-- REFRESH_WINDOW_CALIBRATION (R360): a channel's spare data lane is brought in when one of its lanes has failed. -/
def execRefreshWindowCalibration (s : State) : Res :=
  match s.ev with
  | .refreshWindowCalibration d ch failed =>
    let die := s.die d
    if 32 ≤ d ∨ 16 ≤ ch then noObject
    else if failed then .next (s.setDie d { die with dataLanes := insertNat ch die.dataLanes })
    else .next s
  | _ => .next s

end Sys2Proof.Machine
end

