-- ==== Sys2Proof/Machine/Walker.lean ====
section
/-! DEFINITION. The Carder walker (spec/10_walker.md R219 to R238): constants and integer arithmetic, branches, raw
scratchpad access, rows for an operand queue, gather lists, and the end of a run. -/

namespace Sys2Proof

/-- The conditions of `wskip` (R221, R225). -/
def WCond.holds (c : WCond) (x y : Word64) : Bool :=
  match c with
  | .eq => x == y
  | .ne => x != y
  | .lt => decide (x.toInt < y.toInt)
  | .ge => decide (y.toInt ≤ x.toInt)
  | .ltn => decide (x.toNat < y.toNat)
  | .gen => decide (y.toNat ≤ x.toNat)

/-- Bytes of an entry. -/
def ListKind.size (k : ListKind) : Nat :=
  match k with
  | .bag => 8 | .idx => 4

/-- The address word of a list as a register holds it. -/
def SpadAddr.toWord (a : SpadAddr) : Word64 :=
  BitVec.ofNat 64 (a.off.toNat + put a.bank.toNat 17 + put a.tile.val 25 + put (b2n a.tf) 31)

end Sys2Proof

namespace Sys2Proof.Machine

open Sys2Proof

/-! ## Issue (R80, R220, R238) -/

/-- The Carder of the acting core. -/
def State.wlk (s : State) : WalkUnit := s.me.wlk

/-- The state with the acting core's Carder replaced. -/
def State.setWlk (s : State) (u : WalkUnit) : State := s.setMe { s.me with wlk := u }

/-- A walker word's register interlock: every source register may be read (R80). -/
def State.srcsReady (s : State) (rs : List WReg) : Bool := rs.all (fun r => decide (vget s.wlk.ready r ≤ s.tick))

/-- A walker word waits for its sources, then does its work. -/
def State.carder (s : State) (rs : List WReg) (f : State) : Res := if s.srcsReady rs then .next f else .next s

/-- The run moves on by one word, the next word issuing `n` ticks later. -/
def State.walkOn (s : State) (n : Nat) : State := s.setMe (s.me.stepRun .walker 1 (s.tick + n))

/-- A walker word faults: it writes nothing (R238). -/
def State.walkFault (s : State) (cause : Nat) : State := s.engFault .walker cause 0 0 0

/-- A word that writes `v` to `w[d]`, readable `lat` ticks after its issue (R220). -/
def State.walkReg (s : State) (d : WReg) (v : Word64) (lat : Nat) : State :=
  (s.setWlk (s.wlk.setReg d v (s.tick + lat))).walkOn 1

/-- `w[b] + sx(imm, 15)`. -/
def State.walkSum (s : State) (b : WReg) (imm : BitVec 15) : Word64 := s.wlk.reg b + sx64 imm

/-! ## Constants and integer arithmetic (R222 to R224) -/

/-- R222, b = 0. -/
def execWli (d : WReg) (imm : BitVec 15) (s : State) : Res := s.carder [] (s.walkReg d (sx64 imm) 1)

/-- R222, b = 1. -/
def execWliHi (d : WReg) (imm : BitVec 15) (s : State) : Res :=
  s.carder [d] (s.walkReg d ((s.wlk.reg d <<< 15) + zx64 imm) 1)

/-- R222, b = 2. -/
def execWliVp (d : WReg) (n : VpReg) (s : State) : Res := s.carder [] (s.walkReg d (s.vp .walker n) 1)

/-- R223, op 0x02. -/
def execWadd (d a b : WReg) (imm : BitVec 15) (s : State) : Res :=
  s.carder [a, b] (s.walkReg d (s.wlk.reg a + s.walkSum b imm) 1)

/-- R223, op 0x03. -/
def execWsub (d a b : WReg) (imm : BitVec 15) (s : State) : Res :=
  s.carder [a, b] (s.walkReg d (s.wlk.reg a - s.walkSum b imm) 1)

/-- R223, op 0x04: its result is ready 3 ticks later (R220). -/
def execWmul (d a b : WReg) (imm : BitVec 15) (s : State) : Res :=
  s.carder [a, b] (s.walkReg d (s.wlk.reg a * s.walkSum b imm) 3)

/-- R223, op 0x05. -/
def execWand (d a b : WReg) (imm : BitVec 15) (s : State) : Res :=
  s.carder [a, b] (s.walkReg d (s.wlk.reg a &&& s.walkSum b imm) 1)

/-- R223, op 0x06. -/
def execWor (d a b : WReg) (imm : BitVec 15) (s : State) : Res :=
  s.carder [a, b] (s.walkReg d (s.wlk.reg a ||| s.walkSum b imm) 1)

/-- R223, op 0x07. -/
def execWshl (d a b : WReg) (imm : BitVec 15) (s : State) : Res :=
  s.carder [a, b] (s.walkReg d (s.wlk.reg a <<< bitsOf (s.walkSum b imm) 0 6) 1)

/-- R223, op 0x08. -/
def execWshr (d a b : WReg) (imm : BitVec 15) (s : State) : Res :=
  s.carder [a, b] (s.walkReg d (s.wlk.reg a >>> bitsOf (s.walkSum b imm) 0 6) 1)

/-- R223, op 0x09. -/
def execWmin (d a b : WReg) (imm : BitVec 15) (s : State) : Res :=
  let x := s.wlk.reg a
  let g := s.walkSum b imm
  s.carder [a, b] (s.walkReg d (if sv x ≤ sv g then x else g) 1)

/-- The lowest set bit of `x` from bit `n` on, or 64 (R224). -/
def nextSet (x : Word64) (n : Nat) : Nat :=
  ((List.range 64).find? (fun q => decide (n ≤ q) && x.getLsbD q)).getD 64

/-- R224. -/
def execWbit (d a b : WReg) (imm : BitVec 15) (s : State) : Res :=
  s.carder [a, b] (s.walkReg d (BitVec.ofNat 64 (nextSet (s.wlk.reg a) (bitsOf (s.walkSum b imm) 0 7))) 1)

/-! ## Branches (R225) -/

/-- A branch taken after the register writes of `u`: its target is the end of the run, or beyond it, or a word. -/
def State.walkTo (s : State) (off : BitVec 15) (u : WalkUnit) : State :=
  let r := s.run .walker
  let t : Int := r.upc.toNat + off.toInt
  if t < 0 ∨ (r.endOff.toNat : Int) < t then s.walkFault 0x04
  else
    let s1 := s.setWlk u
    s1.setMe (s1.me.setRun .walker { r with upc := BitVec.ofInt 24 t, nextAt := s.tick + 1 })

/-- R225, `wloop`. -/
def execWloop (a : WReg) (off : BitVec 15) (s : State) : Res :=
  let x := s.wlk.reg a
  let u := s.wlk.setReg a (x - 1) (s.tick + 1)
  s.carder [a] (if x = 0 then s.walkOn 1 else if x = 1 then (s.setWlk u).walkOn 1 else s.walkTo off u)

/-- R225, `wnext`: the registers are compared as they stand after the write, which w0 discards. -/
def execWnext (d a : WReg) (off : BitVec 15) (s : State) : Res :=
  let u := s.wlk.setReg d (s.wlk.reg d + 1) (s.tick + 1)
  s.carder [d, a] (if (u.reg d).toNat < (u.reg a).toNat then s.walkTo off u else (s.setWlk u).walkOn 1)

/-- R225, `wskip`. -/
def execWskip (c : WCond) (a b : WReg) (off : BitVec 15) (s : State) : Res :=
  s.carder [a, b] (if c.holds (s.wlk.reg a) (s.wlk.reg b) then s.walkTo off s.wlk else s.walkOn 1)

/-! ## Scratchpad access (R226 to R230) -/

/-- What the checks of R226 say to an access of `n` bytes, units of `al` bytes, at a displacement from an address word. -/
inductive WAccess where
  | fault (cause : Nat)
  | wait
  | at_ (p : Place) (o : Nat)
  deriving DecidableEq, Repr

/-- R226, without the tile's state: the address word, the alignment, the bounds. -/
def State.walkPlace (s : State) (w : Word64) (disp : Int) (al n : Nat) : WAccess :=
  match wAddr? w with
  | none => .fault 0x0A
  | some a =>
    let p := s.me.placeOf a
    let o : Int := p.off + disp
    if o % al ≠ 0 then .fault 0x07
    else if o < 0 ∨ !p.fits o.toNat n then .fault 0x0A
    else .at_ p o.toNat

/-- R226 with the tile's state and the publishes under way (R265). -/
def State.walkAccess (s : State) (w : Word64) (disp : Int) (al n : Nat) : WAccess :=
  match s.walkPlace w disp al n with
  | .at_ p o =>
    match s.admitTile p o n with
    | .fault cause => .fault cause
    | .wait => .wait
    | .go => .at_ p o
  | x => x

/-- Bytes stored by the Carder at a place, its tile's access admitted for the tick. -/
def State.walkStore (s : State) (p : Place) (o : Nat) (bs : List Byte) (till : Nat) : State :=
  s.setMe ((s.me.spWrite .walker (p.byte o) bs).holdTile p till)

/-- R227: its result is ready 2 ticks later (R220). -/
def execWld (sz : WSize) (d a : WReg) (imm : BitVec 15) (s : State) : Res :=
  let n := sz.bytes
  s.carder [a]
    (match s.walkAccess (s.wlk.reg a) imm.toInt n n with
     | .fault cause => s.walkFault cause
     | .wait => s
     | .at_ p o =>
       let v := BitVec.ofNat 64 (leNat (s.me.spRead (p.byte o) n))
       (s.setMe (s.me.holdTile p s.tick)).walkReg d v 2)

/-- R228, R220: both footprints are checked before any byte moves. -/
def execWmove (sz : WSize) (d a b : WReg) (s : State) : Res :=
  let n := (s.wlk.reg b).toNat * sz.bytes
  let ticks := Nat.max 1 (ceilDiv n 64)
  let till := s.tick + ticks - 1
  s.carder [d, a, b]
    (if n = 0 then s.walkOn 1
     else if 131072 < n then s.walkFault 0x0A
     else
       match s.walkPlace (s.wlk.reg a) 0 sz.bytes n, s.walkPlace (s.wlk.reg d) 0 sz.bytes n with
       | .at_ p o, .at_ p' o' =>
         match s.admitTile p o n, s.admitTile p' o' n with
         | .fault cause, _ => s.walkFault cause
         | _, .fault cause => s.walkFault cause
         | .go, .go =>
           ((s.setMe (s.me.holdTile p till)).walkStore p' o' (s.me.spRead (p.byte o) n) till).walkOn ticks
         | _, _ => s
       | .fault c, .fault c' => s.walkFault (if c = 0x07 ∨ c' = 0x07 then 0x07 else c)
       | .fault c, _ => s.walkFault c
       | _, .fault c => s.walkFault c
       | _, _ => s)

/-- R229, `wemit.w`. -/
def execWemitW (a b : WReg) (imm : BitVec 15) (s : State) : Res :=
  s.carder [a, b]
    (match s.walkAccess (s.wlk.reg b) imm.toInt 8 8 with
     | .fault cause => s.walkFault cause
     | .wait => s
     | .at_ p o => (s.walkStore p o (leBytes 8 (s.wlk.reg a).toNat) s.tick).walkOn 1)

/-! ## Dense rows (R231 to R233) -/

/-- The frame that a word of `wtile` opens; none where R231 faults it. -/
def frame? (w : Word64) : Option Frame :=
  let f := bitsOf w 0 4
  if 2 ≤ f ∧ f ≤ 5 ∧ bitsOf w 13 51 = 0 then
    some { fmt := BitVec.ofNat 4 f, cols := bitsOf w 4 7 + 1, q := Fin.ofNat 4 (bitsOf w 11 2) }
  else none

/-- R231. -/
def execWtile (a : WReg) (s : State) : Res :=
  s.carder [a]
    (match frame? (s.wlk.reg a) with
     | none => s.walkFault 0x12
     | some f => (s.setWlk { s.wlk with frame := some f, buf := [] }).walkOn 1)

/-- The element format of a frame. -/
def Frame.elem (f : Frame) : Fmt := (Fmt.ofCode? f.fmt.toNat).getD .fp16

/-- R232, `wemit.e`. -/
def execWemitE (a b : WReg) (imm : BitVec 15) (s : State) : Res :=
  let col := (s.walkSum b imm).toNat
  s.carder [a, b]
    (match s.wlk.frame with
     | none => s.walkFault 0x12
     | some f =>
       if f.cols ≤ col then s.walkFault 0x12
       else
         let v := BitVec.ofNat 16 ((s.wlk.reg a).toNat % 2 ^ f.elem.bits)
         (s.setWlk { s.wlk with buf := Tbl.set s.wlk.buf col v }).walkOn 1)

/-- The row that the buffer makes (R233). -/
def WalkUnit.row (u : WalkUnit) (f : Frame) (tag : BitVec 16) (tick : Nat) : QRow :=
  let bs := packRow f.elem ((List.range f.cols).map (fun j => (Tbl.getD u.buf j 0).toNat))
  let present := u.buf.foldl (fun m e => m ||| BitVec.ofNat 128 (2 ^ e.1)) 0
  { bytes := bs ++ zeroBytes (256 - bs.length), tag := tag, carder := some (f.fmt, f.cols, present), at_ := tick }

/-- R233. -/
def execWrow (a : WReg) (imm : BitVec 15) (s : State) : Res :=
  let c := s.me
  let u := s.wlk
  s.carder [a]
    (match u.frame with
     | none => s.walkFault 0x12
     | some f =>
       if bitsOf (zx64 (vget c.qbind f.q)) 16 2 ≠ 2 then s.walkFault 0x11
       else if 64 ≤ s.queued s.cur.core f.q then s
       else
         let row := u.row f ((s.walkSum a imm).setWidth 16) s.tick
         (s.setMe { c with iq := vset c.iq f.q (vget c.iq f.q ++ [row]), wlk := { u with buf := [] } }).walkOn 1)

/-! ## Gather lists (R235, R236) -/

/-- A word that names a place without accessing it: it waits for a tile or faults as every word that names one does (R19), and
waits for no scratchpad granule. -/
def State.walkNames (s : State) (w : Word64) (al n : Nat) : WAccess :=
  match s.walkPlace w 0 al n with
  | .at_ p o =>
    match s.me.tileSay p with
    | .fault => .fault 0x0B
    | .wait => .wait
    | .go => .at_ p o
  | x => x

/-- R235, `wpos`. -/
def execWpos (kind : ListKind) (a b : WReg) (s : State) : Res :=
  let w := s.wlk.reg a
  let n := (s.wlk.reg b).toNat
  s.carder [a, b]
    (if n < 1 ∨ 4096 < n then s.walkFault 0x12
     else
       match s.walkNames w kind.size (n * kind.size), wAddr? w with
       | .at_ _ _, some x => (s.setWlk { s.wlk with list := some ⟨x, n, 0, kind⟩ }).walkOn 1
       | .fault cause, _ => s.walkFault cause
       | _, _ => s)

/-- An entry of a list (R235). -/
def listEntry (kind : ListKind) (x y : Word64) : List Byte :=
  match kind with
  | .idx => leBytes 4 (bitsOf x 0 32)
  | .bag => leBytes 8 (bitsOf x 0 32 + put (bitsOf y 0 16) 32 + put (bitsOf y 16 10) 48)

/-- R235, `wemit.l`. With an idx list `w[b]` is not read. -/
def execWemitL (a b : WReg) (s : State) : Res :=
  match s.wlk.list with
  | none => s.carder [a, b] (s.walkFault 0x12)
  | some l =>
    s.carder (if l.kind = .idx then [a] else [a, b])
      (if l.cap ≤ l.cnt then s.walkFault 0x12
       else
         match s.walkAccess (l.addr.toWord) (l.cnt * l.kind.size : Nat) l.kind.size l.kind.size with
         | .fault cause => s.walkFault cause
         | .wait => s
         | .at_ p o =>
           let s1 := s.walkStore p o (listEntry l.kind (s.wlk.reg a) (s.wlk.reg b)) s.tick
           (s1.setWlk { s1.wlk with list := some { l with cnt := l.cnt + 1 } }).walkOn 1)

/-- R236: a gather that counts against the limits of R198; the list is empty again. -/
def execWgo (a : WReg) (sl : ShReg) (kv : Bool) (k : Tok) (s : State) : Res :=
  let h : XHdr := { k := k, kv := kv, wm := 0 }
  s.carder [a]
    (match s.wlk.list, wAddr? (s.wlk.reg a) with
     | none, _ => s.walkFault 0x12
     | some l, dst =>
       if l.kind = .bag ∨ l.cnt = 0 then s.walkFault 0x12
       else
         match dst with
         | none => s.walkFault 0x0A
         | some q =>
           let p := s.me.placeOf l.addr
           let r := s.gatherIssue .walker (.wgo a sl kv k) h false sl p l.cnt (s.me.placeOf q)
           match r with
           | .fault cause addr => s.engFault .walker cause 0 0 addr
           | .wait => s
           | .go x =>
             if s.me.stepRoom (s.run .walker).owner x.tok x.bytes then
               let s1 := s.setMe (s.me.holdTile p s.tick)
               ((s1.setWlk { s1.wlk with list := some { l with cnt := 0 } }).walkOn 1).startStep x
             else s)

/-! ## The end of a run (R237) -/

/-- R237: every write of the run has been made and every row has entered its queue when the word issues, so its token is
claimed and set in that tick. -/
def execWexit (kv : Bool) (k : Tok) (s : State) : Res :=
  let c := s.me.exitRun .walker 1 (s.tick + 1)
  let i := (s.run .walker).owner
  let t := c.task i
  if !kv then .next (s.setMe c)
  else if vget t.pend k = 0xFF then .next s
  else .next (s.setMe (c.setTask i ((t.claimToken k).settleToken k t.ts s.tick)))

end Sys2Proof.Machine
end

