-- ==== Sys2Proof/Machine/Dispatch.lean ====
section
/-! DEFINITION. One arm for each constructor of `Instr`: a direct call of its meaning. -/

namespace Sys2Proof.Machine

open Sys2Proof

def exec (i : Instr) (s : State) : Host.Outcome State Fault Refusal :=
  match i with
  | .add d a b => Sys2Proof.Machine.execAdd d a b s
  | .sub d a b => Sys2Proof.Machine.execSub d a b s
  | .and d a b => Sys2Proof.Machine.execAnd d a b s
  | .or d a b => Sys2Proof.Machine.execOr d a b s
  | .xor d a b => Sys2Proof.Machine.execXor d a b s
  | .andn d a b => Sys2Proof.Machine.execAndn d a b s
  | .sll d a b => Sys2Proof.Machine.execSll d a b s
  | .srl d a b => Sys2Proof.Machine.execSrl d a b s
  | .sra d a b => Sys2Proof.Machine.execSra d a b s
  | .slt d a b => Sys2Proof.Machine.execSlt d a b s
  | .sltn d a b => Sys2Proof.Machine.execSltn d a b s
  | .min d a b => Sys2Proof.Machine.execMin d a b s
  | .max d a b => Sys2Proof.Machine.execMax d a b s
  | .minn d a b => Sys2Proof.Machine.execMinn d a b s
  | .maxn d a b => Sys2Proof.Machine.execMaxn d a b s
  | .mul d a b => Sys2Proof.Machine.execMul d a b s
  | .mulh d a b => Sys2Proof.Machine.execMulh d a b s
  | .mulhn d a b => Sys2Proof.Machine.execMulhn d a b s
  | .div d a b => Sys2Proof.Machine.execDiv d a b s
  | .divn d a b => Sys2Proof.Machine.execDivn d a b s
  | .rem d a b => Sys2Proof.Machine.execRem d a b s
  | .remn d a b => Sys2Proof.Machine.execRemn d a b s
  | .clz d a => Sys2Proof.Machine.execClz d a s
  | .ctz d a => Sys2Proof.Machine.execCtz d a s
  | .popc d a => Sys2Proof.Machine.execPopc d a s
  | .addi d a imm => Sys2Proof.Machine.execAddi d a imm s
  | .andi d a imm => Sys2Proof.Machine.execAndi d a imm s
  | .ori d a imm => Sys2Proof.Machine.execOri d a imm s
  | .xori d a imm => Sys2Proof.Machine.execXori d a imm s
  | .slli d a sh => Sys2Proof.Machine.execSlli d a sh s
  | .srli d a sh => Sys2Proof.Machine.execSrli d a sh s
  | .srai d a sh => Sys2Proof.Machine.execSrai d a sh s
  | .lui d imm => Sys2Proof.Machine.execLui d imm s
  | .slti d a imm => Sys2Proof.Machine.execSlti d a imm s
  | .sltni d a imm => Sys2Proof.Machine.execSltni d a imm s
  | .ldB d a imm => Sys2Proof.Machine.execLdB d a imm s
  | .ldH d a imm => Sys2Proof.Machine.execLdH d a imm s
  | .ldW d a imm => Sys2Proof.Machine.execLdW d a imm s
  | .ldD d a imm => Sys2Proof.Machine.execLdD d a imm s
  | .ldBn d a imm => Sys2Proof.Machine.execLdBn d a imm s
  | .ldHn d a imm => Sys2Proof.Machine.execLdHn d a imm s
  | .ldWn d a imm => Sys2Proof.Machine.execLdWn d a imm s
  | .stB d a imm => Sys2Proof.Machine.execStB d a imm s
  | .stH d a imm => Sys2Proof.Machine.execStH d a imm s
  | .stW d a imm => Sys2Proof.Machine.execStW d a imm s
  | .stD d a imm => Sys2Proof.Machine.execStD d a imm s
  | .ldS d a imm => Sys2Proof.Machine.execLdS d a imm s
  | .chk d => Sys2Proof.Machine.execChk d s
  | .beq a b off => Sys2Proof.Machine.execBeq a b off s
  | .bne a b off => Sys2Proof.Machine.execBne a b off s
  | .blt a b off => Sys2Proof.Machine.execBlt a b off s
  | .bge a b off => Sys2Proof.Machine.execBge a b off s
  | .bltn a b off => Sys2Proof.Machine.execBltn a b off s
  | .bgen a b off => Sys2Proof.Machine.execBgen a b off s
  | .jal d off => Sys2Proof.Machine.execJal d off s
  | .jalr d a imm => Sys2Proof.Machine.execJalr d a imm s
  | .amoSwap sc d a b => Sys2Proof.Machine.execAmoSwap sc d a b s
  | .amoAdd sc d a b => Sys2Proof.Machine.execAmoAdd sc d a b s
  | .amoAnd sc d a b => Sys2Proof.Machine.execAmoAnd sc d a b s
  | .amoOr sc d a b => Sys2Proof.Machine.execAmoOr sc d a b s
  | .amoXor sc d a b => Sys2Proof.Machine.execAmoXor sc d a b s
  | .amoMax sc d a b => Sys2Proof.Machine.execAmoMax sc d a b s
  | .amoMin sc d a b => Sys2Proof.Machine.execAmoMin sc d a b s
  | .amoMaxn sc d a b => Sys2Proof.Machine.execAmoMaxn sc d a b s
  | .amoMinn sc d a b => Sys2Proof.Machine.execAmoMinn sc d a b s
  | .cas sc d a b => Sys2Proof.Machine.execCas sc d a b s
  | .redAdd sc a b => Sys2Proof.Machine.execRedAdd sc a b s
  | .redFadd32 sc a b => Sys2Proof.Machine.execRedFadd32 sc a b s
  | .redMax sc a b => Sys2Proof.Machine.execRedMax sc a b s
  | .redMin sc a b => Sys2Proof.Machine.execRedMin sc a b s
  | .lda sc d a => Sys2Proof.Machine.execLda sc d a s
  | .stl sc a b => Sys2Proof.Machine.execStl sc a b s
  | .fenceMem => Sys2Proof.Machine.execFenceMem s
  | .fenceEngines => Sys2Proof.Machine.execFenceEngines s
  | .fenceBoth => Sys2Proof.Machine.execFenceBoth s
  | .barInit d a b => Sys2Proof.Machine.execBarInit d a b s
  | .barArr d a b => Sys2Proof.Machine.execBarArr d a b s
  | .barWait d a b => Sys2Proof.Machine.execBarWait d a b s
  | .barArrw d a b => Sys2Proof.Machine.execBarArrw d a b s
  | .barQuery d a b => Sys2Proof.Machine.execBarQuery d a b s
  | .sev a => Sys2Proof.Machine.execSev a s
  | .wfe => Sys2Proof.Machine.execWfe s
  | .clrev => Sys2Proof.Machine.execClrev s
  | .spawn d a b => Sys2Proof.Machine.execSpawn d a b s
  | .join d a => Sys2Proof.Machine.execJoin d a s
  | .send d a b => Sys2Proof.Machine.execSend d a b s
  | .runV d a n => Sys2Proof.Machine.execRunV d a n s
  | .runM d a n => Sys2Proof.Machine.execRunM d a n s
  | .runX d a n => Sys2Proof.Machine.execRunX d a n s
  | .runW d a n => Sys2Proof.Machine.execRunW d a n s
  | .ewaitE mask => Sys2Proof.Machine.execEwaitE mask s
  | .ewaitK mask => Sys2Proof.Machine.execEwaitK mask s
  | .atTick a => Sys2Proof.Machine.execAtTick a s
  | .codePf a c => Sys2Proof.Machine.execCodePf a c s
  | .codePin a c => Sys2Proof.Machine.execCodePin a c s
  | .codeUnpin a c => Sys2Proof.Machine.execCodeUnpin a c s
  | .safe num => Sys2Proof.Machine.execSafe num s
  | .cfgr d num => Sys2Proof.Machine.execCfgr d num s
  | .cfgw a num => Sys2Proof.Machine.execCfgw a num s
  | .syscall code => Sys2Proof.Machine.execSyscall code s
  | .brk code => Sys2Proof.Machine.execBrk code s
  | .eret => Sys2Proof.Machine.execEret s
  | .halt => Sys2Proof.Machine.execHalt s
  | .qdepth d q => Sys2Proof.Machine.execQdepth d q s
  | .tstate d t => Sys2Proof.Machine.execTstate d t s
  | .vshape h vp => Sys2Proof.Machine.execVshape h vp s
  | .vld h t inc d vp => Sys2Proof.Machine.execVld h t inc d vp s
  | .vst h t inc d vp => Sys2Proof.Machine.execVst h t inc d vp s
  | .vldacc h t inc exact d vp => Sys2Proof.Machine.execVldacc h t inc exact d vp s
  | .vstacc h t inc exact d vp => Sys2Proof.Machine.execVstacc h t inc exact d vp s
  | .vmov h t d a => Sys2Proof.Machine.execVmov h t d a s
  | .vsplat h t x d a => Sys2Proof.Machine.execVsplat h t x d a s
  | .vadd h m t r d a b => Sys2Proof.Machine.execVadd h m t r d a b s
  | .vsub h m t r d a b => Sys2Proof.Machine.execVsub h m t r d a b s
  | .vmul h m t r d a b => Sys2Proof.Machine.execVmul h m t r d a b s
  | .vfma h m t r d a b => Sys2Proof.Machine.execVfma h m t r d a b s
  | .vmax h m t d a b => Sys2Proof.Machine.execVmax h m t d a b s
  | .vmin h m t d a b => Sys2Proof.Machine.execVmin h m t d a b s
  | .vdiv h m t r d a b => Sys2Proof.Machine.execVdiv h m t r d a b s
  | .vcvt h m t r d a src => Sys2Proof.Machine.execVcvt h m t r d a src s
  | .vand h t d a b => Sys2Proof.Machine.execVand h t d a b s
  | .vor h t d a b => Sys2Proof.Machine.execVor h t d a b s
  | .vxor h t d a b => Sys2Proof.Machine.execVxor h t d a b s
  | .vshl h t d a b => Sys2Proof.Machine.execVshl h t d a b s
  | .vshrSrl h t d a b => Sys2Proof.Machine.execVshrSrl h t d a b s
  | .vshrSra h t d a b => Sys2Proof.Machine.execVshrSra h t d a b s
  | .vmpush h t c a b => Sys2Proof.Machine.execVmpush h t c a b s
  | .vminv h => Sys2Proof.Machine.execVminv h s
  | .vmpop h => Sys2Proof.Machine.execVmpop h s
  | .vskip h c n => Sys2Proof.Machine.execVskip h c n s
  | .vsel h t d a b => Sys2Proof.Machine.execVsel h t d a b s
  | .vloop h sm1 l vp => Sys2Proof.Machine.execVloop h sm1 l vp s
  | .vexp2 h m t r d a => Sys2Proof.Machine.execVexp2 h m t r d a s
  | .vlog2 h m t r d a => Sys2Proof.Machine.execVlog2 h m t r d a s
  | .vrcp h m t r d a => Sys2Proof.Machine.execVrcp h m t r d a s
  | .vrsqrt h m t r d a => Sys2Proof.Machine.execVrsqrt h m t r d a s
  | .vtanh h m t r d a => Sys2Proof.Machine.execVtanh h m t r d a s
  | .vsig h m t r d a => Sys2Proof.Machine.execVsig h m t r d a s
  | .vredsum h t r dir d a => Sys2Proof.Machine.execVredsum h t r dir d a s
  | .vredmax h t dir d a => Sys2Proof.Machine.execVredmax h t dir d a s
  | .vredmin h t dir d a => Sys2Proof.Machine.execVredmin h t dir d a s
  | .vtopk h t max byId vpk d a b => Sys2Proof.Machine.execVtopk h t max byId vpk d a b s
  | .vtopm h t max byId vpk d a b => Sys2Proof.Machine.execVtopm h t max byId vpk d a b s
  | .vperm h t g d a b => Sys2Proof.Machine.execVperm h t g d a b s
  | .vgath h t g d vp b => Sys2Proof.Machine.execVgath h t g d vp b s
  | .vscat h t g d vp b => Sys2Proof.Machine.execVscat h t g d vp b s
  | .vrand h t x d vpa vpb => Sys2Proof.Machine.execVrand h t x d vpa vpb s
  | .vqrs h t x d vpa vpb => Sys2Proof.Machine.execVqrs h t x d vpa vpb s
  | .vqdir h vpa vpb => Sys2Proof.Machine.execVqdir h vpa vpb s
  | .vpchk h t vp d a b => Sys2Proof.Machine.execVpchk h t vp d a b s
  | .vpush h t q a vpb => Sys2Proof.Machine.execVpush h t q a vpb s
  | .vpop h t d q => Sys2Proof.Machine.execVpop h t d q s
  | .vtrans h t d a => Sys2Proof.Machine.execVtrans h t d a s
  | .viota h t x d => Sys2Proof.Machine.execViota h t x d s
  | .vclass h t d a => Sys2Proof.Machine.execVclass h t d a s
  | .vexit h => Sys2Proof.Machine.execVexit h s
  | .mfmt af bf ex => Sys2Proof.Machine.execMfmt af bf ex s
  | .mldb tn => Sys2Proof.Machine.execMldb tn s
  | .mldbScaled tn sc => Sys2Proof.Machine.execMldbScaled tn sc s
  | .mrows st n dst a pitch => Sys2Proof.Machine.execMrows st n dst a pitch s
  | .mbag st sl list n e rep => Sys2Proof.Machine.execMbag st sl list n e rep s
  | .mfeed st tg q n dst => Sys2Proof.Machine.execMfeed st tg q n dst s
  | .mclose => Sys2Proof.Machine.execMclose s
  | .mclr vw n first => Sys2Proof.Machine.execMclr vw n first s
  | .mdrain clr h vw n first a => Sys2Proof.Machine.execMdrain clr h vw n first a s
  | .mfill h vw n first a => Sys2Proof.Machine.execMfill h vw n first a s
  | .mtagb base => Sys2Proof.Machine.execMtagb base s
  | .msync kv k => Sys2Proof.Machine.execMsync kv k s
  | .mflags clear a => Sys2Proof.Machine.execMflags clear a s
  | .mcharge fx units => Sys2Proof.Machine.execMcharge fx units s
  | .mexit => Sys2Proof.Machine.execMexit s
  | .xcopyG2s x dfr sl sp off => Sys2Proof.Machine.execXcopyG2s x dfr sl sp off s
  | .xcopyS2g x dfr drain sl sp off => Sys2Proof.Machine.execXcopyS2g x dfr drain sl sp off s
  | .xcopyS2s x dfr drain sl src dst => Sys2Proof.Machine.execXcopyS2s x dfr drain sl src dst s
  | .xcopy2 x dfr sl dl => Sys2Proof.Machine.execXcopy2 x dfr sl dl s
  | .xgath x dfr sl list n dst => Sys2Proof.Machine.execXgath x dfr sl list n dst s
  | .xmcast x vp src g set_ => Sys2Proof.Machine.execXmcast x vp src g set_ s
  | .xred x op sl sp off => Sys2Proof.Machine.execXred x op sl sp off s
  | .xcomp x dfr sl list n dl => Sys2Proof.Machine.execXcomp x dfr sl list n dl s
  | .xtile x tn sp => Sys2Proof.Machine.execXtile x tn sp s
  | .xscale x sp n => Sys2Proof.Machine.execXscale x sp n s
  | .xslot x sl vp off => Sys2Proof.Machine.execXslot x sl vp off s
  | .xslev x sl vp off => Sys2Proof.Machine.execXslev x sl vp off s
  | .xpub x => Sys2Proof.Machine.execXpub x s
  | .xsend x sp mbox => Sys2Proof.Machine.execXsend x sp mbox s
  | .xfillDef x tt sp len => Sys2Proof.Machine.execXfillDef x tt sp len s
  | .xfillRel x tt => Sys2Proof.Machine.execXfillRel x tt s
  | .xwait x => Sys2Proof.Machine.execXwait x s
  | .xbusySet x sp g => Sys2Proof.Machine.execXbusySet x sp g s
  | .xbusyClr x sp g => Sys2Proof.Machine.execXbusyClr x sp g s
  | .xexit wm => Sys2Proof.Machine.execXexit wm s
  | .wli d imm => Sys2Proof.Machine.execWli d imm s
  | .wliHi d imm => Sys2Proof.Machine.execWliHi d imm s
  | .wliVp d n => Sys2Proof.Machine.execWliVp d n s
  | .wadd d a b imm => Sys2Proof.Machine.execWadd d a b imm s
  | .wsub d a b imm => Sys2Proof.Machine.execWsub d a b imm s
  | .wmul d a b imm => Sys2Proof.Machine.execWmul d a b imm s
  | .wand d a b imm => Sys2Proof.Machine.execWand d a b imm s
  | .wor d a b imm => Sys2Proof.Machine.execWor d a b imm s
  | .wshl d a b imm => Sys2Proof.Machine.execWshl d a b imm s
  | .wshr d a b imm => Sys2Proof.Machine.execWshr d a b imm s
  | .wmin d a b imm => Sys2Proof.Machine.execWmin d a b imm s
  | .wld sz d a imm => Sys2Proof.Machine.execWld sz d a imm s
  | .wbit d a b imm => Sys2Proof.Machine.execWbit d a b imm s
  | .wloop a off => Sys2Proof.Machine.execWloop a off s
  | .wnext d a off => Sys2Proof.Machine.execWnext d a off s
  | .wskip c a b off => Sys2Proof.Machine.execWskip c a b off s
  | .wpos kind a b => Sys2Proof.Machine.execWpos kind a b s
  | .wemitE a b imm => Sys2Proof.Machine.execWemitE a b imm s
  | .wemitL a b => Sys2Proof.Machine.execWemitL a b s
  | .wemitW a b imm => Sys2Proof.Machine.execWemitW a b imm s
  | .wtile a => Sys2Proof.Machine.execWtile a s
  | .wrow a imm => Sys2Proof.Machine.execWrow a imm s
  | .wgo a sl kv k => Sys2Proof.Machine.execWgo a sl kv k s
  | .wmove sz d a b => Sys2Proof.Machine.execWmove sz d a b s
  | .wexit kv k => Sys2Proof.Machine.execWexit kv k s
  | .barrierRequestArrival => Sys2Proof.Machine.execBarrierRequestArrival s
  | .barrierReply => Sys2Proof.Machine.execBarrierReply s
  | .sevArrival => Sys2Proof.Machine.execSevArrival s
  | .retryResponse => Sys2Proof.Machine.execRetryResponse s
  | .requestRetry => Sys2Proof.Machine.execRequestRetry s
  | .storeStamped => Sys2Proof.Machine.execStoreStamped s
  | .loadReply => Sys2Proof.Machine.execLoadReply s
  | .leasePush => Sys2Proof.Machine.execLeasePush s
  | .ownershipReturn => Sys2Proof.Machine.execOwnershipReturn s
  | .vectorWriteback => Sys2Proof.Machine.execVectorWriteback s
  | .queueRowDelivery => Sys2Proof.Machine.execQueueRowDelivery s
  | .runEnd => Sys2Proof.Machine.execRunEnd s
  | .rowPassLand => Sys2Proof.Machine.execRowPassLand s
  | .bagRowArrival => Sys2Proof.Machine.execBagRowArrival s
  | .tileClaim => Sys2Proof.Machine.execTileClaim s
  | .shadowFilled => Sys2Proof.Machine.execShadowFilled s
  | .publishReserve => Sys2Proof.Machine.execPublishReserve s
  | .publishCommit => Sys2Proof.Machine.execPublishCommit s
  | .scratchpadPublish => Sys2Proof.Machine.execScratchpadPublish s
  | .stepComplete => Sys2Proof.Machine.execStepComplete s
  | .xredLineApply => Sys2Proof.Machine.execXredLineApply s
  | .multicastLanding => Sys2Proof.Machine.execMulticastLanding s
  | .sectorPageFault => Sys2Proof.Machine.execSectorPageFault s
  | .stepResume => Sys2Proof.Machine.execStepResume s
  | .packetParse => Sys2Proof.Machine.execPacketParse s
  | .launchQueueAccept => Sys2Proof.Machine.execLaunchQueueAccept s
  | .timedLaunchStart => Sys2Proof.Machine.execTimedLaunchStart s
  | .watchdogExpiry => Sys2Proof.Machine.execWatchdogExpiry s
  | .partitionReset => Sys2Proof.Machine.execPartitionReset s
  | .partitionReopen => Sys2Proof.Machine.execPartitionReopen s
  | .uncorrectableMemoryError => Sys2Proof.Machine.execUncorrectableMemoryError s
  | .timeSliceSwitch => Sys2Proof.Machine.execTimeSliceSwitch s
  | .heldDelivery => Sys2Proof.Machine.execHeldDelivery s
  | .coreSave => Sys2Proof.Machine.execCoreSave s
  | .swapSave => Sys2Proof.Machine.execSwapSave s
  | .swapRestore => Sys2Proof.Machine.execSwapRestore s
  | .swapDone => Sys2Proof.Machine.execSwapDone s
  | .taskResume => Sys2Proof.Machine.execTaskResume s
  | .taskEnd => Sys2Proof.Machine.execTaskEnd s
  | .faultRecordRemove => Sys2Proof.Machine.execFaultRecordRemove s
  | .partitionDescriptorWrite => Sys2Proof.Machine.execPartitionDescriptorWrite s
  | .remapTableWrite => Sys2Proof.Machine.execRemapTableWrite s
  | .mailboxStateWrite => Sys2Proof.Machine.execMailboxStateWrite s
  | .ringTableWrite => Sys2Proof.Machine.execRingTableWrite s
  | .ringctlWrite => Sys2Proof.Machine.execRingctlWrite s
  | .meshcfgWrite => Sys2Proof.Machine.execMeshcfgWrite s
  | .portChannelBind => Sys2Proof.Machine.execPortChannelBind s
  | .translationBlockWrite => Sys2Proof.Machine.execTranslationBlockWrite s
  | .invalidateVa => Sys2Proof.Machine.execInvalidateVa s
  | .invalidateAsid => Sys2Proof.Machine.execInvalidateAsid s
  | .hatboxBankMapWrite => Sys2Proof.Machine.execHatboxBankMapWrite s
  | .hatboxSlotCopy => Sys2Proof.Machine.execHatboxSlotCopy s
  | .pmRegisterWrite => Sys2Proof.Machine.execPmRegisterWrite s
  | .imageLoad => Sys2Proof.Machine.execImageLoad s
  | .doorbell => Sys2Proof.Machine.execDoorbell s
  | .hostDramAccess => Sys2Proof.Machine.execHostDramAccess s
  | .tableWalkComplete => Sys2Proof.Machine.execTableWalkComplete s
  | .pickerRowDelivery => Sys2Proof.Machine.execPickerRowDelivery s
  | .flitPromotion => Sys2Proof.Machine.execFlitPromotion s
  | .requestReplay => Sys2Proof.Machine.execRequestReplay s
  | .requestAtHome => Sys2Proof.Machine.execRequestAtHome s
  | .linkProtocolError => Sys2Proof.Machine.execLinkProtocolError s
  | .data => Sys2Proof.Machine.execData s
  | .nak => Sys2Proof.Machine.execNak s
  | .ack => Sys2Proof.Machine.execAck s
  | .credit => Sys2Proof.Machine.execCredit s
  | .linkRetrain => Sys2Proof.Machine.execLinkRetrain s
  | .portWindowCommit => Sys2Proof.Machine.execPortWindowCommit s
  | .ringTableError => Sys2Proof.Machine.execRingTableError s
  | .ringLaneFailure => Sys2Proof.Machine.execRingLaneFailure s
  | .meshLaneFailure => Sys2Proof.Machine.execMeshLaneFailure s
  | .sliceWayReplace => Sys2Proof.Machine.execSliceWayReplace s
  | .dramRowSpare => Sys2Proof.Machine.execDramRowSpare s
  | .bootStage0 => Sys2Proof.Machine.execBootStage0 s
  | .bootStage1 => Sys2Proof.Machine.execBootStage1 s
  | .bootStage2 => Sys2Proof.Machine.execBootStage2 s
  | .quoteRequest => Sys2Proof.Machine.execQuoteRequest s
  | .powerLevelUpdate => Sys2Proof.Machine.execPowerLevelUpdate s
  | .thermalTrip => Sys2Proof.Machine.execThermalTrip s
  | .deliveredTick => Sys2Proof.Machine.execDeliveredTick s
  | .wallPeriod => Sys2Proof.Machine.execWallPeriod s
  | .ringCycle => Sys2Proof.Machine.execRingCycle s
  | .meshCycle => Sys2Proof.Machine.execMeshCycle s
  | .illegalWord => Sys2Proof.Machine.execIllegalWord s
  | .idle => Sys2Proof.Machine.execIdle s
  | .requestAcknowledgement => Sys2Proof.Machine.execRequestAcknowledgement s
  | .linkRetrainDone => Sys2Proof.Machine.execLinkRetrainDone s
  | .refreshWindowCalibration => Sys2Proof.Machine.execRefreshWindowCalibration s
  | .dieTemperatureRecovery => Sys2Proof.Machine.execDieTemperatureRecovery s
  | .codeCacheFill => Sys2Proof.Machine.execCodeCacheFill s

end Sys2Proof.Machine
end

