-- ==== Sys2Proof/Machine/Step.lean ====
section
/-! DEFINITION. One step of the package: the next job of the agenda, else the next command from outside, else the next
wall period. -/

namespace Sys2Proof.Machine

open Sys2Proof

/-- An agent's next word or step is fetched, decoded and carried out (spec/03_encodings.md R64). -/
def issueStep (who : Cur) (s : State) : Host.Outcome State Fault Refusal :=
  match s.fetch who with
  | .words ws =>
    match decode who.unit ws with
    | some (i, _) => exec i (s.dropBypass who)
    | none => exec .illegalWord (s.dropBypass who)
  | .nothing => .next s
  | .miss va pa => .next (s.startFill who va pa)
  | .fault cause why addr => .next (s.fetchFault who cause why addr)

/-- One step. A command that the package does not take, as in a boot that has failed or not come so far, does nothing
(spec/22_platform.md R365). -/
def step (s : State) : Host.Outcome State Fault Refusal :=
  match s.agenda with
  | .event who e :: rest => exec e.instr { s with agenda := rest, cur := who, ev := e }
  | .issue who :: rest => issueStep who { s with agenda := rest, cur := who }
  | .engines core :: rest => .next (({ s with agenda := rest } : State).enginesJob core)
  | .ends core :: rest => .next (({ s with agenda := rest } : State).endsJob core)
  | .arbitrate core :: rest => .next (({ s with agenda := rest } : State).arbitrateJob core)
  | .sectors core :: rest => .next (({ s with agenda := rest } : State).sectorsJob core)
  | .report core :: rest => .next (({ s with agenda := rest } : State).reportJob core)
  | .frontEnds :: rest => .next ({ s with agenda := rest } : State).frontEnds
  | .barriers p :: rest => .next (({ s with agenda := rest } : State).barriersJob p)
  | [] =>
    match s.inputs with
    | e :: rest => if s.takes e then exec e.instr { s with inputs := rest, ev := e } else .next { s with inputs := rest }
    | [] => exec .wallPeriod s

/-- The state whose next step fetches and runs the instruction with table bits `w` (the host's fixed name). -/
def State.withFetchWord (s : State) (nbits w : Nat) : State :=
  let ws := tableLayout nbits w
  match decodeAny tableUnits ws with
  | some (a, _) => s.placeWords a ws
  | none => s.placeWords .seq ws

end Sys2Proof.Machine
end

