-- ==== Sys2Proof/WellFormed.lean ====
section
/-! DEFINITION. The well-formed instructions: the operand values that the encodings of spec/03_encodings.md (R66 to
R80, with R132, R156, R177, R178, R197 and R221) allow. An event carries no field and has no words. -/

namespace Sys2Proof

/-- Address words: bank 0 in tile form (R178). -/
def SpadAddr.ok (a : SpadAddr) : Bool := !a.tf || a.bank == 0

/-- Counts of 1 to `hi`. -/
def countIn {w : Nat} (n : BitVec w) (hi : Nat) : Bool := countOk n.toNat hi

/-- Registers of `run`: at most four, none beyond g31 (R70). -/
def runOk (d : GReg) (n : BitVec 3) : Bool := n.toNat ≤ 4 && d.val + n.toNat ≤ 32

/-- A float word that takes a modifier (R73, R156). -/
def floatMod (t : ElemType) (m : Option Modifier) : Bool := modOk false m && t.isFloat

/-- The unit whose section an instruction's words stand in; none for an event. -/
def Instr.unit? (i : Instr) : Option Agent :=
  match i with
  | .add _ _ _ | .sub _ _ _ | .and _ _ _ | .or _ _ _ | .xor _ _ _ | .andn _ _ _ | .sll _ _ _ | .srl _ _ _
  | .sra _ _ _ | .slt _ _ _ | .sltn _ _ _ | .min _ _ _ | .max _ _ _ | .minn _ _ _ | .maxn _ _ _ | .mul _ _ _
  | .mulh _ _ _ | .mulhn _ _ _ | .div _ _ _ | .divn _ _ _ | .rem _ _ _ | .remn _ _ _ | .clz _ _ | .ctz _ _
  | .popc _ _ | .addi _ _ _ | .andi _ _ _ | .ori _ _ _ | .xori _ _ _ | .slli _ _ _ | .srli _ _ _ | .srai _ _ _
  | .lui _ _ | .slti _ _ _ | .sltni _ _ _ | .ldB _ _ _ | .ldH _ _ _ | .ldW _ _ _ | .ldD _ _ _ | .ldBn _ _ _
  | .ldHn _ _ _ | .ldWn _ _ _ | .stB _ _ _ | .stH _ _ _ | .stW _ _ _ | .stD _ _ _ | .ldS _ _ _ | .chk _
  | .beq _ _ _ | .bne _ _ _ | .blt _ _ _ | .bge _ _ _ | .bltn _ _ _ | .bgen _ _ _ | .jal _ _ | .jalr _ _ _
  | .amoSwap _ _ _ _ | .amoAdd _ _ _ _ | .amoAnd _ _ _ _ | .amoOr _ _ _ _ | .amoXor _ _ _ _ | .amoMax _ _ _ _
  | .amoMin _ _ _ _ | .amoMaxn _ _ _ _ | .amoMinn _ _ _ _ | .cas _ _ _ _ | .redAdd _ _ _ | .redFadd32 _ _ _
  | .redMax _ _ _ | .redMin _ _ _ | .lda _ _ _ | .stl _ _ _ | .fenceMem | .fenceEngines | .fenceBoth
  | .barInit _ _ _ | .barArr _ _ _ | .barWait _ _ _ | .barArrw _ _ _ | .barQuery _ _ _ | .sev _ | .wfe | .clrev
  | .spawn _ _ _ | .join _ _ | .send _ _ _ | .runV _ _ _ | .runM _ _ _ | .runX _ _ _ | .runW _ _ _ | .ewaitE _
  | .ewaitK _ | .atTick _ | .codePf _ _ | .codePin _ _ | .codeUnpin _ _ | .safe _ | .cfgr _ _ | .cfgw _ _
  | .syscall _ | .brk _ | .eret | .halt | .qdepth _ _ | .tstate _ _ => some .seq
  | .vshape _ _ | .vld _ _ _ _ _ | .vst _ _ _ _ _ | .vldacc _ _ _ _ _ _ | .vstacc _ _ _ _ _ _ | .vmov _ _ _ _
  | .vsplat _ _ _ _ _ | .vadd _ _ _ _ _ _ _ | .vsub _ _ _ _ _ _ _ | .vmul _ _ _ _ _ _ _ | .vfma _ _ _ _ _ _ _
  | .vmax _ _ _ _ _ _ | .vmin _ _ _ _ _ _ | .vdiv _ _ _ _ _ _ _ | .vcvt _ _ _ _ _ _ _ | .vand _ _ _ _ _
  | .vor _ _ _ _ _ | .vxor _ _ _ _ _ | .vshl _ _ _ _ _ | .vshrSrl _ _ _ _ _ | .vshrSra _ _ _ _ _
  | .vmpush _ _ _ _ _ | .vminv _ | .vmpop _ | .vskip _ _ _ | .vsel _ _ _ _ _ | .vloop _ _ _ _
  | .vexp2 _ _ _ _ _ _ | .vlog2 _ _ _ _ _ _ | .vrcp _ _ _ _ _ _ | .vrsqrt _ _ _ _ _ _ | .vtanh _ _ _ _ _ _
  | .vsig _ _ _ _ _ _ | .vredsum _ _ _ _ _ _ | .vredmax _ _ _ _ _ | .vredmin _ _ _ _ _ | .vtopk _ _ _ _ _ _ _ _
  | .vtopm _ _ _ _ _ _ _ _ | .vperm _ _ _ _ _ _ | .vgath _ _ _ _ _ _ | .vscat _ _ _ _ _ _ | .vrand _ _ _ _ _ _
  | .vqrs _ _ _ _ _ _ | .vqdir _ _ _ | .vpchk _ _ _ _ _ _ | .vpush _ _ _ _ _ | .vpop _ _ _ _ | .vtrans _ _ _ _
  | .viota _ _ _ _ | .vclass _ _ _ _ | .vexit _ => some (.eng .vector)
  | .mfmt _ _ _ | .mldb _ | .mldbScaled _ _ | .mrows _ _ _ _ _ | .mbag _ _ _ _ _ _ | .mfeed _ _ _ _ _ | .mclose
  | .mclr _ _ _ | .mdrain _ _ _ _ _ _ | .mfill _ _ _ _ _ | .mtagb _ | .msync _ _ | .mflags _ _ | .mcharge _ _
  | .mexit => some (.eng .matrix)
  | .xcopyG2s _ _ _ _ _ | .xcopyS2g _ _ _ _ _ _ | .xcopyS2s _ _ _ _ _ _ | .xcopy2 _ _ _ _ | .xgath _ _ _ _ _ _
  | .xmcast _ _ _ _ _ | .xred _ _ _ _ _ | .xcomp _ _ _ _ _ _ | .xtile _ _ _ | .xscale _ _ _ | .xslot _ _ _ _
  | .xslev _ _ _ _ | .xpub _ | .xsend _ _ _ | .xfillDef _ _ _ _ | .xfillRel _ _ | .xwait _ | .xbusySet _ _ _
  | .xbusyClr _ _ _ | .xexit _ => some (.eng .transfer)
  | .wli _ _ | .wliHi _ _ | .wliVp _ _ | .wadd _ _ _ _ | .wsub _ _ _ _ | .wmul _ _ _ _ | .wand _ _ _ _
  | .wor _ _ _ _ | .wshl _ _ _ _ | .wshr _ _ _ _ | .wmin _ _ _ _ | .wld _ _ _ _ | .wbit _ _ _ _ | .wloop _ _
  | .wnext _ _ _ | .wskip _ _ _ _ | .wpos _ _ _ | .wemitE _ _ _ | .wemitL _ _ | .wemitW _ _ _ | .wtile _
  | .wrow _ _ | .wgo _ _ _ _ | .wmove _ _ _ _ | .wexit _ _ => some (.eng .walker)
  | .barrierRequestArrival | .barrierReply | .sevArrival | .retryResponse | .requestRetry | .storeStamped
  | .loadReply | .leasePush | .ownershipReturn | .vectorWriteback | .queueRowDelivery | .runEnd | .rowPassLand
  | .bagRowArrival | .tileClaim | .shadowFilled | .publishReserve | .publishCommit | .scratchpadPublish
  | .stepComplete | .xredLineApply | .multicastLanding | .sectorPageFault | .stepResume | .packetParse
  | .launchQueueAccept | .timedLaunchStart | .watchdogExpiry | .partitionReset | .partitionReopen
  | .uncorrectableMemoryError | .timeSliceSwitch | .heldDelivery | .coreSave | .swapSave | .swapRestore | .swapDone
  | .taskResume | .taskEnd | .faultRecordRemove | .partitionDescriptorWrite | .remapTableWrite | .mailboxStateWrite
  | .ringTableWrite | .ringctlWrite | .meshcfgWrite | .portChannelBind | .translationBlockWrite | .invalidateVa
  | .invalidateAsid | .hatboxBankMapWrite | .hatboxSlotCopy | .pmRegisterWrite | .imageLoad | .doorbell
  | .hostDramAccess | .tableWalkComplete | .pickerRowDelivery | .flitPromotion | .requestReplay | .requestAtHome
  | .linkProtocolError | .data | .nak | .ack | .credit | .linkRetrain | .portWindowCommit | .ringTableError
  | .ringLaneFailure | .meshLaneFailure | .sliceWayReplace | .dramRowSpare | .bootStage0 | .bootStage1
  | .bootStage2 | .quoteRequest | .powerLevelUpdate | .thermalTrip | .deliveredTick | .wallPeriod | .ringCycle
  | .meshCycle | .illegalWord | .idle | .requestAcknowledgement | .linkRetrainDone | .refreshWindowCalibration
  | .dieTemperatureRecovery | .codeCacheFill => none

/-- The operands are values that the encoding admits. -/
def Instr.wf (i : Instr) : Bool :=
  match i with
  | .add _ _ _ | .sub _ _ _ | .and _ _ _ | .or _ _ _ | .xor _ _ _ | .andn _ _ _ | .sll _ _ _ | .srl _ _ _
  | .sra _ _ _ | .slt _ _ _ | .sltn _ _ _ | .min _ _ _ | .max _ _ _ | .minn _ _ _ | .maxn _ _ _ | .mul _ _ _
  | .mulh _ _ _ | .mulhn _ _ _ | .div _ _ _ | .divn _ _ _ | .rem _ _ _ | .remn _ _ _ | .clz _ _ | .ctz _ _
  | .popc _ _ | .addi _ _ _ | .andi _ _ _ | .ori _ _ _ | .xori _ _ _ | .slli _ _ _ | .srli _ _ _ | .srai _ _ _
  | .lui _ _ | .slti _ _ _ | .sltni _ _ _ | .ldB _ _ _ | .ldH _ _ _ | .ldW _ _ _ | .ldD _ _ _ | .ldBn _ _ _
  | .ldHn _ _ _ | .ldWn _ _ _ | .stB _ _ _ | .stH _ _ _ | .stW _ _ _ | .stD _ _ _ | .ldS _ _ _ | .chk _
  | .beq _ _ _ | .bne _ _ _ | .blt _ _ _ | .bge _ _ _ | .bltn _ _ _ | .bgen _ _ _ | .jal _ _ | .jalr _ _ _
  | .amoSwap _ _ _ _ | .amoAdd _ _ _ _ | .amoAnd _ _ _ _ | .amoOr _ _ _ _ | .amoXor _ _ _ _ | .amoMax _ _ _ _
  | .amoMin _ _ _ _ | .amoMaxn _ _ _ _ | .amoMinn _ _ _ _ | .cas _ _ _ _ | .redAdd _ _ _ | .redFadd32 _ _ _
  | .redMax _ _ _ | .redMin _ _ _ | .lda _ _ _ | .stl _ _ _ | .fenceMem | .fenceEngines | .fenceBoth
  | .barInit _ _ _ | .barArr _ _ _ | .barWait _ _ _ | .barArrw _ _ _ | .barQuery _ _ _ | .sev _ | .wfe | .clrev
  | .spawn _ _ _ | .join _ _ | .send _ _ _ | .ewaitE _
  | .ewaitK _ | .atTick _ | .codePf _ _ | .codePin _ _ | .codeUnpin _ _ | .safe _ | .cfgr _ _ | .cfgw _ _
  | .syscall _ | .brk _ | .eret | .halt | .qdepth _ _ | .tstate _ _ => true
  | .runV d _ n | .runM d _ n | .runX d _ n | .runW d _ n => runOk d n
  | .vshape _ _ | .vld _ _ _ _ _ | .vst _ _ _ _ _ | .vmov _ _ _ _ | .vfma _ _ _ _ _ _ _ | .vand _ _ _ _ _
  | .vor _ _ _ _ _ | .vxor _ _ _ _ _ | .vminv _ | .vmpop _ | .vskip _ _ _ | .vsel _ _ _ _ _ | .vloop _ _ _ _
  | .vredmax _ _ _ _ _ | .vredmin _ _ _ _ _ | .vperm _ _ _ _ _ _ | .vgath _ _ _ _ _ _ | .vscat _ _ _ _ _ _
  | .vqdir _ _ _ | .vpush _ _ _ _ _ | .vpop _ _ _ _ | .vtrans _ _ _ _ | .vexit _ => true
  | .vldacc _ t _ _ _ _ | .vstacc _ t _ _ _ _ | .vpchk _ t _ _ _ _ | .vclass _ t _ _ => t.isFloat
  | .vsplat _ _ x _ a => x != .vp || decide (a.val < 4)
  | .vadd _ m _ _ _ _ _ | .vsub _ m _ _ _ _ _ | .vmul _ m _ _ _ _ _ | .vmax _ m _ _ _ _ | .vmin _ m _ _ _ _
  | .vcvt _ m _ _ _ _ _ => modOk false m
  | .vdiv _ m t _ _ _ _ | .vexp2 _ m t _ _ _ | .vlog2 _ m t _ _ _ | .vrcp _ m t _ _ _ | .vrsqrt _ m t _ _ _
  | .vtanh _ m t _ _ _ | .vsig _ m t _ _ _ => floatMod t m
  | .vshl _ t _ _ _ | .vshrSrl _ t _ _ _ => !t.isFloat
  | .vshrSra _ t _ _ _ => t.isSigned
  | .vmpush _ t c _ _ => !c.floatOnly || t.isFloat
  | .vredsum _ t r _ _ _ => t.isFloat || r == .dyn
  | .vtopk _ _ _ byId _ _ _ b => byId || b == 0
  | .vtopm _ t _ _ _ _ _ _ => t == .f32 || t == .i32 || t == .n32
  | .vrand _ t x _ _ _ | .vqrs _ t x _ _ _ => x.accepts t
  | .viota _ t _ _ => !t.isFloat || t == .f32
  | .mfmt af bf _ => tileFmtCode af.toNat && tileFmtCode bf.toNat
  | .mldb _ | .mclose | .mtagb _ | .msync _ _ | .mexit => true
  | .mldbScaled _ sc => sc.ok
  | .mrows _ n _ a _ => a.ok && countIn n 1024
  | .mbag _ _ l n e r => l.ok && r.ok && countIn n 4096 && countIn e 4096
  | .mfeed _ tg _ n dst => countIn n 1024 && (!tg || dst == 0)
  | .mclr _ n _ => countIn n 1024
  | .mdrain _ _ _ n _ a | .mfill _ _ n _ a => a.ok && countIn n 1024
  | .mflags _ a => a.ok
  | .mcharge fx u => fx || u == 0
  | .xcopyG2s x _ _ a _ => x.ok && a.ok
  | .xcopyS2g x _ drain _ a _ => x.ok && a.ok && (!drain || a.tf)
  | .xcopyS2s x _ drain _ a b => x.ok && a.ok && b.ok && (!drain || a.tf)
  | .xcopy2 x _ _ _ | .xslot x _ _ _ | .xslev x _ _ _ | .xpub x | .xfillRel x _ | .xwait x => x.ok
  | .xgath x _ _ l n b => x.ok && l.ok && b.ok && countIn n 4096
  | .xmcast x _ a g _ => x.ok && a.ok && !a.tf && countIn g 512
  | .xred x _ _ a _ | .xtile x _ a | .xsend x a _ => x.ok && a.ok
  | .xcomp x _ _ l n _ => x.ok && l.ok && countIn n 4096
  | .xscale x a n => x.ok && a.ok && countIn n 64
  | .xfillDef x _ a _ => x.ok && a.ok && !a.tf
  | .xbusySet x a g | .xbusyClr x a g => x.ok && a.ok && !a.tf && countIn g 512
  | .xexit _ => true
  | .wli _ _ | .wliHi _ _ | .wliVp _ _ | .wadd _ _ _ _ | .wsub _ _ _ _ | .wmul _ _ _ _ | .wand _ _ _ _
  | .wor _ _ _ _ | .wshl _ _ _ _ | .wshr _ _ _ _ | .wmin _ _ _ _ | .wld _ _ _ _ | .wbit _ _ _ _ | .wloop _ _
  | .wnext _ _ _ | .wskip _ _ _ _ | .wpos _ _ _ | .wemitE _ _ _ | .wemitL _ _ | .wemitW _ _ _ | .wtile _
  | .wrow _ _ | .wmove _ _ _ _ => true
  | .wgo _ _ kv k | .wexit kv k => kv || k == 0
  | .barrierRequestArrival | .barrierReply | .sevArrival | .retryResponse | .requestRetry | .storeStamped
  | .loadReply | .leasePush | .ownershipReturn | .vectorWriteback | .queueRowDelivery | .runEnd | .rowPassLand
  | .bagRowArrival | .tileClaim | .shadowFilled | .publishReserve | .publishCommit | .scratchpadPublish
  | .stepComplete | .xredLineApply | .multicastLanding | .sectorPageFault | .stepResume | .packetParse
  | .launchQueueAccept | .timedLaunchStart | .watchdogExpiry | .partitionReset | .partitionReopen
  | .uncorrectableMemoryError | .timeSliceSwitch | .heldDelivery | .coreSave | .swapSave | .swapRestore | .swapDone
  | .taskResume | .taskEnd | .faultRecordRemove | .partitionDescriptorWrite | .remapTableWrite | .mailboxStateWrite
  | .ringTableWrite | .ringctlWrite | .meshcfgWrite | .portChannelBind | .translationBlockWrite | .invalidateVa
  | .invalidateAsid | .hatboxBankMapWrite | .hatboxSlotCopy | .pmRegisterWrite | .imageLoad | .doorbell
  | .hostDramAccess | .tableWalkComplete | .pickerRowDelivery | .flitPromotion | .requestReplay | .requestAtHome
  | .linkProtocolError | .data | .nak | .ack | .credit | .linkRetrain | .portWindowCommit | .ringTableError
  | .ringLaneFailure | .meshLaneFailure | .sliceWayReplace | .dramRowSpare | .bootStage0 | .bootStage1
  | .bootStage2 | .quoteRequest | .powerLevelUpdate | .thermalTrip | .deliveredTick | .wallPeriod | .ringCycle
  | .meshCycle | .illegalWord | .idle | .requestAcknowledgement | .linkRetrainDone | .refreshWindowCalibration
  | .dieTemperatureRecovery | .codeCacheFill => true

end Sys2Proof
end

