-- ==== Sys2Proof/Safety.lean ====
section
/-! DEFINITION. The terms in which claims about runs are stated: which parts of the package a step leaves as they were,
what a state must satisfy for its memories to be comparable as data, and the result tables of the spec's rules that the
claims hold the meanings against. -/

namespace Sys2Proof.Machine

/-! ## What a step leaves alone -/

/-- Every byte of physical memory reads as before. -/
def SameBytes (s t : State) : Prop := ∀ a, Memory.get t.mem a = Memory.get s.mem a

/-- Every byte of physical memory outside [a, a + n) reads as before. -/
def SameBytesOutside (a n : Nat) (s t : State) : Prop :=
  ∀ b, b < a ∨ a + n ≤ b → Memory.get t.mem b = Memory.get s.mem b

/-- Nothing changes outside the cores, and no core but `k` changes: dies, partitions, mailboxes, lines, links, timers
and every byte of memory are as before. -/
structure OnlyCore (k : Nat) (s t : State) : Prop where
  outside : t = { s with cores := t.cores }
  bytes   : SameBytes s t
  others  : ∀ j, j ≠ k → t.core j = s.core j

/-- Nothing changes but one task slot. -/
structure OnlyTask (r : TaskRef) (s t : State) : Prop where
  core : OnlyCore r.core s t
  slot : t.core r.core = (s.core r.core).setTask r.slot (t.taskOf r)

/-- A sequencer word of the acting task completes: the pc moves on by 4, the next word may issue `n` ticks later, `g[d]`
takes `v` unless d is 0, and nothing else changes: no other register, flag, special register or task, and no memory. -/
structure WordDone (s t : State) (d : GReg) (v : Word64) (n : Nat) : Prop where
  only : OnlyTask s.meRef s t
  slot : t.task = { s.task with pc := s.task.pc + 4, g := t.task.g, readyAt := s.tick + n, hold := .none }
  regs : ∀ r, t.g r = if r = d ∧ d ≠ 0 then v else s.g r

/-- Nothing changes but one task slot and the scope pins of memory lines. -/
structure OnlyPins (r : TaskRef) (s t : State) : Prop where
  outside : t = { s with cores := t.cores, lines := t.lines }
  bytes   : SameBytes s t
  pins    : ∀ l, t.line l = { s.line l with pins := (t.line l).pins }
  slot    : t.core r.core = (s.core r.core).setTask r.slot (t.taskOf r)
  others  : ∀ j, j ≠ r.core → t.core j = s.core j

/-- The engines, stores and configuration registers of core `k` are as before: of the core only its task slots, barriers,
caches, store queue, waiting launches and deliveries, and the counts of its requests may have changed. -/
def SameUnits (k : Nat) (s t : State) : Prop :=
  t.core k = { s.core k with
    tasks := (t.core k).tasks, bars := (t.core k).bars, dcache := (t.core k).dcache, icaches := (t.core k).icaches,
    bypass := (t.core k).bypass, pinbypass := (t.core k).pinbypass, l1tlb := (t.core k).l1tlb,
    storeQ := (t.core k).storeQ, launchQ := (t.core k).launchQ, held := (t.core k).held, late := (t.core k).late,
    accSeq := (t.core k).accSeq }

/-- A message from core `a` to core `b` on channel `vc` is on its way in `t`: due 24 + 12·h ticks later in fixed-latency mode (R115,
R117), and in elastic mode a packet at the sender's station whose flit carries it (DESIGN CHOICE, log 124). -/
def ControlSent (s t : State) (a b : Nat) (vc : Fin 4) (who : Cur) (e : Ev) : Prop :=
  if (s.part (s.core a).part).fl = true then
    { clock := some (s.core who.core).part, due := s.tickOf a + (24 + 12 * hops (dieOf a) (dieOf b)), who := who,
      ev := e : Timer } ∈ t.timers
  else ∃ x ∈ (t.die (dieOf a)).queues, x.src = s.physOf a ∧ x.ready = s.ringCyc ∧
    ∃ f, x.flit = some f ∧ f.goal = dieOf b ∧ f.vc = vc ∧ f.head = s.meshCyc + 8 ∧ f.kind = .carries who e

/-- Of core `k`'s caches only the one that `c` names may have changed, and no other core has. -/
structure CacheOnly (c : CacheSel) (k : Nat) (s t : State) : Prop where
  code   : ∀ j, (∀ g, c.agent = some g → j ≠ g.cache) → vget (t.core k).icaches j = vget (s.core k).icaches j
  data   : c ≠ .data → (t.core k).dcache = (s.core k).dcache
  others : ∀ j, j ≠ k → t.core j = s.core j

/-- The cache of core `x` that `c` names holds the line of an address, with its pin as `p` says. -/
def LinePinned (x : Core) (c : CacheSel) (va pa : Nat) (p : Bool) : Prop :=
  match c.agent with
  | some g => ∃ y, codeFind (vget x.icaches g.cache) (va / 64) = some y ∧ y.pin = p
  | none => ∃ y, dcFind x.dcache (pa / 64) = some y ∧ y.pin = p

/-- Physical and host memory are those of `s`. -/
def SameMems (s t : State) : Prop := t.mem = s.mem ∧ t.endpoint.mem = s.endpoint.mem

/-- The acting task's word completes `n` ticks later: its pc has moved on by 4, `g[d]` holds `v` unless d is 0, and its
other registers, flags and special registers are as before; its stamps and pins may have moved, and a write of its own may
have cleared v of an entry of its address table (R96). -/
structure TaskDone (s t : State) (d : GReg) (v : Word64) (n : Nat) : Prop where
  slot : t.task = { s.task with pc := s.task.pc + 4, g := t.task.g, readyAt := s.tick + n, hold := .none,
                                ts := t.task.ts, latch := t.task.latch, latchStamp := t.task.latchStamp, pins := t.task.pins,
                                tab := t.task.tab }
  regs : ∀ r, t.g r = if r = d ∧ d ≠ 0 then v else s.g r

/-- Memory is in its canonical form: physical memory and the host's. -/
def State.memoryOk (s : State) : Prop := Memory.wf s.mem = true ∧ Memory.wf s.endpoint.mem = true

/-! ## Results of the rules -/

/-- R87 and R89 without the divisions: destination, value and ticks (R86) of a word, `g` giving the source registers. -/
def arithResult (g : GReg → Word64) (i : Instr) : Option (GReg × Word64 × Nat) :=
  match i with
  | .add d a b => some (d, BitVec.ofNat 64 (uv (g a) + uv (g b)), 1)
  | .sub d a b => some (d, BitVec.ofInt 64 (sv (g a) - sv (g b)), 1)
  | .and d a b => some (d, BitVec.ofNat 64 (uv (g a) &&& uv (g b)), 1)
  | .or d a b => some (d, BitVec.ofNat 64 (uv (g a) ||| uv (g b)), 1)
  | .xor d a b => some (d, BitVec.ofNat 64 (uv (g a) ^^^ uv (g b)), 1)
  | .andn d a b => some (d, BitVec.ofNat 64 (uv (g a) &&& (2 ^ 64 - 1 - uv (g b))), 1)
  | .sll d a b => some (d, BitVec.ofNat 64 (uv (g a) * 2 ^ (uv (g b) % 64)), 1)
  | .srl d a b => some (d, BitVec.ofNat 64 (uv (g a) / 2 ^ (uv (g b) % 64)), 1)
  | .sra d a b => some (d, BitVec.ofInt 64 (sv (g a) / 2 ^ (uv (g b) % 64)), 1)
  | .slt d a b => some (d, if sv (g a) < sv (g b) then 1 else 0, 1)
  | .sltn d a b => some (d, if uv (g a) < uv (g b) then 1 else 0, 1)
  | .min d a b => some (d, if sv (g a) ≤ sv (g b) then g a else g b, 1)
  | .max d a b => some (d, if sv (g a) ≤ sv (g b) then g b else g a, 1)
  | .minn d a b => some (d, if uv (g a) ≤ uv (g b) then g a else g b, 1)
  | .maxn d a b => some (d, if uv (g a) ≤ uv (g b) then g b else g a, 1)
  | .mul d a b => some (d, BitVec.ofInt 64 (sv (g a) * sv (g b)), 3)
  | .mulh d a b => some (d, BitVec.ofInt 64 (sv (g a) * sv (g b) / 2 ^ 64), 3)
  | .mulhn d a b => some (d, BitVec.ofNat 64 (uv (g a) * uv (g b) / 2 ^ 64), 3)
  | .clz d a => some (d, BitVec.ofNat 64 (((List.range 64).find? (fun i => (g a).getLsbD (63 - i))).getD 64), 1)
  | .ctz d a => some (d, BitVec.ofNat 64 (((List.range 64).find? (fun i => (g a).getLsbD i)).getD 64), 1)
  | .popc d a => some (d, BitVec.ofNat 64 ((List.range 64).countP (fun i => (g a).getLsbD i)), 1)
  | .addi d a imm => some (d, BitVec.ofInt 64 (sv (g a) + imm.toInt), 1)
  | .andi d a imm => some (d, BitVec.ofNat 64 (uv (g a) &&& imm.toNat), 1)
  | .ori d a imm => some (d, BitVec.ofNat 64 (uv (g a) ||| imm.toNat), 1)
  | .xori d a imm => some (d, BitVec.ofNat 64 (uv (g a) ^^^ imm.toNat), 1)
  | .slli d a sh => some (d, BitVec.ofNat 64 (uv (g a) * 2 ^ sh.toNat), 1)
  | .srli d a sh => some (d, BitVec.ofNat 64 (uv (g a) / 2 ^ sh.toNat), 1)
  | .srai d a sh => some (d, BitVec.ofInt 64 (sv (g a) / 2 ^ sh.toNat), 1)
  | .lui d imm => some (d, BitVec.ofInt 64 (imm.toInt * 65536), 1)
  | .slti d a imm => some (d, if sv (g a) < imm.toInt then 1 else 0, 1)
  | .sltni d a imm => some (d, if uv (g a) < uv (BitVec.ofInt 64 imm.toInt) then 1 else 0, 1)
  | _ => none

/-- R87 and R88 for the divisions: destination and value. -/
def divideResult (g : GReg → Word64) (i : Instr) : Option (GReg × Word64) :=
  match i with
  | .div d a b =>
    some (d, if g b = 0 then 0xFFFFFFFFFFFFFFFF
      else if g a = 0x8000000000000000 ∧ sv (g b) = -1 then 0x8000000000000000
      else BitVec.ofInt 64 ((sv (g a)).tdiv (sv (g b))))
  | .divn d a b => some (d, if g b = 0 then 0xFFFFFFFFFFFFFFFF else BitVec.ofNat 64 (uv (g a) / uv (g b)))
  | .rem d a b =>
    some (d, if g b = 0 then g a
      else if g a = 0x8000000000000000 ∧ sv (g b) = -1 then 0
      else BitVec.ofInt 64 (sv (g a) - sv (g b) * (sv (g a)).tdiv (sv (g b))))
  | .remn d a b => some (d, if g b = 0 then g a else BitVec.ofNat 64 (uv (g a) - uv (g b) * (uv (g a) / uv (g b))))
  | _ => none

/-- The branch condition of R98, with the offset of the word. -/
def branchTaken (g : GReg → Word64) (i : Instr) : Option (Prop × BitVec 16) :=
  match i with
  | .beq a b off => some (g a = g b, off)
  | .bne a b off => some (g a ≠ g b, off)
  | .blt a b off => some (sv (g a) < sv (g b), off)
  | .bge a b off => some (sv (g b) ≤ sv (g a), off)
  | .bltn a b off => some (uv (g a) < uv (g b), off)
  | .bgen a b off => some (uv (g b) ≤ uv (g a), off)
  | _ => none

/-- What a word that reads global memory asks for. -/
structure MemAsk where
  op  : MemOp
  sc  : Option Scope
  dst : GReg
  ea  : Word64
  a   : Word64
  b   : Word64

/-- The words that read global memory (R90, R108, R109, R111): operation, scope, register, address and operands. -/
def loadAsk (g : GReg → Word64) (i : Instr) : Option MemAsk :=
  match i with
  | .ldB d a imm => some ⟨.load 1 true, none, d, g a + imm.signExtend 64, 0, 0⟩
  | .ldH d a imm => some ⟨.load 2 true, none, d, g a + imm.signExtend 64, 0, 0⟩
  | .ldW d a imm => some ⟨.load 4 true, none, d, g a + imm.signExtend 64, 0, 0⟩
  | .ldD d a imm => some ⟨.load 8 false, none, d, g a + imm.signExtend 64, 0, 0⟩
  | .ldBn d a imm => some ⟨.load 1 false, none, d, g a + imm.signExtend 64, 0, 0⟩
  | .ldHn d a imm => some ⟨.load 2 false, none, d, g a + imm.signExtend 64, 0, 0⟩
  | .ldWn d a imm => some ⟨.load 4 false, none, d, g a + imm.signExtend 64, 0, 0⟩
  | .amoSwap sc d a b => some ⟨.swap, some sc, d, g a, g b, 0⟩
  | .amoAdd sc d a b => some ⟨.add, some sc, d, g a, g b, 0⟩
  | .amoAnd sc d a b => some ⟨.and, some sc, d, g a, g b, 0⟩
  | .amoOr sc d a b => some ⟨.or, some sc, d, g a, g b, 0⟩
  | .amoXor sc d a b => some ⟨.xor, some sc, d, g a, g b, 0⟩
  | .amoMax sc d a b => some ⟨.max, some sc, d, g a, g b, 0⟩
  | .amoMin sc d a b => some ⟨.min, some sc, d, g a, g b, 0⟩
  | .amoMaxn sc d a b => some ⟨.maxn, some sc, d, g a, g b, 0⟩
  | .amoMinn sc d a b => some ⟨.minn, some sc, d, g a, g b, 0⟩
  | .cas sc d a b => some ⟨.cas, some sc, d, g a, g b, g d⟩
  | .lda sc d a => some ⟨.lda, some sc, d, g a, 0, 0⟩
  | _ => none

/-- The words that write global memory without a reply (R90, R110, R111). -/
def storeAsk (g : GReg → Word64) (i : Instr) : Option MemAsk :=
  match i with
  | .stB d a imm => some ⟨.store 1, none, d, g a + imm.signExtend 64, g d, 0⟩
  | .stH d a imm => some ⟨.store 2, none, d, g a + imm.signExtend 64, g d, 0⟩
  | .stW d a imm => some ⟨.store 4, none, d, g a + imm.signExtend 64, g d, 0⟩
  | .stD d a imm => some ⟨.store 8, none, d, g a + imm.signExtend 64, g d, 0⟩
  | .redAdd sc a b => some ⟨.redAdd, some sc, 0, g a, g b, 0⟩
  | .redFadd32 sc a b => some ⟨.redFadd, some sc, 0, g a, g b, 0⟩
  | .redMax sc a b => some ⟨.redMax, some sc, 0, g a, g b, 0⟩
  | .redMin sc a b => some ⟨.redMin, some sc, 0, g a, g b, 0⟩
  | .stl sc a b => some ⟨.stl, some sc, 0, g a, g b, 0⟩
  | _ => none

/-- R115: count, arrivals and phase of a barrier after a request; none is fault 0x0F. -/
def barAfter (b : Bar) (fn : BarFn) (c : Nat) : Option (Nat × Nat × Bool) :=
  match fn with
  | .init => if c < 1 ∨ 8191 < c ∨ (b.val = true ∧ b.arr ≠ 0) then none else some (c, 0, if b.val then b.ph else false)
  | .arr | .arrw =>
    let k := if c = 0 then 1 else c
    if b.val = false ∨ b.cnt.toNat < b.arr.toNat + k then none
    else if b.arr.toNat + k = b.cnt.toNat then some (b.cnt.toNat, 0, !b.ph)
    else some (b.cnt.toNat, b.arr.toNat + k, b.ph)
  | .wait => if b.val = false then none else some (b.cnt.toNat, b.arr.toNat, b.ph)
  | .query => some (b.cnt.toNat, b.arr.toNat, b.ph)

/-- The state word of a barrier (R22). -/
def barWord (val : Bool) (cnt arr : Nat) (ph : Bool) : Word64 :=
  BitVec.ofNat 64 ((if val then 1 else 0) + cnt * 2 + arr * 2 ^ 14 + (if ph then 2 ^ 27 else 0))

/-- R28, R29: the value of a configuration register by its number; none for an unassigned one. -/
def cfgValue (s : State) (n : Nat) : Option Word64 :=
  if n = 0x000 then some (BitVec.ofNat 64 s.tick)
  else if n = 0x001 then some s.wall
  else if n = 0x002 then some ((s.coordOf s.meRef).zeroExtend 64)
  else if n = 0x003 then some (s.modeWord s.cur.core)
  else if n = 0x010 then some (s.task.fflags.zeroExtend 64)
  else if n = 0x011 then some (s.task.frm.zeroExtend 64)
  else if n = 0x012 then some (s.task.trapen.zeroExtend 64)
  else if n = 0x013 then some (if s.task.holdchk then 1 else 0)
  else if n = 0x020 then some (s.task.leaselen.zeroExtend 64)
  else if n = 0x021 then some s.task.clamplo
  else if n = 0x022 then some s.task.clamphi
  else if n = 0x023 then some (s.task.tagbase.zeroExtend 64)
  else if 0x030 ≤ n ∧ n < 0x038 then some ((vget s.me.tdesc (Fin.ofNat 8 (n % 8))).zeroExtend 64)
  else if 0x040 ≤ n ∧ n < 0x044 then some ((vget s.me.qbind (Fin.ofNat 4 (n % 4))).zeroExtend 64)
  else if 0x050 ≤ n ∧ n < 0x060 then some ((vget s.me.bfmt (Fin.ofNat 16 (n % 16))).zeroExtend 64)
  else if n = 0x060 then some s.me.budget.word
  else if n = 0x061 then some (s.me.pinbypass.zeroExtend 64)
  else if n = 0x062 then some s.task.faultinfo
  else none

/-- R28: the registers that no task may write. -/
def cfgReadOnly (n : Nat) : Bool :=
  n == 0x000 || n == 0x001 || n == 0x002 || n == 0x003 || (decide (0x040 ≤ n) && decide (n < 0x044)) || n == 0x060

/-- R27, R29: a value that a writable register takes. -/
def cfgLegal (n : Nat) (v : Word64) : Bool :=
  if n = 0x010 ∨ n = 0x012 then decide (v.toNat < 2 ^ 6)
  else if n = 0x011 then decide (v.toNat < 4)
  else if n = 0x013 then decide (v.toNat < 2)
  else if n = 0x020 then decide (v.toNat < 2 ^ 16)
  else if n = 0x023 then decide (v.toNat < 2 ^ 10)
  else if 0x030 ≤ n ∧ n < 0x038 then decide (2 ^ 17 ≤ v.toNat) && decide (v.toNat < 6 * 2 ^ 16)
  else if 0x050 ≤ n ∧ n < 0x060 then decide (v.toNat < 11)
  else if n = 0x061 then decide (v.toNat < 2 ^ 32)
  else if n = 0x062 then decide (v.toNat < 2 ^ 36)
  else true

/-! ## Vector words that write elements -/

/-- A vector word that writes elements of `v[d]`: its holds, modifier and type, the rule's latency (R74), the registers it
reads, whether its types fit the shape (R14), and the value and flags of each position it writes. -/
structure VWord where
  h    : Hold
  m    : Option Modifier
  t    : ElemType
  lat  : Nat
  d    : VReg
  srcs : List VReg
  ok   : Bool
  elem : Nat → Option (Nat × Flags)

/-- `n` elements of a type fit a register under the shape (R14). -/
def shapeFits (s : State) (t : ElemType) : Bool := decide (s.me.vec.rows * s.me.vec.cols * (t.width / 8) ≤ 4096)

/-- Element `q` of a vector register by name, as type `t`. -/
def vElemOf (s : State) (t : ElemType) (r : VReg) (q : Nat) : Nat := vElem (s.me.vec.reg r) t.width q

/-- Position `q` is enabled by the top mask (R15). -/
def vOn (s : State) (q : Nat) : Bool := s.me.vec.top.getLsbD q

/-- An element-wise word: the enabled positions take `f` (R140). -/
def vEach (s : State) (h : Hold) (m : Option Modifier) (t : ElemType) (lat : Nat) (d : VReg) (srcs : List VReg)
    (f : Nat → Nat × Flags) : Option VWord :=
  some { h := h, m := m, t := t, lat := lat, d := d, srcs := srcs, ok := shapeFits s t,
         elem := fun q => if vOn s q then some (f q) else none }

/-- A set of positions reduced to its first one (R159): the whole shape, a row or a column; none for a position that is not
the first of its set. -/
def setFrom (s : State) (dir : Dir) (q : Nat) : Option (List Nat) :=
  let rows := s.me.vec.rows
  let cols := s.me.vec.cols
  match dir with
  | .all => if q = 0 then some (List.range (rows * cols)) else none
  | .row => if q % cols = 0 then some ((List.range cols).map (fun j => q + j)) else none
  | .col => if q < cols then some ((List.range rows).map (fun i => i * cols + q)) else none

/-- A reduction (R159): each first position takes the enabled elements of its set, combined. -/
def vSets (s : State) (h : Hold) (t : ElemType) (dir : Dir) (d a : VReg) (f : List Nat → Nat × Flags) : Option VWord :=
  some { h := h, m := none, t := t, lat := 5, d := d, srcs := [a], ok := shapeFits s t,
         elem := fun q => (setFrom s dir q).map (fun st => f ((st.filter (vOn s)).map (vElemOf s t a))) }

/-- The words that write elements by a rule of one position or one set (R139 to R148, R157, R159, R163, R167). -/
def vecWordOf (s : State) (i : Instr) : Option VWord :=
  let cols := s.me.vec.cols
  let rows := s.me.vec.rows
  let cfg := (s.run .vector).cfg
  let el (t : ElemType) (r : VReg) (q : Nat) : Nat := vElemOf s t r q
  let two (op : VOp) (h : Hold) (m : Option Modifier) (t : ElemType) (r : Rnd) (lat : Nat) (d a b : VReg) : Option VWord :=
    vEach s h m t lat d [a, b]
      (fun q => elemOp t op (RM.select r cfg.frm) m cfg.clamplo cfg.clamphi (el t a q) (el t b q))
  let bits (f : Nat → Nat → Nat) (h : Hold) (t : ElemType) (d a b : VReg) : Option VWord :=
    vEach s h none t 2 d [a, b] (fun q => (f (el t a q) (el t b q), 0))
  let fn (f : SFn) (h : Hold) (m : Option Modifier) (t : ElemType) (r : Rnd) (d a : VReg) : Option VWord :=
    vEach s h m t 6 d [a] (fun q => elemSFn t f (RM.select r cfg.frm) m cfg.clamplo cfg.clamphi (el t a q))
  match i with
  | .vmov h t d a => vEach s h none t 2 d [a] (fun q => (el t a q, 0))
  | .vsplat h t .elem d a => vEach s h none t 2 d [a] (fun _ => (el t a 0, 0))
  | .vsplat h t .row d a => vEach s h none t 2 d [a] (fun q => (el t a (q % cols), 0))
  | .vsplat h t .col d a => vEach s h none t 2 d [a] (fun q => (el t a (q / cols * cols), 0))
  | .vsplat h t .vp d a =>
    vEach s h none t 2 d [] (fun _ => ((s.vp .vector (Fin.ofNat 4 a.val)).toNat % 2 ^ t.width, 0))
  | .vadd h m t r d a b => two .add h m t r 2 d a b
  | .vsub h m t r d a b => two .sub h m t r 2 d a b
  | .vmul h m t r d a b => two .mul h m t r 3 d a b
  | .vmax h m t d a b => two .max h m t .dyn 2 d a b
  | .vmin h m t d a b => two .min h m t .dyn 2 d a b
  | .vdiv h m t r d a b => two .div h m t r 6 d a b
  | .vfma h m t r d a b =>
    let c : VReg := (m.map (fun x => x.c)).getD d
    vEach s h m t 4 d [a, b, c]
      (fun q => elemFma t (RM.select r cfg.frm) m cfg.clamplo cfg.clamphi (el t a q) (el t b q) (el t c q))
  | .vcvt h m t r d a src =>
    some { h := h, m := m, t := t, lat := 3, d := d, srcs := [a], ok := shapeFits s t && shapeFits s src,
           elem := fun q => if vOn s q then
             some (elemCvt t src (RM.select r cfg.frm) m cfg.clamplo cfg.clamphi (el src a q)) else none }
  | .vand h t d a b => bits (fun x y => x &&& y) h t d a b
  | .vor h t d a b => bits (fun x y => x ||| y) h t d a b
  | .vxor h t d a b => bits (fun x y => x ^^^ y) h t d a b
  | .vshl h t d a b => bits (fun x y => if y < t.width then x * 2 ^ y % 2 ^ t.width else 0) h t d a b
  | .vshrSrl h t d a b => bits (fun x y => if y < t.width then x / 2 ^ y else 0) h t d a b
  | .vshrSra h t d a b =>
    bits (fun x y => ((if x < 2 ^ (t.width - 1) then (x : Int) else x - 2 ^ t.width) /
      2 ^ (if y < t.width then y else t.width - 1) % 2 ^ t.width).toNat) h t d a b
  | .vclass h t d a =>
    vEach s h none t 2 d [a] (fun q => (match t.fmt.fp? with
      | some f => elemClass f (el t a q)
      | none => 0, 0))
  | .vsel h t d a b =>
    some { h := h, m := none, t := t, lat := 2, d := d, srcs := [a, b], ok := shapeFits s t,
           elem := fun q => some (if vOn s q then el t a q else el t b q, 0) }
  | .viota h t x d =>
    vEach s h none t 2 d [] (fun q =>
      let v : Nat := match x with
        | .lin => q
        | .row => q / cols
        | .col => q % cols
      (match t.fmt.fp? with
       | some f => (f.fit .rne (Exact.ofInt v)).1
       | none => v % 2 ^ t.width, 0))
  | .vtrans h t d a => vEach s h none t 3 d [a] (fun p => (el t a (p % rows * cols + p / rows), 0))
  | .vexp2 h m t r d a => fn .exp2 h m t r d a
  | .vlog2 h m t r d a => fn .log2 h m t r d a
  | .vrcp h m t r d a => fn .rcp h m t r d a
  | .vrsqrt h m t r d a => fn .rsqrt h m t r d a
  | .vtanh h m t r d a => fn .tanh h m t r d a
  | .vsig h m t r d a => fn .sig h m t r d a
  | .vredsum h t r dir d a => vSets s h t dir d a (sumSet t (RM.select r cfg.frm))
  | .vredmax h t dir d a => vSets s h t dir d a (extremeSet t true)
  | .vredmin h t dir d a => vSets s h t dir d a (extremeSet t false)
  | .vperm h t g d a b =>
    some { h := h, m := none, t := t, lat := 3, d := d, srcs := [a, b], ok := shapeFits s t && shapeFits s .n32,
           elem := fun q => if vOn s q then
             let k := el .n32 b q
             some (match g with
               | .row => if k < cols then el t a (q / cols * cols + k) else 0
               | .lin => if k < rows * cols then el t a k else 0, 0) else none }
  | .vrand h t _ d vpa vpb =>
    let o := (s.vp .vector vpb).toNat
    vEach s h none t 4 d [] (fun q =>
      (randElem t (mix (BitVec.ofNat 64 (o / 2 ^ 48 * 2 ^ 48 + (o / 2 ^ 20 + q / cols) % 2 ^ 28 * 2 ^ 20 +
        (o + q % cols) % 2 ^ 20)) (s.vp .vector vpa)), 0))
  | _ => none

/-- The entry of a vector word in the pipeline holds the elements of a word: those it writes, and no bit of any other. -/
def VWrite.holds (w : VWrite) (width n : Nat) (elem : Nat → Option (Nat × Flags)) : Prop :=
  (∀ q, q < n → match elem q with
    | none => vElem w.mask width q = 0
    | some (v, _) => vElem w.mask width q = 2 ^ width - 1 ∧ vElem w.val width q = v % 2 ^ width) ∧
  ∀ q, n ≤ q → vElem w.mask width q = 0

/-- A vector word has issued: what it writes and the flags it raises are in the pipeline as `w`, to land in tick `wt`, and
the engine has moved past its `len` words, the next to issue `n` ticks and the word's holds later. Nothing changes outside
the core, and of the core only what `effect` says. -/
structure VecIssued (s t : State) (len n wt : Nat) (h : Hold) (w : VWrite) (effect : Core → Core) : Prop where
  only : OnlyCore s.cur.core s t
  at_  : w.at_ = wt
  slot : w.slot = some (s.run .vector).owner
  core : t.me = (let c := effect s.me
    ({ c with vec := { c.vec with pending := c.vec.pending ++ [w] } } : Core).vecGo ((s.run .vector).upc.toNat + len)
      (s.tick + n + h.toNat))

/-- A word of the vector engine may issue past the hold check and the traps of R76 and R140. -/
def vecClear (s : State) (wt : Nat) (srcs : List VReg) (d : Option VReg) (fl : Flags) : Prop :=
  ((s.run .vector).cfg.holdchk = true → s.me.vec.undersized s.tick wt (srcs.map s.me.vec.phys) (d.map s.me.vec.phys) = false) ∧
  fl &&& (s.run .vector).cfg.trapen = 0

/-- The elements `xs`, places with values, stored in turn as the writes `ws` over memory `m` (R37, R137): an element of whole bytes
stores its own; one of T6 stores its group of 3 bytes, its own six bits new and the other slots as the writes before it left them. -/
structure StoredElems (f : Fmt) (m : Memory) (xs : List (ElemAt × Nat)) (ws : List (Nat × List Byte)) : Prop where
  places : ws.map (fun y => y.1) = xs.map (fun x => x.1.1)
  whole  : f ≠ .t6 → ws.map (fun y => (y.2.length, leNat y.2)) = xs.map (fun x => (f.bits / 8, x.2 % 2 ^ f.bits))
  groups : f = .t6 → ∀ i x v a bs, xs[i]? = some (x, v) → ws[i]? = some (a, bs) → bs.length = 3 ∧
             let old := leNat (Memory.load ((ws.take i).foldl (fun m y => Memory.store m y.1 y.2) m) x.1 3)
             ∀ j, j < 24 → (leNat bs).testBit j =
               if 6 * x.2 ≤ j ∧ j < 6 * x.2 + 6 then v.testBit (j - 6 * x.2) else old.testBit j

/-- A vp register of the vector engine's run has its low `bits` bits higher by `n`, wrapping, where `inc` says so; the other vp
registers are as before. -/
def VpMoved (s t : State) (vp : VpReg) (inc : Bool) (bits n : Nat) : Prop :=
  let w := (s.vp .vector vp).toNat
  (vget (t.me.runOf .vector).vp vp).toNat = (if inc then w / 2 ^ bits * 2 ^ bits + (w % 2 ^ bits + n) % 2 ^ bits else w) ∧
  ∀ j, j ≠ vp → vget (t.me.runOf .vector).vp j = s.vp .vector j

/-- Candidate `i` of a row ranks before candidate `j` (R161, R162): a better score, or, scores equal and ids ranking, a lower id, or
an earlier place. -/
def RanksBefore (max byId : Bool) (cs : List Cand) (i j : Nat) : Prop :=
  ∃ a b, cs[i]? = some a ∧ cs[j]? = some b ∧ (a.before max byId b = true ∨ (b.before max byId a = false ∧ i < j))

/-- The candidates `is`, by their places in `cs`, are its best `k`, the best first. -/
structure BestOf (max byId : Bool) (k : Nat) (cs : List Cand) (is : List Nat) : Prop where
  places : ∀ i ∈ is, i < cs.length
  count  : is.length = Nat.min k cs.length
  order  : is.Pairwise (RanksBefore max byId cs)
  best   : ∀ i ∈ is, ∀ j, j < cs.length → j ∉ is → RanksBefore max byId cs i j

/-! ## Matrix steps -/

/-- A matrix step completes: beside `f` on the acting core only its run moves, `len` words on, the next step to issue from
`at_` on; a run whose task has ended stops there (R339). -/
structure MatDone (s t : State) (len at_ : Nat) (f : Core → Core) : Prop where
  only : OnlyCore s.cur.core s t
  core : t.me = (let c := f s.me
    { c.setRun .matrix { c.runOf .matrix with
        upc := (s.run .matrix).upc + BitVec.ofNat 24 len, nextAt := at_,
        ending := (s.run .matrix).ending || (s.run .matrix).orphan } with mat := { c.mat with progress := 0 } })

/-- A matrix step has done `n` of its parts: beside `f` on the acting core it only notes them, to issue again from `at_`. -/
structure MatPart (s t : State) (n at_ : Nat) (f : Core → Core) : Prop where
  only : OnlyCore s.cur.core s t
  core : t.me = (let c := f s.me
    { c.setRun .matrix { c.runOf .matrix with nextAt := at_ } with mat := { c.mat with progress := n } })

/-- R46: an accumulator element of the rounded view after a row sum, and the flags. -/
def roundedElem (steer : Bool) (old : Nat) (v : BitVec 32) : Nat × Flags :=
  if steer then (v.toNat, 0)
  else
    let sum := addExact .rne (fp32.decode old) (fp32.decode v.toNat)
    let r := fp32.fit .rne sum.1
    (r.1, sum.2 ||| r.2)

/-- R47: an element of the exact view after a row sum that is a NaN, an infinity or a whole number of 2^−64, and the flags. A steered
row is added to 0. -/
def exactElem (steer : Bool) (old : Nat) (v : RowVal) : Nat × Flags :=
  let old := if steer then 0 else old % 2 ^ 128
  let nan := 2 ^ 127
  let ninf := 2 ^ 127 + 1
  let pinf := 2 ^ 127 + 2
  match v with
  | .nan => (nan, 0)
  | .inf n =>
    if old = nan then (nan, 0)
    else if old = (if n then pinf else ninf) then (nan, fNV)
    else (if n then ninf else pinf, 0)
  | .fin i =>
    if old = nan ∨ old = ninf ∨ old = pinf then (old, 0)
    else
      let sum := (BitVec.ofNat 128 old).toInt + i
      if sum < -(2 ^ 127 : Int) + 3 then (2 ^ 127 + 3, fXO)
      else if (2 ^ 127 : Int) - 1 < sum then (2 ^ 127 - 1, fXO)
      else ((sum % 2 ^ 128).toNat, 0)
  | .rounded _ => (old, 0)

/-- A column's sum is one of the rounded view. -/
def RowVal.isRounded (v : RowVal) : Bool :=
  match v with
  | .rounded _ => true
  | .nan | .inf _ | .fin _ => false

/-- An entry of a bag is a faulting one. -/
def BagFate.isFault (f : BagFate) : Bool :=
  match f with
  | .faulted _ _ => true
  | .waiting | .multiplied | .repeated => false

/-- R189: the state of a member in the report. -/
def memberState (b : Bag) (mid : Nat) : Nat :=
  let fates := (b.entries.filter (fun e => e.mid == mid)).map (fun e => e.fate)
  if .repeated ∈ fates then 2 else if .multiplied ∈ fates then 1 else if fates = [] then 0 else 3

/-- R189: the report of a bag: its four words and the states of its members. -/
structure ReportSays (b : Bag) (w : List Byte) : Prop where
  length : w.length = 32 + 16 * ((b.e + 63) / 64)
  counts : leNat (w.take 8) = (b.e + b.entries.length * 2 ^ 16 + b.entries.countP (fun e => e.fate == .multiplied) * 2 ^ 32 +
             b.entries.countP (fun e => e.fate == .repeated) * 2 ^ 48) % 2 ^ 64
  missed : leNat ((w.drop 8).take 8) = ((List.range b.e).countP (fun m => memberState b m == 0) +
             b.entries.countP (fun e => e.fate.isFault) * 2 ^ 16 +
             (if ∀ m, m < b.e → memberState b m = 1 then 1 else 0) * 2 ^ 32) % 2 ^ 64
  sound  : (∀ e ∈ b.entries, e.fate.isFault = false) → leNat ((w.drop 16).take 8) = 0xFFFF ∧ leNat ((w.drop 24).take 8) = 0
  first  : ∀ pos e cause addr, b.entries[pos]? = some e → e.fate = .faulted cause addr →
             (∀ x ∈ b.entries.take pos, x.fate.isFault = false) →
             leNat ((w.drop 16).take 8) = (pos + cause * 2 ^ 16) % 2 ^ 64 ∧
             leNat ((w.drop 24).take 8) = if cause = 0x0A then 0 else addr % 2 ^ 48
  states : leNat (w.drop 32) < 4 ^ b.e ∧ ∀ m, m < b.e → leNat (w.drop 32) / 4 ^ m % 4 = memberState b m

/-- Value of a finite number, 0 for a NaN or an infinity. -/
def Exact.q (x : Exact) : ℚ :=
  match x with
  | .fin n m e _ => (if n then -1 else 1) * m * (2 : ℚ) ^ e
  | .nan _ _ | .inf _ => 0

/-- The value is finite. -/
def Exact.finite (x : Exact) : Bool :=
  match x with
  | .fin _ _ _ _ => true
  | .nan _ _ | .inf _ => false

/-- `a` exceeds `b`; a NaN exceeds nothing and nothing exceeds it. -/
def Exact.exceeds (a b : Exact) : Prop :=
  match a, b with
  | .nan _ _, _ | _, .nan _ _ => False
  | .inf x, .inf y => x = false ∧ y = true
  | .inf x, .fin _ _ _ _ => x = false
  | .fin _ _ _ _, .inf y => y = true
  | .fin _ _ _ _, .fin _ _ _ _ => b.q < a.q

/-- R170: `e` is the largest error of the checked positions, pairs of a predicted and a computed value: infinite where one of them is
a NaN or infinite, and 0 without one. -/
def LargestError (xs : List (Exact × Exact)) (e : Exact) : Prop :=
  ((∃ x ∈ xs, x.1.finite = false ∨ x.2.finite = false) → e = .inf false) ∧
  ((∀ x ∈ xs, x.1.finite = true ∧ x.2.finite = true) → e.finite = true ∧ 0 ≤ e.q ∧ (∀ x ∈ xs, |x.2.q - x.1.q| ≤ e.q) ∧
    (e.q = 0 ∨ ∃ x ∈ xs, |x.2.q - x.1.q| = e.q))

/-- R170: a position that is not enabled is listed, `p` being its predicted value, `e` the largest error and `θ` the threshold. -/
def Doubtful (p e θ : Exact) : Prop :=
  e = .inf false ∨ (p.finite = false ∧ p.exceeds θ) ∨ (p.finite = true ∧ e.finite = true ∧
    match θ with
    | .fin _ _ _ _ => θ.q < p.q + e.q
    | .inf x => x = true
    | .nan _ _ => False)

/-! ## Transfer steps -/

/-- Nothing changes outside core `k` but what acts next: jobs, timers and the count of free values. -/
structure OnlyCoreJobs (k : Nat) (s t : State) : Prop where
  outside : t = { s with cores := t.cores, agenda := t.agenda, timers := t.timers, fresh := t.fresh }
  others  : ∀ j, j ≠ k → t.core j = s.core j

/-- The wait mask of a step sees all its tokens set (R79). -/
def tokensOpen (s : State) (e : Engine) (wm : BitVec 8) : Bool :=
  let i := (s.run e).owner
  (List.finRange 8).all (fun k => !wm.getLsbD k.val ||
    ((s.me.task i).tokens.getLsbD k.val && decide (vget (s.me.task i).tokSet k < s.tick)))

/-- The limits of R198 and R199 leave room for a step with a shadow of `n` bytes that names token `k` if `kv`. -/
def stepFits (s : State) (e : Engine) (kv : Bool) (k : Tok) (n : Nat) : Bool :=
  decide (s.me.xfr.steps.length < 16) && decide ((s.me.xfr.steps.map (fun x => x.shadow)).sum + n ≤ 4194304) &&
    !(kv && decide ((vget (s.me.task (s.run e).owner).pend k).toNat = 255))

/-- Step `x` enters flight from engine `e` (R198, R199): it stands among the core's steps with the run's place, and every
other step is as before; the run is `len` words on, the next word to issue in the next tick; the token it names is clear
and its count one higher; and no other register, flag, token or byte of the core changes. -/
structure StepEnters (e : Engine) (s t : State) (len : Nat) (h : XHdr) (x : XStep) : Prop where
  only   : OnlyCoreJobs s.cur.core s t
  within : t.me = { s.me with tasks := t.me.tasks, runs := t.me.runs, xfr := t.me.xfr, tt := t.me.tt,
                              admits := t.me.admits, wlk := t.me.wlk }
  step   : x ∈ t.me.xfr.steps
  count  : t.me.xfr.steps.length = s.me.xfr.steps.length + 1
  others : ∀ y, y.id ≠ x.id → (y ∈ t.me.xfr.steps ↔ y ∈ s.me.xfr.steps)
  place  : x.id = s.me.xfr.nextId ∧ t.me.xfr.nextId = s.me.xfr.nextId + 1 ∧ x.slot = (s.run e).owner ∧
           x.upc = (s.run e).upc ∧ x.cfg = (s.run e).cfg ∧ x.issued = s.tick ∧ x.stage = .working ∧ x.sector = 0
  token  : x.tok = (if h.kv then some h.k else none)
  run    : t.me.runOf e = { s.run e with upc := (s.run e).upc + BitVec.ofNat 24 len, nextAt := s.tick + 1 }
  tokens : ∀ k : Tok, (t.me.task x.slot).tokens.getLsbD k.val =
             ((s.me.task x.slot).tokens.getLsbD k.val && !(h.kv && k == h.k)) ∧
           vget (t.me.task x.slot).pend k = vget (s.me.task x.slot).pend k + (if h.kv && k == h.k then 1 else 0)
  task   : t.me.task x.slot = { s.me.task x.slot with tokens := (t.me.task x.slot).tokens,
                                                      pend := (t.me.task x.slot).pend }
  slots  : ∀ i, i ≠ x.slot → t.me.task i = s.me.task i

/-- A word that issues a transfer step (R79, R198). It waits for its tokens and for what `early` says; then its checks
`bad` are made in order, and the first that holds is its fault with the address beside it; then it waits for what `late`
says and for room; and then its step of `n` shadow bytes enters flight as `ok` says. -/
def XferWord (s : State) (i : Instr) (len : Nat) (h : XHdr) (early late : Bool) (bad : List (Bool × Nat × Nat)) (n : Nat)
    (ok : State → XStep → Prop) : Prop :=
  let go := tokensOpen s .transfer h.wm && !early
  let fit := stepFits s .transfer h.kv h.k n
  (go = false → exec i s = .next s) ∧
  (go = true → late = false → ∀ b, bad.find? (fun b => b.1) = some b →
    exec i s = .next (s.engFault .transfer b.2.1 0 0 b.2.2)) ∧
  (go = true → bad.find? (fun b => b.1) = none → late = true ∨ fit = false → exec i s = .next s) ∧
  (go = true → bad.find? (fun b => b.1) = none → late = false → fit = true →
    ∃ t x, exec i s = .next t ∧ StepEnters .transfer s t len h x ∧ x.shadow = n ∧ ok t x)

/-- The state of a source tile, as a check and as a wait (R19, R214). -/
def tileFaults (s : State) (p : Place) : Bool :=
  match p.tile with
  | none => false
  | some t => decide ((vget s.me.tt t).say = .fault)

/-- A source tile that a step waits for: it is being filled, it is to be drained and an access still holds it, or a publish into it
began in this tick, whose bytes are read from the next one on (R265, R376). -/
def tileWaits (s : State) (p : Place) (drain : Bool) : Bool :=
  match p.tile with
  | none => false
  | some t => decide ((vget s.me.tt t).say = .wait) || (decide ((vget s.me.tt t).say = .go) &&
      ((drain && s.me.tileHeld t s.tick) || s.me.publishBegan s.tick (p.byte p.lo) (p.hi - p.lo)))

/-- A destination tile whose queue of fills is full (R214). -/
def tileQueued (s : State) (p : Place) : Bool :=
  match p.tile with
  | none => false
  | some t => (vget s.me.tt t).fq == 15

/-- A packed row may not start at a place (R135, R202). -/
def rowCrooked (p : Place) (f : Fmt) : Bool := f != .t6 && decide (p.off % (f.bits / 8) ≠ 0)

/-- The entries of a list of `n` words at a place (R208). -/
def listWords (s : State) (p : Place) (n : Nat) : List Nat :=
  (List.range n).map (fun i => leNat (Memory.load s.me.scratch (p.byte p.off + 4 * i) 4))

/-- A step that is over in its issue tick (R199, R213 to R215): beside `f` on the core the run moves on, and the token it
names, if no other step names it, is set; its task changes in nothing else. -/
structure StepAtOnce (s t : State) (len : Nat) (h : XHdr) (f : Core → Core) : Prop where
  only   : OnlyCoreJobs s.cur.core s t
  within : t.me = { (f s.me).stepRun .transfer len (s.tick + 1) with tasks := t.me.tasks }
  task   : let i := (s.run .transfer).owner
           t.me.task i = { s.me.task i with tokens := (t.me.task i).tokens, tokSet := (t.me.task i).tokSet,
                                            tokStamp := (t.me.task i).tokStamp, doneStamp := (t.me.task i).doneStamp }
  tokens : let i := (s.run .transfer).owner
           ∀ k : Tok, (t.me.task i).tokens.getLsbD k.val =
             (if h.kv = true ∧ k = h.k then decide (vget (s.me.task i).pend k = 0) else (s.me.task i).tokens.getLsbD k.val)
  slots  : ∀ i, i ≠ (s.run .transfer).owner → t.me.task i = s.me.task i

/-- What a gather of the `n` rows that the list at `p` names, from table slot `sl` to packed rows at `q`, makes (R208): the
indices, the elements of a row, the bytes of its shadow and the checks in order. -/
structure GatherAsk where
  idx   : List Nat
  cols  : Nat
  bytes : Nat
  bad   : List (Bool × Nat × Nat)

/-- The first row start that its format does not allow. -/
def lostRow (base : Nat) (pitch : Int) (f : Fmt) (idx : List Nat) : Option Nat :=
  (idx.map (fun (i : Nat) => wrapAddr (base + i * pitch))).find? (fun va => f != .t6 && decide (va % (f.bits / 8) ≠ 0))

/-- R208 for a gather into scratchpad: alignment, then sizes, then the tile of the list (R65); the rows that the list names are
judged only where its tile can be read (DESIGN CHOICE, log 126). -/
def gatherAsk (s : State) (sl : ShReg) (p : Place) (n : Nat) (q : Place) : GatherAsk :=
  let sh := shapeOf (vget s.me.sh sl)
  let bf := s.me.bankFmt q.bank
  let e := sizeFmt sh.fmt bf
  let cols := if e = .t6 then sh.rowbytes / 3 * 4 else sh.rowbytes / (e.bits / 8)
  let out := sizeFmt bf sh.fmt
  let bytes := n * rowBytes out cols
  let idx := listWords s p n
  let lost := lostRow sh.base sh.rpitch e idx
  { idx := idx, cols := cols, bytes := bytes,
    bad := [(decide (p.off % 4 ≠ 0) || rowCrooked q out, 0x07, 0), (!p.fits p.off (4 * n), 0x0A, 0),
      (sh.fmt == .t6 && sh.estride != 0, 0x0A, 0),
      (decide (sh.rowbytes = 0 ∨ sh.rowbytes % (if e = .t6 then 3 else e.bits / 8) ≠ 0), 0x0A, 0),
      (!tileFaults s p && lost.isSome, 0x07, lost.getD 0), (!q.fits q.off bytes, 0x0A, 0),
      (decide (2097152 < bytes), 0x0A, 0), (tileFaults s p, 0x0B, 0)] }

/-- The step of such a gather. -/
def gatherStep (s : State) (sl : ShReg) (g : GatherAsk) (q : Place) (n : Nat) (x : XStep) : Prop :=
  let sh := shapeOf (vget s.me.sh sl)
  x.src = .rows sh.base sh.rpitch sh.rowbytes g.idx ∧ x.dst = .spad (q.byte q.off) ∧ x.sf = sh.fmt ∧
  x.df = s.me.bankFmt q.bank ∧ x.cols = g.cols ∧ x.sectors = n ∧ x.asked = 0 ∧ x.dest = .spad q.bank q.tile

/-! ## Walker words -/

/-- R222 to R224: sources, destination, value and latency (R220) of a walker word that computes. -/
def walkResult (s : State) (i : Instr) : Option (List WReg × WReg × Word64 × Nat) :=
  let w := s.me.wlk.reg
  let g (b : WReg) (imm : BitVec 15) : Nat := uv (BitVec.ofInt 64 (sv (w b) + imm.toInt))
  match i with
  | .wli d imm => some ([], d, BitVec.ofInt 64 imm.toInt, 1)
  | .wliHi d imm => some ([d], d, BitVec.ofNat 64 (uv (w d) * 2 ^ 15 + imm.toNat), 1)
  | .wliVp d n => some ([], d, s.vp .walker n, 1)
  | .wadd d a b imm => some ([a, b], d, BitVec.ofNat 64 (uv (w a) + g b imm), 1)
  | .wsub d a b imm => some ([a, b], d, BitVec.ofInt 64 (uv (w a) - g b imm), 1)
  | .wmul d a b imm => some ([a, b], d, BitVec.ofNat 64 (uv (w a) * g b imm), 3)
  | .wand d a b imm => some ([a, b], d, BitVec.ofNat 64 (uv (w a) &&& g b imm), 1)
  | .wor d a b imm => some ([a, b], d, BitVec.ofNat 64 (uv (w a) ||| g b imm), 1)
  | .wshl d a b imm => some ([a, b], d, BitVec.ofNat 64 (uv (w a) * 2 ^ (g b imm % 64)), 1)
  | .wshr d a b imm => some ([a, b], d, BitVec.ofNat 64 (uv (w a) / 2 ^ (g b imm % 64)), 1)
  | .wmin d a b imm =>
    let x : Word64 := BitVec.ofNat 64 (g b imm)
    some ([a, b], d, if sv (w a) ≤ sv x then w a else x, 1)
  | .wbit d a b imm =>
    some ([a, b], d, BitVec.ofNat 64
      (((List.range 64).find? (fun q => decide (g b imm % 128 ≤ q) && (w a).getLsbD q)).getD 64), 1)
  | _ => none

/-- The sources of a walker word may be read (R80, R220). -/
def walkReady (s : State) (rs : List WReg) : Prop := ∀ r ∈ rs, vget s.me.wlk.ready r ≤ s.tick

/-- A walker word is over: its run stands at `upc`, the next word to issue `n` ticks later, and beside that only `f` has
happened to the core. -/
structure WalkStep (s t : State) (upc : BitVec 24) (n : Nat) (f : Core → Core) : Prop where
  only : OnlyCore s.cur.core s t
  core : t.me = (f s.me).setRun .walker { s.run .walker with upc := upc, nextAt := s.tick + n }

/-- Such a word, beside `f`, writes `v` to `w[d]`, readable `lat` ticks later and no earlier than every earlier write of it (R80); w0 takes no value (R219, R220). -/
structure WalkDone (s t : State) (upc : BitVec 24) (f : Core → Core) (d : WReg) (v : Word64) (lat : Nat) : Prop where
  step  : WalkStep s t upc 1 (fun c => { f c with wlk := t.me.wlk })
  unit  : t.me.wlk = { s.me.wlk with w := t.me.wlk.w, ready := t.me.wlk.ready }
  regs  : ∀ r, t.me.wlk.reg r = if r = d ∧ d ≠ 0 then v else s.me.wlk.reg r
  ready : ∀ r, vget t.me.wlk.ready r =
    if r = d ∧ d ≠ 0 then Nat.max (vget s.me.wlk.ready d) (s.tick + lat) else vget s.me.wlk.ready r

/-- R226: the fault of an access of `n` bytes, units of `al` bytes, at a displacement from an address word. -/
def walkCause (s : State) (w : Word64) (disp : Int) (al n : Nat) : Option Nat :=
  match wAddr? w with
  | none => some 0x0A
  | some x =>
    let p := s.me.placeOf x
    let o : Int := p.off + disp
    if o % al ≠ 0 then some 0x07 else if o < 0 ∨ p.fits o.toNat n = false then some 0x0A else none

/-- R226: the access passes, at offset `o` of place `p`, whose tile and granules allow it (R19, R265). -/
def WalkAt (s : State) (w : Word64) (disp : Int) (al n : Nat) (p : Place) (o : Nat) : Prop :=
  walkCause s w disp al n = none ∧ (∃ x, wAddr? w = some x ∧ s.me.placeOf x = p) ∧ (o : Int) = p.off + disp ∧
  s.me.tileSay p = .go ∧ s.me.publishing s.tick (p.byte o) n = false

/-! ## Partitions and links -/

/-- Partition `p` takes a partition-class fault (R340, R341): its reset is under way from this wall period, the clear 4096
and the reopening 5120 periods on, and no other partition and no byte of memory changes. A partition that is not valid, or
whose reset is under way, takes none. -/
def PartFaulted (s t : State) (p cause mbox addr : Nat) : Prop :=
  ((s.part p).valid = false ∨ (s.part p).draining ≠ none → t = s) ∧
  ((s.part p).valid = true → (s.part p).draining = none →
    t.part p = { s.part p with
      draining := some { since := s.wall.toNat, cause := cause, mbox := BitVec.ofNat 12 mbox, addr := addr } } ∧
    (∀ q, q ≠ p → t.part q = s.part q) ∧ SameMems s t ∧
    { clock := none, due := s.wall.toNat + 4096, who := s.cur, ev := .partitionReset p } ∈ t.timers ∧
    { clock := none, due := s.wall.toNat + 5120, who := s.cur, ev := .partitionReopen p } ∈ t.timers)

/-- Only the link of one port changes. -/
def OnlyLink (port : Nat) (s t : State) : Prop :=
  t = { s with links := t.links } ∧ ∀ q, q ≠ port → t.link q = s.link q

/-- A link after the acknowledgement and credits of a received flit are taken (R326): flits up to the number the peer
acknowledges have left the outbox. -/
def linkTook (l : Link) (f : ChegenFlit) (l' : Link) : Prop :=
  let n := (f.ackn + 4096 - l.peerAck.toNat) % 4096
  let flits (l : Link) : List ChegenFlit := l.outbox.map (fun x => x.1)
  (n ≤ l.outbox.length → l'.peerAck = BitVec.ofNat 12 f.ackn ∧ flits l' = (flits l).drop n) ∧
  (l.outbox.length < n → l'.peerAck = l.peerAck ∧ flits l' = flits l) ∧
  Tbl.getD l'.credits f.vc 0 = Tbl.getD l.credits f.vc 0 + f.cred

end Sys2Proof.Machine
end

