-- ==== Sys2Proof/Certificates/Slice0/Obligations.lean ====
section
/-! DEFINITION. The statements about the model, each with the rule of spec/ that it formalises. -/

open Sys2Proof Sys2Proof.Machine

/-! ## Sequencer: arithmetic, branches and jumps -/

/-- The register and immediate arithmetic words but the divisions (R87, R89, with the ticks of R86): from every state the
word completes, `g[d]` takes the rule's value (g0 takes none), the pc moves on by 4, and nothing else changes: no flag, no
other register, no special register, no memory. g0 reads 0 in every state (R11, R85).
Completes (exec answers a next state): `add`, `sub`, `and`, `or`, `xor`, `andn`, `sll`, `srl`, `sra`, `slt`, `sltn`,
`minn`, `maxn`, `min`, `max`, `mul`, `mulh`, `mulhn`, `clz`, `ctz`, `popc`, `addi`, `andi`, `ori`, `xori`, `slli`,
`srli`, `srai`, `lui`, `slti`, `sltni`. -/
def Obligations.ArithmeticResult : Prop :=
  (∀ s : State, s.g 0 = 0) ∧
  ∀ (s : State) (i : Instr) (d : GReg) (v : Word64) (n : Nat), arithResult s.g i = some (d, v, n) →
    ∃ t, exec i s = .next t ∧ WordDone s t d v n

/-- R88: a division never faults. While the core's divider is free it completes with the rule's value, the borderline
cases among them; it changes its register, the pc and the divider's busy time alone. With the rule's examples, `mulh` and its encoding among them.
Completes (exec answers a next state): `div`, `divn`, `rem`, `remn`. -/
def Obligations.DivisionNeverFaults : Prop :=
  (∀ (s : State) (i : Instr) (d : GReg) (v : Word64), divideResult s.g i = some (d, v) →
    (s.tick < s.me.divBusy → exec i s = .next s) ∧
    (s.me.divBusy ≤ s.tick → ∃ t, exec i s = .next t ∧ OnlyCore s.cur.core s t ∧
      t.me = { s.me.setTask s.cur.slot t.task with divBusy := s.tick + 20 } ∧
      t.task = { s.task with pc := s.task.pc + 4, g := t.task.g, readyAt := s.tick + 20, hold := .none } ∧
      ∀ r, t.g r = if r = d ∧ d ≠ 0 then v else s.g r)) ∧
  (∀ g : GReg → Word64, g 1 = -7 → g 2 = 2 →
    divideResult g (.div 3 1 2) = some (3, -3) ∧ divideResult g (.rem 3 1 2) = some (3, -1)) ∧
  (∀ g : GReg → Word64, g 1 = 0x8000000000000000 → g 2 = 0x8000000000000000 →
    (arithResult g (.mulh 3 1 2)).map (fun x => (x.1, x.2.1)) = some (3, 0x4000000000000000)) ∧
  encode (.mulh 3 1 2) = [0x04611010]

/-- R98: a branch moves the pc by four times its offset when its condition holds and by 4 when it does not, and writes no
register; the encodings of the six words, and of the rule's example.
Completes (exec answers a next state): `beq`, `bne`, `blt`, `bge`, `bltn`, `bgen`. -/
def Obligations.BranchMovesPc : Prop :=
  (∀ (s : State) (i : Instr) (c : Prop) (off : BitVec 16), branchTaken s.g i = some (c, off) →
    ∃ t, exec i s = .next t ∧ OnlyTask s.meRef s t ∧ (∀ r, t.g r = s.g r) ∧
      (c → t.task = { s.task with pc := BitVec.ofInt 64 (s.task.pc.toInt + 4 * off.toInt), readyAt := s.tick + 2,
                                  hold := .none }) ∧
      (¬ c → t.task = { s.task with pc := s.task.pc + 4, readyAt := s.tick + 1, hold := .none })) ∧
  (∀ (a b : GReg) (off : BitVec 16), let low := a.val * 2 ^ 21 + b.val * 2 ^ 16 + off.toNat
    encode (.beq a b off) = [0x17 * 2 ^ 26 + low] ∧ encode (.bne a b off) = [0x18 * 2 ^ 26 + low] ∧
    encode (.blt a b off) = [0x19 * 2 ^ 26 + low] ∧ encode (.bge a b off) = [0x1A * 2 ^ 26 + low] ∧
    encode (.bltn a b off) = [0x1B * 2 ^ 26 + low] ∧ encode (.bgen a b off) = [0x1C * 2 ^ 26 + low]) ∧
  encode (.beq 1 2 2) = [0x5C220002]

/-- R99: `jal` links the next word's address and moves the pc by four times its offset; its encoding, and the
rule's example.
Completes (exec answers a next state): `jal`. -/
def Obligations.JalLinks : Prop :=
  (∀ (s : State) (d : GReg) (off : BitVec 21), ∃ t, exec (.jal d off) s = .next t ∧ OnlyTask s.meRef s t ∧
    t.task = { s.task with pc := BitVec.ofInt 64 (s.task.pc.toInt + 4 * off.toInt), g := t.task.g,
                           readyAt := s.tick + 2, hold := .none } ∧
    ∀ r, t.g r = if r = d ∧ d ≠ 0 then s.task.pc + 4 else s.g r) ∧
  (∀ (d : GReg) (off : BitVec 21), encode (.jal d off) = [0x1D * 2 ^ 26 + d.val * 2 ^ 21 + off.toNat]) ∧
  encode (.jal 31 8) = [0x77E00008]

/-- R100: `jalr` reads its base before it writes its link; a target that is not a multiple of 4 takes fault 0x07 with the
register and the pc unchanged; its encoding, and the rule's example.
Completes (exec answers a next state): `jalr`. -/
def Obligations.JalrLinksOrFaults : Prop :=
  (∀ (s : State) (d a : GReg) (imm : BitVec 16), (s.g a + imm.signExtend 64).toNat % 4 = 0 →
    ∃ t, exec (.jalr d a imm) s = .next t ∧ OnlyTask s.meRef s t ∧
      t.task = { s.task with pc := s.g a + imm.signExtend 64, g := t.task.g, readyAt := s.tick + 2, hold := .none } ∧
      ∀ r, t.g r = if r = d ∧ d ≠ 0 then s.task.pc + 4 else s.g r) ∧
  (∀ (s : State) (d a : GReg) (imm : BitVec 16), (s.g a + imm.signExtend 64).toNat % 4 ≠ 0 →
    ∃ acc, exec (.jalr d a imm) s = .next (s.takeFault s.meRef
      { cause := 0x07, unit := 0, loc := s.task.pc.toNat, acc := acc, why := 0, addr := (s.g a + imm.signExtend 64).toNat,
        sect := 0, code := 0 } false)) ∧
  (∀ (d a : GReg) (imm : BitVec 16),
    encode (.jalr d a imm) = [0x1E * 2 ^ 26 + d.val * 2 ^ 21 + a.val * 2 ^ 16 + imm.toNat]) ∧
  encode (.jalr 0 31 0) = [0x781F0000]

/-! ## Sequencer: memory -/

/-- A word that reads global memory, or reads and writes it, whose address passes the checks of R91 (R107): its request
stands in the task, with the word's operation, register, place and operands, and no register, no pc and no byte of memory
has changed yet.
Completes (exec answers a next state): `ldB`, `ldH`, `ldW`, `ldD`, `ldBn`, `ldHn`, `ldWn`, `lda`, `amoSwap`, `amoAdd`,
`amoAnd`, `amoOr`, `amoXor`, `amoMax`, `amoMin`, `amoMaxn`, `amoMinn`, `cas`. -/
def Obligations.ReadIssues : Prop :=
  ∀ (s : State) (i : Instr) (m : MemAsk) (lvl : Nat) (tr : Trans), loadAsk s.g i = some m →
    s.check m.ea m.op.bytes m.op.kind = (lvl, .ok tr) →
    ∃ t x, exec i s = .next t ∧ t.task.accReq = some x ∧ x.op = m.op ∧ x.scope = m.sc ∧ x.dst = m.dst ∧
      x.va = m.ea.toNat ∧ x.pa = tr.pa ∧ x.a = m.a ∧ x.b = m.b ∧ t.task.hold = .access ∧
      t.task.pc = s.task.pc ∧ t.task.g = s.task.g ∧ t.task.fflags = s.task.fflags ∧ SameBytes s t

/-- A word that stores to global memory, `stl` or `red` whose address passes the checks of R91, while the store queue has room
(R86, R275): the store stands last in the core's store queue with the word's place and data, the
pc has moved on by 4, and no register and no byte of memory has changed yet.
Completes (exec answers a next state): `stB`, `stH`, `stW`, `stD`, `stl`, `redAdd`, `redFadd32`, `redMax`, `redMin`. -/
def Obligations.StoreQueues : Prop :=
  ∀ (s : State) (i : Instr) (m : MemAsk) (lvl : Nat) (tr : Trans), storeAsk s.g i = some m →
    s.check m.ea m.op.bytes m.op.kind = (lvl, .ok tr) → s.storeWaits = false →
    ∃ t q x, exec i s = .next t ∧ t.me.storeQ = q ++ [x] ∧ q.length = s.me.storeQ.length ∧
      (m.sc = none ∨ m.sc = some .core → q = s.me.storeQ) ∧ x.op = m.op ∧ x.scope = m.sc ∧
      x.va = m.ea.toNat ∧ x.pa = tr.pa ∧ x.a = m.a ∧ x.slot = s.cur.slot ∧
      (s.rides s.cur.core x = false → t.task.lastStore = x.due) ∧ t.task.pc = s.task.pc + 4 ∧ t.task.readyAt = s.tick + 1 ∧ t.task.g = s.task.g ∧ SameBytes s t

/-- A word of either kind whose address fails a check of R91 takes the fault of the first check that fails, holding the
address, and reads and writes nothing. -/
def Obligations.AccessFaults : Prop :=
  ∀ (s : State) (i : Instr) (m : MemAsk) (lvl cause why : Nat), loadAsk s.g i = some m ∨ storeAsk s.g i = some m →
    s.check m.ea m.op.bytes m.op.kind = (lvl, .error (cause, why)) →
    (m.ea.toNat % m.op.bytes ≠ 0 → cause = 0x07) ∧
    (m.ea.toNat % m.op.bytes = 0 → cause = 0x08 ∨ cause = 0x09) ∧
    ∃ t, exec i s = .next t ∧
      t = (s.noteWalk s.cur.core m.ea.toNat lvl).takeFault s.meRef
        { cause := cause, unit := 0, loc := s.task.pc.toNat, acc := accCode m.op.kind, why := why, addr := m.ea.toNat,
          sect := 0, code := 0 } false

/-- What an access does at its line's home (R90, R108 to R110): a read gives its value with the sign or zero extension of
R90 and writes nothing; a read-and-write of `n` bytes gives the old value and stores the new one; every other byte of the
DRAM and resident regions is as before. -/
def Obligations.AccessPerforms : Prop :=
  ∀ (s : State) (x : Access) (ts : Nat), region x.pa ≠ 1 →
    (s.perform x ts).2.1 = x.op.extend (leNat (Memory.load s.mem x.pa x.op.bytes)) ∧
    SameBytesOutside x.pa x.op.bytes s (s.perform x ts).1 ∧
    (match x.op.update (BitVec.ofNat 64 (leNat (Memory.load s.mem x.pa x.op.bytes))) x.a x.b with
     | none => SameBytes s (s.perform x ts).1
     | some v => leNat (Memory.load (s.perform x ts).1.mem x.pa x.op.bytes) = v.toNat % 256 ^ x.op.bytes)

/-- LOAD_REPLY (R86, R272): the task's register takes the reply's value, g0 takes none, the pc moves on by 4, ts rises to
the reply's stamp, and the request is gone; no other register and no byte of memory changes.
Completes (exec answers a next state): `loadReply`. -/
def Obligations.LoadReplyWrites : Prop :=
  ∀ (s : State) (r : TaskRef) (x : Access) (v : Word64), s.ev = .loadReply r → (s.taskOf r).accReq = some x →
    x.value = some v →
    ∃ t, exec .loadReply s = .next t ∧ SameBytes s t ∧ (t.taskOf r).accReq = none ∧
      (t.taskOf r).pc = (s.taskOf r).pc + 4 ∧ (t.taskOf r).ts = Nat.max (s.taskOf r).ts x.stamp ∧
      (∀ g, (t.taskOf r).reg g = if g = x.dst ∧ x.dst ≠ 0 then v else (s.taskOf r).reg g) ∧
      (t.taskOf r).fflags = (s.taskOf r).fflags

/-- STORE_STAMPED (R275, R282): the oldest store of the task that is due, whose line no other core pins, no publish has
reserved and no other die owns, is performed: its bytes stand in memory at its place and every other byte is as before.
Completes (exec answers a next state): `storeStamped`. -/
def Obligations.StoreStampedWrites : Prop :=
  ∀ (s : State) (r : TaskRef) (x : Access) (v : Word64), s.ev = .storeStamped r →
    (s.core r.core).storeQ.find? (fun y => y.slot == r.slot) = some x → x.due ≠ 0 → x.due ≤ s.tickOf r.core →
    (s.line (lineOf x.pa)).pinnedAgainst r.core = false → (s.line (lineOf x.pa)).resv = none →
    (s.line (lineOf x.pa)).owner = none → region x.pa ≠ 1 →
    x.op.update (BitVec.ofNat 64 (leNat (Memory.load s.mem x.pa x.op.bytes))) x.a x.b = some v →
    ∃ t, exec .storeStamped s = .next t ∧ SameBytesOutside x.pa x.op.bytes s t ∧
      leNat (Memory.load t.mem x.pa x.op.bytes) = v.toNat % 256 ^ x.op.bytes

/-- `ld.s` (R95): with passing checks its request stands in the task; with failing ones it reads nothing, g[d] becomes 0,
its entry holds d, the address, f = 1 and v = 0, and no fault is recorded; it is over when a load's time has passed since the
task's latest store was stamped, so while one is open the word waits as a load does. `chk` (R97), once the task's earlier stores
are stamped: without a matching `ld.s` it takes fault 0x01; with v = 1 it writes no register and confirms the value, by taking
the stamp of a read of the entry's place made at the `chk`, whose lease that read extends (DEDUCED, log 138); with v = 0 it asks
for the 8 bytes at the entry's address again, if they pass the checks.
Completes (exec answers a next state): `ldS`, `chk`. -/
def Obligations.SpeculativeLoads : Prop :=
  (∀ (s : State) (d a : GReg) (imm : BitVec 16),
      let ea := s.g a + imm.signExtend 64
      let e : Fin 8 := Fin.ofNat 8 d.val
      (∀ lvl tr, s.check ea 8 .read = (lvl, .ok tr) → ∃ t x, exec (.ldS d a imm) s = .next t ∧
        t.task.accReq = some x ∧ x.op = .loadS ∧ x.dst = d ∧ x.pa = tr.pa ∧ t.task.pc = s.task.pc ∧
        t.task.g = s.task.g ∧ SameBytes s t) ∧
      (∀ lvl f, s.check ea 8 .read = (lvl, .error f) → ∃ t, exec (.ldS d a imm) s = .next t ∧ t.parts = s.parts ∧
        (s.storesPending = false → t.task.pc = s.task.pc + 4 ∧ t.task.accReq = s.task.accReq) ∧
        (s.storesPending = true → t.task.pc = s.task.pc ∧ t.task.hold = .access ∧
          ∃ x, t.task.accReq = some x ∧ x.phase = .failed ∧
            { clock := some s.partNo, due := Nat.max (s.tick + 1) (s.storesBy s.meRef), who := s.cur,
              ev := .requestRetry s.meRef } ∈ t.timers) ∧ (∀ r, t.g r = if r = d then 0 else s.g r) ∧
        vget t.task.tab e = { v := false, reg := some d, ea := ea, f := true, pa := 0 } ∧ SameBytes s t)) ∧
  (∀ (s : State) (d : GReg),
      let x := vget s.task.tab (Fin.ofNat 8 d.val)
      (x.reg ≠ some d → exec (.chk d) s = .next (s.takeFault s.meRef (FaultInfo.plain 0x01 0 s.task.pc.toNat) false)) ∧
      (x.reg = some d → s.storesPending = true → exec (.chk d) s = .next s) ∧
      (x.reg = some d → s.storesPending = false → x.v = true →
        ∃ t, exec (.chk d) s = .next t ∧ SameBytes s t ∧ SameUnits s.cur.core s t ∧ TaskDone s t 0 0 1 ∧
          t.task.tab = s.task.tab ∧ t.task.pins = s.task.pins ∧ t.task.latch = s.task.latch ∧
          let y := (s.line (lineOf x.pa)).read s.task.ts s.task.leaselen.toNat
          t.task.ts = y.2 ∧ (t.line (lineOf x.pa)).rts = y.1.rts) ∧
      (x.reg = some d → s.storesPending = false → x.v = false → ∀ lvl tr, s.check x.ea 8 .read = (lvl, .ok tr) →
        ∃ t y, exec (.chk d) s = .next t ∧ t.task.accReq = some y ∧ y.dst = d ∧ y.pa = tr.pa ∧ y.op.bytes = 8 ∧
          t.task.pc = s.task.pc ∧ SameBytes s t))


/-! ## Sequencer: fences, waits, events and barriers -/

/-- R113: a fence waits while what it orders is open, then moves on in one tick. `fence.mem` and `fence.both` end the
task's core-scope pins; `fence.engines` and `fence.both` raise its ts to the stamps of its completed steps (R276). No token,
register or byte of memory changes.
Completes (exec answers a next state): `fenceMem`, `fenceEngines`, `fenceBoth`. -/
def Obligations.FencesComplete : Prop :=
  ∀ s : State,
    (s.fenceOpen false = true → exec .fenceMem s = .next s) ∧
    (s.fenceOpen true = true → exec .fenceEngines s = .next s ∧ exec .fenceBoth s = .next s) ∧
    (s.fenceOpen false = false → ∃ t, exec .fenceMem s = .next t ∧ OnlyPins s.meRef s t ∧
      t.task = { s.task with pc := s.task.pc + 4, readyAt := s.tick + 1, hold := .none, pins := [] }) ∧
    (s.fenceOpen true = false → ∃ t, exec .fenceEngines s = .next t ∧ OnlyTask s.meRef s t ∧
      t.task = { s.task with pc := s.task.pc + 4, readyAt := s.tick + 1, hold := .none,
                             ts := Nat.max s.task.ts s.task.doneStamp }) ∧
    (s.fenceOpen true = false → ∃ t, exec .fenceBoth s = .next t ∧ OnlyPins s.meRef s t ∧
      t.task = { s.task with pc := s.task.pc + 4, readyAt := s.tick + 1, hold := .none, pins := [],
                             ts := Nat.max s.task.ts s.task.doneStamp })

/-- R117, R125, R126: `ewait.e` issues once every engine of its mask is idle, `ewait.k` once every token of its mask is set,
`wfe` once the latch is set, which it clears; `clrev` clears the latch; `at` lets the next word issue in tick g[a] or in the
next tick, whichever is later. A wait that does not issue changes nothing.
Completes (exec answers a next state): `ewaitE`, `ewaitK`, `wfe`, `clrev`, `atTick`. -/
def Obligations.WaitsComplete : Prop :=
  ∀ s : State,
    (∀ m : BitVec 4, (∀ e : Engine, m.getLsbD e.idx.val = true → s.me.idle e s.tick = true) →
      ∃ t, exec (.ewaitE m) s = .next t ∧ WordDone s t 0 0 1) ∧
    (∀ (m : BitVec 4) (e : Engine), m.getLsbD e.idx.val = true → s.me.idle e s.tick = false →
      exec (.ewaitE m) s = .next s) ∧
    (∀ m : BitVec 8, (∀ k, m.getLsbD k = true → s.task.tokens.getLsbD k = true) →
      ∃ t, exec (.ewaitK m) s = .next t ∧ OnlyTask s.meRef s t ∧
        t.task = { s.task with pc := s.task.pc + 4, readyAt := s.tick + 1, hold := .none, ts := t.task.ts } ∧
        s.task.ts ≤ t.task.ts ∧ ∀ k : Fin 8, m.getLsbD k.val = true → vget s.task.tokStamp k ≤ t.task.ts) ∧
    (∀ (m : BitVec 8) (k : Fin 8), m.getLsbD k.val = true → s.task.tokens.getLsbD k.val = false →
      exec (.ewaitK m) s = .next s) ∧
    (s.task.latch = true → ∃ t, exec .wfe s = .next t ∧ OnlyTask s.meRef s t ∧
      t.task = { s.task with pc := s.task.pc + 4, readyAt := s.tick + 1, hold := .none, latch := false, latchStamp := 0,
                             ts := Nat.max s.task.ts s.task.latchStamp }) ∧
    (s.task.latch = false → exec .wfe s = .next s) ∧
    (∃ t, exec .clrev s = .next t ∧ OnlyTask s.meRef s t ∧
      t.task = { s.task with pc := s.task.pc + 4, readyAt := s.tick + 1, hold := .none, latch := false, latchStamp := 0 }) ∧
    (∀ a : GReg, ∃ t, exec (.atTick a) s = .next t ∧ OnlyTask s.meRef s t ∧
      t.task = { s.task with pc := s.task.pc + 4, readyAt := Nat.max (s.tick + 1) (s.g a).toNat, hold := t.task.hold } ∧
      (t.task.hold = .none ∨ t.task.hold = .tick))

/-- `sev` (R117) completes once the lines of the task's stores are free, and the target runs or its station has room (R112,
R280, R293): to a slot of the task's own running core it sets the latch in its issue tick, if that slot holds a task; to another
core the setting is on its way, 24 + 12·h ticks in fixed-latency mode and as a channel 3 flit in elastic mode (DESIGN CHOICE,
log 124). That the task's earlier stores are performed in the word's own tick is the model's reading (DEDUCED, log 33), as is the
room the word asks for where it issues (DEDUCED, log 123); no other byte of memory changes. A name with a bit that must be 0 takes fault 0x01, and a core outside the partition 0x09. SEV_ARRIVAL sets the latch.
Completes (exec answers a next state): `sev`, `sevArrival`. -/
def Obligations.SevSetsLatch : Prop :=
  ∀ (s : State) (a : GReg), let u := s.flushStores s.meRef
    let w := (s.g a).toNat
    (2 ^ 14 ≤ w ∨ (w / 4 % 2 = 0 ∧ 8 ≤ w) → exec (.sev a) s = .next (s.seqFault 0x01 0 0 0 0)) ∧
    (∀ i : Fin 4, w = i.val → s.me.run = .running → s.wordSay s.meRef [] = .free →
      ∃ t, exec (.sev a) s = .next t ∧ SameBytes u t ∧ SameUnits s.cur.core s t ∧
        t.task.pc = s.task.pc + 4 ∧ t.task.readyAt = s.tick + 1 ∧ t.task.g = s.task.g ∧
        (t.taskOf { core := s.cur.core, slot := i }).latch =
          ((s.taskOf { core := s.cur.core, slot := i }).latch || (s.taskOf { core := s.cur.core, slot := i }).occupied)) ∧
    (∀ (i : Fin 4) (k : Nat), k < 2048 → w = i.val + 4 + 8 * (k % 64) + 512 * (k / 64 % 4) + 2048 * (k / 256) →
      ((s.part s.partNo).hasCore k = false → exec (.sev a) s = .next (s.seqFault 0x09 0 0 0 0)) ∧
      ((s.part s.partNo).hasCore k = true → s.sevSay k = .refused → exec (.sev a) s = .next s.wordRetry) ∧
      ((s.part s.partNo).hasCore k = true → s.sevSay k = .reserved → exec (.sev a) s = .next s) ∧
      ((s.part s.partNo).hasCore k = true → s.sevSay k = .free → k ≠ s.cur.core → s.cur.core < 2048 →
        ∃ t st, exec (.sev a) s = .next t ∧ SameBytes u t ∧ t.task.pc = s.task.pc + 4 ∧ t.task.readyAt = s.tick + 1 ∧
          t.task.g = s.task.g ∧ ControlSent s t s.cur.core k 3 (seqAt { core := k, slot := i })
            (.sevArrival { core := k, slot := i } st))) ∧
    (∀ (r : TaskRef) (st : Nat), s.ev = .sevArrival r st → (s.core r.core).run = .running → (s.taskOf r).occupied = true →
      ∃ t, exec .sevArrival s = .next t ∧ OnlyTask r s t ∧
        t.taskOf r = { s.taskOf r with latch := true, latchStamp := Nat.max (s.taskOf r).latchStamp st }) ∧
    (∀ (r : TaskRef) (st : Nat), s.ev = .sevArrival r st → (s.core r.core).run = .running → (s.taskOf r).occupied = false →
      ∃ t, exec .sevArrival s = .next t ∧ OnlyTask r s t ∧ t.taskOf r = s.taskOf r)

/-- The `bar` words (R114, R115). A name with a set bit that must be 0 takes fault 0x0F, and one outside the partition 0x09.
An arrival meets the lines of its task's stores, as every release does (R112, R280). A word whose barrier lives on the task's own
running core, no other core's request being due before it: where the rule names a fault it takes fault 0x0F and the barrier is as
before; otherwise the barrier takes the rule's count, arrivals and phase, and `init`, `arr` and `query` complete with the state
word in g[d] (before the arrival for `arr`), as `wait` and `arrw` do when the phase has passed; else the task waits. The task's
stores are performed with an arrival, which is the model's reading (DEDUCED, log 33); no other byte of memory changes, and no other
barrier. A word whose barrier lives on another core of the
partition is on its way there with its operands, in elastic mode as a channel 3 flit whose answer rides channel 2 (DESIGN CHOICE,
log 124); BARRIER_REQUEST_ARRIVAL at a running home does what the rule gives, a fault
changing no barrier, and `init`, `arr` and `query` are answered with the state word; BARRIER_REPLY completes the word with it.
Completes (exec answers a next state): `barInit`, `barArr`, `barWait`, `barArrw`, `barQuery`, `barrierRequestArrival`,
`barrierReply`. -/
def Obligations.BarrierRequests : Prop :=
  (∀ (s : State) (d a b : GReg) (fn : BarFn) (i : Instr),
    (fn, i) ∈ [(BarFn.init, Instr.barInit d a b), (.arr, .barArr d a b), (.wait, .barWait d a b),
               (.arrw, .barArrw d a b), (.query, .barQuery d a b)] →
    let u := if fn = .arr ∨ fn = .arrw then s.flushStores s.meRef else s
    let x := s.me.bar (s.g a).toNat
    let w := (s.g a).toNat
    let k := w / 2 ^ 18 * 256 + w / 2 ^ 16 % 4 * 64 + w / 2 ^ 10 % 64
    let stays (t : State) : Prop := t.task.hold = .barrier ∧ t.task.pc = s.task.pc ∧ t.task.g = s.task.g
    let early := ∀ y ∈ s.timers, s.barDue s.partNo y = none
    (2 ^ 21 ≤ w ∨ (w / 2 ^ 9 % 2 = 0 ∧ 512 ≤ w) → exec i s = .next (s.seqFault 0x0F 0 0 0 0)) ∧
    (w < 2 ^ 21 → w / 2 ^ 9 % 2 = 1 → (s.part s.partNo).hasCore k = false → exec i s = .next (s.seqFault 0x09 0 0 0 0)) ∧
    (w < 512 ∨ (w < 2 ^ 21 ∧ w / 2 ^ 9 % 2 = 1 ∧ (s.part s.partNo).hasCore k = true) →
      (s.barSay fn = .refused → exec i s = .next s.wordRetry) ∧ (s.barSay fn = .reserved → exec i s = .next s)) ∧
    (w < 512 → s.me.run = .running → s.barSay fn = .free → early → barAfter x fn (s.g b).toNat = none → ∃ v, exec i s =
        .next (v.takeFault s.meRef (FaultInfo.plain 0x0F 0 s.task.pc.toNat) false) ∧
      SameBytes u v ∧ SameUnits s.cur.core s v ∧ (∀ n, v.me.bar n = s.me.bar n) ∧ v.task.g = s.task.g ∧
      v.task.pc = s.task.pc) ∧
    (∀ cnt arr ph, w < 512 → s.me.run = .running → s.barSay fn = .free → early →
      barAfter x fn (s.g b).toNat = some (cnt, arr, ph) → (∀ r ∈ x.waits, r.who ≠ s.meRef) →
      ∃ t, exec i s = .next t ∧ SameBytes u t ∧ SameUnits s.cur.core s t ∧ (∀ n, n ≠ w → t.me.bar n = s.me.bar n) ∧
      (t.me.bar w).val = (x.val || fn == .init) ∧ (t.me.bar w).cnt.toNat = cnt ∧
      (t.me.bar w).arr.toNat = arr ∧ (t.me.bar w).ph = ph ∧
      (fn = .init → TaskDone s t d (barWord true cnt arr ph) 1) ∧
      (fn = .arr ∨ fn = .query → TaskDone s t d (barWord x.val x.cnt.toNat x.arr.toNat x.ph) 1) ∧
      (fn = .wait → x.ph ≠ (s.g b).getLsbD 0 → TaskDone s t d (barWord true cnt arr ph) 1) ∧
      (fn = .wait → x.ph = (s.g b).getLsbD 0 → stays t) ∧
      (fn = .arrw → x.ph ≠ ph → TaskDone s t d (barWord true cnt arr ph) 1) ∧
      (fn = .arrw → x.ph = ph → stays t)) ∧
    (w < 2 ^ 21 → w / 2 ^ 9 % 2 = 1 → (s.part s.partNo).hasCore k = true → k ≠ s.cur.core → s.cur.core < 2048 →
      s.barSay fn = .free → ∃ t st, exec i s = .next t ∧ SameBytes u t ∧ SameUnits s.cur.core s t ∧ stays t ∧
        t.me.bars = s.me.bars ∧ ControlSent s t s.cur.core k 3 (seqAt s.meRef)
          (.barrierRequestArrival { fn := fn, who := s.meRef, home := k, num := w % 512, arg := s.g b, dst := d, stamp := st }))) ∧
  (∀ (s : State) (r : BarReq), s.ev = .barrierRequestArrival r → (s.core r.home).run = .running → r.home ≠ r.who.core →
    r.home < 2048 → let x := (s.core r.home).bar r.num
    let back (t : State) (v : Option Word64) : Prop :=
      ControlSent s t r.home r.who.core 2 (seqAt r.who) (.barrierReply r v 0)
    (barAfter x r.fn r.arg.toNat = none → ∃ t, exec .barrierRequestArrival s = .next t ∧ SameBytes s t ∧
      (∀ n, (t.core r.home).bar n = (s.core r.home).bar n) ∧ back t none) ∧
    (∀ cnt arr ph, barAfter x r.fn r.arg.toNat = some (cnt, arr, ph) → ∃ t, exec .barrierRequestArrival s = .next t ∧
      SameBytes s t ∧ SameUnits r.home s t ∧
      (∀ n, n ≠ r.num → (t.core r.home).bar n = (s.core r.home).bar n) ∧
      ((t.core r.home).bar r.num).val = (x.val || r.fn == .init) ∧ ((t.core r.home).bar r.num).cnt.toNat = cnt ∧
      ((t.core r.home).bar r.num).arr.toNat = arr ∧ ((t.core r.home).bar r.num).ph = ph ∧
      (r.fn = .init → back t (some (barWord true cnt arr ph))) ∧
      (r.fn = .arr ∨ r.fn = .query → back t (some (barWord x.val x.cnt.toNat x.arr.toNat x.ph))))) ∧
  (∀ (s : State) (r : BarReq) (v : Word64) (st : Nat), s.ev = .barrierReply r (some v) st →
    (s.taskOf r.who).hold = .barrier → (s.core r.who.core).run = .running →
    ∃ t, exec .barrierReply s = .next t ∧ OnlyTask r.who s t ∧
      t.taskOf r.who = { s.taskOf r.who with
        pc := (s.taskOf r.who).pc + 4, g := (t.taskOf r.who).g, hold := .none,
        readyAt := s.tickOf r.who.core + (if r.fn = .wait ∨ r.fn = .arrw ∨ r.home = r.who.core then 1 else 0),
        ts := Nat.max (s.taskOf r.who).ts st } ∧
      ∀ y, (t.taskOf r.who).reg y = if y = r.dst ∧ r.dst ≠ 0 then v else (s.taskOf r.who).reg y)


/-! ## Sequencer: runs, tasks and messages -/

/-- `run` (R124, with R62, R70 and R30): a bad range takes fault 0x01; while an earlier run is in progress the word waits;
otherwise the engine's run begins at the word, its parameters and copies are those of the task, its first word may issue two
ticks later, and the task moves on in one. Nothing but the run, the task and, for the matrix engine, the marks of a new run
changes.
Completes (exec answers a next state): `runV`, `runM`, `runX`, `runW`. -/
def Obligations.RunBegins : Prop :=
  ∀ (s : State) (d a : GReg) (n : BitVec 3) (e : Engine) (i : Instr),
    (e, i) ∈ [(Engine.vector, Instr.runV d a n), (.matrix, .runM d a n), (.transfer, .runX d a n), (.walker, .runW d a n)] →
    let w := (s.g a).toNat
    let bad := 2 ^ 48 ≤ w ∨ w / 2 ^ 24 % 2 ^ 24 < w % 2 ^ 24 ∨ s.sectionLen s.cur.core (.eng e) < w / 2 ^ 24 % 2 ^ 24
    (bad → exec i s = .next (s.seqFault 0x01 0 0 0 0)) ∧
    (¬ bad → (s.me.runOf e).active = true → exec i s = .next s) ∧
    (¬ bad → (s.me.runOf e).active = false → ∃ t, exec i s = .next t ∧ OnlyCore s.cur.core s t ∧
      t.me = { s.me with tasks := t.me.tasks, runs := t.me.runs, mat := t.me.mat } ∧
      t.task = { s.task with pc := s.task.pc + 4, readyAt := s.tick + 1, hold := .none } ∧
      (∀ j, j ≠ s.cur.slot → t.me.task j = s.me.task j) ∧ (∀ f, f ≠ e → t.me.runOf f = s.me.runOf f) ∧
      t.me.mat = { s.me.mat with
        curTag := t.me.mat.curTag, progress := t.me.mat.progress, settled := t.me.mat.settled, stamp := t.me.mat.stamp } ∧
      (e = .matrix → t.me.mat.curTag = s.task.tagbase ∧ t.me.mat.progress = 0) ∧ (e ≠ .matrix → t.me.mat = s.me.mat) ∧
      t.me.runOf e =
        { active := true, ending := false, owner := s.cur.slot, upc := BitVec.ofNat 24 w,
          endOff := BitVec.ofNat 24 (w / 2 ^ 24), vp := (t.me.runOf e).vp, nextAt := s.tick + 2, halted := none,
          orphan := false, filling := false,
          cfg := { frm := s.task.frm, trapen := s.task.trapen, holdchk := s.task.holdchk, clamplo := s.task.clamplo,
                   clamphi := s.task.clamphi, tagbase := s.task.tagbase, leaselen := s.task.leaselen } } ∧
      ∀ k : Fin 4, vget (t.me.runOf e).vp k = if k.val < n.toNat then s.g (Fin.ofNat 32 (d.val + k.val)) else 0)

/-- `spawn` (R118, R119) by a task that holds its slot. While another core pins a line that it needs it repeats 16 ticks later, and
while one is reserved it waits (R112, R278, R280). Where a check fails it takes that check's fault. Otherwise its
children, as many as g[b], are each in a slot of their core with the launch values of the rule, or in its launch queue, or
held at or before its station, or still pending; while one is pending the task waits, and with none it moves on. Its registers are
as before. The first dword of the join record, at the place that g[d] translates to, has grown by g[b], so that its exp has, which
stays in its 16 bits; and no other byte changes. The model's readings: the task's earlier stores are performed first, in the word's
own tick (DEDUCED, log 33), and the descriptor and the record are read and updated in that tick (DEDUCED, log 36).
Completes (exec answers a next state): `spawn`. -/
def Obligations.SpawnLaunches : Prop :=
  ∀ (s : State) (d a b : GReg), s.task.occupied = true →
    let u := s.flushStores s.meRef
    (s.spawnSay d a = .refused → exec (.spawn d a b) s = .next s.wordRetry) ∧
    (s.spawnSay d a = .reserved → exec (.spawn d a b) s = .next s) ∧
    (∀ cause acc why addr, s.spawnSay d a = .free → u.spawnFault d a b = some (cause, acc, why, addr) →
      exec (.spawn d a b) s = .next (s.seqFault cause acc why addr 0)) ∧
    let read := (u.noteWalks (dwords (s.g a).toNat 3 ++ (if (s.g d).toNat = 0 then [] else [(s.g d).toNat]))).taskReads
      (dwords (s.g a).toNat 3)
    let ws := read.2
    let tgt := ws.getD 2 0
    (s.spawnSay d a = .free → u.spawnFault d a b = none → ∃ t stamp, exec (.spawn d a b) s = .next t ∧
      t.task.g = s.task.g ∧ t.task.fflags = s.task.fflags ∧ t.task.occupied = true ∧
      (t.task.pendSpawn = [] → t.task.pc = s.task.pc + 4) ∧
      ((∀ i, i < (s.g b).toNat → let k := (tgt / 4 % 8 * 4 + tgt % 4) * 64 + tgt / 2 ^ 5 % 64 + i
        s.tick ≤ s.tickOf k ∧ (s.core k).run = .running ∧ ((s.core k).freeSlot ≠ none ∨ (s.core k).launchQ.length < 16)) →
        t.task.pendSpawn = [] ∧ t.task.pc = s.task.pc + 4 ∧ t.task.readyAt = s.tick + 1) ∧
      (t.task.pendSpawn ≠ [] → t.task.pc = s.task.pc ∧ t.task.hold = .spawn) ∧
      (s.g d = 0 → SameBytes u t) ∧
      (s.g d ≠ 0 → u.peek (s.g d).toNat % 2 ^ 16 + (s.g b).toNat < 2 ^ 16 ∧
        ∀ lvl tr, read.1.translate s.cur.core (s.g d).toNat .readWrite false = (lvl, .ok tr) →
          SameBytesOutside tr.pa 8 u t ∧ t.physLoad tr.pa 8 = leBytes 8 (read.1.phys64 tr.pa + (s.g b).toNat)) ∧
      ∀ i, i < (s.g b).toNat →
        let k := (tgt / 4 % 8 * 4 + tgt % 4) * 64 + tgt / 2 ^ 5 % 64 + i
        let l : Launch :=
          { pc := BitVec.ofNat 64 (ws.getD 0 0), g := [0, BitVec.ofNat 64 (ws.getD 1 0), s.g a, BitVec.ofNat 64 i, s.g b, s.g d], stamp := stamp, stage := tgt / 2 ^ 11 % 8,
            mbox := 0, pkt := none, join := s.g d, arrive := s.tick, startAt := s.tick + 1 }
        (k, l) ∈ t.task.pendSpawn ∨ (∃ j, (t.core k).task j = launchSlot l (s.tickOf k)) ∨ l ∈ (t.core k).launchQ ∨
          Delivery.launch l ∈ (t.core k).held ∨ Delivery.launch l ∈ (t.core k).late)

/-- The values a task starts with (R11, R12, R29, R119): its pc, its registers from the launch and 0 beyond, g0 0, and the
launch value of every other register of the slot. -/
def Obligations.LaunchValues : Prop :=
  ∀ (l : Launch) (tick : Nat), let t := launchSlot l tick
    t.occupied = true ∧ t.pc = l.pc ∧ t.reg 0 = 0 ∧
    (∀ r : GReg, r ≠ 0 → t.reg r = l.g.getD r.val 0) ∧
    t.tokens = 0 ∧ t.latch = false ∧ t.ts = l.stamp ∧ t.fflags = 0 ∧ t.frm = 0 ∧ t.trapen = 0 ∧ t.holdchk = false ∧
    t.leaselen = 64 ∧ t.clamplo = 0x80000000FF800000 ∧ t.clamphi = 0x7FFFFFFF7F800000 ∧ t.tagbase = 0 ∧ t.faultinfo = 0 ∧
    t.trapMode = false ∧ t.epc = 0 ∧ t.pins = [] ∧ (∀ e, vget t.tab e = TabEntry.empty) ∧
    t.stage = BitVec.ofNat 3 l.stage ∧ t.join = l.join ∧ tick ≤ t.readyAt ∧ l.startAt ≤ t.readyAt

/-- `join` (R122): a bad address takes its fault; a pinned or reserved line that it needs makes it repeat or wait (R112, R280); while children are outstanding the word waits; a broken or malformed
record takes fault 0x10; otherwise g[d] takes the status, and no byte changes but those of the task's earlier stores, which the
word performs in its own tick (the model's reading: DEDUCED, log 33).
Completes (exec answers a next state): `join`. -/
def Obligations.JoinReturns : Prop :=
  ∀ (s : State) (d a : GReg),
    let u := s.flushStores s.meRef
    let va := (s.g a).toNat
    let w (i : Nat) : Nat := u.peek (va + 8 * i)
    let done := w 0 / 2 ^ 16 % 2 ^ 16
    let failed := w 0 / 2 ^ 32 % 2 ^ 16
    let brk := w 0 / 2 ^ 63 % 2 = 1
    (∀ cause why addr, s.joinFault va = some (cause, why, addr) →
      exec (.join d a) s = .next (s.seqFault cause 0 why addr 0)) ∧
    (s.joinFault va = none → s.joinSay va = .refused → exec (.join d a) s = .next s.wordRetry) ∧
    (s.joinFault va = none → s.joinSay va = .reserved → exec (.join d a) s = .next s) ∧
    (s.joinFault va = none → s.joinSay va = .free → ¬ brk → done + failed ≠ w 0 % 2 ^ 16 → exec (.join d a) s = .next s) ∧
    (s.joinFault va = none → s.joinSay va = .free → (brk ∨ (done + failed = w 0 % 2 ^ 16 ∧ joinBad (w 0) (w 1) (w 2) (w 3) = true)) →
      ∃ v, exec (.join d a) s = .next (v.seqFault 0x10 0 0 0 0) ∧ SameBytes u v ∧ v.task.g = s.task.g) ∧
    (s.joinFault va = none → s.joinSay va = .free → ¬ brk → done + failed = w 0 % 2 ^ 16 → joinBad (w 0) (w 1) (w 2) (w 3) = false →
      ∃ t, exec (.join d a) s = .next t ∧ SameBytes u t ∧ SameUnits s.cur.core s t ∧
        TaskDone s t d (BitVec.ofNat 64 (done + failed * 2 ^ 16 + (if failed = 0 then 0 else 2 ^ 63))) 1)

/-- `send` (R123): a pinned or reserved line that it needs makes it repeat or wait (R112, R280); a failed check takes its fault;
without room in the area the word waits; otherwise the packet's bytes, after those of any skip packet, stand in the area (where two
of them have one place, the later), and no other byte changes; the write offset has moved past them, and g[d] holds the packet's
offset. That the task's earlier stores are performed in the word's own tick is the model's reading (DEDUCED, log 33).
Completes (exec answers a next state): `send`. -/
def Obligations.SendPutsPacket : Prop :=
  ∀ (s : State) (d a b : GReg),
    let u := s.flushStores s.meRef
    let va := (s.g a).toNat
    let num := (s.g b).toNat % 4096
    let len := u.peek va / 2 ^ 16 % 64
    let m := s.mbox num
    (s.headerSay va (s.g b) = .refused → exec (.send d a b) s = .next s.wordRetry) ∧
    (s.headerSay va (s.g b) = .reserved → exec (.send d a b) s = .next s) ∧
    (s.headerSay va (s.g b) = .free → ∀ cause acc why addr, u.sendFault va (s.g b) = some (cause, acc, why, addr) →
      exec (.send d a b) s = .next (s.seqFault cause acc why addr 0)) ∧
    (s.headerSay va (s.g b) = .free → u.sendFault va (s.g b) = none → m.room (16 * len) = false → exec (.send d a b) s = .next s) ∧
    (s.headerSay va (s.g b) = .free → u.sendFault va (s.g b) = none → m.room (16 * len) = true → u.packetSay va len m = .free →
      let v := ((u.noteWalks [va]).unpinTask s.meRef).taskReads (packetDwords va len)
      ∀ cells, v.1.packetCells m ((v.2.flatMap (leBytes 8)).take (16 * len)) = .ok cells →
        ∃ t, exec (.send d a b) s = .next t ∧
          (∀ x, (∀ c ∈ cells, c.1 ≠ x) → Memory.get t.mem x = Memory.get u.mem x) ∧
          (∀ x y, cells.reverse.lookup x = some y →
            (region x ≠ 1 ∨ ∀ c ∈ cells, region c.1 = 1 → c.1 % 2 ^ 40 = x % 2 ^ 40 → c.1 = x) → t.physLoad x 1 = [y]) ∧
          SameUnits s.cur.core s t ∧ TaskDone s t d (BitVec.ofNat 64 (m.packetOff (16 * len))) 1 ∧
          (t.mbox num) = { m with wo := (t.mbox num).wo, wl := (t.mbox num).wl, stamp := (t.mbox num).stamp,
                                  wrote := (t.mbox num).wrote } ∧
          ((t.mbox num).wo, (t.mbox num).wl) =
            (if m.skip (16 * len) = 0 then advanceOff m.wo m.wl m.area.toNat (16 * len)
             else advanceOff (advanceOff m.wo m.wl m.area.toNat (m.skip (16 * len))).1
               (advanceOff m.wo m.wl m.area.toNat (m.skip (16 * len))).2 m.area.toNat (16 * len)))

/-! ## Sequencer: caches, safe points, configuration and system words -/

/-- `code.pf`, `code.pin` and `code.unpin` (R127) complete; only a data line that another core pins, or that is reserved, makes
`pf` and `pin` repeat or wait (R112, R280). `pf` never faults, and loads nothing where the translation fails; `pin` faults with
0x08 or 0x09 there. Unless every way of the set is pinned by another line, which leaves every cache as it is, both bring an absent
line into the named cache, and `pin` leaves it pinned: at once where the cache holds it or in fixed-latency mode, and otherwise
when the line asked for at its home arrives (CODE_CACHE_FILL), for which `pin` waits. `unpin` leaves the line unpinned. None
changes a byte of memory, a register, another cache, or, by `unpin`, another line. A host line has no place in the data cache
(R267).
Completes (exec answers a next state): `codePf`, `codePin`, `codeUnpin`. -/
def Obligations.CodeCacheWords : Prop :=
  ∀ (s : State) (a : GReg) (c : CacheSel),
    let va := (s.g a).toNat
    let k := s.cur.core
    let quiet (t : State) : Prop := SameBytes s t ∧ SameUnits k s t ∧ CacheOnly c k s t
    let asked (t : State) (p : Bool) (pa : Nat) : Prop := k < 2048 → ∃ q ∈ (t.die (dieOf k)).queues, ∃ f, q.flit = some f ∧
      f.goal = (homeStation pa).1 ∧ f.vc = 0 ∧ f.kind = .fetch s.cur c (some p) va pa
    (∀ lvl f, s.translate k va c.kind false = (lvl, .error f) → ∃ t, exec (.codePf a c) s = .next t ∧ TaskDone s t 0 0 1 ∧
      t.task.tab = s.task.tab ∧ quiet t ∧ t.me.icaches = s.me.icaches ∧ t.me.dcache = s.me.dcache) ∧
    (∀ lvl tr, s.translate k va c.kind false = (lvl, .ok tr) → s.codeSay k c va tr.pa = .free →
      let at1 := s.me.cacheHolds c va tr.pa = true ∨ (s.part s.partNo).fl = true
      (∃ t, exec (.codePf a c) s = .next t ∧ TaskDone s t 0 0 1 ∧ t.task.tab = s.task.tab ∧ quiet t ∧
        (at1 → (c = .data → region tr.pa ≠ 1) → s.me.setPinned c va tr.pa = false → t.me.cacheHolds c va tr.pa = true) ∧
        (¬ at1 → t.core k = { s.core k with tasks := (t.core k).tasks, l1tlb := (t.core k).l1tlb } ∧ asked t false tr.pa)) ∧
      (at1 → ∃ t n, exec (.codePin a c) s = .next t ∧ TaskDone s t 0 0 n ∧ t.task.tab = s.task.tab ∧ quiet t ∧
        ((c = .data → region tr.pa ≠ 1) → s.me.setPinned c va tr.pa = false → LinePinned t.me c va tr.pa true) ∧
        (s.me.setPinned c va tr.pa = true → t.me.icaches = s.me.icaches ∧ t.me.dcache = s.me.dcache)) ∧
      (¬ at1 → ∃ t, exec (.codePin a c) s = .next t ∧ t.task = { s.task with hold := .fetch } ∧ SameBytes s t ∧
        t.core k = { s.core k with tasks := (t.core k).tasks, l1tlb := (t.core k).l1tlb } ∧ asked t true tr.pa)) ∧
    (∀ lvl tr, s.translate k va c.kind false = (lvl, .ok tr) → s.codeSay k c va tr.pa = .refused →
      exec (.codePf a c) s = .next s.wordRetry ∧ exec (.codePin a c) s = .next s.wordRetry) ∧
    (∀ lvl tr, s.translate k va c.kind false = (lvl, .ok tr) → s.codeSay k c va tr.pa = .reserved →
      exec (.codePf a c) s = .next s ∧ exec (.codePin a c) s = .next s) ∧
    (∀ lvl f, s.translate k va c.kind false = (lvl, .error f) → ∃ v why, exec (.codePin a c) s =
      .next (v.seqFault f.cause (accCode c.kind) why va 0) ∧ (f.cause = 0x08 ∨ f.cause = 0x09) ∧ SameBytes s v ∧
      v.task = s.task) ∧
    (∃ t, exec (.codeUnpin a c) s = .next t ∧ TaskDone s t 0 0 1 ∧ t.task.tab = s.task.tab ∧ quiet t ∧
      (∀ g, c.agent = some g → (∀ x ∈ vget t.me.icaches g.cache, x.line = va / 64 → x.pin = false) ∧
        (vget t.me.icaches g.cache).filter (fun x => x.line != va / 64) =
          (vget s.me.icaches g.cache).filter (fun x => x.line != va / 64)) ∧
      (c.agent = none → ∀ lvl tr, s.translate k va c.kind false = (lvl, .ok tr) →
        (∀ x ∈ t.me.dcache, x.line = tr.pa / 64 → x.pin = false) ∧
        t.me.dcache.filter (fun x => x.line != tr.pa / 64) = s.me.dcache.filter (fun x => x.line != tr.pa / 64)))

/-- `safe` (R128, steps 1 and 4): a number absent from the image's map takes fault 0x01; with a save or a switch pending the
word waits; otherwise, in its tick, every register, tile, bank, accumulator piece and shape slot that the record's masks can
name and do not name is 0 (the general registers among them, which the record's gmask names: DEDUCED, log 64; what is still on its
way from that tick: DEDUCED, log 138), every other one is as before, the task's pins go, those too that its queued stores would make (R111),
and the task moves on.
Completes (exec answers a next state): `safe`. -/
def Obligations.SafePointClears : Prop :=
  ∀ (s : State) (num : BitVec 12),
    (s.safeRec num.toNat = none → exec (.safe num) s = .next (s.seqFault 0x01 0 0 0 0)) ∧
    (∀ r, s.safeRec num.toNat = some r → s.me.pauseWanted = true → exec (.safe num) s = .next s) ∧
    (∀ r, s.safeRec num.toNat = some r → s.me.pauseWanted = false → ∃ t, exec (.safe num) s = .next t ∧
      t = { s with cores := t.cores, lines := t.lines } ∧
      t.task = { s.task with pc := s.task.pc + 4, readyAt := s.tick + 1, hold := .none, pins := [], g := t.task.g } ∧
      (∀ x : GReg, t.g x = if r.gmask.getLsbD x.val then s.g x else 0) ∧
      t.me = { s.me with tasks := t.me.tasks, vec := t.me.vec, tiles := t.me.tiles, scratch := t.me.scratch,
                         acc := t.me.acc, sh := t.me.sh, storeQ := t.me.storeQ } ∧
      t.me.storeQ = s.me.storeQ.map (fun x =>
        if x.slot = s.cur.slot ∧ x.scope = some .core then { x with scope := none } else x) ∧
      t.me.vec = { s.me.vec with v := t.me.vec.v, dirs := if r.dir then s.me.vec.dirs else [] } ∧
      (∀ x : Fin 32, vget t.me.vec.v x = if r.vmask.getLsbD x.val then vget s.me.vec.v x else 0) ∧
      (∀ x : Fin 32, vget t.me.sh x = if r.smask.getLsbD x.val then vget s.me.sh x else 0) ∧
      (∀ x, x < 8 * 32768 → Memory.get t.me.tiles x =
        if r.tmask.getLsbD (x / 32768) then Memory.get s.me.tiles x else 0) ∧
      (∀ x, x < 16 * 131072 → Memory.get t.me.scratch x =
        if r.bmask.getLsbD (x / 131072) then Memory.get s.me.scratch x else 0) ∧
      (∀ x, x < 64 * 8192 → Memory.get t.me.acc x = if r.amask.getLsbD (x / 8192) then Memory.get s.me.acc x else 0))

/-- `cfgr` (R27 to R29): every register of R28 gives its value; an unassigned number takes fault 0x01.
Completes (exec answers a next state): `cfgr`. -/
def Obligations.ConfigRegisterRead : Prop :=
  ∀ (s : State) (d : GReg) (num : BitVec 12),
    (∀ v, cfgValue s num.toNat = some v → ∃ t, exec (.cfgr d num) s = .next t ∧ WordDone s t d v 1) ∧
    (cfgValue s num.toNat = none → exec (.cfgr d num) s = .next (s.seqFault 0x01 0 0 0 0))

/-- `cfgw` (R27 to R29): an unassigned number takes fault 0x01, a register with no field that a task may write 0x09, a bit or
format code that the register does not allow 0x01; otherwise the register reads back as written (`leaselen` 1 for 0, the
registers that a write clears 0, `fflags` with the flags of the same tick), and every other register, the task's general
registers, the other slots and all of memory are as before.
Completes (exec answers a next state): `cfgw`. -/
def Obligations.ConfigRegisterWrite : Prop :=
  ∀ (s : State) (a : GReg) (num : BitVec 12),
    let n := num.toNat
    (cfgValue s n = none → exec (.cfgw a num) s = .next (s.seqFault 0x01 0 0 0 0)) ∧
    (cfgValue s n ≠ none → cfgReadOnly n = true → exec (.cfgw a num) s = .next (s.seqFault 0x09 0 0 0 0)) ∧
    (cfgValue s n ≠ none → cfgReadOnly n = false → cfgLegal n (s.g a) = false →
      exec (.cfgw a num) s = .next (s.seqFault 0x01 0 0 0 0)) ∧
    (cfgValue s n ≠ none → cfgReadOnly n = false → cfgLegal n (s.g a) = true →
      ∃ t, exec (.cfgw a num) s = .next t ∧ OnlyCore s.cur.core s t ∧
        (∀ j, j ≠ s.cur.slot → t.me.task j = s.me.task j) ∧ t.task.g = s.task.g ∧ t.task.pc = s.task.pc + 4 ∧
        t.task.readyAt = s.tick + 1 ∧ t.task.hold = .none ∧ (∀ m, m ≠ n → cfgValue t m = cfgValue s m) ∧
        (n ≠ 0x010 ∧ n ≠ 0x020 ∧ n ≠ 0x061 ∧ n ≠ 0x062 → cfgValue t n = some (s.g a)) ∧
        (n = 0x010 → cfgValue t n = some (s.g a |||
          (if s.task.merged.1 = s.tick then s.task.merged.2.zeroExtend 64 else 0))) ∧
        (n = 0x020 → cfgValue t n = some (if s.g a = 0 then 1 else s.g a)) ∧
        (n = 0x061 ∨ n = 0x062 → cfgValue t n = some 0))

/-- `qdepth` and `tstate` (R131): the depth of the named queue as the tick began, 0 when it is unbound, and the tile entry
in the layout of R19.
Completes (exec answers a next state): `qdepth`, `tstate`. -/
def Obligations.QueueAndTileState : Prop :=
  ∀ (s : State) (d : GReg),
    (∀ q : BitVec 3, ∃ t v, exec (.qdepth d q) s = .next t ∧ WordDone s t d v 1 ∧
      (q.toNat < 4 → v = if (vget s.me.qbind (Fin.ofNat 4 q.toNat)).toNat / 2 ^ 16 = 0 then 0
        else BitVec.ofNat 64 (vget s.me.depths (Fin.ofNat 8 q.toNat))) ∧
      (4 ≤ q.toNat → v = if (vget s.me.qbind (Fin.ofNat 4 (q.toNat - 4))).getLsbD 0 = false then 0
        else BitVec.ofNat 64 (vget s.me.depths (Fin.ofNat 8 q.toNat)))) ∧
    (∀ x : TtReg, ∃ t, exec (.tstate d x) s = .next t ∧
      let e := vget s.me.tt x
      WordDone s t d (BitVec.ofNat 64 ((match e.st with | .empty => 0 | .filling => 1 | .ready => 2 | .draining => 3) +
        e.bank.toNat * 2 ^ 2 + e.base.toNat * 2 ^ 6 + e.len.toNat * 2 ^ 19 + e.fq.toNat * 2 ^ 32)) 1)

/-- Taking a task-class fault or trap (R336, R337), for a task that holds its slot and has not ended, in a partition whose queue has
room, no line of its stores or its join record being pinned or reserved (R112, R280): the
record stands last in the queue with the fault's fields; the task is stopped before the word (0x08 of the sequencer, 0x20,
0x21), goes on with its step parked (0x08 of a transfer sector or a gather), or is ended and its slot free (every other
cause, and every cause in trap mode); `faultinfo` of a task that is not ended names the fault. -/
def Obligations.TaskFaultTaken : Prop :=
  ∀ (s : State) (r : TaskRef) (f : FaultInfo) (sector : Bool), (s.taskOf r).occupied = true →
    (s.taskOf r).ended = false → (s.part (s.core r.core).part).hasRoom 0 = true → s.wordSay r (s.joinLines r) = .free →
    let t := s.takeFault r f sector
    let p := (s.core r.core).part
    let stops := (s.taskOf r).trapMode = false ∧ (f.cause = 0x20 ∨ f.cause = 0x21 ∨ (f.cause = 0x08 ∧ f.unit = 0))
    let parks := (s.taskOf r).trapMode = false ∧ f.cause = 0x08 ∧ f.unit ≠ 0 ∧ sector = true
    (∃ x, (t.part p).records = (s.part p).records ++ [x] ∧ x.cause = BitVec.ofNat 8 f.cause ∧
      x.unit = BitVec.ofNat 3 f.unit ∧ x.cls = 0 ∧ (x.res = true ↔ stops ∨ parks) ∧ x.who = s.coordOf r ∧
      x.acc = BitVec.ofNat 2 f.acc ∧ x.why = (if f.cause = 0x08 ∨ f.cause = 0x09 then BitVec.ofNat 8 f.why else 0) ∧
      x.mbox = (s.taskOf r).mbox ∧ x.loc = BitVec.ofNat 48 f.loc ∧ x.addr = BitVec.ofNat 64 f.addr ∧
      x.sect = BitVec.ofNat 16 f.sect ∧ x.code = BitVec.ofNat 12 f.code ∧ x.part = BitVec.ofNat 6 p) ∧
    (stops → SameMems s t ∧ t.taskOf r = { s.taskOf r with
      faultinfo := (t.taskOf r).faultinfo, faultTick := (t.taskOf r).faultTick, hold := .stopped f.cause }) ∧
    (parks → SameMems s t ∧ t.taskOf r = { s.taskOf r with
      faultinfo := (t.taskOf r).faultinfo, faultTick := (t.taskOf r).faultTick }) ∧
    (stops ∨ parks → (t.taskOf r).faultinfo.toNat % 2 ^ 12 = f.cause % 256 + f.unit % 8 * 2 ^ 8 + 2 ^ 11) ∧
    (¬ stops → ¬ parks → (t.taskOf r).occupied = false ∧ ∀ e, (t.core r.core).runFor e r.slot = false)

/-- `syscall`, `brk`, `eret`, `halt` and a word that no encoding gives (R130, R64): a trap stops the task before its word
with its code in the record; `eret` moves the pc to epc and leaves trap mode, and outside trap mode takes fault 0x01; `halt`
waits as `fence.both` does, then ends the task with no record and frees its slot; an illegal sequencer word takes fault 0x01,
and an illegal engine word halts its run with the unit's cause.
Completes (exec answers a next state): `syscall`, `brk`, `eret`, `halt`, `illegalWord`. -/
def Obligations.SystemWords : Prop :=
  ∀ s : State,
    (∀ (code : BitVec 12) (i : Instr) (c : Nat), (i, c) ∈ [(Instr.syscall code, 0x20), (.brk code, 0x21)] →
      s.task.occupied = true → s.task.ended = false → (s.part s.partNo).hasRoom 0 = true → s.task.trapMode = false →
      ∃ t x, exec i s = .next t ∧ (t.part s.partNo).records = (s.part s.partNo).records ++ [x] ∧
        x.cause = BitVec.ofNat 8 c ∧ x.unit = 0 ∧ x.res = true ∧ x.code = code ∧ x.loc = s.task.pc.truncate 48 ∧
        t.task = { s.task with faultinfo := t.task.faultinfo, faultTick := t.task.faultTick, hold := .stopped c } ∧
        t = { s with cores := t.cores, parts := t.parts }) ∧
    (s.task.trapMode = true → ∃ t, exec .eret s = .next t ∧ OnlyTask s.meRef s t ∧
      t.task = { s.task with pc := s.task.epc.zeroExtend 64, trapMode := false, readyAt := s.tick + 2, hold := .none }) ∧
    (s.task.trapMode = false → exec .eret s = .next (s.seqFault 0x01 0 0 0 0)) ∧
    (s.fenceOpen true = true → exec .halt s = .next s) ∧
    (s.fenceOpen true = false → s.wordSay s.meRef (s.joinLines s.meRef) = .free → ∃ t, exec .halt s = .next t ∧ t.task = Slot.launchState ∧ t.parts = s.parts ∧
      t.agenda = .event (seqAt s.meRef) (.launchQueueAccept s.cur.core) :: s.agenda) ∧
    (s.cur.unit = .seq → exec .illegalWord s = .next (s.seqFault 0x01 0 0 0 0)) ∧
    (∀ (e : Engine) (c : Nat), (e, c) ∈ [(Engine.vector, 0x02), (.matrix, 0x03), (.transfer, 0x03), (.walker, 0x04)] →
      s.cur.unit = .eng e → ∃ t, exec .illegalWord s = .next t ∧ OnlyCore s.cur.core s t ∧
        t.me = s.me.setRun e { s.me.runOf e with
          halted := some { cause := c, upc := (s.me.runOf e).upc.toNat, why := 0, acc := 0, addr := 0 } })


/-! ## Memory events -/

/-- REQUEST_AT_HOME (R107, R112, R272, R280, R325): an unperformed request that is neither pinned against, nor reserved, nor owned
by another die, and that no copy in the local slice serves, is performed: its access does what `State.perform` says of it, and the
value and stamp stand in the task; a pinned line answers with a retry response, a number that the home has performed with its kept
reply, and one more than 255 behind is a protocol error (in elastic mode alone, which is the model's reading: DEDUCED, log 101). A store that has reached its home is to be stamped.
Completes (exec answers a next state): `requestAtHome`. -/
def Obligations.RequestPerformed : Prop :=
  (∀ (s : State) (sm : Stream) (n : Nat) (r : TaskRef) (k : Nat) (x : Access), s.ev = .requestAtHome sm n →
    (s.stream sm).sent.find? (fun z => z.1 == n) = some (n, r, k) → (s.taskOf r).accReq = some x → x.seq = n →
    let new := (s.stream sm).performed n = false ∧ (s.storesOf r).any (fun y => y.seq == n) = false
    let fl := (s.part (s.core (s.coreOfStream sm)).part).fl
    (new → (s.stream sm).tooOld n = false ∨ fl = true →
      (s.line (lineOf x.pa)).pinnedAgainst r.core = false → (s.line (lineOf x.pa)).resv = none →
      (s.line (lineOf x.pa)).owner = none → s.sliceServes r.core x (s.taskOf r).ts = none →
      ∃ t y, exec .requestAtHome s = .next t ∧ (t.taskOf r).accReq = some y ∧
        y.value = some (s.perform x (s.taskOf r).ts).2.1 ∧ y.stamp = (s.perform x (s.taskOf r).ts).2.2 ∧
        SameBytes (s.perform x (s.taskOf r).ts).1 t ∧ (t.taskOf r).g = (s.taskOf r).g ∧
        (t.taskOf r).pc = (s.taskOf r).pc) ∧
    (new → (s.stream sm).tooOld n = false ∨ fl = true → (s.line (lineOf x.pa)).pinnedAgainst r.core = true →
      (s.rides r.core x = false → exec .requestAtHome s = .next (s.now (seqAt r) (.retryResponse r))) ∧
      (s.rides r.core x = true → ∃ t, exec .requestAtHome s = .next t ∧ SameMems s t ∧ t.taskOf r = s.taskOf r ∧
        let d := s.performDie r.core x (s.taskOf r).ts
        (d ≠ 32 → ∃ q ∈ (t.die d).queues, ∃ f, q.flit = some f ∧ f.goal = dieOf r.core ∧ f.vc = 3 ∧
          f.kind = .carries (seqAt r) (.retryResponse r)) ∧
        (d = 32 → ∃ f ∈ (t.die (exitDie (dieOf r.core))).flits, f.goal = dieOf r.core ∧ f.vc = 3 ∧
          f.kind = .carries (seqAt r) (.retryResponse r)))) ∧
    (new → (s.stream sm).tooOld n = true → fl = false →
      exec .requestAtHome s = .next (s.now (seqAt r) (.linkProtocolError (s.core (s.coreOfStream sm)).part))) ∧
    (∀ v st, (s.stream sm).performed n = true → (s.stream sm).kept.find? (fun z => z.1 == n) = some (n, v, st) →
      ∃ t y, exec .requestAtHome s = .next t ∧ (t.taskOf r).accReq = some y ∧ y.value = some v ∧ y.stamp = st ∧
        SameBytes s t)) ∧
  (∀ (s : State) (sm : Stream) (n : Nat) (r : TaskRef) (k : Nat), s.ev = .requestAtHome sm n →
    (s.stream sm).sent.find? (fun z => z.1 == n) = some (n, r, k) → (s.stream sm).performed n = false →
    (s.storesOf r).any (fun y => y.seq == n) = true → ∃ t, exec .requestAtHome s = .next t ∧ SameBytes s t ∧
      OnlyCoreJobs r.core s t ∧ t.agenda = .event (seqAt r) (.storeStamped r) :: s.agenda)

/-- RETRY_RESPONSE, REQUEST_RETRY, REQUEST_REPLAY and REQUEST_ACKNOWLEDGEMENT (R112, R275, R278, R325): a refused task
releases its pins and asks again 16 ticks later, under a new number (the model's reading of R325, as are the 2048 wall periods
counted from each sending and the protocol error where a ninth replay would be due: DEDUCED, log 101); a request that waited for
stores is sent once they are stamped, and an `ld.s` that failed ends then (R95); a request without a reply is sent again with its number 2048 wall periods later, 8 times, and is a protocol error
then; an acknowledged reply is no longer kept. None of them changes a byte of memory or a general register.
Completes (exec answers a next state): `retryResponse`, `requestRetry`, `requestReplay`, `requestAcknowledgement`. -/
def Obligations.RequestsRepeat : Prop :=
  (∀ (s : State) (r : TaskRef) (x : Access), s.ev = .retryResponse r → (s.taskOf r).accReq = some x →
    ∃ t, exec .retryResponse s = .next t ∧ SameBytes s t ∧
      t.taskOf r = { s.taskOf r with pins := [], hold := .refused, accReq := some { x with phase := .refused } } ∧
      { clock := some (s.core r.core).part, due := s.tickOf r.core + 16, who := seqAt r, ev := .requestRetry r } ∈ t.timers) ∧
  (∀ (s : State) (r : TaskRef) (x : Access), s.ev = .requestRetry r → (s.taskOf r).accReq = some x →
    (∀ f, (s.taskOf r).hold ≠ .ending f) → let n := s.seqNext r.core
    (x.phase = .refused → ∃ t, exec .requestRetry s = .next t ∧ SameBytes s t ∧
      t.taskOf r = { s.taskOf r with hold := .access, accReq := some { x with phase := .sent, seq := n } } ∧
      t.seqNext r.core = (n + 1) % 65536 ∧ (n, r, 0) ∈ (t.stream (s.seqStream r.core)).sent ∧
      (s.rides r.core x = false → t.agenda = .event (seqAt r) (.requestAtHome (s.seqStream r.core) n) :: s.agenda)) ∧
    (x.phase = .failed → s.storesBy r ≤ s.tickOf r.core → ∃ t, exec .requestRetry s = .next t ∧ SameBytes s t ∧
      t.taskOf r = { s.taskOf r with accReq := some { x with phase := .sent, value := some 0, stamp := (s.taskOf r).ts } } ∧
      { clock := some (s.core r.core).part, due := s.tickOf r.core + x.pad, who := seqAt r, ev := .loadReply r } ∈ t.timers) ∧
    (x.phase = .waiting → s.accessWaits r = true → ∃ t, exec .requestRetry s = .next t ∧ t = { s with timers := t.timers } ∧
      ∃ y ∈ t.timers, y.who = seqAt r ∧ y.ev = .requestRetry r ∧ s.tickOf r.core < y.due) ∧
    (x.phase = .waiting → s.accessWaits r = false → ∃ t y, exec .requestRetry s = .next t ∧ SameBytes s t ∧
      (t.taskOf r).accReq = some y ∧ y.phase = .sent ∧ y.op = x.op ∧ y.pa = x.pa ∧ y.dst = x.dst ∧
      (t.taskOf r).g = (s.taskOf r).g)) ∧
  (∀ (s : State) (sm : Stream) (n : Nat) (r : TaskRef) (tries : Nat) (x : Access), s.ev = .requestReplay sm n →
    (s.stream sm).sent.find? (fun z => z.1 == n) = some (n, r, tries) → (s.taskOf r).accReq = some x → x.seq = n →
    x.phase = .sent → x.op.replies = true →
    (tries < 8 → ∃ t, exec .requestReplay s = .next t ∧ SameBytes s t ∧ (t.taskOf r) = (s.taskOf r) ∧
      { clock := none, due := s.wall.toNat + 2048, who := s.cur, ev := .requestReplay sm n } ∈ t.timers ∧
      (t.stream sm).sent.find? (fun z => z.1 == n) = some (n, r, tries + 1)) ∧
    (8 ≤ tries → ∃ t, exec .requestReplay s = .next t ∧ SameBytes s t ∧
      t.agenda = .event (seqAt r) (.linkProtocolError (s.core (s.coreOfStream sm)).part) :: s.agenda)) ∧
  (∀ (s : State) (sm : Stream) (n : Nat), s.ev = .requestAcknowledgement sm n →
    (n < (s.stream sm).acked → ∃ t, exec .requestAcknowledgement s = .next t ∧ t = { s with streams := t.streams } ∧
      (t.stream sm).kept = (s.stream sm).kept.filter (fun z => z.1 != n)) ∧
    ((s.stream sm).acked ≤ n → (s.stream sm).acked < 65536 → exec .requestAcknowledgement s =
      .next (s.now s.cur (.linkProtocolError (s.core (s.coreOfStream sm)).part))))

/-- LEASE_PUSH, OWNERSHIP_RETURN, TABLE_WALK_COMPLETE and CODE_CACHE_FILL (R273, R274, R351, R353, R284): the pushed data and
stamps stand in the die's slice copy and in every recorded data cache of the partition unless it holds newer ones; an owner
gives a line back; a finished walk fills the TLBs with what it found, and one that failed fills none; a filled code line gives
its word to the unit, and the task or engine that waited for it goes on; a line that `code` asked for is brought in, and pinned for
`code.pin`, whose task goes on (asked for again each tick while it is pinned or reserved: DEDUCED, log 138). None of them changes a byte of memory.
Completes (exec answers a next state): `leasePush`, `ownershipReturn`, `tableWalkComplete`, `codeCacheFill`. -/
def Obligations.CachesFilled : Prop :=
  (∀ (s : State) (d l p : Nat) (data : BitVec 512) (wts rts : Nat), s.ev = .leasePush d l (some p) data wts rts →
    let copy := Tbl.get? (s.slice (sliceOn d l)).copies l
    ∃ t, exec .leasePush s = .next t ∧ t = { s with cores := t.cores, slices := t.slices } ∧
      (∀ k, t.core k = { s.core k with dcache := (t.core k).dcache } ∧
        (t.core k).dcache.map (fun x => x.line) = (s.core k).dcache.map (fun x => x.line)) ∧
      (∀ k, k ∈ (if homeDie (l * 64) = d then (s.line l).caches else (copy.map (fun c => c.caches)).getD []) →
        (s.core k).part = p → ∀ x ∈ (t.core k).dcache, x.line = l →
        (x.data = data ∧ x.wts = wts ∧ x.rts = rts) ∨ (x ∈ (s.core k).dcache ∧ wts ≤ x.wts)) ∧
      (∀ c, copy = some c → c.held = true → c.wts < wts →
        Tbl.get? (t.slice (sliceOn d l)).copies l = some { c with data := data, wts := wts, rts := rts })) ∧
  (∀ (s : State) (l : Nat), s.ev = .ownershipReturn l → ∃ t, exec .ownershipReturn s = .next t ∧
    t = { s with lines := t.lines, slices := t.slices } ∧ t.line l = { s.line l with owner := none } ∧
    ∀ j, j ≠ l → t.line j = s.line j) ∧
  (∀ (s : State) (k va : Nat) (w : WalkFor), s.ev = .tableWalkComplete k va w →
    let d := dieOf k
    let walk := (s.die d).walks.find? (fun x =>
      x.core == k && x.for_ == w && x.block == va / 65536 && decide (x.till ≤ s.tickOf k))
    let fills (e : TlbEntry) : Prop := ∃ t, exec .tableWalkComplete s = .next t ∧ t = { s with dies := t.dies, cores := t.cores } ∧
      (0 < s.dieWays (s.core k).part d → (t.die d).tlb.head? = some e) ∧
      (w ≠ .frontEnd → (t.core k).l1tlb.head? = some e) ∧ (w = .frontEnd → t.core k = s.core k)
    (∀ x e, walk = some x → x.found = some e → fills e) ∧
    (∀ x, walk = some x → x.found = none → exec .tableWalkComplete s =
      .next (s.setDie d { s.die d with walks := (s.die d).walks.erase x })) ∧
    (∀ lvl e, walk = none → s.lookup k va = (lvl, .ok e) → fills e) ∧
    (∀ lvl f, walk = none → s.lookup k va = (lvl, .error f) → exec .tableWalkComplete s = .next s)) ∧
  (∀ (s : State) (k va : Nat) (c : CacheSel) (a : Agent), s.ev = .codeCacheFill k c va none → c.agent = some a →
    ∃ t, exec .codeCacheFill s = .next t ∧
    t = { s with dies := t.dies, cores := t.cores } ∧ (∀ j, j ≠ k → t.core j = s.core j) ∧
    (a = .seq → SameUnits k s t ∧ (t.taskOf { core := k, slot := s.cur.slot }).hold ≠ .fetch) ∧
    (∀ e, a = .eng e → (t.core k).runOf e = { (s.core k).runOf e with filling := false } ∧
      (t.core k).tasks = (s.core k).tasks) ∧
    (∀ lvl tr, s.translate k va .fetch false = (lvl, .ok tr) → t.codeWord k a va =
      some (leNat (s.physLoad (tr.pa / 64 * 64) 64) / 2 ^ (8 * (va % 64)) % 2 ^ 32))) ∧
  (∀ (s : State) (k va lvl : Nat) (c : CacheSel) (p : Bool) (tr : Trans), s.ev = .codeCacheFill k c va (some p) →
    s.translate k va c.kind false = (lvl, .ok tr) → let r : TaskRef := { core := k, slot := s.cur.slot }
    (s.codeSay k c va tr.pa = .free → ∃ t, exec .codeCacheFill s = .next t ∧ SameBytes s t ∧ SameUnits k s t ∧ CacheOnly c k s t ∧
      ((c = .data → region tr.pa ≠ 1) → (s.core k).setPinned c va tr.pa = false →
        (t.core k).cacheHolds c va tr.pa = true ∧ (p = true → LinePinned (t.core k) c va tr.pa true)) ∧
      (p = true → (s.taskOf r).hold = .fetch →
        t.taskOf r = { s.taskOf r with pc := (s.taskOf r).pc + 4, readyAt := s.tickOf k, hold := .none })) ∧
    (s.codeSay k c va tr.pa ≠ .free → exec .codeCacheFill s =
      .next (s.atTick (seqAt r) (s.tickOf k + 1) (.codeCacheFill k c va (some p)))))

/-! ## Encodings and the step -/

/-- R64 to R70 and the word tables they name: every well-formed instruction that has an encoding is read back from its own
words, with every operand, whatever follows them. -/
def Obligations.DecodeOfEncode : Prop :=
  ∀ (i : Instr) (u : Agent) (rest : List Nat), i.unit? = some u → i.wf = true →
    decode u (encode i ++ rest) = some (i, (encode i).length)

/-- Encodings that the spec works out from its frames (R84, R161, R181, R207, and the tables of R198 to R236), decoded; and
R64: a word that no encoding gives is illegal, as is the lack of one. -/
def Obligations.DecodeWords : Prop :=
  decode .seq [0x04611000] = some (.add 3 1 2, 1) ∧ decode .seq [0x34820010] = some (.ldD 4 2 0x10, 1) ∧
  decode .seq [0x5C220002] = some (.beq 1 2 2, 1) ∧ decode .seq [0x7CA73201] = some (.amoAdd .die 5 7 6, 1) ∧
  decode .seq [0xA9410003] = some (.runV 10 1 3, 1) ∧ decode .seq [0x94A80001] = some (.barArr 5 8 0, 1) ∧
  decode (.eng .vector) [0x22C10220] = some (.vfma 1 none .f32 .dyn 4 1 2, 1) ∧
  decode (.eng .vector) [0x05400434] = some (.vmpush 0 .f32 .gt 2 3, 1) ∧
  decode (.eng .vector) [0x00840001] = some (.vld 0 .f32 true 16 0, 1) ∧
  decode (.eng .matrix) [0x12E00000, 0x00040400] = some (.mldbScaled 3 ⟨0x400, 2, 0, false⟩, 2) ∧
  decode (.eng .matrix) [0x70000000] = some (.mexit, 1) ∧
  decode (.eng .transfer) [0x3A808103, 0x00040400] = some (.xtile ⟨2, true, 2⟩ 3 ⟨0x400, 2, 0, false⟩, 2) ∧
  decode (.eng .transfer) [0x70014000] = some (.xwait ⟨0, false, 5⟩, 1) ∧
  decode (.eng .walker) [0x98200148] = some (.wgo 4 8 true 2, 1) ∧
  (∀ (w : Nat) (rest : List Nat), w < 2 ^ 32 → 0x33 ≤ w / 2 ^ 26 → decode .seq (w :: rest) = none) ∧
  (∀ u, decode u [] = none)

/-- R64, R79: the step of an agent whose fetched words decode to an instruction is that instruction's meaning, on the state
without the job (and without a line that no cache way could take, R127, whose lasting for one fetch is DEDUCED, log 97); words that
decode to none take the unit's illegal-word fault; an event's step is the event's meaning with its arguments in `ev`. That the
agenda's jobs precede the inputs, which precede the next wall period, is the model's order (DESIGN CHOICE, logs 1 and 2). An input
that the package does not take, as a failed boot takes none (R365) and one before PCIe enumeration or before the system cores run
takes not all, does nothing (DEDUCED, log 107). -/
def Obligations.StepRunsDecoded : Prop :=
  ∀ (s : State) (who : Cur) (rest : List Job),
    let u : State := { s with agenda := rest, cur := who }
    (∀ ws i n, s.agenda = .issue who :: rest → u.fetch who = .words ws → decode who.unit ws = some (i, n) →
      step s = exec i (u.dropBypass who)) ∧
    (∀ ws, s.agenda = .issue who :: rest → u.fetch who = .words ws → decode who.unit ws = none →
      step s = exec .illegalWord (u.dropBypass who)) ∧
    (∀ e, s.agenda = .event who e :: rest → step s = exec e.instr { u with ev := e }) ∧
    (∀ e more, s.agenda = [] → s.inputs = e :: more → s.takes e = true →
      step s = exec e.instr { s with inputs := more, ev := e }) ∧
    (∀ e more, s.agenda = [] → s.inputs = e :: more → s.takes e = false → step s = .next { s with inputs := more }) ∧
    (∀ e, s.takes e = (!s.boot.failed && (!hostSends e || s.endpoint.pcie) && (!systemSends e || s.boot.stage == 3))) ∧
    (s.agenda = [] → s.inputs = [] → step s = exec .wallPeriod s)

/-- No step is refused, and the only fault is a command that names an object which the package does not have, for which no rule
names an effect (the model's choice: DESIGN CHOICE, log 110). -/
def Obligations.NoStepRefused : Prop :=
  ∀ s : State, (∃ t, step s = .next t) ∨ step s = .fault .noSuchObject

/-- The model's memory form (DESIGN CHOICE, log 8): a step keeps physical and host memory in canonical form. -/
def Obligations.StepKeepsMemoryForm : Prop :=
  ∀ s t : State, s.memoryOk → step s = .next t → t.memoryOk

/-- The values that R13, R29, R174, R288, R304, R312, R324 and R343 give at reset, as an object that nothing has touched
holds them. The model's choices beside them (DESIGN CHOICE): memory in its canonical form with nothing listed (log 8), a task slot at
its launch values (log 7), and no job or input waiting (log 1). -/
def Obligations.ResetValues : Prop :=
  State.reset.memoryOk ∧ (∀ a, Memory.get State.reset.mem a = 0) ∧
  let c := State.reset.core 0
  let p := State.reset.part 0
  State.reset.wall = 0 ∧ State.reset.agenda = [] ∧ State.reset.inputs = [] ∧
  c.vec.rows = 8 ∧ c.vec.cols = 128 ∧ c.vec.rb = 0 ∧ c.vec.sg = 0xFF ∧ c.vec.masks = [] ∧
  (∀ i, vget c.vec.v i = 0) ∧ c.mat.af = 2 ∧ c.mat.bf = 2 ∧ c.mat.ex = false ∧ c.mat.bag = none ∧
  (∀ i, vget c.tt i = TileEnt.reset) ∧ (∀ i, vget c.sh i = 0) ∧ (∀ i, vget c.tdesc i = 0x27F7F) ∧
  (∀ i, vget c.bfmt i = 0) ∧ (∀ i, vget c.qbind i = 0) ∧
  c.budget = { level := 0xFFFF, cap := 0xFFFF, refill := 16, low := 0x1000 } ∧ c.pinbypass = 0 ∧ c.last = 3 ∧
  (∀ n, c.bar n = Bar.reset) ∧ (∀ i, c.task i = Slot.launchState) ∧
  p.tick = 0 ∧ p.d0 = 0 ∧ p.spacing = 32768 ∧ p.quant = 16 ∧ p.tlbw = 1 ∧ p.records = [] ∧ p.swap.st = 0 ∧
  (State.reset.die 0).meshcfg = 0x1002848 ∧ (State.reset.mbox 0).st = 0


/-! ## Vector engine -/

/-- The element-wise words, the reductions, `vperm` and `vrand` (R139 to R148, R157, R159, R163, R167, with R14, R74 to R76
and R140): a type that does not fit the shape faults with 0x0A, an undersized hold with 0x06 when it is checked, an enabled
exception with 0x0E after its flags; otherwise each position that the rule writes takes the rule's value in tick
T + n + latency, no other position is written, and nothing changes but the pipeline and the engine's place.
Completes (exec answers a next state): `vmov`, `vsplat`, `viota`, `vadd`, `vsub`, `vmul`, `vfma`, `vmax`, `vmin`,
`vdiv`, `vcvt`, `vand`, `vor`, `vxor`, `vshl`, `vshrSrl`, `vshrSra`, `vsel`, `vexp2`, `vlog2`, `vrcp`, `vrsqrt`,
`vtanh`, `vsig`, `vredsum`, `vredmax`, `vredmin`, `vperm`, `vrand`, `vtrans`, `vclass`. -/
def Obligations.VectorElements : Prop :=
  ∀ (s : State) (i : Instr) (x : VWord), vecWordOf s i = some x →
    let count := s.me.vec.rows * s.me.vec.cols
    let n := (count + (if x.t.width = 32 then 128 else 256) - 1) / (if x.t.width = 32 then 128 else 256)
    let len := if x.m.isSome then 2 else 1
    let wt := s.tick + n + x.lat + (if x.m.isSome then 1 else 0)
    let fl := ((List.range count).map x.elem).foldl (fun acc y => acc ||| (y.map (fun p => p.2)).getD 0) 0
    (x.ok = false → exec i s = .next (s.engFault .vector 0x0A 0 0 0)) ∧
    (x.ok = true → (s.run .vector).cfg.holdchk = true →
      s.me.vec.undersized s.tick wt (x.srcs.map s.me.vec.phys) (some (s.me.vec.phys x.d)) = true →
      exec i s = .next (s.engFault .vector 0x06 0 0 0)) ∧
    (x.ok = true → (s.run .vector).cfg.holdchk = false → fl &&& (s.run .vector).cfg.trapen ≠ 0 →
      ∃ t w, exec i s = .next t ∧ OnlyCore s.cur.core s t ∧ t.me.vec = { s.me.vec with
        pending := s.me.vec.pending ++ [w] } ∧ w.at_ = wt ∧ w.dst = none ∧ w.flags = fl ∧
        (t.me.runOf .vector).halted.map (fun f => f.cause) = some 0x0E ∧ t.me.tasks = s.me.tasks) ∧
    (x.ok = true → vecClear s wt x.srcs (some x.d) fl →
      ∃ t w, exec i s = .next t ∧ VecIssued s t len n wt x.h w id ∧ w.dst = some (s.me.vec.phys x.d) ∧ w.flags = fl ∧
        w.holds x.t.width count x.elem)

/-- VECTOR_WRITEBACK (R31, R75, R264): the oldest result that is due changes the bits it writes of its register and no other
bit or register, and raises its flags in the task that issued it; without a result that is due nothing changes.
Completes (exec answers a next state): `vectorWriteback`. -/
def Obligations.VectorWriteback : Prop :=
  ∀ (s : State) (w : VWrite), s.ev = .vectorWriteback →
    (s.me.vec.pending.find? (fun w => decide (w.at_ ≤ s.tick)) = none → exec .vectorWriteback s = .next s) ∧
    (s.me.vec.pending.find? (fun w => decide (w.at_ ≤ s.tick)) = some w → ∃ t, exec .vectorWriteback s = .next t ∧
      OnlyCore s.cur.core s t ∧ t.me = { s.me with tasks := t.me.tasks, vec := t.me.vec } ∧
      t.me.vec = { s.me.vec with v := t.me.vec.v, pending := s.me.vec.pending.erase w } ∧
      (∀ r : Fin 32, w.dst ≠ some r → vget t.me.vec.v r = vget s.me.vec.v r) ∧
      (∀ (r : Fin 32) (j : Nat), w.dst = some r → (vget t.me.vec.v r).getLsbD j =
        if w.mask.getLsbD j then w.val.getLsbD j else (vget s.me.vec.v r).getLsbD j) ∧
      (∀ i, w.slot ≠ some i → t.me.task i = s.me.task i) ∧
      (∀ i, w.slot = some i → t.me.task i = { s.me.task i with
        fflags := (s.me.task i).fflags ||| w.flags, merged := (t.me.task i).merged }))

/-- `vtopk`, `vtopm` and `vpchk` (R160 to R162, R170): a bad k faults with 0x0A; otherwise the word's entry holds, for each
row, the words of its best k candidates in rank order, empty entries behind them; a signalling NaN among the scores raises nv, but
one beside an empty id none in `vtopm` (DESIGN CHOICE, log 139). `vpchk` writes the count of listed positions, the largest error
rounded up, and the first 1022 of the listed positions in order: those not enabled that the largest error could lift above the
threshold, if that error exceeds the bound.
Completes (exec answers a next state): `vtopk`, `vtopm`, `vpchk`. -/
def Obligations.VectorSelections : Prop :=
  (∀ (s : State) (h : Hold) (t : ElemType) (max byId : Bool) (vpk : VpReg) (d a b : VReg),
    let u := s.me.vec
    let k := (s.vp .vector vpk).toNat % 2 ^ 16
    let n := u.beats t
    let bad := k < 1 ∨ u.cols < k ∨ 1024 < u.rows * 2 * k
    let idOf (x : VReg) (r q : Nat) : Nat := vElem (u.reg x) 32 (r * 2 * k + 2 * q + 1)
    let scoreOf (x : VReg) (r q : Nat) : Nat := vElem (u.reg x) 32 (r * 2 * k + 2 * q)
    (bad → exec (.vtopk h t max byId vpk d a b) s = .next (s.engFault .vector 0x0A 0 0 0) ∧
      exec (.vtopm h t max byId vpk d a b) s = .next (s.engFault .vector 0x0A 0 0 0)) ∧
    (¬ bad → shapeFits s t = true → (byId = true → shapeFits s .n32 = true) → (s.run .vector).cfg.holdchk = false →
      (s.run .vector).cfg.trapen = 0 → ∃ x w, exec (.vtopk h t max byId vpk d a b) s = .next x ∧
        VecIssued s x 1 n (s.tick + n + 6) h w id ∧ w.dst = some (u.phys d) ∧
        w.flags = flagIf ((List.range u.count).any (fun q => vOn s q && (decodeFmt t.fmt (vElemOf s t a q)).isSig)) fNV ∧
        ∀ r, r < u.rows → (List.range (2 * k)).map (fun q => vElem w.val 32 (r * 2 * k + q)) =
          rankWords max byId k ((List.range u.cols).filterMap (fun j =>
            if vOn s (r * u.cols + j) then
              (candOf t (vElemOf s t a (r * u.cols + j)) (if byId then vElemOf s .n32 b (r * u.cols + j) else j)).1
            else none))) ∧
    (¬ bad → shapeFits s t = true → (s.run .vector).cfg.holdchk = false → (s.run .vector).cfg.trapen = 0 →
      ∃ x w, exec (.vtopm h t max byId vpk d a b) s = .next x ∧
        VecIssued s x 1 n (s.tick + n + 6) h w id ∧ w.dst = some (u.phys d) ∧
        w.flags = flagIf ((List.range u.rows).any (fun r => [a, b].any (fun x => (List.range k).any (fun q =>
          idOf x r q != emptyId && (decodeFmt t.fmt (scoreOf x r q)).isSig)))) fNV ∧
        ∀ r, r < u.rows → (List.range (2 * k)).map (fun q => vElem w.val 32 (r * 2 * k + q)) =
          rankWords max byId k (((List.range k).map (fun q => (a, q)) ++ (List.range k).map (fun q => (b, q))).filterMap
            (fun e => if idOf e.1 r e.2 = emptyId then none else (candOf t (scoreOf e.1 r e.2) (idOf e.1 r e.2)).1)))) ∧
  (∀ (max byId : Bool) (k : Nat) (cs : List Cand), (∀ c ∈ cs, c.val.isNan = false) → ∃ is, BestOf max byId k cs is ∧
    rankWords max byId k cs = is.flatMap (fun i => ((cs[i]?).map (fun c => [c.score, c.id])).getD []) ++
      (List.replicate (k - is.length) [0, emptyId]).flatten) ∧
  (∀ (s : State) (h : Hold) (t : ElemType) (vp : VpReg) (d a b : VReg), shapeFits s t = true →
    (s.run .vector).cfg.holdchk = false → (s.run .vector).cfg.trapen = 0 →
    let u := s.me.vec
    let n := u.beats t
    let p (q : Nat) : Exact := decodeFmt t.fmt (vElemOf s t a q)
    let c (q : Nat) : Exact := decodeFmt t.fmt (vElemOf s t b q)
    let θ := fp32.decode ((s.vp .vector vp).toNat % 2 ^ 32)
    let ε := fp32.decode ((s.vp .vector vp).toNat / 2 ^ 32)
    ∃ (x : State) (w : VWrite) (e : Exact) (found : List Nat), exec (.vpchk h t vp d a b) s = .next x ∧
      VecIssued s x 1 n (s.tick + n + 5) h w id ∧
      w.dst = some (u.phys d) ∧ (∀ q, q < 1024 → vElem w.mask 32 q = 2 ^ 32 - 1) ∧
      w.flags = flagIf (θ.isSig || ε.isSig || (List.range u.count).any (fun q => (p q).isSig) ||
        u.enabled.any (fun q => (c q).isSig)) fNV ∧
      LargestError (u.enabled.map (fun q => (p q, c q))) e ∧
      List.Sublist found (List.range u.count) ∧
      (∀ q, q ∈ found ↔ q < u.count ∧ vOn s q = false ∧ θ.isNan = false ∧ e.exceeds ε ∧ Doubtful (p q) e θ) ∧
      vElem w.val 32 0 = Nat.min found.length 1022 + found.length * 2 ^ 16 ∧
      vElem w.val 32 1 = (fp32.fit .rup e).1 ∧
      ∀ j, j < 1022 → vElem w.val 32 (j + 2) = found.getD j emptyId)

/-- `vld`, `vst`, `vldacc`, `vstacc`, `vgath` and `vscat` (R134 to R138, R164, R165): an access that the rules allow takes
effect: a load's entry holds the converted elements of the enabled positions, a store's bytes are in the writes of the tick,
to be read from the next tick on, in increasing position, those of T6 merged into their groups with the other slots kept (DESIGN
CHOICE, log 137); that a store's bytes are taken in the issue tick is the model's reading (DEDUCED, log 66); `inc` moves the address
on; an access that a check refuses faults with its cause, and one that must wait changes nothing.
Completes (exec answers a next state): `vld`, `vst`, `vldacc`, `vstacc`, `vgath`, `vscat`. -/
def Obligations.VectorMemoryWords : Prop :=
  ∀ (s : State) (h : Hold) (t : ElemType) (inc ex : Bool) (d : VReg) (vp : VpReg),
    let w := s.vp .vector vp
    let a := s.vAcc w t
    let u := s.me.vec
    let n := u.beats t
    let row := w.toNat % 2 ^ 10
    let col := w.toNat / 2 ^ 10 % 2 ^ 7
    let accBad := shapeFits s t = false ∨ 2 ^ 17 ≤ w.toNat ∨ 128 < col + u.cols ∨ (if ex then 256 else 1024) < row + u.rows
    let free := (s.run .vector).cfg.holdchk = false ∧ (s.run .vector).cfg.trapen = 0
    (∀ i, i = Instr.vld h t inc d vp ∨ i = .vst h t inc d vp →
      (∀ cause, s.admitRows w a t = .fault cause → exec i s = .next (s.engFault .vector cause 0 0 0)) ∧
      (s.admitRows w a t = .wait → exec i s = .next s)) ∧
    let move := u.rows * a.stride
    (s.admitRows w a t = .go → free → ∃ x e, exec (.vld h t inc d vp) s = .next x ∧ VpMoved s x vp inc 17 move ∧
      VecIssued s x 1 n (s.tick + n + 2) h e
        (fun _ => (((s.setMe (s.me.holdTile a.place (s.tick + n + 1))).incOff inc vp a).me)) ∧
      e.dst = some (u.phys d) ∧ e.holds t.width u.count (fun q => if vOn s q then
        some (convert a.bankF t.fmt .rne (readElem s.me.scratch a.size (a.at_ (q / u.cols) (q % u.cols)))) else none)) ∧
    (s.admitRows w a t = .go → free → ∃ x e ws, exec (.vst h t inc d vp) s = .next x ∧ e.dst = none ∧
      VecIssued s x 1 n (s.tick + n + 2) h e (fun _ => ((((s.vecStores ws).setMe
        ((s.vecStores ws).me.holdTile a.place (s.tick + n + 1))).incOff inc vp a).me)) ∧ VpMoved s x vp inc 17 move ∧
      x.me.scratch = s.me.scratch ∧ x.me.spBuf = s.me.spBuf ++ ws.map (fun y => (Engine.vector.rank, y.1, y.2)) ∧
      StoredElems a.size s.me.scratch (u.enabled.map (fun q =>
        (a.at_ (q / u.cols) (q % u.cols), (convert t.fmt a.bankF .rne (vElemOf s t d q)).1))) ws) ∧
    (∀ i, i = Instr.vldacc h t inc ex d vp ∨ i = .vstacc h t inc ex d vp → accBad →
      exec i s = .next (s.engFault .vector 0x0A 0 0 0)) ∧
    (¬ accBad → free → ∃ x e, exec (.vldacc h t inc ex d vp) s = .next x ∧ VpMoved s x vp inc 10 u.rows ∧
      VecIssued s x 1 n (s.tick + n + 2) h e (fun _ => (s.incRow inc vp).me) ∧ e.dst = some (u.phys d) ∧
      e.holds t.width u.count (fun q => if vOn s q then
        some (accOut ex t.fmt (leNat (Memory.load s.me.acc (accAt ex (row + q / u.cols) (col + q % u.cols))
          (if ex then 16 else 4)))) else none)) ∧
    (¬ accBad → free → ∃ x e, exec (.vstacc h t inc ex d vp) s = .next x ∧ e.dst = none ∧ OnlyCore s.cur.core s x ∧
      VpMoved s x vp inc 10 u.rows ∧ x.me.vec.pending = u.pending ++ [e] ∧ e.at_ = s.tick + n + 2 ∧ x.me.acc = s.me.acc ∧ x.me.vec.v = s.me.vec.v ∧ x.mem = s.mem ∧
      x.me.accBuf = s.me.accBuf ++ u.enabled.map (fun q =>
        (Engine.vector.rank, accAt ex (row + q / u.cols) (col + q % u.cols),
         leBytes (if ex then 16 else 4) (accIn ex t.fmt (vElemOf s t d q)).1))) ∧
    (∀ (g : Grain) (b : VReg), let idx := vElemOf s .n32 b
      (∀ i, i = Instr.vgath h t g d vp b ∨ i = .vscat h t g d vp b →
        (∀ cause, s.admitElems w a g t u.enabled idx = .fault cause → exec i s = .next (s.engFault .vector cause 0 0 0)) ∧
        (s.admitElems w a g t u.enabled idx = .wait → exec i s = .next s)) ∧
      (s.admitElems w a g t u.enabled idx = .go → free → ∃ x e, exec (.vgath h t g d vp b) s = .next x ∧
        VecIssued s x 1 n (s.tick + n + 3) h e (fun c => c.holdTile a.place (s.tick + n + 2)) ∧
        e.dst = some (u.phys d) ∧ e.holds t.width u.count (fun q => if vOn s q then
          some (convert a.bankF t.fmt .rne (readElem s.me.scratch a.size (a.target g u.cols q (idx q)))) else none)) ∧
      (s.admitElems w a g t u.enabled idx = .go → free → ∃ x e ws, exec (.vscat h t g d vp b) s = .next x ∧ e.dst = none ∧
        VecIssued s x 1 n (s.tick + n + 2) h e (fun _ =>
          (s.vecStores ws).me.holdTile a.place (s.tick + n + 1)) ∧
        x.me.scratch = s.me.scratch ∧ x.me.spBuf = s.me.spBuf ++ ws.map (fun y => (Engine.vector.rank, y.1, y.2)) ∧
        StoredElems a.size s.me.scratch (u.enabled.map (fun q =>
          (a.target g u.cols q (idx q), (convert t.fmt a.bankF .rne (vElemOf s t d q)).1))) ws))

/-- Shapes, masks, skips, loops and the end of a run (R133, R149 to R154): each word's effect governs the next word, or its
named fault leaves the engine's state as it was. A pass that reaches the end of the loop's body turns the rotation base and
starts the next pass, or ends the loop. `vexit` lets the run end once its words have retired.
Completes (exec answers a next state): `vshape`, `vmpush`, `vminv`, `vmpop`, `vskip`, `vloop`, `vexit`. -/
def Obligations.VectorControl : Prop :=
  ∀ (s : State) (h : Hold),
    let u := s.me.vec
    let r := s.run .vector
    let free := r.cfg.holdchk = false ∧ r.cfg.trapen = 0
    (∀ vp : VpReg, let w := (s.vp .vector vp).toNat
      let rows := w % 2 ^ 10 + 1
      let cols := w / 2 ^ 10 % 2 ^ 12 + 1
      (2 ^ 22 ≤ w ∨ 4096 < rows * cols → exec (.vshape h vp) s = .next (s.engFault .vector 0x0A 0 0 0)) ∧
      (w < 2 ^ 22 → rows * cols ≤ 4096 → ∃ t e, exec (.vshape h vp) s = .next t ∧
        VecIssued s t 1 1 (s.tick + 1) h e (fun c => { c with vec := { c.vec with rows := rows, cols := cols } }) ∧
        e.dst = none)) ∧
    (∀ (t : ElemType) (c : Cond) (a b : VReg),
      (shapeFits s t = false → exec (.vmpush h t c a b) s = .next (s.engFault .vector 0x0A 0 0 0)) ∧
      (shapeFits s t = true → 8 ≤ u.masks.length → exec (.vmpush h t c a b) s = .next (s.engFault .vector 0x02 0 0 0)) ∧
      (shapeFits s t = true → u.masks.length < 8 → free → ∃ x e top, exec (.vmpush h t c a b) s = .next x ∧
        VecIssued s x 1 1 (s.tick + 1) h e (fun k => { k with vec := { k.vec with masks := top :: u.masks } }) ∧
        e.dst = none ∧ ∀ q, q < 4096 → top.getLsbD q = (decide (q < u.count) && vOn s q &&
          (elemCmp t c (vElemOf s t a q) (vElemOf s t b q)).1))) ∧
    (u.masks = [] → exec (.vminv h) s = .next (s.engFault .vector 0x02 0 0 0) ∧
      exec (.vmpop h) s = .next (s.engFault .vector 0x02 0 0 0)) ∧
    (∀ m rest, u.masks = m :: rest →
      (∃ x e top, exec (.vminv h) s = .next x ∧
        VecIssued s x 1 1 (s.tick + 1) h e (fun k => { k with vec := { k.vec with masks := top :: rest } }) ∧
        ∀ q, q < 4096 → top.getLsbD q = (decide (q < u.count) && !m.getLsbD q && (rest.headD (BitVec.allOnes 4096)).getLsbD q)) ∧
      (∃ x e, exec (.vmpop h) s = .next x ∧
        VecIssued s x 1 1 (s.tick + 1) h e (fun k => { k with vec := { k.vec with masks := rest } }))) ∧
    (∀ (c : SkipCond) (n : BitVec 15),
      let limit := match u.loop with
        | none => r.endOff.toNat
        | some l => Nat.min r.endOff.toNat (l.u + 1 + l.l)
      let holds := match c with
        | .empty => u.masks ≠ [] ∧ ∀ q, q < u.count → vOn s q = false
        | .full => ∀ q, q < u.count → vOn s q = true
        | .sg j => u.sg.getLsbD j.val = false
      (limit < r.upc.toNat + 1 + n.toNat → exec (.vskip h c n) s = .next (s.engFault .vector 0x02 0 0 0)) ∧
      (r.upc.toNat + 1 + n.toNat ≤ limit → holds → ∃ x e, exec (.vskip h c n) s = .next x ∧
        VecIssued s x (1 + n.toNat) 1 (s.tick + 1) h e id) ∧
      (r.upc.toNat + 1 + n.toNat ≤ limit → ¬ holds → ∃ x e, exec (.vskip h c n) s = .next x ∧
        VecIssued s x 1 1 (s.tick + 1) h e id)) ∧
    (∀ (sm1 : BitVec 3) (l : BitVec 10) (vp : VpReg), let n := (s.vp .vector vp).toNat % 2 ^ 32
      let bad := l = 0 ∨ r.endOff.toNat < r.upc.toNat + 1 + l.toNat ∨ u.loop ≠ none
      (bad → exec (.vloop h sm1 l vp) s = .next (s.engFault .vector 0x02 0 0 0)) ∧
      (¬ bad → n = 0 → ∃ x e, exec (.vloop h sm1 l vp) s = .next x ∧
        VecIssued s x (1 + l.toNat) 1 (s.tick + 1) h e id) ∧
      (¬ bad → n ≠ 0 → ∃ x, exec (.vloop h sm1 l vp) s = .next x ∧ OnlyCore s.cur.core s x ∧ x.me.vec.rb = 0 ∧
        x.me.vec.loop = some { n := n, s := sm1.toNat + 1, l := l.toNat, u := r.upc.toNat, p := 0 } ∧
        (x.me.runOf .vector).upc = r.upc + 1 ∧
        (∀ j : Fin 8, x.me.vec.sg.getLsbD j.val = decide (j.val = 0)) ∧ x.me.vec.v = u.v ∧ x.me.vec.masks = u.masks)) ∧
    (∀ (c : Core) (l : VLoop) (at_ : Nat), c.vec.loop = some l →
      let x := c.vecGo (l.u + 1 + l.l) at_
      x.vec.rb = c.vec.rb + 1 ∧ x.vec.v = c.vec.v ∧ (x.runOf .vector).nextAt = at_ ∧
      (l.p + 1 < l.n + l.s - 1 → (x.runOf .vector).upc = BitVec.ofNat 24 (l.u + 1) ∧
        x.vec.loop = some { l with p := l.p + 1 } ∧ ∀ j : Fin 8, x.vec.sg.getLsbD j.val =
          decide (j.val < l.s ∧ j.val ≤ l.p + 1 ∧ l.p + 1 - j.val < l.n)) ∧
      (l.n + l.s - 1 ≤ l.p + 1 → (x.runOf .vector).upc = BitVec.ofNat 24 (l.u + 1 + l.l) ∧
        x.vec.loop = none ∧ x.vec.sg = 0xFF)) ∧
    (∃ x e, exec (.vexit h) s = .next x ∧ OnlyCore s.cur.core s x ∧ x.me.vec = { u with pending := u.pending ++ [e] } ∧
      e.at_ = s.tick + 1 ∧ e.dst = none ∧ (x.me.runOf .vector).ending = true ∧ x.me.tasks = s.me.tasks)

/-- `vpush`, `vpop` and the way of a row (R171 to R173, R378): an unbound queue faults with 0x11; a full target makes the word
wait, as missing rows do a `vpop`; a pushed row carries its elements and its tag; a delivered row leaves the result queue
and stands last in its operand queue; a popped row's elements go to the register in order and the row is gone.
`vqdir` and `vqrs` (R168, R169): `vqdir` reads the direction words of its dimensions from scratchpad, and dimension first + q
takes them in tick T + q; `vqrs` reads them once their dimensions are loaded; a value of a bad range faults with 0x0A.
Completes (exec answers a next state): `vpush`, `vpop`, `vqdir`, `vqrs`, `queueRowDelivery`. -/
def Obligations.VectorQueuesAndDirections : Prop :=
  (∀ (s : State) (h : Hold) (t : ElemType) (q : QReg),
      let u := s.me.vec
      let c := s.me
      let small := shapeFits s t = true ∧ u.cols * (t.width / 8) ≤ 256 ∧ u.rows ≤ 64
      let free := (s.run .vector).cfg.holdchk = false ∧ (s.run .vector).cfg.trapen = 0
      (∀ (a : VReg) (vpb : VpReg),
        let k := (c.targetOf q).1
        let iq := (c.targetOf q).2
        (¬ small → exec (.vpush h t q a vpb) s = .next (s.engFault .vector 0x0A 0 0 0)) ∧
        (small → (vget c.qbind q).getLsbD 0 = false ∨ (s.core k).srcOf iq ≠ 1 →
          exec (.vpush h t q a vpb) s = .next (s.engFault .vector 0x11 0 0 0)) ∧
        (small → (vget c.qbind q).getLsbD 0 = true → (s.core k).srcOf iq = 1 → 64 < s.queued k iq + u.rows →
          exec (.vpush h t q a vpb) s = .next s) ∧
        (small → (vget c.qbind q).getLsbD 0 = true → (s.core k).srcOf iq = 1 → s.queued k iq + u.rows ≤ 64 →
          (s.run .vector).cfg.holdchk = false → ∃ (x : State) (rows : List QTransit), exec (.vpush h t q a vpb) s = .next x ∧ SameBytes s x ∧
            vget x.me.oq q = vget c.oq q ++ rows ∧ rows.length = u.rows ∧ x.me.vec.v = u.v ∧
            ∀ i, i < u.rows → ∃ y, rows[i]? = some y ∧ y.core = k ∧ y.q = iq ∧
              y.row.tag = BitVec.ofNat 16 ((s.vp .vector vpb).toNat + i) ∧
              ∀ j, j < u.cols → leNat y.row.bytes / 2 ^ (t.width * j) % 2 ^ t.width = vElemOf s t a (i * u.cols + j))) ∧
      (∀ (d : VReg), let rows := (vget c.iq q).filter (fun x => decide (x.at_ < s.tick))
        (¬ small → exec (.vpop h t d q) s = .next (s.engFault .vector 0x0A 0 0 0)) ∧
        (small → c.srcOf q = 0 → exec (.vpop h t d q) s = .next (s.engFault .vector 0x11 0 0 0)) ∧
        (small → c.srcOf q ≠ 0 → rows.length < u.rows → exec (.vpop h t d q) s = .next s) ∧
        (small → c.srcOf q ≠ 0 → u.rows ≤ rows.length → free → ∃ x e, exec (.vpop h t d q) s = .next x ∧
          VecIssued s x 1 (u.beats t) (s.tick + u.beats t + 2) h e
            (fun m => { m with iq := vset m.iq q ((vget m.iq q).drop u.rows) }) ∧
          e.dst = some (u.phys d) ∧ e.holds t.width u.count (fun p => if vOn s p then
            some ((rows[p / u.cols]?.map (fun y => leNat y.bytes)).getD 0 / 2 ^ (t.width * (p % u.cols)) % 2 ^ t.width, 0)
            else none))) ∧
      (∀ (k : Nat) (y : QTransit) (rest : List QTransit), s.ev = .queueRowDelivery k q →
        vget (s.core k).oq q = y :: rest → y.due ≤ s.tickOf k → (s.core y.core).run = .running → ∃ x, exec .queueRowDelivery s = .next x ∧
          x = { s with cores := x.cores } ∧ vget (x.core k).oq q = rest ∧
          vget (x.core y.core).iq y.q = vget (s.core y.core).iq y.q ++ [{ y.row with at_ := s.tickOf y.core }])) ∧
  ∀ (s : State) (h : Hold) (vpa vpb : VpReg),
    let u := s.me.vec
    let w := s.vp .vector vpa
    let sel := (s.vp .vector vpb).toNat
    let first := sel % 64
    let cnt := sel / 64 % 128
    let p := s.me.place (w.getLsbD 63) (Fin.ofNat 64 (w.toNat / 2 ^ 56)) (w.toNat / 2 ^ 17 % 16) (w.toNat % 2 ^ 17)
    let word (j k : Nat) : BitVec 32 :=
      BitVec.ofNat 32 (leNat (Memory.load s.me.scratch (p.byte (p.off + 4 * (32 * j + k))) 4))
    let bad := 64 < first + cnt ∨ cnt = 0 ∨ 2 ^ 13 ≤ sel ∨ (vpAddr? w).isNone = true ∨ p.fits p.off (128 * cnt) = false
    (bad → exec (.vqdir h vpa vpb) s = .next (s.engFault .vector 0x0A 0 0 0)) ∧
    (¬ bad → p.off % 4 ≠ 0 → exec (.vqdir h vpa vpb) s = .next (s.engFault .vector 0x07 0 0 0)) ∧
    (¬ bad → p.off % 4 = 0 → s.admitTile p p.off (128 * cnt) = .wait → exec (.vqdir h vpa vpb) s = .next s) ∧
    (¬ bad → p.off % 4 = 0 → s.admitTile p p.off (128 * cnt) = .go → (s.run .vector).cfg.holdchk = false →
      (∀ y ∈ u.dirLoads, y.1 ≠ s.tick) → ∃ x, exec (.vqdir h vpa vpb) s = .next x ∧ OnlyCore s.cur.core s x ∧ x.me.vec.v = u.v ∧
        (x.me.runOf .vector).upc = (s.run .vector).upc + 1 ∧ (∀ k, k < 32 → x.me.vec.dir first k = word 0 k) ∧
        (∀ j, 0 < j → j < cnt → (s.tick + j, first + j, (List.range 32).map (word j)) ∈ x.me.vec.dirLoads) ∧
        ∀ j, j ≠ first → ∀ k, k < 32 → x.me.vec.dir j k = u.dir j k) ∧
    (∀ (v : VecUnit) (tick dim : Nat) (ws : List (BitVec 32)), ws.length = 32 →
      v.dirLoads.filter (fun y => y.1 == tick) = [(tick, dim, ws)] → let x := v.landDirs tick
      (∀ k, k < 32 → x.dir dim k = ws.getD k 0) ∧ (∀ j, j ≠ dim → ∀ k, k < 32 → x.dir j k = v.dir j k) ∧ x.v = v.v) ∧
    (∀ (t : ElemType) (y : RandVar) (d : VReg), let db := w.toNat / 2 ^ 32 % 64
      let n := u.beats t
      (64 < db + u.cols ∨ 2 ^ 39 ≤ w.toNat → exec (.vqrs h t y d vpa vpb) s = .next (s.engFault .vector 0x0A 0 0 0)) ∧
      (db + u.cols ≤ 64 → w.toNat < 2 ^ 39 → (∃ j, j < u.cols ∧ u.dirBusy s.tick (db + j) = true) →
        exec (.vqrs h t y d vpa vpb) s = .next s) ∧
      (db + u.cols ≤ 64 → w.toNat < 2 ^ 39 → (∀ j, j < u.cols → u.dirBusy s.tick (db + j) = false) →
        shapeFits s t = true → (s.run .vector).cfg.holdchk = false → ∃ x e, exec (.vqrs h t y d vpa vpb) s = .next x ∧
          VecIssued s x 1 n (s.tick + n + 5) h e id ∧ e.dst = some (u.phys d) ∧
          e.holds t.width u.count (fun q => if vOn s q then
            some (randElem t (u.coord (db + q % u.cols) ((w.toNat + q / u.cols) % 2 ^ 32)
              (if w.getLsbD 38 then some (s.vp .vector vpb) else none)).toNat, 0) else none)))


/-! ## Matrix engine -/

/-- `mfmt`, `mldb`, `mldb` with scales, `mtagb`, `mcharge` and `mexit` (R176, R182, R190, R195, R196) while no bag holds them:
each takes its named fault where a check fails, waits where the rule says so, and otherwise changes exactly the engine
registers its rule names; rows enter a new B no earlier than 16 ticks later (R175). A scaled `mldb` judges its scales' place before
its tile register's format, an order that the model chose (DESIGN CHOICE, log 126).
Completes (exec answers a next state): `mfmt`, `mldb`, `mldbScaled`, `mtagb`, `mcharge`, `mexit`. -/
def Obligations.MatrixSetup : Prop :=
  ∀ s : State, let m := s.me.mat
    (∀ i, (∃ af bf ex, i = Instr.mfmt af bf ex) ∨ (∃ tn, i = .mldb tn) ∨ (∃ tn sc, i = .mldbScaled tn sc) →
      s.bagHolds = true → exec i s = .next s) ∧
    (s.bagHolds = false → ∀ (af bf : BitVec 4) (ex : Bool),
      let codes := 2 ≤ af.toNat ∧ af.toNat ≤ 5 ∧ 2 ≤ bf.toNat ∧ bf.toNat ≤ 5
      let legal := (4 ≤ af.toNat ∧ 4 ≤ bf.toNat) ∨ (af = 2 ∧ bf = 2) ∨ (af = 3 ∧ bf = 3 ∧ ex = false)
      (¬ codes → exec (.mfmt af bf ex) s = .next (s.engFault .matrix 0x03 0 0 0)) ∧
      (codes → ¬ legal → exec (.mfmt af bf ex) s = .next (s.engFault .matrix 0x05 0 0 0)) ∧
      (codes → legal → ∃ t, exec (.mfmt af bf ex) s = .next t ∧
        MatDone s t 1 (s.tick + 1) (fun c => { c with mat := { c.mat with af := af, bf := bf, ex := ex } }))) ∧
    (s.bagHolds = false → ∀ tn : TileReg, let d := vget s.me.tdesc tn
      let waits := (∃ p ∈ m.passes, s.tick + 130 < p.at_) ∨ s.me.tileComing tn = true
      (d.toNat / 2 ^ 16 ≠ m.bf.toNat → exec (.mldb tn) s = .next (s.engFault .matrix 0x05 0 0 0)) ∧
      (d.toNat / 2 ^ 16 = m.bf.toNat → waits → exec (.mldb tn) s = .next s) ∧
      (d.toNat / 2 ^ 16 = m.bf.toNat → ¬ waits → ∃ t, exec (.mldb tn) s = .next t ∧ OnlyCore s.cur.core s t ∧
        t.me = { s.me with runs := t.me.runs, mat := t.me.mat } ∧ (t.me.runOf .matrix).upc = (s.run .matrix).upc + 1 ∧
        t.me.mat = { m with b := t.me.mat.b, bk := Nat.min 128 (d.toNat % 256 + 1), bn := Nat.min 128 (d.toNat / 256 % 256 + 1), bfmt := m.bf,
                            bscale := [], btile := tn, entered := Nat.max m.entered (s.tick + 16), progress := 0 } ∧
        ∀ x, x < 32768 → Memory.get t.me.mat.b x = Memory.get s.me.tiles (32768 * tn.val + x)) ∧
      (∀ sc : SpadAddr, let p := s.me.placeOf sc
        (m.bf.toNat ≠ 4 → m.bf.toNat ≠ 5 → exec (.mldbScaled tn sc) s = .next (s.engFault .matrix 0x03 0 0 0)) ∧
        (m.bf.toNat = 4 ∨ m.bf.toNat = 5 → p.fits p.off 512 = false →
          exec (.mldbScaled tn sc) s = .next (s.engFault .matrix 0x0A 0 0 0)) ∧
        (m.bf.toNat = 4 ∨ m.bf.toNat = 5 → p.fits p.off 512 = true → d.toNat / 2 ^ 16 = m.bf.toNat →
          s.admitTile p p.off 512 = .go → ¬ waits → ∃ t, exec (.mldbScaled tn sc) s = .next t ∧ OnlyCore s.cur.core s t ∧
          (t.me.runOf .matrix).upc = (s.run .matrix).upc + 2 ∧ t.me.scratch = s.me.scratch ∧ t.me.acc = s.me.acc ∧
          t.me.mat.bk = Nat.min 128 (d.toNat % 256 + 1) ∧ t.me.mat.bn = Nat.min 128 (d.toNat / 256 % 256 + 1) ∧ t.me.mat.passes = m.passes ∧
          (∀ x, x < 32768 → Memory.get t.me.mat.b x = Memory.get s.me.tiles (32768 * tn.val + x)) ∧
          ∀ x, x < 512 → Memory.get t.me.mat.bscale x = Memory.get s.me.scratch (p.byte p.off + x)))) ∧
    (∀ base : BitVec 10, ∃ t, exec (.mtagb base) s = .next t ∧
      MatDone s t 1 (s.tick + 1) (fun c => { c with mat := { c.mat with curTag := base } })) ∧
    (∀ units : BitVec 4, (units ≠ 0 → exec (.mcharge false units) s = .next (s.engFault .matrix 0x03 0 0 0)) ∧
      ∀ fx, fx = true ∨ units = 0 → ∃ t, exec (.mcharge fx units) s = .next t ∧
        MatDone s t 1 (s.tick + 1) (fun c => { c with mat := { c.mat with fx := fx, units := units } })) ∧
    (∃ t, exec .mexit s = .next t ∧ OnlyCore s.cur.core s t ∧ t.me = { s.me with runs := t.me.runs } ∧
      t.me.runOf .matrix = { s.run .matrix with
        upc := (s.run .matrix).upc + 1, nextAt := s.tick + 1, ending := true })

/-- The exact sum of R43: in a column of T6, T8 or FP16 operands whose elements and cells are all finite and present, the row sum is
the exact sum of the products, each scaled by its blocks' powers of two, with no flag. -/
def Obligations.RowSumIsExact : Prop :=
  ∀ xs : List (Exact × Exact × Int), (∀ x ∈ xs, x.1.finite = true ∧ x.2.1.finite = true) →
    let c := xs.foldl (fun (c : ColSum) x => c.add (some x.1) (some x.2.1) x.2.2)
      { nan := false, pinf := false, ninf := false, prods := [] }
    (c.value false).1.finite = true ∧ (c.value false).2 = 0 ∧
    (c.value false).1.q = (xs.map (fun x => x.1.q * x.2.1.q * (2 : ℚ) ^ x.2.2)).sum

/-- `mrows` and `mfeed` (R175, R180, R183, R184, R191) and ROW_PASS_LAND (R46, R47): a row that its checks allow and whose
scales stand in the queue enters the array, no earlier than two ticks on and after the row before it, toward its
accumulator row, with a value for every column of B, to land 130 ticks later; missing scales fault with 0x0C, and a queued row of
another format with 0x05 whatever the scales. That `mfeed` judges a loaded B's format after its range and its queue is an order that
the model chose (DESIGN CHOICE, log 126). A pass that lands writes its own accumulator row in its columns and nothing else, each
element by R46 or R47, and raises the pass's flags and those of the updates.
Completes (exec answers a next state): `mrows`, `mfeed`, `rowPassLand`. -/
def Obligations.MatrixRows : Prop :=
  (∀ (s : State) (st : Bool) (n : BitVec 11) (dst : BitVec 10) (a : SpadAddr) (pitch : Option (BitVec 17)),
    let m := s.me.mat
    let p := s.me.placeOf a
    let r := m.progress
    let stride := if (pitch.getD 0).toNat = 0 then m.rowLen else (pitch.getD 0).toNat
    let bytes := Memory.load s.me.scratch (p.byte (p.off + r * stride)) m.rowLen
    let bad (cause : Nat) : Prop := exec (.mrows st n dst a pitch) s = .next (s.engFault .matrix cause 0 0 0)
    let formats := s.me.bankFmt p.bank = fmtOf m.af ∧ m.bfmt = m.bf
    let es := if m.af.toNat = 4 ∨ m.af.toNat = 5 then 1 else 2
    let aligned := p.off % es = 0 ∧ (n.toNat ≤ 1 ∨ stride % es = 0)
    let inside := p.fits p.off ((n.toNat - 1) * stride + m.rowLen) = true ∧
      dst.toNat + n.toNat ≤ (if m.ex then 256 else 1024)
    (s.bagHolds = true → exec (.mrows st n dst a pitch) s = .next s) ∧
    (s.bagHolds = false → r = 0 → (¬ formats → bad 0x05) ∧ (formats → ¬ aligned → bad 0x07) ∧
      (formats → aligned → ¬ inside → bad 0x0A) ∧
      (formats → aligned → inside → s.me.tileSay p = .fault → bad 0x0B)) ∧
    (s.bagHolds = false → (r = 0 → formats ∧ aligned ∧ inside ∧ s.me.tileSay p = .go) →
      s.granulesBusy p (p.off + r * stride) m.rowLen = false →
      (s.me.rowScales = .missing → bad 0x0C) ∧
      (∀ xs, s.me.rowScales = .taken xs → ∃ t q, exec (.mrows st n dst a pitch) s = .next t ∧ OnlyCore s.cur.core s t ∧
        t.me.mat.passes = m.passes ++ [q] ∧ q.at_ = Nat.max (s.tick + 2) m.entered + 130 ∧ q.row = dst.toNat + r ∧
        q.steer = st ∧ q.bag = false ∧ q.vals = (List.range m.bn).map (fun k => (m.column (m.dense bytes) xs k).1) ∧
        t.me.scaleQ = s.me.scaleQ.drop xs.length ∧ t.me.scratch = s.me.scratch ∧ t.me.acc = s.me.acc ∧
        (r + 1 < n.toNat → t.me.mat.progress = r + 1 ∧ (t.me.runOf .matrix).upc = (s.run .matrix).upc) ∧
        (n.toNat ≤ r + 1 → t.me.mat.progress = 0 ∧
          (t.me.runOf .matrix).upc = (s.run .matrix).upc + (if pitch.isSome then 3 else 2))))) ∧
  (∀ (s : State) (st tg : Bool) (q : QReg) (n : BitVec 11) (dst : BitVec 10),
    let m := s.me.mat
    let r := m.progress
    let bad (cause : Nat) : Prop := exec (.mfeed st tg q n dst) s = .next (s.engFault .matrix cause 0 0 0)
    let inside := tg = true ∨ dst.toNat + n.toNat ≤ (if m.ex then 256 else 1024)
    let bound := (vget s.me.qbind q).toNat / 2 ^ 16 ≠ 0
    (s.bagHolds = true → exec (.mfeed st tg q n dst) s = .next s) ∧
    (s.bagHolds = false → r = 0 → (¬ inside → bad 0x0A) ∧ (inside → ¬ bound → bad 0x11) ∧
      (inside → bound → m.bfmt ≠ m.bf → bad 0x05)) ∧
    (s.bagHolds = false → (r = 0 → inside ∧ bound ∧ m.bfmt = m.bf) →
      (vget s.me.iq q = [] → (s.run .matrix).orphan = false → exec (.mfeed st tg q n dst) s = .next s) ∧
      (∀ x rest y, vget s.me.iq q = x :: rest → x.at_ < s.tick → x.carder = some y → y.1 ≠ m.af →
        exec (.mfeed st tg q n dst) s =
          .next ((s.setMe { s.me with iq := vset s.me.iq q rest }).engFault .matrix 0x05 0 0 0)) ∧
      (∀ x rest xs, vget s.me.iq q = x :: rest → x.at_ < s.tick → s.me.rowScales = .taken xs →
        (∀ y, x.carder = some y → y.1 = m.af) →
        let row := if tg then m.curTag.toNat + x.tag.toNat else dst.toNat + r
        row < (if m.ex then 256 else 1024) → ∃ t z, exec (.mfeed st tg q n dst) s = .next t ∧ OnlyCore s.cur.core s t ∧
          t.me.mat.passes = m.passes ++ [z] ∧ z.row = row ∧ z.steer = st ∧ z.bag = false ∧
          z.at_ = Nat.max (s.tick + 2) m.entered + 130 ∧ vget t.me.iq q = rest ∧ t.me.acc = s.me.acc ∧
          z.vals = (List.range m.bn).map (fun k => (m.column (match x.carder with
            | none => m.dense x.bytes
            | some (_, cols, pres) => m.sparse x.bytes cols pres) xs k).1) ∧
          (r + 1 < n.toNat → t.me.mat.progress = r + 1 ∧ (t.me.runOf .matrix).upc = (s.run .matrix).upc) ∧
          (n.toNat ≤ r + 1 → t.me.mat.progress = 0 ∧ (t.me.runOf .matrix).upc = (s.run .matrix).upc + 1)))) ∧
  (∀ (s : State) (k : Nat) (p : Pass), s.ev = .rowPassLand k →
    (s.core k).mat.passes.find? (fun p => decide (p.at_ ≤ s.tickOf k)) = some p →
    let exact := !((p.vals.head?.map (fun v => v.isRounded)).getD false)
    let n := if exact then 16 else 4
    ∃ (t : State) (es : List (Nat × Flags)), exec .rowPassLand s = .next t ∧ OnlyCore k s t ∧
      t.core k = { s.core k with accBuf := (t.core k).accBuf, mat := (t.core k).mat } ∧
      (t.core k).accBuf = (s.core k).accBuf ++ [(Engine.matrix.rank, p.row * 128 * n, es.flatMap (fun e => leBytes n e.1))] ∧
      (t.core k).mat = { (s.core k).mat with
        passes := (s.core k).mat.passes.erase p
        flags := (s.core k).mat.flags ||| flagsToMat (es.foldl (fun f e => f ||| e.2) p.flags) } ∧
      es.length = p.vals.length ∧
      ∀ j, let old := leNat (Memory.load (s.core k).acc (p.row * 128 * n + n * j) n)
        (∀ v, p.vals[j]? = some (.rounded v) → exact = false → es[j]? = some (roundedElem p.steer old v)) ∧
        (∀ v, p.vals[j]? = some v → v.isRounded = false → exact = true → es[j]? = some (exactElem p.steer old v)))

/-- `mbag`, `mclose` and BAG_ROW_ARRIVAL (R185 to R189): a bag opens with its listed entries, none yet accounted; an arriving
row of a member that no row has multiplied enters the array toward its tagged row, a later one of the same member is
counted as repeated, and a faulting row as faulted; an entry is accounted once. `mclose` waits for the bag and writes its
report, the counts of entries and members, the first faulting entry and every member's state, and without an open bag it moves on.
The checks of `mbag` are made in the rule's order; that the tiles of the list and the report are judged after alignment and bounds
is the model's choice (DESIGN CHOICE, log 126), as is a report's tile that nothing holds (log 140).
Completes (exec answers a next state): `mbag`, `mclose`, `bagRowArrival`. -/
def Obligations.MatrixBags : Prop :=
  (∀ (s : State) (st : Bool) (sl : ShReg) (list : SpadAddr) (n e : BitVec 13) (rep : SpadAddr),
    let m := s.me.mat
    let p := s.me.placeOf list
    let q := s.me.placeOf rep
    let sh := shapeOf (vget s.me.sh sl)
    let bs := Memory.load s.me.scratch (p.byte p.off) (8 * n.toNat)
    let bad (cause : Nat) : Prop := exec (.mbag st sl list n e rep) s = .next (s.engFault .matrix cause 0 0 0)
    let open_ := s.bagHolds = false ∧ m.progress = 0 ∧ s.me.slotBusy sl = false
    let inside := p.fits p.off (8 * n.toNat) = true ∧ q.fits q.off (32 + 16 * ((e.toNat + 63) / 64)) = true
    (open_ → m.bag ≠ none → bad 0x03) ∧
    (open_ → m.bag = none → p.off % 8 ≠ 0 ∨ q.off % 16 ≠ 0 → bad 0x07) ∧
    (open_ → m.bag = none → p.off % 8 = 0 → q.off % 16 = 0 → ¬ inside → bad 0x0A) ∧
    let ready := open_ ∧ m.bag = none ∧ p.off % 8 = 0 ∧ q.off % 16 = 0 ∧ inside ∧ s.admitTile p p.off (8 * n.toNat) = .go ∧
      s.me.tileSay q = .go
    let formats := sh.fmt = fmtOf m.af ∧ m.bfmt = m.bf
    let entry (j : Nat) : Nat := leNat ((bs.drop (8 * j)).take 8)
    let clean := ∀ j, j < n.toNat → entry j < 2 ^ 58
    let landing := ∀ j, j < n.toNat → m.curTag.toNat + entry j / 2 ^ 48 % 2 ^ 10 < (if m.ex then 256 else 1024)
    (ready → ¬ formats → bad 0x05) ∧
    (ready → formats → sh.rowbytes ≠ m.rowLen ∨ ¬ clean → bad 0x0A) ∧
    (ready → formats → sh.rowbytes = m.rowLen → clean → ¬ landing → bad 0x13) ∧
    (ready → formats → sh.rowbytes = m.rowLen → clean → landing →
      ∃ t b, exec (.mbag st sl list n e rep) s = .next t ∧ OnlyCore s.cur.core s t ∧ t.me.mat.bag = some b ∧
        b.entries.length = n.toNat ∧ b.e = e.toNat ∧ b.base = m.curTag.toNat ∧ b.steer = st ∧ b.asked = 0 ∧
        b.slot = vget s.me.sh sl ∧ t.me.mat.passes = m.passes ∧ t.me.scratch = s.me.scratch ∧
        (∀ j, j < n.toNat → ∃ x, b.entries[j]? = some x ∧ x.fate = .waiting ∧
          x.idx + x.mid * 2 ^ 32 + x.tag * 2 ^ 48 = leNat (Memory.load s.me.scratch (p.byte p.off + 8 * j) 8)))) ∧
  (∀ (s : State) (k pos : Nat) (r : RowResult) (b : Bag) (e : BagEntry), s.ev = .bagRowArrival k pos r →
    (s.core k).mat.bag = some b → b.entries[pos]? = some e →
    (e.fate ≠ .waiting → ∃ t, exec .bagRowArrival s = .next t ∧ OnlyCore k s t ∧ t.core k = s.core k) ∧
    (e.fate = .waiting → ∀ cause why addr, r = .faulting cause why addr → ∃ t b1, exec .bagRowArrival s = .next t ∧ OnlyCore k s t ∧
      (t.core k).mat.bag = some b1 ∧ b1.entries[pos]? = some { e with fate := .faulted cause addr } ∧
      (∀ j, j ≠ pos → b1.entries[j]? = b.entries[j]?) ∧ (t.core k).mat.passes = (s.core k).mat.passes) ∧
    (e.fate = .waiting → ∀ bs, r = .bytes bs → (∃ x ∈ b.entries, x.mid = e.mid ∧ x.fate = .multiplied) →
      ∃ t b1, exec .bagRowArrival s = .next t ∧ OnlyCore k s t ∧ (t.core k).mat.bag = some b1 ∧
      b1.entries[pos]? = some { e with fate := .repeated } ∧ (∀ j, j ≠ pos → b1.entries[j]? = b.entries[j]?) ∧
      (t.core k).mat.passes = (s.core k).mat.passes) ∧
    (e.fate = .waiting → ∀ bs, r = .bytes bs → (∀ x ∈ b.entries, x.mid = e.mid → x.fate ≠ .multiplied) →
      ∃ t b1 p, exec .bagRowArrival s = .next t ∧ OnlyCore k s t ∧ (t.core k).mat.bag = some b1 ∧
      b1.entries[pos]? = some { e with fate := .multiplied } ∧ (∀ j, j ≠ pos → b1.entries[j]? = b.entries[j]?) ∧
      (t.core k).mat.passes = (s.core k).mat.passes ++ [p] ∧ p.row = b.base + e.tag ∧ p.steer = b.steer ∧ p.bag = true)) ∧
  (∀ s : State, let m := s.me.mat
    (m.bagBusy s.tick = true ∨ s.matSettled = false → exec .mclose s = .next s) ∧
    (m.bagBusy s.tick = false → s.matSettled = true → m.bag = none → ∃ t, exec .mclose s = .next t ∧
      MatDone s t 1 (s.tick + 1) id) ∧
    (∀ b, m.bagBusy s.tick = false → s.matSettled = true → m.bag = some b →
      s.me.publishing s.tick (b.report.bank.toNat * 131072 + b.report.off.toNat) (32 + 16 * ((b.e + 63) / 64)) = false →
      ∃ t w, exec .mclose s = .next t ∧ OnlyCore s.cur.core s t ∧ t.me.mat.bag = none ∧
        t.me.spBuf = s.me.spBuf ++ [(Engine.matrix.rank, b.report.bank.toNat * 131072 + b.report.off.toNat, w)] ∧
        ReportSays b w ∧
        t.me.scratch = s.me.scratch ∧ t.me.mat.passes = m.passes))

/-- `mclr`, `mdrain`, `mfill`, `msync` and `mflags` (R192 to R194) while no bag holds them: rows of a view are cleared, moved
out with their conversion two ticks later, or moved in; a range that leaves the view or the bank faults with 0x0A;
`msync` completes once every earlier effect has landed, merges the engine's flags into the task and sets its token;
`mflags` writes the flags to scratchpad and clears those it names.
Completes (exec answers a next state): `mclr`, `mdrain`, `mfill`, `msync`, `mflags`. -/
def Obligations.MatrixAccumulator : Prop :=
  ∀ s : State, s.bagHolds = false → let m := s.me.mat
    let r := m.progress
    (∀ (vw : Bool) (n : BitVec 11) (first : BitVec 10),
      let inside := first.toNat + n.toNat ≤ (if vw then 256 else 1024)
      (r = 0 → ¬ inside → exec (.mclr vw n first) s = .next (s.engFault .matrix 0x0A 0 0 0)) ∧
      (r = 0 → inside → s.accQuiet = false → exec (.mclr vw n first) s = .next s) ∧
      ((r = 0 → inside ∧ s.accQuiet = true) → ∃ t, exec (.mclr vw n first) s = .next t ∧ OnlyCore s.cur.core s t ∧
        t.me.accBuf = s.me.accBuf ++ [(Engine.matrix.rank, (first.toNat + r) * (if vw then 2048 else 512),
          zeroBytes (if vw then 2048 else 512))] ∧ t.me.acc = s.me.acc ∧ t.me.scratch = s.me.scratch ∧
        (r + 1 < n.toNat → t.me.mat.progress = r + 1 ∧ (t.me.runOf .matrix).upc = (s.run .matrix).upc) ∧
        (n.toNat ≤ r + 1 → t.me.mat.progress = 0 ∧ (t.me.runOf .matrix).upc = (s.run .matrix).upc + 1))) ∧
    (∀ (clr h vw : Bool) (n : BitVec 11) (first : BitVec 10) (a : SpadAddr),
      let p := s.me.placeOf a
      let f : Fmt := if h then .fp16 else .fp32
      let w := 128 * (f.bits / 8)
      let move (i : Instr) : Prop := r = 0 → s.me.accFault p h vw n.toNat first.toNat = none ∧ s.accQuiet = true ∧
        (i = .mdrain clr h vw n first a → s.granulesBusy p p.off (n.toNat * w) = false ∧
          ∀ tl, p.tile = some tl → ((vget s.me.tt tl).st = .empty ∨ (vget s.me.tt tl).st = .ready) ∧
            s.me.tileHeld tl s.tick = false) ∧
        (i = .mfill h vw n first a → s.admitTile p p.off (n.toNat * w) = .go)
      (r = 0 → ∀ cause, s.me.accFault p h vw n.toNat first.toNat = some cause →
        exec (.mdrain clr h vw n first a) s = .next (s.engFault .matrix cause 0 0 0) ∧
        exec (.mfill h vw n first a) s = .next (s.engFault .matrix cause 0 0 0)) ∧
      (move (.mdrain clr h vw n first a) → s.granulesBusy p (p.off + r * w) w = false → ∃ t x,
        exec (.mdrain clr h vw n first a) s = .next t ∧ OnlyCore s.cur.core s t ∧ t.me.acc = s.me.acc ∧
        t.me.mat.writes = m.writes ++ [(s.tick + 2, p.byte (p.off + r * w), x)] ∧ x.length = w ∧
        t.me.accBuf = (if clr then s.me.accBuf ++ [(Engine.matrix.rank, (first.toNat + r) * (if vw then 2048 else 512),
          zeroBytes (if vw then 2048 else 512))] else s.me.accBuf) ∧
        (∀ j, j < 128 → leNat ((x.drop (f.bits / 8 * j)).take (f.bits / 8)) =
          (accOut vw f (leNat (Memory.load s.me.acc (accAt vw (first.toNat + r) j) (if vw then 16 else 4)))).1
            % 2 ^ f.bits)) ∧
      (move (.mfill h vw n first a) → s.granulesBusy p (p.off + r * w) w = false → ∃ t x,
        exec (.mfill h vw n first a) s = .next t ∧ OnlyCore s.cur.core s t ∧ t.me.acc = s.me.acc ∧
        t.me.scratch = s.me.scratch ∧ t.me.accBuf = s.me.accBuf ++ [(Engine.matrix.rank, accAt vw (first.toNat + r) 0, x)] ∧
        ∀ j, j < 128 → leNat ((x.drop ((if vw then 16 else 4) * j)).take (if vw then 16 else 4)) =
          (accIn vw f (leNat (Memory.load s.me.scratch (p.byte (p.off + r * w) + f.bits / 8 * j) (f.bits / 8)))).1
            % 256 ^ (if vw then 16 else 4))) ∧
    (∀ (kv : Bool) (k : Tok), let i := (s.run .matrix).owner
      (s.run .matrix).orphan = false → s.matSettled = true → matToFlags m.flags &&& (s.run .matrix).cfg.trapen = 0 →
      (kv = true → r = 0 → vget (s.me.task i).pend k ≠ 0xFF) → ∃ t, exec (.msync kv k) s = .next t ∧
        OnlyCore s.cur.core s t ∧ (t.me.task i).fflags = (s.me.task i).fflags ||| matToFlags m.flags ∧
        (t.me.task i).g = (s.me.task i).g ∧ (t.me.task i).pc = (s.me.task i).pc ∧
        (t.me.runOf .matrix).upc = (s.run .matrix).upc + 1 ∧ t.me.mat = { m with progress := 0 } ∧
        (kv = true → r = 0 → vget (s.me.task i).pend k = 0 → (t.me.task i).tokens.getLsbD k.val = true) ∧
        (∀ j : Fin 8, (kv = false ∨ j ≠ k) → (t.me.task i).tokens.getLsbD j.val = (s.me.task i).tokens.getLsbD j.val)) ∧
    (∀ (clear : BitVec 5) (a : SpadAddr), let p := s.me.placeOf a
      let i := (s.run .matrix).owner
      (p.off % 4 ≠ 0 → exec (.mflags clear a) s = .next (s.engFault .matrix 0x07 0 0 0)) ∧
      (p.off % 4 = 0 → p.fits p.off 4 = false → exec (.mflags clear a) s = .next (s.engFault .matrix 0x0A 0 0 0)) ∧
      (p.off % 4 = 0 → p.fits p.off 4 = true → s.admitTile p p.off 4 = .go → s.matSettled = true →
        matToFlags m.flags &&& (s.run .matrix).cfg.trapen = 0 → ∃ t, exec (.mflags clear a) s = .next t ∧
        OnlyCore s.cur.core s t ∧ t.me.spBuf = s.me.spBuf ++ [(Engine.matrix.rank, p.byte p.off, leBytes 4 m.flags.toNat)] ∧
        t.me.mat.flags = m.flags &&& ~~~clear ∧ (t.me.task i).fflags = (s.me.task i).fflags ||| matToFlags m.flags ∧
        t.me.acc = s.me.acc ∧ t.me.scratch = s.me.scratch))

/-! ## Transfer steps -/

/-- `xcopy` and `xcopy2` (R198 to R202, R206, R207): a copy whose slots and tiles are free and whose checks pass enters
flight with the sides, formats, sectors and shadow of the rule; the first check that fails is its fault, 0x0A or 0x07. The model's
readings: where the two sides of an `xcopy2` differ in size the larger footprint gives its sectors (DEDUCED, log 83), and the
address that a fault records (DEDUCED, log 87).
Completes (exec answers a next state): `xcopyG2s`, `xcopyS2g`, `xcopyS2s`, `xcopy2`. -/
def Obligations.CopiesEnter : Prop :=
  ∀ (s : State) (h : XHdr),
    (∀ (dfr : Bool) (sl : ShReg) (sp : SpadAddr) (off : Word32),
      let p := s.me.placeOf sp
      let slot := vget s.me.sh sl
      let sh := shapeOf slot
      let bf := s.me.bankFmt p.bank
      let g := shapeBytes sh (sizeFmt sh.fmt bf)
      let n := shapeBytes sh (sizeFmt bf sh.fmt)
      let va := wrapAddr (sh.base + off.toInt)
      let bad (big : Nat) : List (Bool × Nat × Nat) := [(sh.fmt == .t6 && sh.estride != 0, 0x0A, 0),
        (!sh.aligned (sizeFmt sh.fmt bf) off.toInt, 0x07, va), (rowCrooked p (sizeFmt bf sh.fmt), 0x07, 0),
        (!p.fits p.off n, 0x0A, 0), (decide (2097152 < big), 0x0A, 0)]
      XferWord s (.xcopyG2s h dfr sl sp off) 3 h (s.me.slotBusy sl) (tileQueued s p) (bad n) n (fun _ x =>
        x.src = .shape slot off.toInt ∧ x.dst = .spad (p.byte p.off) ∧ x.sf = sh.fmt ∧ x.df = bf ∧ x.cols = sh.cols ∧
        x.sectors = ceilDiv g 4096 ∧ x.dest = .spad p.bank p.tile ∧ x.dfr = dfr) ∧
      ∀ drain : Bool, XferWord s (.xcopyS2g h dfr drain sl sp off) 3 h (s.me.slotBusy sl) (tileWaits s p drain)
        (bad g ++ [(tileFaults s p, 0x0B, 0)]) g (fun t x =>
          x.src = .spad (p.byte p.off) ∧ x.dst = .shape slot off.toInt ∧ x.sf = bf ∧ x.df = sh.fmt ∧ x.cols = sh.cols ∧
          x.sectors = ceilDiv g 4096 ∧ x.dest = .global ∧ x.dfr = dfr ∧ x.got = Memory.load s.me.scratch (p.byte p.off) n ∧
          ∀ u, p.tile = some u → drain = true → vget t.me.tt u = { vget s.me.tt u with st := .draining })) ∧
    (∀ (dfr drain : Bool) (sl : ShReg) (src dst : SpadAddr),
      let p := s.me.placeOf src
      let q := s.me.placeOf dst
      let sh := shapeOf (vget s.me.sh sl)
      let f := s.me.bankFmt p.bank
      let f' := s.me.bankFmt q.bank
      let n := shapeBytes sh (sizeFmt f f')
      let n' := shapeBytes sh (sizeFmt f' f)
      XferWord s (.xcopyS2s h dfr drain sl src dst) 3 h (s.me.slotBusy sl) (tileWaits s p drain || tileQueued s q)
        [(rowCrooked p (sizeFmt f f') || rowCrooked q (sizeFmt f' f), 0x07, 0),
          (!p.fits p.off n || !q.fits q.off n', 0x0A, 0), (decide (2097152 < n'), 0x0A, 0), (tileFaults s p, 0x0B, 0)] n'
        (fun _ x => x.src = .spad (p.byte p.off) ∧ x.dst = .spad (q.byte q.off) ∧ x.sf = f ∧ x.df = f' ∧ x.cols = sh.cols ∧
          x.dest = .spad q.bank q.tile ∧ x.dfr = dfr ∧ x.got = Memory.load s.me.scratch (p.byte p.off) n)) ∧
    (∀ (dfr : Bool) (sl dl : ShReg),
      let a := shapeOf (vget s.me.sh sl)
      let b := shapeOf (vget s.me.sh dl)
      let n := shapeBytes a (sizeFmt a.fmt b.fmt)
      let n' := shapeBytes b (sizeFmt b.fmt a.fmt)
      XferWord s (.xcopy2 h dfr sl dl) 2 h (s.me.slotBusy sl || s.me.slotBusy dl) false
        [((a.fmt == .t6 && a.estride != 0) || (b.fmt == .t6 && b.estride != 0), 0x0A, 0),
          (!a.aligned (sizeFmt a.fmt b.fmt) 0, 0x07, a.base), (!b.aligned (sizeFmt b.fmt a.fmt) 0, 0x07, b.base),
          (decide (a.count ≠ b.count), 0x0A, b.base), (decide (2097152 < n'), 0x0A, b.base)] n'
        (fun _ x => x.src = .shape (vget s.me.sh sl) 0 ∧ x.dst = .shape (vget s.me.sh dl) 0 ∧ x.sf = a.fmt ∧ x.df = b.fmt ∧
          x.cols = a.cols ∧ x.repack = some b.cols ∧ x.sectors = ceilDiv (Nat.max n n') 4096 ∧ x.dest = .global ∧ x.dfr = dfr))

/-- `xgath`, `xcomp`, `xred`, `xtile`, `xscale`, `xslot`, `xslev` and `xsend` (R201, R208 to R212): each enters flight with
the sides of its rule, the bytes it has read and the bytes of its shadow, or takes the fault of the first check that fails. What an
`xtile` writes and an `xsend` puts is stated of their fill (`StepsPublish`). The model's readings: a gather of rows of no byte is
fault 0x0A (DEDUCED, log 88), the place of `xred`'s 0x05 and of the rows that a list names among the checks (DESIGN CHOICE, log 126),
the address that a fault records (DEDUCED, log 87), and which words take a tile form (DESIGN CHOICE, log 134).
Completes (exec answers a next state): `xgath`, `xcomp`, `xred`, `xtile`, `xscale`, `xslot`, `xslev`, `xsend`. -/
def Obligations.StepsEnter : Prop :=
  ∀ (s : State) (h : XHdr),
    (∀ (dfr : Bool) (sl : ShReg) (list : SpadAddr) (n : BitVec 13) (dst : SpadAddr),
      let p := s.me.placeOf list
      let q := s.me.placeOf dst
      let g := gatherAsk s sl p n.toNat q
      XferWord s (.xgath h dfr sl list n dst) 4 h (s.me.slotBusy sl) (tileWaits s p false || tileQueued s q) g.bad g.bytes
        (fun _ x => gatherStep s sl g q n.toNat x ∧ x.dfr = dfr)) ∧
    (∀ (dfr : Bool) (sl : ShReg) (list : SpadAddr) (n : BitVec 13) (dl : ShReg),
      let p := s.me.placeOf list
      let sh := shapeOf (vget s.me.sh sl)
      let sd := shapeOf (vget s.me.sh dl)
      let e := sizeFmt sh.fmt sd.fmt
      let cols := if e = .t6 then sh.rowbytes / 3 * 4 else sh.rowbytes / (e.bits / 8)
      let out := sizeFmt sd.fmt sh.fmt
      let row := rowBytes out cols
      let idx := listWords s p n.toNat
      let lost := lostRow sh.base sh.rpitch e idx
      let lost' := lostRow sd.base sd.rpitch out (List.range n.toNat)
      XferWord s (.xcomp h dfr sl list n dl) 4 h (s.me.slotBusy sl || s.me.slotBusy dl) (tileWaits s p false)
        [(decide (p.off % 4 ≠ 0), 0x07, 0), (!p.fits p.off (4 * n.toNat), 0x0A, 0), (sh.fmt == .t6 && sh.estride != 0, 0x0A, 0),
          (decide (sh.rowbytes = 0 ∨ sh.rowbytes % (if e = .t6 then 3 else e.bits / 8) ≠ 0), 0x0A, 0),
          (sd.fmt == .t6 && sd.estride != 0, 0x0A, 0), (decide (sd.rowbytes ≠ row), 0x0A, 0),
          (!tileFaults s p && lost.isSome, 0x07, lost.getD 0), (!tileFaults s p && lost'.isSome, 0x07, lost'.getD 0),
          (decide (2097152 < n.toNat * row), 0x0A, 0), (tileFaults s p, 0x0B, 0)] (n.toNat * row)
        (fun _ x => x.src = .rows sh.base sh.rpitch sh.rowbytes idx ∧
          x.dst = .rows sd.base sd.rpitch row (List.range n.toNat) ∧ x.sf = sh.fmt ∧ x.df = sd.fmt ∧ x.cols = cols ∧
          x.sectors = n.toNat ∧ x.asked = 0 ∧ x.dest = .global ∧ x.dfr = dfr)) ∧
    (∀ (op : RedOp) (sl : ShReg) (sp : SpadAddr) (off : Word32),
      let p := s.me.placeOf sp
      let slot := vget s.me.sh sl
      let sh := shapeOf slot
      let bf := s.me.bankFmt p.bank
      let n := shapeBytes sh sh.fmt
      let pair := if op = .fadd then sh.fmt = .fp32 else sh.fmt = .i32 ∨ sh.fmt = .n32
      XferWord s (.xred h op sl sp off) 3 h (s.me.slotBusy sl) (tileWaits s p false)
        [(decide (¬ pair ∨ (bf ≠ sh.fmt ∧ bf ≠ .raw)), 0x05, 0),
          (!sh.aligned sh.fmt off.toInt, 0x07, wrapAddr (sh.base + off.toInt)), (rowCrooked p sh.fmt, 0x07, 0),
          (!p.fits p.off n, 0x0A, 0), (tileFaults s p, 0x0B, 0)] 0
        (fun _ x => x.src = .spad (p.byte p.off) ∧ x.dst = .shape slot off.toInt ∧ x.sf = sh.fmt ∧ x.df = sh.fmt ∧
          x.sectors = ceilDiv n 4096 ∧ x.dest = .reduce op (sh.fmt == .i32) ∧
          x.got = Memory.load s.me.scratch (p.byte p.off) n)) ∧
    (∀ (tn : TileReg) (sp : SpadAddr),
      let p := s.me.placeOf sp
      let d := (vget s.me.tdesc tn).toNat
      let rows := d % 256 + 1
      let cols := d / 256 % 256 + 1
      let tf := (Fmt.ofCode? (d / 65536 % 16)).getD .raw
      let bf := s.me.bankFmt p.bank
      let n := rows * rowBytes (sizeFmt bf tf) cols
      XferWord s (.xtile h tn sp) 2 h false (tileWaits s p false)
        [(rowCrooked p (sizeFmt bf tf), 0x07, 0), (!p.fits p.off n, 0x0A, 0), (tileFaults s p, 0x0B, 0)] (rows * cols * 2)
        (fun _ x => x.src = .spad (p.byte p.off) ∧ x.sf = bf ∧ x.df = tf ∧ x.cols = cols ∧ x.dest = .tileReg tn ∧
          x.got = Memory.load s.me.scratch (p.byte p.off) n)) ∧
    (∀ (sp : SpadAddr) (n : BitVec 7),
      let p := s.me.placeOf sp
      let queued := s.me.scaleQ.length + ((s.me.xfr.steps.filter (fun x => x.dest == .scaleQueue)).map (fun x => x.bytes)).sum
      XferWord s (.xscale h sp n) 3 h false (tileWaits s p false || decide (64 < queued + n.toNat))
        [(!p.fits p.off n.toNat, 0x0A, 0), (tileFaults s p, 0x0B, 0)] 0
        (fun _ x => x.dest = .scaleQueue ∧ x.bytes = n.toNat ∧ x.got = Memory.load s.me.scratch (p.byte p.off) n.toNat)) ∧
    (∀ (sl : ShReg) (vp : VpReg) (off : Word32),
      let va := wrapAddr ((s.vp .transfer vp).toNat + off.toInt)
      (s.me.slotBusy sl = false → va % 64 ≠ 0 → tokensOpen s .transfer h.wm = true →
        exec (.xslot h sl vp off) s = .next (s.engFault .transfer 0x07 0 0 va) ∧
        exec (.xslev h sl vp off) s = .next (s.engFault .transfer 0x07 0 0 va)) ∧
      (va % 64 = 0 → XferWord s (.xslot h sl vp off) 2 h (s.me.slotBusy sl) false [] 0 (fun _ x =>
        x.src = .line va ∧ x.dest = .shapeSlot sl)) ∧
      (va % 64 = 0 → XferWord s (.xslev h sl vp off) 2 h (s.me.slotBusy sl) false [] 64 (fun _ x =>
        x.dst = .line va ∧ x.dest = .global ∧ x.got = leBytes 64 (vget s.me.sh sl).toNat))) ∧
    (∀ (sp : SpadAddr) (m : BitVec 12),
      let p := s.me.placeOf sp
      let n := 16 * (leNat (Memory.load s.me.scratch (p.byte p.off) 16) / 2 ^ 16 % 64)
      XferWord s (.xsend h sp m) 3 h false (tileWaits s p false)
        [(decide (p.off % 16 ≠ 0), 0x07, 0), (!p.fits p.off 16, 0x0A, 0), (tileFaults s p, 0x0B, 0),
          (decide (512 < n), 0x0A, 0), (!p.fits p.off n, 0x0A, 0), (!(s.mbox m.toNat).writable s.me.part, 0x09, 0)] 0
        (fun _ x => x.dest = .mailbox m.toNat ∧ x.bytes = n ∧ x.got = Memory.load s.me.scratch (p.byte p.off) n))

/-- `xmcast`, `xpub`, `xfill.def`, `xfill.rel`, `xwait`, `xbusy` and `xexit` (R206, R213 to R216): a multicast enters flight
with a landing due on every core of its set, at the later of vp and its arrival; an `xpub` enters flight; the others are
over in their issue tick, with the tile, the granule bits or the run as their rules say. The model's readings: the footprint of
`xmcast` counts the bytes at every target (DEDUCED, log 129), a core of its set outside the partition is fault 0x09 (DEDUCED, log
89), and `xfill`, `xbusy` and `xwait` make their checks before they wait and set their token at issue (DEDUCED, log 91).
Completes (exec answers a next state): `xmcast`, `xpub`, `xwait`, `xfillDef`, `xfillRel`, `xbusySet`, `xbusyClr`,
`xexit`. -/
def Obligations.StepsAtOnce : Prop :=
  ∀ (s : State) (h : XHdr),
    (∀ (vp : VpReg) (src : SpadAddr) (g : BitVec 10) (set_ : BitVec 22),
      let p := s.me.placeOf src
      let w := set_.toNat
      let lo := w % 64
      let x0 := w / 2 ^ 12 % 4
      let x1 := w / 2 ^ 14 % 4
      let y0 := w / 2 ^ 16 % 8
      let y1 := w / 2 ^ 19 % 8
      let inSet (k : Nat) : Prop := k < 2048 ∧ x0 ≤ k / 64 % 4 ∧ k / 64 % 4 ≤ x1 ∧ y0 ≤ k / 256 ∧ k / 256 ≤ y1 ∧
        lo ≤ k % 64 ∧ k % 64 ≤ lo + w / 64 % 64
      let cores := setCores w
      let bad : List (Bool × Nat × Nat) := [(!p.fits p.off (256 * g.toNat), 0x0A, 0),
        (decide (x1 < x0 ∨ y1 < y0 ∨ 63 < lo + w / 64 % 64), 0x0A, 0),
        (decide (2097152 < 256 * g.toNat * cores.length), 0x0A, 0),
        (cores.any (fun k => !(s.part s.me.part).hasCore k), 0x09, 0)]
      (bad.find? (fun b => b.1) = none → ∀ k, k ∈ cores ↔ inSet k) ∧
      XferWord s (.xmcast h vp src g set_) 4 h false false bad (256 * g.toNat * cores.length) (fun t x =>
        x.got = Memory.load s.me.scratch (p.byte p.off) (256 * g.toNat) ∧ x.waiting = cores ∧
        ((s.part s.me.part).fl = true → x.landAt = Nat.max (s.vp .transfer vp).toNat (s.tick + 2 + g.toNat + 24 +
          24 * cores.foldl (fun m k => Nat.max m (hops (dieOf s.cur.core) (dieOf k))) 0)) ∧
        ∀ k ∈ cores, { clock := some s.me.part, due := x.landAt, who := engAt s.cur.core .transfer,
                       ev := .multicastLanding s.cur.core x.id k } ∈ t.timers)) ∧
    XferWord s (.xpub h) 1 h false false [] 0 (fun _ x => x.isPub = true ∧ x.dfr = false) ∧
    (let go := tokensOpen s .transfer h.wm = true ∧ stepFits s .transfer h.kv h.k 0 = true
     (tokensOpen s .transfer h.wm = false → exec (.xwait h) s = .next s ∧
       ∀ tt sp len g, exec (.xfillDef h tt sp len) s = .next s ∧ exec (.xbusySet h sp g) s = .next s ∧
         exec (.xbusyClr h sp g) s = .next s) ∧
     (go → ∃ t, exec (.xwait h) s = .next t ∧ StepAtOnce s t 1 h id) ∧
     (∀ (tt : TtReg) (sp : SpadAddr) (len : BitVec 13), go →
       let p := s.me.placeOf sp
       let e := vget s.me.tt tt
       let new : TileEnt :=
         { st := .empty, bank := BitVec.ofNat 4 p.bank, base := BitVec.ofNat 13 (p.off / 16), len := len, fq := 0 }
       let open_ := e.st = .empty ∧ e.fq = 0 ∧ s.me.tileHeld tt s.tick = false
       (p.off % 16 ≠ 0 → exec (.xfillDef h tt sp len) s = .next (s.engFault .transfer 0x07 0 0 0)) ∧
       (p.off % 16 = 0 → p.fits p.off (16 * (len.toNat + 1)) = false →
         exec (.xfillDef h tt sp len) s = .next (s.engFault .transfer 0x0A 0 0 0)) ∧
       (p.off % 16 = 0 → p.fits p.off (16 * (len.toNat + 1)) = true → ¬ open_ → exec (.xfillDef h tt sp len) s = .next s) ∧
       (p.off % 16 = 0 → p.fits p.off (16 * (len.toNat + 1)) = true → open_ → ∃ t, exec (.xfillDef h tt sp len) s = .next t ∧
         StepAtOnce s t 3 h (fun c => { c with tt := vset c.tt tt new }))) ∧
     (∀ tt : TtReg, go →
       let e := vget s.me.tt tt
       (e.st = .empty ∧ e.fq = 0 → exec (.xfillRel h tt) s = .next (s.engFault .transfer 0x0B 0 0 0)) ∧
       (e.st = .ready → s.me.tileHeld tt s.tick = false → ∃ t, exec (.xfillRel h tt) s = .next t ∧
         StepAtOnce s t 3 h (fun c => { c with tt := vset c.tt tt { vget c.tt tt with st := .empty } }) ∧
         t.agenda = .event (engAt s.cur.core .transfer) (.tileClaim s.cur.core tt) :: s.agenda)) ∧
     (∀ (sp : SpadAddr) (g : BitVec 10), go →
       let p := s.me.placeOf sp
       let in_ (j : Nat) : Prop := p.byte p.off / 256 ≤ j ∧ j < p.byte p.off / 256 + g.toNat
       (p.off % 256 ≠ 0 → exec (.xbusySet h sp g) s = .next (s.engFault .transfer 0x07 0 0 0) ∧
         exec (.xbusyClr h sp g) s = .next (s.engFault .transfer 0x07 0 0 0)) ∧
       (p.off % 256 = 0 → p.fits p.off (256 * g.toNat) = false →
         exec (.xbusySet h sp g) s = .next (s.engFault .transfer 0x0A 0 0 0) ∧
         exec (.xbusyClr h sp g) s = .next (s.engFault .transfer 0x0A 0 0 0)) ∧
       (p.off % 256 = 0 → p.fits p.off (256 * g.toNat) = true →
         (∃ t, exec (.xbusySet h sp g) s = .next t ∧ StepAtOnce s t 3 h (fun c => { c with inUse := t.me.inUse }) ∧
           ∀ j, j < 8192 → (t.me.inUse.getLsbD j = true ↔ in_ j ∨ s.me.inUse.getLsbD j = true)) ∧
         (∃ t, exec (.xbusyClr h sp g) s = .next t ∧ StepAtOnce s t 3 h (fun c => { c with inUse := t.me.inUse }) ∧
           ∀ j, j < 8192 → (t.me.inUse.getLsbD j = true ↔ ¬ in_ j ∧ s.me.inUse.getLsbD j = true)))) ∧
     (tokensOpen s .transfer h.wm = true → s.me.xfr.steps.length < 16 → s.me.shadowBytes ≤ 4194304 →
       ∃ t, exec (.xexit h.wm) s = .next t ∧ OnlyCore s.cur.core s t ∧
       t.me = s.me.setRun .transfer { s.me.runOf .transfer with
         upc := (s.run .transfer).upc + 1, nextAt := s.tick + 1, ending := true }))

/-- From the fill of a step's shadow to its completion (R199, R201, R204, R206, R210, R211, R265, R279, R280, R53):
SHADOW_FILLED, SCRATCHPAD_PUBLISH, PUBLISH_RESERVE, PUBLISH_COMMIT and STEP_COMPLETE. Nothing is visible before the publish, and a
step of which a part has failed publishes nothing; an `xtile` writes its tile register whole, with cells outside its elements 0, and
an `xsend` puts its packet into the mailbox's area (R212), waiting for room; a publish reserves its lines in rising address until one
refuses or waits; a commit writes its own bytes and no other; a completed step leaves flight with its flags merged and its token
settled. The model's readings: elements are converted at the fill and a scratchpad publish puts its bytes in its first tick (DEDUCED,
log 92), a refused line is asked for 16 ticks later and a reserved one in the next (DEDUCED, log 85), a request reserves every line that
is free in one tick (DEDUCED, log 93), and elements beyond a tile register's cells are dropped (DESIGN CHOICE, log 141).
Completes (exec answers a next state): `shadowFilled`, `scratchpadPublish`, `publishReserve`, `publishCommit`,
`stepComplete`. -/
def Obligations.StepsPublish : Prop :=
  ∀ (s : State) (k id : Nat) (x : XStep), (s.core k).xstep? id = some x →
    let who := engAt k .transfer
    let due (t : State) (e : Ev) : Prop := ∃ rest, t.agenda = .event who e :: rest
    (s.ev = .shadowFilled k id → (s.core k).run = .running → x.isPub = false →
      (x.bad ≠ [] → (∃ b tile, x.dest = .spad b tile) ∨ x.dest = .global → x.dfr = false → ∃ t, exec .shadowFilled s = .next t ∧
        OnlyCoreJobs k s t ∧ t.agenda = s.agenda ∧ (t.core k).spBuf = (s.core k).spBuf) ∧
      (∀ b, x.dest = .spad b none → x.dfr = false → x.bad = [] → ∃ t y, exec .shadowFilled s = .next t ∧ OnlyCoreJobs k s t ∧
        SameMems s t ∧ (t.core k).scratch = (s.core k).scratch ∧ (t.core k).spBuf = (s.core k).spBuf ∧
        y ∈ (t.core k).xfr.steps ∧ y.id = id ∧ y.stage = .filled ∧ y.flags = x.result.2 ∧ due t (.scratchpadPublish k id)) ∧
      (x.dest = .global → x.dfr = false → x.bad = [] → ∃ t y, exec .shadowFilled s = .next t ∧ OnlyCoreJobs k s t ∧ SameMems s t ∧
        y ∈ (t.core k).xfr.steps ∧ y.id = id ∧ y.stage = .filled ∧ y.flags = x.result.2 ∧ due t (.publishReserve k id)) ∧
      (∀ n, x.dest = .tileReg n → ∃ t, exec .shadowFilled s = .next t ∧ OnlyCoreJobs k s t ∧ due t (.stepComplete k id) ∧
        (∀ a, a < 32768 * n.val ∨ 32768 * (n.val + 1) ≤ a → Memory.get (t.core k).tiles a = Memory.get (s.core k).tiles a) ∧
        ∀ r c, r < 128 → c < 128 → leNat (Memory.load (t.core k).tiles (32768 * n.val + 256 * r + 2 * c) 2) =
          ((x.elems.1[r]?).bind (fun row => row[c]?)).getD 0 % 2 ^ 16) ∧
      (∀ n cells, x.dest = .mailbox n → (s.mbox n).writable (s.core k).part = true → (s.mbox n).room x.bytes = true →
        s.packetCells (s.mbox n) x.got = .ok cells → s.linesSay k (some x.id) (linesOf cells) = .free → let m := s.mbox n
        ∃ t, exec .shadowFilled s = .next t ∧ due t (.stepComplete k id) ∧
        (∀ a, (∀ c ∈ cells, c.1 ≠ a) → Memory.get t.mem a = Memory.get s.mem a) ∧
        (∀ a y, cells.reverse.lookup a = some y →
          (region a ≠ 1 ∨ ∀ c ∈ cells, region c.1 = 1 → c.1 % 2 ^ 40 = a % 2 ^ 40 → c.1 = a) → t.physLoad a 1 = [y]) ∧
        ((t.mbox n).wo, (t.mbox n).wl) =
          (if m.skip x.bytes = 0 then advanceOff m.wo m.wl m.area.toNat x.bytes
           else advanceOff (advanceOff m.wo m.wl m.area.toNat (m.skip x.bytes)).1
             (advanceOff m.wo m.wl m.area.toNat (m.skip x.bytes)).2 m.area.toNat x.bytes)) ∧
      (∀ n, x.dest = .mailbox n → (s.mbox n).writable (s.core k).part = true → (s.mbox n).room x.bytes = false →
        exec .shadowFilled s = .next (s.atTick who (s.tickOf k + 1) (.shadowFilled k x.id))) ∧
      (∀ n, x.dest = .mailbox n → (s.mbox n).writable (s.core k).part = false → ∃ t y, exec .shadowFilled s = .next t ∧
        OnlyCoreJobs k s t ∧ y ∈ (t.core k).xfr.steps ∧ y.id = id ∧
        y.bad = x.bad ++ [{ at_ := s.tickOf k, walk := 0, sector := 0, cause := 0x09, why := 0, acc := 1, addr := 0 }]) ∧
      (x.dest = .scaleQueue → ∃ t, exec .shadowFilled s = .next t ∧ OnlyCoreJobs k s t ∧
        (t.core k).scaleQ = (s.core k).scaleQ ++ x.got ∧ due t (.stepComplete k id)) ∧
      (∀ n, x.dest = .shapeSlot n → slotLegal (BitVec.ofNat 512 (leNat x.got)) = true → ∃ t, exec .shadowFilled s = .next t ∧
        OnlyCoreJobs k s t ∧ due t (.stepComplete k id) ∧
        ∀ m, vget (t.core k).sh m = if m = n then BitVec.ofNat 512 (leNat x.got) else vget (s.core k).sh m)) ∧
    (s.ev = .scratchpadPublish k id → x.bad ≠ [] → exec .scratchpadPublish s = .next s) ∧
    (s.ev = .scratchpadPublish k id → x.stage = .filled → x.dfr = false → x.bad = [] → ∀ a b tile, x.dst = .spad a → x.dest = .spad b tile →
      (tile.isSome = true → x.claimed = true) →
      ((s.core k).landingIn x = true → ∃ t, exec .scratchpadPublish s = .next t ∧
        t = { s with timers := s.timers ++ [{ clock := some (s.core k).part, due := s.tickOf k + 1, who := who,
                                              ev := .scratchpadPublish k id }] }) ∧
      ((s.core k).landingIn x = false → ∃ t, exec .scratchpadPublish s = .next t ∧ OnlyCoreJobs k s t ∧
        (t.core k).scratch = (s.core k).scratch ∧
        (t.core k).spBuf = (s.core k).spBuf ++ [(Engine.transfer.rank, a, x.result.1)] ∧
        (∀ u, vget (t.core k).tt u = (if tile = some u then { vget (s.core k).tt u with st := .ready }
          else vget (s.core k).tt u)) ∧ due t (.stepComplete k id))) ∧
    (s.ev = .publishReserve k id → x.bad ≠ [] → exec .publishReserve s = .next s) ∧
    (s.ev = .publishReserve k id → x.stage = .filled ∨ x.stage = .reserving → x.bad = [] → (s.core k).run = .running →
      (∀ y ∈ (s.core k).members x, (s.core k).landingIn y = false) →
      let ls := s.publishLines k x
      let open_ (l : Nat) : Prop := (s.line l).pinnedAgainst k = false ∧ ((s.line l).resv = none ∨ (s.line l).resv = some (k, id))
      let held (t : State) (done : List Nat) (n : Nat) : Prop := SameMems s t ∧ (∀ l ∈ done, (t.line l).resv = some (k, id)) ∧
        (∀ l, l ∉ done → t.line l = s.line l) ∧
        { clock := some (s.core k).part, due := s.tickOf k + n, who := who, ev := .publishReserve k id } ∈ t.timers
      ((∀ l ∈ ls, open_ l) → s.flitHome k x = none → ∃ t, exec .publishReserve s = .next t ∧ SameMems s t ∧
        (∀ l ∈ ls, (t.line l).resv = some (k, id)) ∧ due t (.publishCommit k id)) ∧
      (∀ done l rest, ls = done ++ l :: rest → (∀ j ∈ done, open_ j) → (s.line l).pinnedAgainst k = true →
        ∃ t, exec .publishReserve s = .next t ∧ held t done 16) ∧
      (∀ done l rest, ls = done ++ l :: rest → (∀ j ∈ done, open_ j) → (s.line l).pinnedAgainst k = false → ¬ open_ l →
        ∃ t, exec .publishReserve s = .next t ∧ held t done 1)) ∧
    (s.ev = .publishCommit k id → x.stage = .reserving →
      let cells := ((s.core k).members x).flatMap XStep.lineCells
      ∃ t, exec .publishCommit s = .next t ∧
        (∀ a, (∀ c ∈ cells, c.1 ≠ a) → Memory.get t.mem a = Memory.get s.mem a) ∧
        (∀ a b, cells.reverse.find? (fun c => c.1 == a) = some (a, b) → region a ≠ 1 → Memory.get t.mem a = b) ∧
        (∀ l ∈ linesOf cells, (t.line l).resv = none) ∧
        (x.isPub = false → x.windowed = false → s.flitHome k x = none → due t (.stepComplete k id))) ∧
    (s.ev = .stepComplete k id → (s.core k).run = .running →
      ∃ t, exec .stepComplete s = .next t ∧ OnlyCoreJobs k s t ∧ SameMems s t ∧ (∀ y ∈ (t.core k).xfr.steps, y.id ≠ id) ∧
        (∀ y, y.id ≠ id → (y ∈ (t.core k).xfr.steps ↔ y ∈ (s.core k).xfr.steps)) ∧
        let a := (s.core k).task x.slot
        let b := (t.core k).task x.slot
        b.fflags = a.fflags ||| x.flags ∧ b.g = a.g ∧ b.pc = a.pc ∧ x.stamp ≤ b.doneStamp ∧
        (∀ n, x.tok = some n → vget b.pend n = vget a.pend n - 1 ∧ x.stamp ≤ vget b.tokStamp n ∧
          (vget a.pend n = 1 → b.tokens.getLsbD n.val = true)) ∧
        (∀ n : Tok, x.tok ≠ some n → vget b.pend n = vget a.pend n ∧ b.tokens.getLsbD n.val = a.tokens.getLsbD n.val) ∧
        (∀ u, x.source = some u → x.drain = true → vget (t.core k).tt u = { vget (s.core k).tt u with st := .empty } ∧
          due t (.tileClaim k u)))

/-- The other events of steps in flight (R209, R214, R216, R217, R318, R329): XRED_LINE_APPLY, TILE_CLAIM,
MULTICAST_LANDING, PORT_WINDOW_COMMIT, SECTOR_PAGE_FAULT, STEP_RESUME and PICKER_ROW_DELIVERY. A reduction is applied to the elements
of its line and to no other byte; a landing waits for what the matrix engine has still to write there, puts the pieces whose granules
are not in use, and with the last target the multicast completes, or fails with 0x0D at the first piece dropped; the peer's answer
completes a window's step, in fixed-latency mode no earlier than its padded time, or fails it with 0x09, whose record names no address
and why 0 (DEDUCED, log 62); a page fault parks its step, which then goes on where it stood; an empty tile goes to its oldest queued
fill; a delivered row goes to its bag or its step, and one whose bag is gone nowhere.
Completes (exec answers a next state): `xredLineApply`, `multicastLanding`, `portWindowCommit`, `sectorPageFault`,
`stepResume`, `tileClaim`, `pickerRowDelivery`. -/
def Obligations.StepEvents : Prop :=
  ∀ (s : State) (k id : Nat),
    let who := engAt k .transfer
    (∀ x, (s.core k).xstep? id = some x →
      (∀ (l : Nat) (op : RedOp) (sg : Bool), s.ev = .xredLineApply k id l → x.dest = .reduce op sg → l ∈ x.lines →
        (s.line l).pinnedAgainst k = false → (s.line l).resv = none → region (64 * l) ≠ 1 →
        (∀ e ∈ x.redElems, lineOf e.1 = l → e.1 % 4 = 0) →
        ∃ t, exec .xredLineApply s = .next t ∧ SameBytesOutside (64 * l) 64 s t ∧
          ∀ e, x.redElems.filter (fun e => lineOf e.1 == l) = [e] → e.2 < 2 ^ 32 →
            let old := leNat (Memory.load s.mem e.1 4)
            let int (v : Nat) : Int := if sg = true ∧ 2 ^ 31 ≤ v then v - 2 ^ 32 else v
            leNat (Memory.load t.mem e.1 4) = match op with
              | .add => (old + e.2) % 2 ^ 32
              | .fadd => fadd32 old e.2 % 2 ^ 32
              | .max => if int old < int e.2 then e.2 else old
              | .min => if int e.2 < int old then e.2 else old) ∧
      (∀ (c a : Nat), s.ev = .multicastLanding k id c → (s.core c).run = .running → x.src = .spad a →
        (s.core c).writesIn a x.got.length = true →
        exec .multicastLanding s = .next (s.atTick who (s.tickOf k + 1) (.multicastLanding k id c))) ∧
      (∀ (c a : Nat), s.ev = .multicastLanding k id c → (s.core c).run = .running → x.src = .spad a → x.waiting = [c] →
        (s.core c).writesIn a x.got.length = false → x.dropped = none →
        let used (j : Nat) : Prop := (s.core c).granuleUsed (a + 256 * j) = true
        let n := (pieces 256 x.got).length
        ∃ t, exec .multicastLanding s = .next t ∧ SameMems s t ∧
          (∀ p ∈ (pieces 256 x.got).zipIdx, (s.core c).granuleUsed (a + 256 * p.2) = false →
            (Engine.transfer.rank, a + 256 * p.2, p.1) ∈ (t.core c).spBuf) ∧
          ((∀ j, j < n → ¬ used j) → t.agenda = .event who (.stepComplete k id) :: s.agenda) ∧
          (∀ j, j < n → used j → (∀ i, i < j → ¬ used i) → t.agenda = s.agenda ∧
            ∃ y ∈ (t.core k).xfr.steps, y.id = id ∧
              y.bad = x.bad ++ [{ at_ := s.tickOf k, walk := 0, sector := 0, cause := 0x0D, why := 0, acc := 1,
                                  addr := (a + 256 * j) % 2 ^ 21 }])) ∧
      (∀ (c a : Nat), s.ev = .multicastLanding k id c → (s.core c).run = .running → x.src = .spad a → x.waiting ≠ [c] →
        (s.core c).writesIn a x.got.length = false → c ∈ x.waiting → x.waiting.Nodup → ∃ t y, exec .multicastLanding s = .next t ∧ SameMems s t ∧
          y ∈ (t.core k).xfr.steps ∧ y.id = id ∧ y.waiting = x.waiting.erase c ∧
          ∀ p ∈ (pieces 256 x.got).zipIdx, (s.core c).granuleUsed (a + 256 * p.2) = false →
            (Engine.transfer.rank, a + 256 * p.2, p.1) ∈ (t.core c).spBuf) ∧
      (∀ ok, s.ev = .portWindowCommit k id ok → x.stage = .committed → x.windowed = true →
        let answered (t : State) : Prop := ∀ e ∈ t.links, ∀ w ∈ e.2.posted, w.core = k → w.step ≠ id
        (ok = false → ∃ t y, exec .portWindowCommit s = .next t ∧ SameMems s t ∧ answered t ∧
          t = { s with links := t.links, cores := t.cores } ∧ y ∈ (t.core k).xfr.steps ∧ y.id = id ∧
          y = { x with bad := x.bad ++ [{ at_ := s.tickOf k, walk := 0, sector := 0, cause := 0x09, why := 0, acc := 1,
                                          addr := 0 }] }) ∧
        let fl := (s.part (s.core k).part).fl
        (ok = true → fl = false ∨ x.done ≤ s.tickOf k → ∃ t, exec .portWindowCommit s = .next t ∧ answered t ∧
          t = { s with links := t.links, agenda := .event who (.stepComplete k id) :: s.agenda }) ∧
        (ok = true → fl = true → s.tickOf k < x.done → ∃ t, exec .portWindowCommit s = .next t ∧ answered t ∧
          t = { s with links := t.links, timers := s.timers ++ [{ clock := some (s.core k).part, due := x.done, who := who,
                                                                  ev := .stepComplete k id }] })) ∧
      (∀ b, s.ev = .sectorPageFault k id → x.stage = .working → x.dueBad (s.tickOf k) = some b → b.cause = 0x08 →
        x.isGather = false → ((s.core k).task x.slot).trapMode = false → ((s.core k).task x.slot).occupied = true →
        ((s.core k).task x.slot).ended = false →
        (s.part (s.core k).part).hasRoom 0 = true → ∃ t y q, exec .sectorPageFault s = .next t ∧ SameMems s t ∧
          y ∈ (t.core k).xfr.steps ∧ y.id = id ∧ y.stage = .parked ∧ y.parkedAt = s.tickOf k ∧
          (t.part (s.core k).part).records = (s.part (s.core k).part).records ++ [q] ∧ q.cause = 0x08 ∧ q.unit = 3 ∧
          q.res = true ∧ q.addr = BitVec.ofNat 64 b.addr ∧ q.loc = BitVec.ofNat 48 x.upc.toNat) ∧
      (s.ev = .stepResume k id → x.stage = .parked → x.targets = [] → ∃ t y, exec .stepResume s = .next t ∧
        OnlyCoreJobs k s t ∧ y ∈ (t.core k).xfr.steps ∧ y.id = id ∧ y.stage = .working ∧ y.bad = [] ∧
        y.waited = x.waited + (s.tickOf k - x.parkedAt) ∧ y.parts = x.parts ∧ y.sector = x.sector)) ∧
    (∀ (u : TtReg) (x : XStep), s.ev = .tileClaim k u → (vget (s.core k).tt u).st = .empty →
      (s.core k).oldestFill u = some x → ∃ t, exec .tileClaim s = .next t ∧ OnlyCoreJobs k s t ∧
        vget (t.core k).tt u = { vget (s.core k).tt u with st := .filling, fq := (vget (s.core k).tt u).fq - 1 } ∧
        ∃ y ∈ (t.core k).xfr.steps, y.id = x.id ∧ y.claimed = true) ∧
    (∀ r, s.ev = .pickerRowDelivery k id → (s.die (dieOf k)).rows.find? (fun r => r.id == id) = some r →
      (r.gone = true → exec .pickerRowDelivery s = .next (s.setDie (dieOf k) { s.die (dieOf k) with
        rows := (s.die (dieOf k)).rows.filter (fun y => y.id != id) })) ∧
      (r.gone = false → r.step = none → ∃ t, exec .pickerRowDelivery s = .next t ∧ (∀ y ∈ (t.die (dieOf k)).rows, y.id ≠ id) ∧
        t.agenda = .event (engAt k .matrix) (.bagRowArrival k r.pos r.res) :: s.agenda) ∧
      (∀ n x bs, r.gone = false → r.step = some n → (s.core k).xstep? n = some x → r.res = .bytes bs → (∀ b ∈ x.bad, b.sector ≠ r.pos) →
        ∃ t y, exec .pickerRowDelivery s = .next t ∧ SameMems s t ∧ (∀ z ∈ (t.die (dieOf k)).rows, z.id ≠ id) ∧
          y ∈ (t.core k).xfr.steps ∧ y.id = n ∧ Tbl.get? y.parts r.pos = some bs ∧ y.sector = x.sector + 1))

/-! ## The walker -/

/-- The walker words that compute and branch (R219, R220, R222 to R225): a word waits for its sources; then `w[d]` takes the
rule's value and the run moves on; a taken branch goes to its target, or faults with 0x04 and writes nothing when the target
lies below 0 or beyond the end of the run. No flag, no other register and no byte of scratchpad or memory changes.
Completes (exec answers a next state): `wli`, `wliHi`, `wliVp`, `wadd`, `wsub`, `wmul`, `wand`, `wor`, `wshl`, `wshr`,
`wmin`, `wbit`, `wloop`, `wnext`, `wskip`. -/
def Obligations.WalkerResults : Prop :=
  ∀ s : State,
    let next_ := (s.run .walker).upc + 1
    (∀ (i : Instr) (rs : List WReg) (d : WReg) (v : Word64) (lat : Nat), walkResult s i = some (rs, d, v, lat) →
      (¬ walkReady s rs → exec i s = .next s) ∧
      (walkReady s rs → ∃ t, exec i s = .next t ∧ WalkDone s t next_ id d v lat)) ∧
    (∀ off : BitVec 15,
      let goal : Int := (s.run .walker).upc.toNat + off.toInt
      let out := goal < 0 ∨ (s.run .walker).endOff.toNat < goal
      let bad := s.engFault .walker 0x04 0 0 0
      let there := BitVec.ofInt 24 goal
      (∀ a : WReg, walkReady s [a] →
        let x := s.me.wlk.reg a
        (x = 0 → ∃ t, exec (.wloop a off) s = .next t ∧ WalkDone s t next_ id 0 0 1) ∧
        (x = 1 → ∃ t, exec (.wloop a off) s = .next t ∧ WalkDone s t next_ id a 0 1) ∧
        (1 < uv x → out → exec (.wloop a off) s = .next bad) ∧
        (1 < uv x → ¬ out → ∃ t, exec (.wloop a off) s = .next t ∧ WalkDone s t there id a (x - 1) 1)) ∧
      (∀ d a : WReg, walkReady s [d, a] →
        let x := s.me.wlk.reg d + 1
        let now (r : WReg) : Word64 := if r = d ∧ d ≠ 0 then x else s.me.wlk.reg r
        let again := uv (now d) < uv (now a)
        (¬ again → ∃ t, exec (.wnext d a off) s = .next t ∧ WalkDone s t next_ id d x 1) ∧
        (again → out → exec (.wnext d a off) s = .next bad) ∧
        (again → ¬ out → ∃ t, exec (.wnext d a off) s = .next t ∧ WalkDone s t there id d x 1)) ∧
      (∀ (c : WCond) (a b : WReg), walkReady s [a, b] →
        let x := s.me.wlk.reg a
        let y := s.me.wlk.reg b
        let holds : Prop := match c with
          | .eq => x = y
          | .ne => x ≠ y
          | .lt => sv x < sv y
          | .ge => sv y ≤ sv x
          | .ltn => uv x < uv y
          | .gen => uv y ≤ uv x
        (¬ holds → ∃ t, exec (.wskip c a b off) s = .next t ∧ WalkDone s t next_ id 0 0 1) ∧
        (holds → out → exec (.wskip c a b off) s = .next bad) ∧
        (holds → ¬ out → ∃ t, exec (.wskip c a b off) s = .next t ∧ WalkDone s t there id 0 0 1)))

/-- The walker's scratchpad accesses (R226 to R229): `wld` reads n bytes zero-extended, `wemit.w` stores 8 bytes, and
`wmove` moves u·n bytes as they were before it, ⌈n/64⌉ ticks long; a failing check is fault 0x0A or 0x07, and moves no
byte. That `wmove` reads and writes all its bytes in its issue tick is the model's reading (DEDUCED, log 95): R228 gives the ticks
that it occupies.
Completes (exec answers a next state): `wld`, `wemitW`, `wmove`. -/
def Obligations.WalkerScratchpad : Prop :=
  ∀ s : State,
    let w := s.me.wlk.reg
    let next_ := (s.run .walker).upc + 1
    let fault (i : Instr) (c : Nat) : Prop := exec i s = .next (s.engFault .walker c 0 0 0)
    (∀ (sz : WSize) (d a : WReg) (imm : BitVec 15), walkReady s [a] → let n := sz.bytes
      (∀ c, walkCause s (w a) imm.toInt n n = some c → fault (.wld sz d a imm) c) ∧
      (∀ p o, WalkAt s (w a) imm.toInt n n p o → ∃ t, exec (.wld sz d a imm) s = .next t ∧
        WalkDone s t next_ (fun c => c.holdTile p s.tick) d
          (BitVec.ofNat 64 (leNat (Memory.load s.me.scratch (p.byte o) n))) 2)) ∧
    (∀ (a b : WReg) (imm : BitVec 15), walkReady s [a, b] →
      (∀ c, walkCause s (w b) imm.toInt 8 8 = some c → fault (.wemitW a b imm) c) ∧
      (∀ p o, WalkAt s (w b) imm.toInt 8 8 p o → ∃ t, exec (.wemitW a b imm) s = .next t ∧
        WalkStep s t next_ 1 (fun c => { c.holdTile p s.tick with
          spBuf := c.spBuf ++ [(Engine.walker.rank, p.byte o, leBytes 8 (w a).toNat)] }))) ∧
    (∀ (sz : WSize) (d a b : WReg), walkReady s [d, a, b] →
      let n := uv (w b) * sz.bytes
      let ticks := Nat.max 1 ((n + 63) / 64)
      (n = 0 → ∃ t, exec (.wmove sz d a b) s = .next t ∧ WalkStep s t next_ 1 id) ∧
      (131072 < n → fault (.wmove sz d a b) 0x0A) ∧
      (n ≠ 0 → n ≤ 131072 → ∀ c, walkCause s (w a) 0 sz.bytes n = some c → walkCause s (w d) 0 sz.bytes n = none →
        fault (.wmove sz d a b) c) ∧
      (n ≠ 0 → n ≤ 131072 → ∀ c, walkCause s (w a) 0 sz.bytes n = none → walkCause s (w d) 0 sz.bytes n = some c →
        fault (.wmove sz d a b) c) ∧
      (n ≠ 0 → n ≤ 131072 → ∀ c c', walkCause s (w a) 0 sz.bytes n = some c → walkCause s (w d) 0 sz.bytes n = some c' →
        fault (.wmove sz d a b) (if c = 0x07 ∨ c' = 0x07 then 0x07 else c)) ∧
      (n ≠ 0 → n ≤ 131072 → ∀ p o q o', WalkAt s (w a) 0 sz.bytes n p o → WalkAt s (w d) 0 sz.bytes n q o' →
        ∃ t, exec (.wmove sz d a b) s = .next t ∧
          WalkStep s t next_ ticks (fun c => { (c.holdTile p (s.tick + ticks - 1)).holdTile q (s.tick + ticks - 1) with
            spBuf := c.spBuf ++ [(Engine.walker.rank, q.byte o', Memory.load s.me.scratch (p.byte o) n)] })))

/-- Rows, lists, gathers and the end of a walker run (R231 to R233, R235 to R237): `wtile`, `wemit.e`, `wrow`, `wpos`,
`wemit.l`, `wgo` and `wexit`, each with its fault 0x12, 0x11, 0x0A, 0x07 or 0x0B. The model's, and no rule's: `wexit` sets its token in its issue tick (DEDUCED,
log 91), `wgo`'s gather takes a row size of 0 as 0x0A (DEDUCED, log 88), orders its checks as every gather does (DESIGN CHOICE,
log 126) and records the addresses of log 87 (DEDUCED).
Completes (exec answers a next state): `wtile`, `wemitE`, `wrow`, `wpos`, `wemitL`, `wgo`, `wexit`. -/
def Obligations.WalkerEmits : Prop :=
  ∀ s : State,
    let u := s.me.wlk
    let w := u.reg
    let next_ := (s.run .walker).upc + 1
    let fault (i : Instr) (c : Nat) : Prop := exec i s = .next (s.engFault .walker c 0 0 0)
    (∀ a : WReg, walkReady s [a] → let x := (w a).toNat
      let ok := 2 ≤ x % 16 ∧ x % 16 ≤ 5 ∧ x < 2 ^ 13
      (¬ ok → fault (.wtile a) 0x12) ∧
      (ok → ∃ t f, exec (.wtile a) s = .next t ∧
        WalkStep s t next_ 1 (fun c => { c with wlk := { u with frame := some f, buf := [] } }) ∧
        f.fmt.toNat = x % 16 ∧ f.cols = x / 16 % 128 + 1 ∧ f.q.val = x / 2 ^ 11)) ∧
    (∀ (a b : WReg) (imm : BitVec 15), walkReady s [a, b] →
      let col := uv (BitVec.ofInt 64 (sv (w b) + imm.toInt))
      (u.frame = none → fault (.wemitE a b imm) 0x12) ∧
      (∀ f, u.frame = some f → f.cols ≤ col → fault (.wemitE a b imm) 0x12) ∧
      (∀ f, u.frame = some f → col < f.cols → ∃ t buf, exec (.wemitE a b imm) s = .next t ∧
        WalkStep s t next_ 1 (fun c => { c with wlk := { u with buf := buf } }) ∧
        ∀ j, Tbl.get? buf j = if j = col then some (BitVec.ofNat 16 (uv (w a) % 2 ^ f.elem.bits)) else Tbl.get? u.buf j)) ∧
    (∀ (a : WReg) (imm : BitVec 15), walkReady s [a] →
      (u.frame = none → fault (.wrow a imm) 0x12) ∧
      (∀ f, u.frame = some f → (vget s.me.qbind f.q).toNat / 2 ^ 16 % 4 ≠ 2 → fault (.wrow a imm) 0x11) ∧
      (∀ f, u.frame = some f → (vget s.me.qbind f.q).toNat / 2 ^ 16 % 4 = 2 →
        (64 ≤ s.queued s.cur.core f.q → exec (.wrow a imm) s = .next s) ∧
        (s.queued s.cur.core f.q < 64 → ∃ t row pres, exec (.wrow a imm) s = .next t ∧
          WalkStep s t next_ 1 (fun c => { c with iq := vset c.iq f.q (vget c.iq f.q ++ [row]), wlk := { u with buf := [] } }) ∧
          row.tag = BitVec.ofInt 16 (sv (w a) + imm.toInt) ∧ row.carder = some (f.fmt, f.cols, pres) ∧
          (∀ j, j < 128 → (pres.getLsbD j = true ↔ (Tbl.get? u.buf j).isSome = true)) ∧
          (f.fmt.toNat = 2 ∨ f.fmt.toNat = 3 → ∀ j, j < f.cols →
            leNat ((row.bytes.drop (2 * j)).take 2) = (Tbl.getD u.buf j 0).toNat)))) ∧
    (∀ (kind : ListKind) (a b : WReg), walkReady s [a, b] → let n := uv (w b)
      (n < 1 ∨ 4096 < n → fault (.wpos kind a b) 0x12) ∧
      (1 ≤ n → n ≤ 4096 → ∀ c, walkCause s (w a) 0 kind.size (n * kind.size) = some c → fault (.wpos kind a b) c) ∧
      (1 ≤ n → n ≤ 4096 → walkCause s (w a) 0 kind.size (n * kind.size) = none → ∀ x, wAddr? (w a) = some x →
        let say := s.me.tileSay (s.me.placeOf x)
        (say = .fault → fault (.wpos kind a b) 0x0B) ∧ (say = .wait → exec (.wpos kind a b) s = .next s) ∧
        (say = .go → ∃ t, exec (.wpos kind a b) s = .next t ∧ WalkStep s t next_ 1 (fun c =>
          { c with wlk := { u with list := some { addr := x, cap := n, cnt := 0, kind := kind } } })))) ∧
    (∀ a b : WReg, walkReady s [a, b] →
      (u.list = none → fault (.wemitL a b) 0x12) ∧
      (∀ l, u.list = some l → l.cap ≤ l.cnt → fault (.wemitL a b) 0x12) ∧
      (∀ l p o, u.list = some l → l.cnt < l.cap →
        WalkAt s l.addr.toWord (l.cnt * l.kind.size : Nat) l.kind.size l.kind.size p o → ∃ t bs,
          exec (.wemitL a b) s = .next t ∧ WalkStep s t next_ 1 (fun c => { c.holdTile p s.tick with
            spBuf := c.spBuf ++ [(Engine.walker.rank, p.byte o, bs)],
            wlk := { u with list := some { l with cnt := l.cnt + 1 } } }) ∧ bs.length = l.kind.size ∧
          leNat bs = match l.kind with
            | .idx => uv (w a) % 2 ^ 32
            | .bag => uv (w a) % 2 ^ 32 + uv (w b) % 2 ^ 16 * 2 ^ 32 + uv (w b) / 2 ^ 16 % 2 ^ 10 * 2 ^ 48)) ∧
    (∀ (a : WReg) (sl : ShReg) (kv : Bool) (k : Tok), walkReady s [a] →
      (u.list = none → fault (.wgo a sl kv k) 0x12) ∧
      (∀ l, u.list = some l → l.kind = .bag ∨ l.cnt = 0 → fault (.wgo a sl kv k) 0x12) ∧
      (∀ l, u.list = some l → l.kind = .idx → l.cnt ≠ 0 →
        (wAddr? (w a) = none → fault (.wgo a sl kv k) 0x0A) ∧
        (∀ dst, wAddr? (w a) = some dst → s.me.slotBusy sl = false →
          let p := s.me.placeOf l.addr
          let q := s.me.placeOf dst
          let g := gatherAsk s sl p l.cnt q
          tileWaits s p false = false → tileQueued s q = false →
          (∀ b, g.bad.find? (fun b => b.1) = some b →
            exec (.wgo a sl kv k) s = .next (s.engFault .walker b.2.1 0 0 b.2.2)) ∧
          (g.bad.find? (fun b => b.1) = none → stepFits s .walker kv k g.bytes = true → ∃ t x,
            exec (.wgo a sl kv k) s = .next t ∧ StepEnters .walker s t 1 { k := k, kv := kv, wm := 0 } x ∧
            x.bytes = g.bytes ∧ gatherStep s sl g q l.cnt x ∧ x.dfr = false ∧
            t.me.wlk = { u with list := some { l with cnt := 0 } })))) ∧
    (∀ (kv : Bool) (k : Tok), let i := (s.run .walker).owner
      (kv = true → vget (s.me.task i).pend k ≠ 0xFF) → ∃ t, exec (.wexit kv k) s = .next t ∧ OnlyCore s.cur.core s t ∧
        t.me.runOf .walker = { s.run .walker with upc := next_, nextAt := s.tick + 1, ending := true } ∧
        t.me.wlk = u ∧ t.me.scratch = s.me.scratch ∧ (t.me.task i).fflags = (s.me.task i).fflags ∧
        (t.me.task i).g = (s.me.task i).g ∧
        (kv = true → vget (s.me.task i).pend k = 0 → (t.me.task i).tokens.getLsbD k.val = true) ∧
        ∀ j : Tok, (kv = false ∨ j ≠ k) → (t.me.task i).tokens.getLsbD j.val = (s.me.task i).tokens.getLsbD j.val)

/-! ## Tasks, mailboxes and partitions -/

/-- Tasks start, resume and end, and mailboxes are served (R62, R130, R154, R219, R292, R293, R296 to R301, R330, R336, R337).
RUN_END makes its run inactive, with the vector masks, `sg`, `rb` and loop, or the walker's frame, buffer and list, cleared;
TIMED_LAUNCH_START ends a launch's wait; LAUNCH_QUEUE_ACCEPT starts the first launch of the queue in the lowest free slot;
PACKET_PARSE stops its mailbox with 0x60, 0x61 or 0x62, or moves `ro` on and gives every target its launch; DOORBELL moves `wo`;
TASK_RESUME goes on at a handler, at the word or after it; TASK_END frees the slot; FAULT_RECORD_REMOVE takes the oldest record;
HELD_DELIVERY delivers at a running core what the core would have taken: a launch, a `sev`, a barrier request, a multicast landing, a
queue row. The model's readings: which doorbells are dropped (DEDUCED, log 61), the stamp of a doorbell (DEDUCED, log 119), a byte of
a packet that no page maps as 0 (DEDUCED, log 34), and a task's end waiting for the lines of its stores (DEDUCED, log 33).
Completes (exec answers a next state): `runEnd`, `timedLaunchStart`, `launchQueueAccept`, `packetParse`, `doorbell`,
`taskResume`, `taskEnd`, `faultRecordRemove`, `heldDelivery`. -/
def Obligations.TasksScheduled : Prop :=
  ∀ s : State,
    (∀ (k : Nat) (e : Engine), s.ev = .runEnd k e → ∃ t, exec .runEnd s = .next t ∧ OnlyCoreJobs k s t ∧ SameMems s t ∧
      (t.core k).runOf e = { (s.core k).runOf e with active := false, ending := false, halted := none, orphan := false } ∧
      (∀ f, f ≠ e → (t.core k).runOf f = (s.core k).runOf f) ∧ (t.core k).scratch = (s.core k).scratch ∧
      (e = .vector → (t.core k).vec = { (s.core k).vec with masks := [], sg := 0xFF, rb := 0, loop := none }) ∧
      (e = .walker → (t.core k).wlk = { (s.core k).wlk with frame := none, buf := [], list := none })) ∧
    (∀ r : TaskRef, s.ev = .timedLaunchStart r → (s.taskOf r).hold = .launch →
      ∃ t, exec .timedLaunchStart s = .next t ∧ OnlyTask r s t ∧ t.taskOf r = { s.taskOf r with hold := .none }) ∧
    (∀ (k : Nat) (i : Fin 4) (l : Launch) (rest : List Launch), s.ev = .launchQueueAccept k → (s.core k).run = .running →
      (s.core k).launchQ = l :: rest → ((s.core k).task i).occupied = false →
      (∀ j, j < i → ((s.core k).task j).occupied = true) →
      ∃ t, exec .launchQueueAccept s = .next t ∧ SameMems s t ∧ (t.core k).task i = launchSlot l (s.tickOf k)) ∧
    (∀ m : Nat, s.ev = .packetParse m →
      let b := s.mbox m
      let p := b.part.toNat
      let va := b.base.toNat + b.ro.toNat
      let h := leNat (s.partRead p va 8)
      let kind := h % 256
      let op := h / 2 ^ 8 % 256
      let len := h / 2 ^ 16 % 64
      let pad := h / 2 ^ 24 % 16
      let timed := h / 2 ^ 28 % 2 = 1
      let bad60 := (kind ≠ 1 ∧ kind ≠ 2) ∨ h / 2 ^ 22 % 4 ≠ 0 ∨ h / 2 ^ 29 % 8 ≠ 0 ∨ len < 1 ∨ 32 < len ∨
        (pad ≠ 0 ∧ (len = 1 ∨ kind = 2)) ∨ b.unparsed < len * 16 ∨ (timed ∧ (len - 1) * 16 - pad < 8)
      let bad61 := op ≠ 0 ∧ ¬ (kind = 1 ∧ op = 1)
      let bad62 := b.area.toNat < b.ro.toNat + len * 16
      let stops (cause : Nat) : Prop := ∃ t, exec .packetParse s = .next t ∧ SameMems s t ∧
        t.mbox m = { b with st := 2, cause := BitVec.ofNat 8 cause } ∧
        t.endpoint.notices = s.endpoint.notices ++ [.mailboxStopped m cause]
      (bad60 → stops 0x60) ∧ (¬ bad60 → bad61 → stops 0x61) ∧ (¬ bad60 → ¬ bad61 → bad62 → stops 0x62) ∧
      (¬ bad60 → ¬ bad61 → ¬ bad62 → ∃ t, exec .packetParse s = .next t ∧ SameMems s t ∧
        (t.mbox m).ro.toNat = (b.ro.toNat + 16 * len) % b.area.toNat ∧
        (kind = 1 → op = 0 → b.targets ≠ [] → ∃ pk ∈ (t.mbox m).pkts, pk.off = b.ro.toNat ∧ pk.len = 16 * len ∧
          pk.left = b.targets.length ∧ pk.toLaunch.map (fun x => x.1) = b.targets ∧
          ∀ x ∈ pk.toLaunch, x.2.pc = BitVec.ofNat 64 b.entry.toNat ∧ x.2.mbox = m ∧
            x.2.g = [0, BitVec.ofNat 64 (leNat (s.partRead p (va + 8) 8)), BitVec.ofNat 64 va,
              BitVec.ofNat 64 ((len - 1) * 16 - pad), BitVec.ofNat 64 m]))) ∧
    (∀ off : Nat, s.ev = .doorbell off none → s.endpoint.queue = [] →
      exec .doorbell s = .next (s.notify (.hostData (zeroBytes 8)))) ∧
    (∀ (off : Nat) (v : Word64), s.ev = .doorbell off v → s.endpoint.queue = [] →
      (s.doorbellDropped off v = true → exec .doorbell s =
        .next { s with endpoint := { s.endpoint with dropped := s.endpoint.dropped + 1 } }) ∧
      (s.doorbellDropped off v = false → ∃ t, exec .doorbell s = .next t ∧ t = { s with mboxes := t.mboxes } ∧
        t.mbox (off / 16) = { s.mbox (off / 16) with
          wo := v.extractLsb' 0 25, wl := v.getLsbD 25, stamp := Nat.max (s.mbox (off / 16)).stamp s.endpoint.ts,
          wrote := (t.mbox (off / 16)).wrote } ∧
        ∀ m, m ≠ off / 16 → t.mbox m = s.mbox m)) ∧
    (∀ (r : TaskRef) (cause : Nat), (s.taskOf r).hold = .stopped cause → (s.taskOf r).pendRecs = [] → r.core < 2048 →
      let back := if cause = 0x20 then (s.taskOf r).pc + 4 else (s.taskOf r).pc
      (∀ pc : Word64, s.ev = .taskResume r (.handler pc) → ∃ t, exec .taskResume s = .next t ∧ OnlyTask r s t ∧
        t.taskOf r = { s.taskOf r with hold := .none, readyAt := s.tickOf r.core, pc := pc, trapMode := true,
                                       epc := BitVec.ofNat 48 back.toNat }) ∧
      (s.ev = .taskResume r .retry → cause ≠ 0x20 → ∃ t, exec .taskResume s = .next t ∧ OnlyTask r s t ∧
        t.taskOf r = { s.taskOf r with hold := .none, readyAt := s.tickOf r.core }) ∧
      (s.ev = .taskResume r .next → cause = 0x20 → ∃ t, exec .taskResume s = .next t ∧ OnlyTask r s t ∧
        t.taskOf r = { s.taskOf r with hold := .none, readyAt := s.tickOf r.core, pc := back }) ∧
      (s.ev = .taskEnd r → s.wordSay r (s.joinLines r) = .free →
        ∃ t, exec .taskEnd s = .next t ∧ t.taskOf r = Slot.launchState ∧ t.parts = s.parts) ∧
      (s.ev = .taskEnd r → s.wordSay r (s.joinLines r) ≠ .free → ∃ t f, exec .taskEnd s = .next t ∧ SameMems s t ∧
        (t.taskOf r).hold = .ending f ∧ t.parts = s.parts ∧ ∃ x ∈ t.timers, x.ev = .requestRetry r)) ∧
    (∀ p : Nat, s.ev = .faultRecordRemove p → p < 64 →
      (∀ k ∈ (s.part p).cores, ∀ i, ((s.core k).task i).pendRecs = []) → (s.part p).waiting = [] →
      exec .faultRecordRemove s = .next (s.setPart p { s.part p with records := (s.part p).records.tail })) ∧
    (∀ (k : Nat) (l : Launch), s.ev = .heldDelivery k (.launch l) → (s.core k).run = .running →
      (∀ i : Fin 4, ((s.core k).task i).occupied = false → (∀ j, j < i → ((s.core k).task j).occupied = true) →
        ∃ t, exec .heldDelivery s = .next t ∧ SameMems s t ∧ OnlyCoreJobs k s t ∧
          t.core k = (s.core k).setTask i (launchSlot l (s.tickOf k))) ∧
      ((∀ i, ((s.core k).task i).occupied = true) → (s.core k).launchQ.length < 16 →
        exec .heldDelivery s = .next (s.setCore k { s.core k with launchQ := (s.core k).launchQ ++ [l] })) ∧
      ((∀ i, ((s.core k).task i).occupied = true) → 16 ≤ (s.core k).launchQ.length →
        exec .heldDelivery s = .next (s.atTick (engAt k .vector) (s.tickOf k + 1) (.heldDelivery k (.launch l))))) ∧
    (∀ (k : Nat) (r : BarReq), s.ev = .heldDelivery k (.barrier r) → (s.core r.home).run = .running → r.home ≠ r.who.core →
      r.home < 2048 → let x := (s.core r.home).bar r.num
      (barAfter x r.fn r.arg.toNat = none → ∃ t, exec .heldDelivery s = .next t ∧ SameBytes s t ∧
        ∀ n, (t.core r.home).bar n = (s.core r.home).bar n) ∧
      (∀ cnt arr ph, barAfter x r.fn r.arg.toNat = some (cnt, arr, ph) → ∃ t, exec .heldDelivery s = .next t ∧
        SameBytes s t ∧ SameUnits r.home s t ∧ (∀ n, n ≠ r.num → (t.core r.home).bar n = (s.core r.home).bar n) ∧
        ((t.core r.home).bar r.num).val = (x.val || r.fn == .init) ∧ ((t.core r.home).bar r.num).cnt.toNat = cnt ∧
        ((t.core r.home).bar r.num).arr.toNat = arr ∧ ((t.core r.home).bar r.num).ph = ph)) ∧
    (∀ (c k id a : Nat) (x : XStep), s.ev = .heldDelivery c (.landing k id) → (s.core c).run = .running →
      (s.core k).xstep? id = some x → x.src = .spad a →
      ((s.core c).writesIn a x.got.length = true → exec .heldDelivery s =
        .next (s.atTick (engAt k .transfer) (s.tickOf k + 1) (.multicastLanding k id c))) ∧
      ((s.core c).writesIn a x.got.length = false → ∃ t, exec .heldDelivery s = .next t ∧ SameMems s t ∧
        ∀ p ∈ (pieces 256 x.got).zipIdx, (s.core c).granuleUsed (a + 256 * p.2) = false →
          (Engine.transfer.rank, a + 256 * p.2, p.1) ∈ (t.core c).spBuf)) ∧
    (∀ (c k : Nat) (q : QReg) (y : QTransit), s.ev = .heldDelivery c (.row k q) →
      (vget (s.core k).oq q).find? (fun y => y.core == c) = some y → ∃ t, exec .heldDelivery s = .next t ∧
      t = { s with cores := t.cores } ∧ vget (t.core k).oq q = (vget (s.core k).oq q).erase y ∧
      vget (t.core c).iq y.q = vget (s.core c).iq y.q ++ [{ y.row with at_ := s.tickOf c }]) ∧
    (∀ (k : Nat) (i : Fin 4) (st : Nat), s.ev = .heldDelivery k (.sev i st) → (s.core k).run = .running →
      ((s.core k).task i).occupied = true → ∃ t, exec .heldDelivery s = .next t ∧ OnlyTask { core := k, slot := i } s t ∧
        (t.core k).task i = { (s.core k).task i with latch := true, latchStamp := Nat.max ((s.core k).task i).latchStamp st })

/-- Partition faults, saves, restores, switches and loads (R261, R262, R291, R302, R317, R334, R340 to R344, R347, R359,
R370): the fault events, PARTITION_RESET and PARTITION_REOPEN, CORE_SAVE, SWAP_SAVE, SWAP_DONE, SWAP_RESTORE,
TIME_SLICE_SWITCH and IMAGE_LOAD. The model's readings: a reset clears at 4096 wall periods (DEDUCED, log 47; R340 says by 5120),
caches and TLBs are empty after a save (DESIGN CHOICE, log 6), what an image holds (DEDUCED, log 49), and the swap register after a
failure or a refusal (DEDUCED, log 50).
Completes (exec answers a next state): `uncorrectableMemoryError`, `linkProtocolError`, `watchdogExpiry`, `thermalTrip`,
`ringTableError`, `partitionReset`, `partitionReopen`, `coreSave`, `swapSave`, `swapDone`, `swapRestore`,
`timeSliceSwitch`, `imageLoad`. -/
def Obligations.PartitionsManaged : Prop :=
  ∀ s : State,
    (∀ p pa : Nat, s.ev = .uncorrectableMemoryError p (.phys pa) → p < 64 →
      ∃ t, exec .uncorrectableMemoryError s = .next t ∧ PartFaulted s t p 0x41 0 pa) ∧
    (∀ (p d : Nat) (set : Bool) (k : Nat) (h : HatSlot), s.ev = .uncorrectableMemoryError p (.hatbox d set k) → d < 32 → k < 64 →
      Tbl.get? ((s.die d).hat set) k = some h → ∃ t, exec .uncorrectableMemoryError s = .next t ∧ t = { s with dies := t.dies } ∧
        Tbl.get? ((t.die d).hat set) k = some { h with sound := false } ∧ ∀ e, e ≠ d → t.die e = s.die e) ∧
    (∀ p : Nat, s.ev = .linkProtocolError p → ∃ t, exec .linkProtocolError s = .next t ∧ PartFaulted s t p 0x42 0 0) ∧
    (∀ m : Nat, s.ev = .watchdogExpiry m →
      ∃ t, exec .watchdogExpiry s = .next t ∧ PartFaulted s t (s.mbox m).part.toNat 0x40 m 0) ∧
    (∀ d : Nat, s.ev = .thermalTrip d → d < 32 → ∃ t, exec .thermalTrip s = .next t ∧ SameMems s t ∧
      (t.die d).clockOff = true ∧ ∀ p, (s.part p).valid = true → (s.part p).hasDie d = true → (t.part p).draining ≠ none) ∧
    (∀ (d i : Nat) (l : Fin 4) (e : RingErr), s.ev = .ringTableError d i l e → d < 32 → i < 1024 →
      (e = .corrected → exec .ringTableError s = .next (s.setDie d { s.die d with
        cec := BitVec.ofNat 16 (Nat.min 0xFFFF ((s.die d).cec.toNat + 1)) })) ∧
      (e ≠ .corrected → ∃ t, exec .ringTableError s = .next t ∧ SameMems s t ∧
        (e = .laneFailure ∨ s.shareOwner d i l.val = none → ∀ p, (s.part p).valid = true → (s.part p).hasDie d = true →
          (t.part p).draining ≠ none) ∧
        (∀ p, e = .uncorrectable → s.shareOwner d i l.val = some p → ∀ q, q ≠ p → t.part q = s.part q))) ∧
    (∀ p : Nat, s.ev = .partitionReset p →
      ((s.part p).draining = none → exec .partitionReset s = .next s) ∧
      ((s.part p).draining ≠ none → ∃ t, exec .partitionReset s = .next t ∧ SameMems s t ∧
        (∀ x ∈ t.timers, x.clock ≠ some p) ∧
        ∀ k ∈ (s.part p).cores, t.core k = { Core.reset with
          part := p, run := (t.core k).run, xfr := { steps := [], nextId := (s.core k).xfr.nextId } })) ∧
    (∀ (p : Nat) (d : Drain), s.ev = .partitionReopen p → (s.part p).draining = some d →
      ∃ t, exec .partitionReopen s = .next t ∧ SameMems s t ∧ (t.part p).tick = 0 ∧ (t.part p).draining = none ∧
        ((s.part p).records.length < 256 → ∃ q, (t.part p).records = (s.part p).records ++ [q] ∧ q.cls = 1 ∧
          q.cause = BitVec.ofNat 8 d.cause ∧ q.mbox = d.mbox ∧ q.addr = BitVec.ofNat 64 d.addr) ∧
        ∀ m, (s.mbox m).part.toNat = p → t.mbox m = { s.mbox m with
          fo := (s.mbox m).wo, fl := (s.mbox m).wl, ro := (s.mbox m).wo, rl := (s.mbox m).wl, pkts := [], wrote := [],
          st := if (s.mbox m).st = 2 then 1 else (s.mbox m).st }) ∧
    (∀ k : Nat, s.ev = .coreSave k →
      ((s.core k).run ≠ .running ∨ s.allStand k = false ∨ (s.core k).riding = true → exec .coreSave s = .next s) ∧
      ((s.core k).run = .running → s.allStand k = true → (s.core k).riding = false → ∃ t, exec .coreSave s = .next t ∧ SameMems s t ∧
        (t.core k).dcache = [] ∧ (t.core k).l1tlb = [] ∧
        ((s.part (s.core k).part).fl = true → (t.core k).run = .saving (s.tickOf k + 1028)))) ∧
    (∀ (p : Nat) (set : Bool), s.ev = .swapSave p set → p < 64 →
      ((s.part p).swap.st = 1 → exec .swapSave s = .next s.refuse) ∧
      ((s.part p).swap.st ≠ 1 → (s.part p).valid = true → (s.part p).frozen = false → (s.part p).draining = none → set = true →
        ∃ t, exec .swapSave s = .next t ∧ (t.part p).swap = { op := 1, set := set, st := 1, cause := 0 } ∧
          ∀ k ∈ (s.part p).cores, t.core k = { s.core k with saveReq := some set })) ∧
    (∀ p : Nat, s.ev = .swapDone p → let q := s.part p
      (q.swap.st ≠ 1 → exec .swapDone s = .next s) ∧
      (q.swap.st = 1 → q.swap.op ≠ 1 → exec .swapDone s = .next (s.setPart p { q with swap := { q.swap with st := 2 } })) ∧
      (q.swap.st = 1 → q.swap.op = 1 → q.core0 + q.cntm1 ≤ 63 → ∃ t, exec .swapDone s = .next t ∧ SameMems s t ∧
        (t.part p).frozen = true ∧ (t.part p).swap.st = 2 ∧ (t.part p).tick = q.tick ∧
        ∀ k ∈ q.cores, (t.core k).run = .saved ∧ ∃ h, Tbl.get? ((t.die (dieOf k)).hat q.swap.set) (k % 64) = some h ∧
          ((s.core k).run ≠ .switchedOut → h.image = s.core k) ∧ h.tick = (s.part (s.core k).part).tick ∧
          h.part = BitVec.ofNat 6 (s.core k).part)) ∧
    (∀ (p : Nat) (set : Bool), s.ev = .swapRestore p set → p < 64 → (s.part p).swap.st ≠ 1 → (s.part p).valid = true →
      (s.part p).draining = none → s.partBusy p = false →
      (s.images p set = none → ∃ t, exec .swapRestore s = .next t ∧ SameMems s t ∧ (t.part p).draining ≠ none ∧
        (t.part p).swap = { op := 2, set := set, st := 3, cause := 0x44 }) ∧
      (∀ hs, s.images p set = some hs → ∃ t, exec .swapRestore s = .next t ∧ SameMems s t ∧
        (t.part p).swap = { op := 2, set := set, st := 1, cause := 0 } ∧ (t.part p).frozen = false ∧
        ∀ x ∈ hs, x.2.tick ≤ (t.part p).tick ∧ (t.core x.1).tasks = x.2.image.tasks ∧
          (x.2.image.run ≠ .switchedOut → (t.core x.1).run =
            .entering ((t.part p).tick + (if (s.part p).fl then 1028 else 4 + (x.2.len.toNat + 64 + 255) / 256))) ∧
          (t.core x.1).scratch = x.2.image.scratch ∧ (t.core x.1).acc = x.2.image.acc ∧
          (t.core x.1).vec = x.2.image.vec ∧ (t.core x.1).runs = x.2.image.runs)) ∧
    (∀ k m : Nat, s.ev = .timeSliceSwitch k → s.partnerOf k = some m → (s.core k).run = .running →
      (s.core m).run = .switchedOut → s.allStand k = true → ∃ t, exec .timeSliceSwitch s = .next t ∧ SameMems s t ∧
        (t.core k).run = .switchedOut ∧
        (s.slotFits m = true → (s.part (s.core k).part).fl = true → (t.core m).run = .entering (s.tickOf k + 2056)) ∧
        (s.slotFits m = false → (s.part (s.core k).part).valid = true → (t.part (s.core k).part).draining ≠ none)) ∧
    (∀ (p : Nat) (file : List Byte) (place : Placement), s.ev = .imageLoad p file place → p < 64 → (s.part p).valid = true →
      s.partBusy p = false →
      let refused (c : Nat) : Prop := exec .imageLoad s = .next (s.notify (.imageRefused p c))
      let w : Nat := leNat (file.take 8)
      (file.length < 32 ∨ w % 2 ^ 32 ≠ 0x01464F54 ∨ w / 2 ^ 32 % 2 ^ 16 ≠ 2 ∨ w / 2 ^ 48 % 4 = 3 → refused 1) ∧
      (∀ c, s.readImage p file place = .error c → refused c) ∧
      (∀ g, s.readImage p file place = .ok g → placementOk file place = true → ∃ t, exec .imageLoad s = .next t ∧
        (∃ x, (t.part p).image = some x ∧ x.safes = g.safes ∧ ∀ i : Fin 5, ∀ c, (imageCode g)[i.val]? = some c →
          (vget x.sections i).base = c.base ∧ (vget x.sections i).len = c.words.length) ∧
        ∀ q, q ≠ p → t.part q = s.part q))

/-! ## Tables of package management -/

/-- The writes of the system cores, and boot, power and sparing (R264, R269, R287 to R289, R295, R312, R316, R324, R328, R345,
R354, R355, R360 to R362, R364, R365, R368, R370): a legal write changes its own object and nothing else; an illegal one
is refused with a notice, and changes nothing else but that `iop` reads 3 after an invalidation that came while another was in
progress (DEDUCED, log 133). The model's own readings and choices: logs 45, 46, 53, 56, 59, 106, 107, 108 and 109 (DEDUCED) and
132 (DESIGN CHOICE: how long a move to a spare takes), each on the object that its title names; a quote's key and nonce are free
values (log 21).
Completes (exec answers a next state): `partitionDescriptorWrite`, `remapTableWrite`, `mailboxStateWrite`,
`ringTableWrite`, `ringctlWrite`, `meshcfgWrite`, `portChannelBind`, `translationBlockWrite`, `invalidateVa`,
`invalidateAsid`, `hatboxBankMapWrite`, `hatboxSlotCopy`, `pmRegisterWrite`, `bootStage0`, `bootStage1`, `bootStage2`,
`quoteRequest`, `powerLevelUpdate`, `dieTemperatureRecovery`, `sliceWayReplace`, `dramRowSpare`,
`refreshWindowCalibration`. -/
def Obligations.TablesWritten : Prop :=
  ∀ s : State,
    (∀ (p : Nat) (w0 w1 w2 w3 : Word64), s.ev = .partitionDescriptorWrite p w0 w1 w2 w3 → p < 64 →
      let q : Part := { s.part p with d0 := w0, d1 := w1, d2 := w2, d3 := w3 }
      (descBad q = true → exec .partitionDescriptorWrite s = .next s.refuse) ∧
      (descBad q = false → (s.part p).valid = false → q.valid = true → s.descRefused p q = false →
        ∃ t, exec .partitionDescriptorWrite s = .next t ∧ SameMems s t ∧ (t.part p).d0 = w0 ∧ (t.part p).d1 = w1 ∧
          (t.part p).d2 = w2 ∧ (t.part p).d3 = w3 ∧ (t.part p).tick = 0 ∧ (t.part p).records = [] ∧
          (∀ r, r ≠ p → t.part r = s.part r) ∧
          ∀ k ∈ q.cores, t.core k = { Core.reset with
            part := p, run := (t.core k).run, xfr := { steps := [], nextId := (s.core k).xfr.nextId } })) ∧
    (∀ (d i : Nat) (v : BitVec 16), s.ev = .remapTableWrite d i v → d < 32 → i < 64 →
      let legal := v.getLsbD 15 = false ∧ v.toNat % 128 < 72 ∧
        ∀ e ∈ s.parts, ¬ (e.2.valid = true ∧ e.2.hasCore (d * 64 + i) = true)
      (legal → exec .remapTableWrite s = .next (s.setDie d { s.die d with remap := Tbl.set (s.die d).remap i v })) ∧
      (¬ legal → exec .remapTableWrite s = .next s.refuse)) ∧
    (∀ (m : Nat) (f : Fin 8) (v : Word64), s.ev = .mailboxStateWrite m f v → m < 4096 →
      let b := s.mbox m
      let gives (b' : Mbox) : Prop := exec .mailboxStateWrite s = .next (s.setMbox m b')
      let x := v.toNat
      (f = 1 → x % 512 = 0 → 512 ≤ x → x ≤ 16777216 → gives { b with area := BitVec.ofNat 25 x }) ∧
      (f = 1 → x % 512 ≠ 0 ∨ x < 512 ∨ 16777216 < x → exec .mailboxStateWrite s = .next s.refuse) ∧
      (f = 2 → 1 ≤ x → x ≤ 2 ^ 40 → gives { b with wdog := BitVec.ofNat 41 x }) ∧
      (f = 5 → x % 4 = 0 → x < 2 ^ 48 → gives { b with entry := BitVec.ofNat 48 x }) ∧
      (f = 0 → x < 2 ^ 54 → x % 2 ^ 48 % 512 = 0 →
        let c := { b with base := BitVec.ofNat 48 x, part := BitVec.ofNat 6 (x / 2 ^ 48) }
        (b.st = 0 ∨ s.targetsOk c = true → gives c) ∧
        (b.st ≠ 0 → s.targetsOk c = false → exec .mailboxStateWrite s = .next s.refuse)) ∧
      (f = 4 → let st := x / 2 ^ 32 % 4
        (st = 3 ∨ (st = 1 ∧ s.targetsOk b = false) → exec .mailboxStateWrite s = .next s.refuse) ∧
        (st ≠ 3 → st = 1 → s.targetsOk b = true → gives { b with st := 1 }) ∧
        (st ≠ 3 → st ≠ 1 → gives { b with st := BitVec.ofNat 2 st })) ∧
      (f = 6 → x < 2 ^ 25 → let c := { b with tset := BitVec.ofNat 25 x }
        (s.targetsOk c = true → gives c) ∧ (s.targetsOk c = false → exec .mailboxStateWrite s = .next s.refuse)) ∧
      (f = 7 → gives { b with snd := v })) ∧
    (∀ (d i : Nat) (v : BitVec 32), s.ev = .ringTableWrite d i v → d < 32 → i < 1024 →
      let legal := ∀ l, l < 4 → v.toNat / 2 ^ (8 * l + 7) % 2 = 0 ∧ (let o := v.toNat / 2 ^ (8 * l) % 128
        o = 127 ∨ o ≤ 94 ∨ (o ≤ 96 ∧ (d < 4 ∨ 28 ≤ d)))
      (legal → (∀ e ∈ s.parts, e.2.valid = true → e.2.hasDie d = true → i ∉ shareEntries e.2.d2) →
        exec .ringTableWrite s = .next (s.setDie d { s.die d with ringTab := Tbl.set (s.die d).ringTab i v })) ∧
      (¬ legal → exec .ringTableWrite s = .next s.refuse)) ∧
    (∀ (d : Nat) (v : Word64), s.ev = .ringctlWrite d v → d < 32 → let spl := v.toNat % 8
      (spl < 4 ∨ spl = 7 → s.dieRuns d = false → ∃ t, exec .ringctlWrite s = .next t ∧
        t = s.setDie d { s.die d with spl := BitVec.ofNat 3 spl, cec := (t.die d).cec } ∧
        (t.die d).cec = if v.toNat / 2 ^ 16 % 2 ^ 16 = 0 then 0 else (s.die d).cec) ∧
      (4 ≤ spl → spl ≤ 6 → exec .ringctlWrite s = .next s.refuse)) ∧
    (∀ (d : Nat) (v : Word64), s.ev = .meshcfgWrite d v → d < 32 → let x := v.toNat
      let legal := x % 16 ≠ 0 ∧ x / 2 ^ 4 % 16 ≠ 0 ∧ x / 2 ^ 8 % 16 ≠ 0 ∧ x / 2 ^ 12 % 16 ≠ 0 ∧ x / 2 ^ 16 % 2 ^ 10 ≠ 0
      (legal → exec .meshcfgWrite s = .next (s.setDie d { s.die d with meshcfg := BitVec.ofNat 26 x })) ∧
      (¬ legal → exec .meshcfgWrite s = .next s.refuse)) ∧
    (∀ (ch : Nat) (w0 w1 w2 w3 : Word64), s.ev = .portChannelBind ch w0 w1 w2 w3 → ch < 64 →
      let c : Channel := { w0 := w0, w1 := w1, w2 := w2, w3 := w3 }
      (channelBad c = false → exec .portChannelBind s = .next { s with channels := Tbl.set s.channels ch c }) ∧
      (channelBad c = true → exec .portChannelBind s = .next s.refuse)) ∧
    (∀ (p : Nat) (w : Word64), s.ev = .translationBlockWrite p w → p < 64 →
      let legal := w.toNat / 2 % 2 ^ 8 = 0 ∧ w.toNat < 2 ^ 44
      (legal → s.partBusy p = false → exec .translationBlockWrite s = .next (s.setPart p { s.part p with root := w })) ∧
      (¬ legal → exec .translationBlockWrite s = .next s.refuse)) ∧
    (∀ p va : Nat, p < 64 → va < 2 ^ 48 → (s.part p).iop ≠ 0 →
      (s.ev = .invalidateVa p va false →
        exec .invalidateVa s = .next (s.setPart p { s.part p with iop := 3 }).refuse) ∧
      (s.ev = .invalidateAsid p false →
        exec .invalidateAsid s = .next (s.setPart p { s.part p with iop := 3 }).refuse)) ∧
    (∀ p va : Nat, p < 64 → va < 2 ^ 48 → (s.part p).iop = 0 →
      let gone (t : State) (f : TlbEntry → Prop) : Prop :=
        (∀ d, ∀ e ∈ (t.die d).tlb ++ (t.die d).pickTlb, e.asid = (s.part p).asid → ¬ f e) ∧
        (∀ k, ∀ e ∈ (t.core k).l1tlb, e.asid = (s.part p).asid → ¬ f e)
      (s.ev = .invalidateVa p va false → ∃ t, exec .invalidateVa s = .next t ∧ SameMems s t ∧
        gone t (fun e => e.base ≤ va ∧ va < e.base + 2 ^ e.size)) ∧
      (s.ev = .invalidateAsid p false → ∃ t, exec .invalidateAsid s = .next t ∧ SameMems s t ∧ gone t (fun _ => True))) ∧
    (∀ (d i : Nat) (b : BitVec 6), s.ev = .hatboxBankMapWrite d i b → d < 32 → i < 32 →
      (b.toNat < 36 → (s.die d).bankHolds i = false →
        exec .hatboxBankMapWrite s = .next (s.setDie d { s.die d with bankMap := Tbl.set (s.die d).bankMap i b })) ∧
      (36 ≤ b.toNat ∨ (s.die d).bankHolds i = true → exec .hatboxBankMapWrite s = .next s.refuse)) ∧
    (∀ (d : Nat) (set : Bool) (k : Nat) (h : HatSlot) (id : Nat), d < 32 → k < 64 →
      let key := id * 128 + (if set then 64 else 0) + k
      (∀ free, s.ev = .hatboxSlotCopy d set k (.out id free) → Tbl.get? ((s.die d).hat set) k = some h →
        ∃ t, exec .hatboxSlotCopy s = .next t ∧ t = { s with dies := t.dies } ∧ Tbl.get? (t.die d).hatOut key = some h ∧
          Tbl.get? ((t.die d).hat set) k = (if free then none else some h) ∧ ∀ e, e ≠ d → t.die e = s.die e) ∧
      (∀ altered, s.ev = .hatboxSlotCopy d set k (.back id altered) → Tbl.get? (s.die d).hatOut key = some h →
        ∃ t, exec .hatboxSlotCopy s = .next t ∧ t = { s with dies := t.dies } ∧
          Tbl.get? ((t.die d).hat set) k = some { h with back := true, sound := h.sound && !altered } ∧
          (t.die d).hatOut = (s.die d).hatOut ∧ ∀ e, e ≠ d → t.die e = s.die e)) ∧
    (∀ k cap refill low : Nat, s.ev = .pmRegisterWrite (.budget k cap refill low) → k < 2048 →
      (cap ≤ 65535 → refill ≤ 255 → low ≤ 65535 → ∃ t, exec .pmRegisterWrite s = .next t ∧ OnlyCore k s t ∧
        t.core k = { s.core k with budget := { (s.core k).budget with
          cap := BitVec.ofNat 16 cap, refill := BitVec.ofNat 8 refill, low := BitVec.ofNat 16 low } }) ∧
      (65535 < cap ∨ 255 < refill ∨ 65535 < low → exec .pmRegisterWrite s = .next s.refuse)) ∧
    (∀ (k : Nat) (n : Fin 4) (v : Word64), s.ev = .pmRegisterWrite (.qbind k n v) → k < 2048 →
      let peer := 64 * (v.toNat / 2 ^ 3 % 4 + 4 * (v.toNat / 2 ^ 5 % 8)) + v.toNat / 2 ^ 8 % 64
      let q := s.part (s.core k).part
      let legal := v.toNat / 2 ^ 14 % 4 = 0 ∧ v.toNat < 2 ^ 18 ∧ v.toNat / 2 ^ 16 % 4 ≠ 3 ∧ q.valid = true ∧
        q.hasCore k = true ∧ (v.toNat % 2 = 1 → q.hasCore peer = true)
      (legal → ∃ t, exec .pmRegisterWrite s = .next t ∧ OnlyCore k s t ∧
        t.core k = { s.core k with qbind := vset (s.core k).qbind n (BitVec.ofNat 18 v.toNat) }) ∧
      (¬ legal → exec .pmRegisterWrite s = .next s.refuse)) ∧
    (∀ (ks : List Nat) (sig : EcSig), s.ev = .pmRegisterWrite (.keyList ks sig) →
      let legal := ks.length ≤ 64 ∧
        ecdsaOk Config.fusedKey (sha256 (ks.flatMap (beBytes 32))).toNat sig.r sig.s = true
      (legal → exec .pmRegisterWrite s = .next { s with boot := { s.boot with keys := ks } }) ∧
      (¬ legal → exec .pmRegisterWrite s = .next s.refuse)) ∧
    (∀ p : Nat, s.ev = .pmRegisterWrite (.swapAck p) → p < 64 →
      ((s.part p).swap.st = 1 → exec .pmRegisterWrite s = .next s.refuse) ∧
      ((s.part p).swap.st ≠ 1 → exec .pmRegisterWrite s = .next (s.setPart p { s.part p with
        swap := { (s.part p).swap with st := 0, cause := 0 } }))) ∧
    (∀ d rw : Nat, s.ev = .pmRegisterWrite (.residentWays d rw) → d < 32 → rw ≤ 8 → s.dieRuns d = false →
      ∃ t, exec .pmRegisterWrite s = .next t ∧ (t.die d).rw = rw ∧ SameBytesOutside (2 * 2 ^ 40 + d * 2 ^ 26) (2 ^ 26) s t) ∧
    (let ok (i : BootImage) : Prop := (sha256 i.bytes).toNat = i.digest ∧
       ecdsaOk Config.fusedKey i.digest i.sig.r i.sig.s = true ∧ s.boot.counter ≤ i.version
     let fails : State := ({ s with boot := { s.boot with failed := true } } : State).notify .bootFailed
     s.boot.failed = false →
     (∀ a b : BootImage, s.ev = .bootStage0 a b → s.boot.stage = 0 →
       let dev := s.boot.device
       let first := if dev then b else a
       let second := if dev then a else b
       let go (d : Bool) (i : BootImage) : Prop := exec .bootStage0 s = .next { s with boot := { s.boot with
         used_ := d, version := i.version, stage := 1, measure := shaExtend s.boot.measure i.digest } }
       (ok first → go dev first) ∧ (¬ ok first → ok second → go (!dev) second) ∧
       (¬ ok first → ¬ ok second → exec .bootStage0 s = .next fails)) ∧
     (∀ (i : BootImage) (f : BootReport), s.ev = .bootStage1 i f → s.boot.stage = 1 → bootReportOk f = true →
       (ok i → ∃ t, exec .bootStage1 s = .next t ∧
         t = { s with boot := t.boot, dies := t.dies, slices := t.slices, lines := t.lines, links := t.links, agenda := t.agenda,
                      endpoint := { s.endpoint with pcie := true, notices := t.endpoint.notices } } ∧
         t.boot = { s.boot with stage := 2, measure := shaExtend s.boot.measure i.digest,
                                secret := t.boot.secret, pub := ecPublic t.boot.secret } ∧
         0 < t.boot.secret ∧ t.boot.secret < ecN ∧
         (∀ d, f.cores = [(d, List.range 64)] → ∀ c, c < 64 → (Tbl.getD (t.die d).remap c 0).toNat = c + 2 ^ 14) ∧
         (∀ d v, f.mesh = [(d, v)] → (t.die d).meshcfg = v) ∧ (∀ x ∈ f.reserves, (t.die x.1).shadowAt = some x.2)) ∧
       (¬ ok i → exec .bootStage1 s = .next fails)) ∧
     (∀ i : BootImage, s.ev = .bootStage2 i →
       (s.boot.stage = 2 → ok i → exec .bootStage2 s = .next { s with boot := { s.boot with
         stage := 3, measure := shaExtend s.boot.measure i.digest, counter := Nat.max s.boot.counter s.boot.version } }) ∧
       (s.boot.stage = 2 → ¬ ok i → exec .bootStage2 s = .next fails) ∧
       (s.boot.stage ≠ 2 → exec .bootStage2 s = .next s.refuse))) ∧
    (∀ (p : Nat) (nonce : BitVec 256), s.ev = .quoteRequest p nonce → p < 64 →
      (s.boot.stage ≠ 3 → exec .quoteRequest s = .next s.refuse) ∧
      (s.boot.stage = 3 → ∃ t bs, exec .quoteRequest s = .next t ∧
        t = { s with endpoint := { s.endpoint with notices := s.endpoint.notices ++ [.quote bs] }, fresh := t.fresh } ∧
        bs.length = 176 ∧
        (let sig := ecdsaSign s.boot.secret (sha256 (bs.take 112)).toNat (Config.signNonce s.fresh)
         bs.drop 112 = beBytes 32 sig.1 ++ beBytes 32 sig.2) ∧
        bs.take 32 = beBytes 32 nonce.toNat ∧ (bs.drop 32).take 32 = beBytes 32 s.boot.measure.toNat ∧
        leNat ((bs.drop 96).take 8) = p)) ∧
    (∀ r : PowerReading, s.ev = .powerLevelUpdate r →
      let looks := s.wall.toNat % 65536 = 0 ∧ s.boot.looked ≠ s.wall.toNat
      (looks → ∃ t, exec .powerLevelUpdate s = .next t ∧
        t = { s with parts := t.parts, boot := { s.boot with looked := s.wall.toNat } } ∧ (∀ p, t.part p = { s.part p with levelNext := (t.part p).levelNext }) ∧
        ∀ p, 7600 < r.package → (∀ d, d < 32 → r.dieOver d = false) → (s.part p).valid = true →
          (∀ e ∈ s.parts, e.2.valid = true → e.1 ≠ p → r.watts none e.1 < r.watts none p) →
          (t.part p).levelNext = Nat.min 12 ((s.part p).levelNext + 1) ∧ ∀ q, q ≠ p → t.part q = s.part q) ∧
      (¬ looks → ∃ t, exec .powerLevelUpdate s = .next t ∧ t = { s with timers := t.timers } ∧
        { clock := none, due := (s.wall.toNat / 65536 + 1) * 65536, who := s.cur, ev := .powerLevelUpdate r } ∈ t.timers)) ∧
    (∀ d : Nat, s.ev = .dieTemperatureRecovery d → d < 32 →
      exec .dieTemperatureRecovery s = .next (s.setDie d { s.die d with clockOff := false })) ∧
    (∀ k set way : Nat, k < 512 → set < 4096 → way < 16 →
      (s.ev = .sliceWayReplace k set way .corrected → Tbl.getD (s.slice k).errs (set * 16 + way) 0 ≠ 3 →
        ∃ t, exec .sliceWayReplace s = .next t ∧ t = { s with slices := t.slices } ∧
          Tbl.getD (t.slice k).errs (set * 16 + way) 0 = Tbl.getD (s.slice k).errs (set * 16 + way) 0 + 1) ∧
      let e (s : State) := Tbl.getD (s.slice k).spare set 0
      let moved (t : State) : Prop := (e t).toNat % 32 = way + 16 ∧ (e t).getLsbD 5 = (e s).getLsbD 5 ∧
        Tbl.get? (t.slice k).moving set = none ∧ ∀ j, j ≠ k → t.slice j = s.slice j
      (s.ev = .sliceWayReplace k set way .failed → (e s).getLsbD 4 = false → Tbl.get? (s.slice k).moving set = none →
        (s.wayLine k set way = none → ∃ t, exec .sliceWayReplace s = .next t ∧ moved t ∧ t = { s with slices := t.slices }) ∧
        (∀ l, s.wayLine k set way = some l → (s.line l).resv = none → ∃ t, exec .sliceWayReplace s = .next t ∧ SameMems s t ∧
          t.line l = { s.line l with resv := some (2048 + k, 0) } ∧
          Tbl.get? (t.slice k).moving set = some (way, some l) ∧
          ∃ x ∈ t.timers, x.clock = none ∧ s.wall.toNat < x.due ∧ x.ev = .sliceWayReplace k set way .copied)) ∧
      (s.ev = .sliceWayReplace k set way .failed → (e s).getLsbD 4 = true → (e s).toNat % 16 ≠ way →
        Tbl.get? (s.slice k).moving set = none →
        (way < (s.die (k / 16)).rw + 4 ∨ (e s).getLsbD 5 = true →
          exec .sliceWayReplace s = .next (s.notify (.secondWayFailed k set))) ∧
        ((s.die (k / 16)).rw + 4 ≤ way → (e s).getLsbD 5 = false → ∃ t, exec .sliceWayReplace s = .next t ∧ SameMems s t ∧
          (e t).getLsbD 5 = true ∧ (e t).toNat % 32 = (e s).toNat % 32)) ∧
      (∀ l, s.ev = .sliceWayReplace k set way .copied → Tbl.get? (s.slice k).moving set = some (way, some l) →
        ∃ t, exec .sliceWayReplace s = .next t ∧ SameMems s t ∧ moved t ∧ (t.line l).resv = none ∧
          ∀ m, m ≠ l → t.line m = s.line m)) ∧
    (∀ d bank row : Nat, d < 32 →
      (s.ev = .dramRowSpare d bank row .corrected → ∃ t, exec .dramRowSpare s = .next t ∧ SameMems s t ∧
        Tbl.getD (t.die d).rowErrs bank [] = row :: Tbl.getD (s.die d).rowErrs bank [] ∧
        ((Tbl.getD (s.die d).rowErrs bank []).count row = 7 →
          ∃ x ∈ t.timers, x.clock = none ∧ s.wall.toNat < x.due ∧ x.ev = .dramRowSpare d bank row .copied)) ∧
      (∀ why, why ≠ .corrected → s.ev = .dramRowSpare d bank row why →
        row ∉ Tbl.getD (s.die d).rowSpares bank [] → (Tbl.getD (s.die d).rowSpares bank []).length < 32 →
        ∃ t, exec .dramRowSpare s = .next t ∧ SameMems s t ∧ row ∈ Tbl.getD (t.die d).rowSpares bank [] ∧
          ∀ e, e ≠ d → t.die e = s.die e)) ∧
    (∀ (d ch : Nat) (failed : Bool), s.ev = .refreshWindowCalibration d ch failed → d < 32 → ch < 16 →
      (failed = false → exec .refreshWindowCalibration s = .next s) ∧
      (failed = true → ∃ t, exec .refreshWindowCalibration s = .next t ∧ SameMems s t ∧ ch ∈ (t.die d).dataLanes))

/-! ## Clocks, mesh, ring and links -/

/-- The clocks, the fabric, the links and the host's accesses (R24, R25, R306, R307, R311 to R313, R322 to R324, R326, R330,
R360, R363). A ring cycle moves every slot one position on; a packet leaves its slot at its destination unless its input buffer
is full, and a waiting packet enters an empty slot that its station owns, or an open one where its partition is elastic. The
model's own: the group of 16 wall periods (DEDUCED, log 57), when a ring buffer is full and the order of a cycle's stations
(DESIGN CHOICE, log 99), the mesh's order (DESIGN CHOICE, log 100), retraining of exactly 1024 wall periods (DEDUCED, log 102), the
answer to a data flit, an ack with one credit on the flit's channel (DESIGN CHOICE, log 103), the order of the host's requests
(DEDUCED, log 105), and what a lane failure does (DEDUCED, log 109).
Completes (exec answers a next state): `wallPeriod`, `deliveredTick`, `ringCycle`, `meshCycle`, `flitPromotion`, `ack`,
`credit`, `idle`, `data`, `nak`, `linkRetrain`, `linkRetrainDone`, `ringLaneFailure`, `meshLaneFailure`,
`hostDramAccess`. -/
def Obligations.FabricEvents : Prop :=
  ∀ s : State,
    (∃ t, exec .wallPeriod s = .next t ∧ t.wall = s.wall + 1 ∧ SameMems s t ∧
      (∃ rest, t.agenda = [.event s.cur .meshCycle, .event s.cur .meshCycle, .event s.cur .ringCycle,
        .event s.cur .ringCycle] ++ rest) ∧
      (∀ x ∈ s.timers, x.clock = none → x.due ≤ (s.wall + 1).toNat → (∀ r, x.ev ≠ .barrierRequestArrival r) →
        .event x.who x.ev ∈ t.agenda) ∧
      ∀ e ∈ s.parts, e.2.valid = true → e.2.draining = none → e.2.frozen = false →
        (∀ d, d < 32 → e.2.hasDie d = true → (s.die d).clockOff = false) →
        (s.wall + 1).toNat % 16 < 16 - (if (s.wall + 1).toNat % 16 = 0 then e.2.levelNext else e.2.level) →
        .event s.cur (.deliveredTick e.1) ∈ t.agenda) ∧
    (∀ p : Nat, s.ev = .deliveredTick p → (s.part p).core0 + (s.part p).cntm1 ≤ 63 →
      ∃ t, exec .deliveredTick s = .next t ∧ SameMems s t ∧ (t.part p).tick = (s.part p).tick + 1 ∧
        (∀ k ∈ (s.part p).cores, (t.core k).scratch = applyBuf (s.core k).scratch (s.core k).spBuf ∧
          (t.core k).acc = applyBuf (s.core k).acc (s.core k).accBuf ∧ (t.core k).tasks = (s.core k).tasks ∧
          (t.core k).budget.level.toNat = (if (s.core k).run = .running then
            Nat.min ((s.core k).budget.level.toNat + (s.core k).budget.refill.toNat) (s.core k).budget.cap.toNat
            else (s.core k).budget.level.toNat)) ∧
        ((∀ e ∈ s.mboxes, e.2.pkts = []) → ∀ x ∈ s.timers, x.clock = some p → x.due ≤ (s.part p).tick + 1 →
          (∀ r, x.ev ≠ .barrierRequestArrival r) → .event x.who x.ev ∈ t.agenda)) ∧
    (∃ t, exec .ringCycle s = .next t ∧ t.ringCyc = s.ringCyc + 1 ∧ SameMems s t ∧ t.cores = s.cores ∧
      ((∀ e ∈ s.dies, e.2.slots = [] ∧ e.2.queues = []) → t = { s with ringCyc := s.ringCyc + 1 }) ∧
      ∀ (d : Nat) (x : Die), d < 32 → s.dies = [(d, x)] → x.clockOff = false →
        let c := s.ringCyc
        let leaves (e : Nat × RingPkt) : Prop := (e.1 + c) % 128 = e.2.dst ∧ Config.ringFull d (e.1 / 128) c = false
        (∀ e ∈ x.slots, ¬ leaves e → e ∈ (t.die d).slots) ∧
        (∀ e, x.slots = [e] → x.queues = [] → e.2.next = [] → leaves e → (t.die d).slots = [] ∧ (t.die d).taken = x.taken + 1) ∧
        (∀ y, x.slots = [] → x.queues = [y] → y.flit = none → y.again = false → y.src < 128 →
          let owner (l : Nat) : Nat := (x.ringEntry ((c + 1024 - y.src) % 1024)).toNat / 2 ^ (8 * l) % 128
          let q := s.part y.part
          let steals := 16 - (if s.wall.toNat % 16 = 0 then q.levelWas else q.level) ≤ (s.wall.toNat + 2 ^ 64 - 1) % 16
          (c < y.ready ∨ steals ∨ (∀ l, l < 4 → owner l ≠ y.src ∧ (owner l = 127 → q.fl = true)) →
            t = { s with ringCyc := c + 1 }) ∧
          (y.ready ≤ c → ¬ steals → ∀ l, l < 4 → owner l = y.src ∨ (owner l = 127 ∧ q.fl = false) →
            (∀ j, j < l → owner j ≠ y.src ∧ (owner j = 127 → q.fl = true)) →
            (t.die d).queues = [] ∧ (t.die d).slots = [(l * 128 + (y.src + 128 - c % 128) % 128, y)]))) ∧
    (∃ t, exec .meshCycle s = .next t ∧ t.meshCyc = s.meshCyc + 1 ∧ SameMems s t ∧
      ((∀ e ∈ s.dies, e.2.flits = []) → t = { s with meshCyc := s.meshCyc + 1 }) ∧
      ∀ (d : Nat) (x : Die) (f : Flit), s.dies = [(d, x)] → x.flits = [f] → x.linksOff = [] → x.linkBack = [] →
        x.clockOff = false → f.die = d → f.head ≤ s.meshCyc → let out := route f.vc d f.goal
        out.leaves d = false → (t.die d).flits = [] ∧ (t.die (out.nextDie d)).flits = [{ f with
          die := out.nextDie d, inp := out.facing, head := s.meshCyc + 6, age := 0, promoted := false }]) ∧
    (∀ (d : Nat) (out : Port) (vc : Nat), s.ev = .flitPromotion d out vc → d < 32 → ∃ t, exec .flitPromotion s = .next t ∧
      t = { s with dies := t.dies } ∧ (∀ e, e ≠ d → t.die e = s.die e) ∧
      (∀ f ∈ headFlits (s.die d).flits s.meshCyc, f.vc.val = vc → route f.vc f.die f.goal = out →
        (s.die d).meshcfg.toNat / 2 ^ 16 % 2 ^ 10 ≤ f.age → { f with promoted := true } ∈ (t.die d).flits) ∧
      (t.die d).flits.map (fun f => { f with promoted := false }) = (s.die d).flits.map (fun f => { f with promoted := false })) ∧
    (∀ (port : Nat) (f : ChegenFlit), (s.link port).off = false → (s.link port).back = none →
      (∀ i, (i, s.ev) ∈ [(Instr.ack, Ev.ack port f), (.credit, .credit port f), (.idle, .idle port f)] →
        (f.good = true → f.broken = false → ∃ t, exec i s = .next t ∧ OnlyLink port s t ∧
          (t.link port).rxSeq = (s.link port).rxSeq ∧ (t.link port).output = (s.link port).output ∧
          ((s.link port).unsent = [] → linkTook (s.link port) f (t.link port) ∧
            (t.link port).wire = (s.link port).wire))) ∧
      (f.good = false → s.ev = .data port f → ∃ t x, exec .data s = .next t ∧ OnlyLink port s t ∧
        t.link port = { s.link port with wire := (s.link port).wire ++ [x] } ∧ x.type = 4 ∧
        x.ackn = (s.link port).ackn.toNat) ∧
      (f.good = true → f.broken = false → s.ev = .data port f →
        (f.seq = (s.link port).rxSeq.toNat → ∃ t, exec .data s = .next t ∧ SameMems s t ∧
          (t.link port).rxSeq = (s.link port).rxSeq + 1 ∧ (t.link port).ackn = BitVec.ofNat 12 f.seq ∧
          ((s.link port).unsent = [] → linkTook (s.link port) f (t.link port) ∧ ∃ x,
            (t.link port).wire = (s.link port).wire ++ [x] ∧ x.type = 3 ∧ x.vc = f.vc ∧ x.cred = 1 ∧ x.ackn = f.seq % 4096)) ∧
        (f.seq ≠ (s.link port).rxSeq.toNat → ∃ t, exec .data s = .next t ∧ OnlyLink port s t ∧
          (t.link port).rxSeq = (s.link port).rxSeq ∧ (t.link port).output = (s.link port).output)) ∧
      (f.good = true → f.broken = false → s.ev = .nak port f → ∃ t, exec .nak s = .next t ∧ SameMems s t ∧
        ((s.link port).unsent = [] → linkTook (s.link port) f (t.link port) ∧
          (t.link port).wire = (s.link port).wire ++ (t.link port).outbox.map (fun x => x.1)))) ∧
    (∀ port : Nat,
      (s.ev = .linkRetrain port false → ∃ t, exec .linkRetrain s = .next t ∧ SameMems s t ∧
        t.link port = { s.link port with
          outbox := (s.link port).outbox.map (fun x => (x.1, 0)), back := some (s.wall.toNat + 1024) } ∧
        ∃ x ∈ t.timers, x.due = s.wall.toNat + 1024 ∧ x.clock = none ∧ x.ev = .linkRetrainDone (.port port) true) ∧
      (s.ev = .linkRetrainDone (.port port) true → port < 16 → (s.link port).back ≠ none →
        ∃ t, exec .linkRetrainDone s = .next t ∧ OnlyLink port s t ∧
        t.link port = { s.link port with
          back := none, wire := (s.link port).wire ++ (s.link port).outbox.map (fun x => x.1) }) ∧
      (s.ev = .linkRetrainDone (.port port) false → port < 16 → (s.link port).back ≠ none →
        ∃ t, exec .linkRetrainDone s = .next t ∧ (t.link port).off = true ∧ (t.link port).back = none)) ∧
    (∀ (d : Nat) (l : Fin 4), s.ev = .ringLaneFailure d l → d < 32 → ∃ t, exec .ringLaneFailure s = .next t ∧ SameMems s t ∧
      ((s.die d).bad = false → (s.die d).spl = 7 → (t.die d).spl.toNat = l.val ∧ (∀ e ∈ (t.die d).slots, e.1 / 128 ≠ l.val) ∧
        ∀ e ∈ (s.die d).slots, e.1 / 128 = l.val → { e.2 with again := true } ∈ (t.die d).queues) ∧
      ((s.die d).bad = false → (s.die d).spl ≠ 7 → t = s.setDie d { s.die d with bad := true }) ∧
      ((s.die d).bad = true →
        t = { s with agenda := .event s.cur (.ringTableError d 0 l .laneFailure) :: s.agenda })) ∧
    (∀ (d : Nat) (out : Port), s.ev = .meshLaneFailure (.mesh d out) → d < 32 → out.leads d = true →
      out ∉ (s.die d).linksOff →
      ∃ t, exec .meshLaneFailure s = .next t ∧ SameMems s t ∧
        (Tbl.getD (s.die d).spares out.idx.val false = false → Tbl.getD (t.die d).spares out.idx.val false = true ∧
          out ∉ (t.die d).linksOff) ∧
        (Tbl.getD (s.die d).spares out.idx.val false = true → out ∈ (t.die d).linksOff)) ∧
    (∀ port : Nat, s.ev = .meshLaneFailure (.port port) → port < 16 → (s.link port).off = false →
      ∃ t, exec .meshLaneFailure s = .next t ∧ SameMems s t ∧
        ((s.link port).spare = false → t.link port = { s.link port with
          spare := true, outbox := (s.link port).outbox.map (fun x => (x.1, 0)), back := some (s.wall.toNat + 1024) }) ∧
        ((s.link port).spare = true → (t.link port).off = true ∧ (t.link port).back = none)) ∧
    (∀ (q n : Nat) (w : Option (List Byte)), s.ev = .hostDramAccess q w n → s.endpoint.queue = [] →
      let len := match w with
        | none => n
        | some bs => bs.length
      let opened := q + len ≤ 2 ^ 40 ∧ ∀ a, q ≤ a → a < q + len → a / 65536 ∈ s.endpoint.pages
      let free := ∀ l, q / 64 ≤ l → l * 64 < q + len → (s.line l).pins = [] ∧ (s.line l).resv = none
      (∀ bs, w = some bs → opened → free → ∃ t, exec .hostDramAccess s = .next t ∧ SameBytesOutside q bs.length s t ∧
        Memory.load t.mem q bs.length = bs) ∧
      (w = none → opened → free → ∃ t, exec .hostDramAccess s = .next t ∧ SameBytes s t ∧
        t.endpoint.notices = s.endpoint.notices ++ [.hostData (Memory.load s.mem q n)]) ∧
      (0 < len → ¬ opened → exec .hostDramAccess s = .next (s.notify (.unsupportedRequest q))))
end

