-- ==== Sys2Proof/Laws/State.lean ====
section
/-! SUPPORT. What each update of the state leaves alone, and what the tables read after it: one lemma per field and
update, so that no proof unfolds a record update. -/

namespace Sys2Proof

/-! ## Keyed tables -/

/-- Reading the key that was set. -/
theorem Tbl.get?_set_self {α : Type} (t : Tbl α) (k : Nat) (v : α) : Tbl.get? (Tbl.set t k v) k = some v := by
  induction t with
  | nil => simp [Tbl.set, Tbl.get?]
  | cons e rest ih =>
    obtain ⟨a, b⟩ := e
    simp only [Tbl.set]
    split
    · simp [Tbl.get?]
    · split
      · simp [Tbl.get?]
      · rename_i h1 h2
        simp [Tbl.get?, Ne.symm h2, ih]

/-- Reading any other key. -/
theorem Tbl.get?_set_ne {α : Type} (t : Tbl α) (k j : Nat) (v : α) (h : j ≠ k) :
    Tbl.get? (Tbl.set t k v) j = Tbl.get? t j := by
  induction t with
  | nil => simp [Tbl.set, Tbl.get?, Ne.symm h]
  | cons e rest ih =>
    obtain ⟨a, b⟩ := e
    simp only [Tbl.set]
    split
    · simp [Tbl.get?, Ne.symm h]
    · split
      · rename_i h1 h2
        subst h2
        simp [Tbl.get?, Ne.symm h]
      · simp only [Tbl.get?, ih]

/-- Reading the key that was set. -/
@[simp] theorem Tbl.getD_set_self {α : Type} (t : Tbl α) (k : Nat) (v d : α) : Tbl.getD (Tbl.set t k v) k d = v := by
  simp [Tbl.getD, Tbl.get?_set_self]

/-- Reading any other key. -/
theorem Tbl.getD_set_ne {α : Type} (t : Tbl α) (k j : Nat) (v d : α) (h : j ≠ k) :
    Tbl.getD (Tbl.set t k v) j d = Tbl.getD t j d := by
  simp [Tbl.getD, Tbl.get?_set_ne t k j v h]

/-- Setting a key twice keeps the later value. -/
@[simp] theorem Tbl.set_set {α : Type} (t : Tbl α) (k : Nat) (v w : α) : Tbl.set (Tbl.set t k v) k w = Tbl.set t k w := by
  induction t with
  | nil => simp [Tbl.set]
  | cons e rest ih =>
    obtain ⟨a, b⟩ := e
    by_cases h1 : k < a
    · simp [Tbl.set, h1]
    · by_cases h2 : k = a
      · subst h2
        simp [Tbl.set]
      · simp [Tbl.set, h1, h2, ih]

end Sys2Proof

namespace Sys2Proof.Machine

/-! ## What each update leaves alone -/


@[simp] theorem State.setPart_wall (s : State) (p : Nat) (x : Part) : (s.setPart p x).wall = s.wall := rfl
@[simp] theorem State.setPart_meshCyc (s : State) (p : Nat) (x : Part) : (s.setPart p x).meshCyc = s.meshCyc := rfl
@[simp] theorem State.setPart_ringCyc (s : State) (p : Nat) (x : Part) : (s.setPart p x).ringCyc = s.ringCyc := rfl
@[simp] theorem State.setPart_cur (s : State) (p : Nat) (x : Part) : (s.setPart p x).cur = s.cur := rfl
@[simp] theorem State.setPart_agenda (s : State) (p : Nat) (x : Part) : (s.setPart p x).agenda = s.agenda := rfl
@[simp] theorem State.setPart_timers (s : State) (p : Nat) (x : Part) : (s.setPart p x).timers = s.timers := rfl
@[simp] theorem State.setPart_inputs (s : State) (p : Nat) (x : Part) : (s.setPart p x).inputs = s.inputs := rfl
@[simp] theorem State.setPart_ev (s : State) (p : Nat) (x : Part) : (s.setPart p x).ev = s.ev := rfl
@[simp] theorem State.setPart_fresh (s : State) (p : Nat) (x : Part) : (s.setPart p x).fresh = s.fresh := rfl
@[simp] theorem State.setPart_mboxes (s : State) (p : Nat) (x : Part) : (s.setPart p x).mboxes = s.mboxes := rfl
@[simp] theorem State.setPart_cores (s : State) (p : Nat) (x : Part) : (s.setPart p x).cores = s.cores := rfl
@[simp] theorem State.setPart_dies (s : State) (p : Nat) (x : Part) : (s.setPart p x).dies = s.dies := rfl
@[simp] theorem State.setPart_lines (s : State) (p : Nat) (x : Part) : (s.setPart p x).lines = s.lines := rfl
@[simp] theorem State.setPart_slices (s : State) (p : Nat) (x : Part) : (s.setPart p x).slices = s.slices := rfl
@[simp] theorem State.setPart_streams (s : State) (p : Nat) (x : Part) : (s.setPart p x).streams = s.streams := rfl
@[simp] theorem State.setPart_mem (s : State) (p : Nat) (x : Part) : (s.setPart p x).mem = s.mem := rfl
@[simp] theorem State.setPart_channels (s : State) (p : Nat) (x : Part) : (s.setPart p x).channels = s.channels := rfl
@[simp] theorem State.setPart_links (s : State) (p : Nat) (x : Part) : (s.setPart p x).links = s.links := rfl
@[simp] theorem State.setPart_boot (s : State) (p : Nat) (x : Part) : (s.setPart p x).boot = s.boot := rfl
@[simp] theorem State.setPart_endpoint (s : State) (p : Nat) (x : Part) : (s.setPart p x).endpoint = s.endpoint := rfl

@[simp] theorem State.setCore_wall (s : State) (k : Nat) (x : Core) : (s.setCore k x).wall = s.wall := rfl
@[simp] theorem State.setCore_meshCyc (s : State) (k : Nat) (x : Core) : (s.setCore k x).meshCyc = s.meshCyc := rfl
@[simp] theorem State.setCore_ringCyc (s : State) (k : Nat) (x : Core) : (s.setCore k x).ringCyc = s.ringCyc := rfl
@[simp] theorem State.setCore_cur (s : State) (k : Nat) (x : Core) : (s.setCore k x).cur = s.cur := rfl
@[simp] theorem State.setCore_agenda (s : State) (k : Nat) (x : Core) : (s.setCore k x).agenda = s.agenda := rfl
@[simp] theorem State.setCore_timers (s : State) (k : Nat) (x : Core) : (s.setCore k x).timers = s.timers := rfl
@[simp] theorem State.setCore_inputs (s : State) (k : Nat) (x : Core) : (s.setCore k x).inputs = s.inputs := rfl
@[simp] theorem State.setCore_ev (s : State) (k : Nat) (x : Core) : (s.setCore k x).ev = s.ev := rfl
@[simp] theorem State.setCore_fresh (s : State) (k : Nat) (x : Core) : (s.setCore k x).fresh = s.fresh := rfl
@[simp] theorem State.setCore_parts (s : State) (k : Nat) (x : Core) : (s.setCore k x).parts = s.parts := rfl
@[simp] theorem State.setCore_mboxes (s : State) (k : Nat) (x : Core) : (s.setCore k x).mboxes = s.mboxes := rfl
@[simp] theorem State.setCore_dies (s : State) (k : Nat) (x : Core) : (s.setCore k x).dies = s.dies := rfl
@[simp] theorem State.setCore_lines (s : State) (k : Nat) (x : Core) : (s.setCore k x).lines = s.lines := rfl
@[simp] theorem State.setCore_slices (s : State) (k : Nat) (x : Core) : (s.setCore k x).slices = s.slices := rfl
@[simp] theorem State.setCore_streams (s : State) (k : Nat) (x : Core) : (s.setCore k x).streams = s.streams := rfl
@[simp] theorem State.setCore_mem (s : State) (k : Nat) (x : Core) : (s.setCore k x).mem = s.mem := rfl
@[simp] theorem State.setCore_channels (s : State) (k : Nat) (x : Core) : (s.setCore k x).channels = s.channels := rfl
@[simp] theorem State.setCore_links (s : State) (k : Nat) (x : Core) : (s.setCore k x).links = s.links := rfl
@[simp] theorem State.setCore_boot (s : State) (k : Nat) (x : Core) : (s.setCore k x).boot = s.boot := rfl
@[simp] theorem State.setCore_endpoint (s : State) (k : Nat) (x : Core) : (s.setCore k x).endpoint = s.endpoint := rfl

@[simp] theorem State.setDie_wall (s : State) (d : Nat) (x : Die) : (s.setDie d x).wall = s.wall := rfl
@[simp] theorem State.setDie_meshCyc (s : State) (d : Nat) (x : Die) : (s.setDie d x).meshCyc = s.meshCyc := rfl
@[simp] theorem State.setDie_ringCyc (s : State) (d : Nat) (x : Die) : (s.setDie d x).ringCyc = s.ringCyc := rfl
@[simp] theorem State.setDie_cur (s : State) (d : Nat) (x : Die) : (s.setDie d x).cur = s.cur := rfl
@[simp] theorem State.setDie_agenda (s : State) (d : Nat) (x : Die) : (s.setDie d x).agenda = s.agenda := rfl
@[simp] theorem State.setDie_timers (s : State) (d : Nat) (x : Die) : (s.setDie d x).timers = s.timers := rfl
@[simp] theorem State.setDie_inputs (s : State) (d : Nat) (x : Die) : (s.setDie d x).inputs = s.inputs := rfl
@[simp] theorem State.setDie_ev (s : State) (d : Nat) (x : Die) : (s.setDie d x).ev = s.ev := rfl
@[simp] theorem State.setDie_fresh (s : State) (d : Nat) (x : Die) : (s.setDie d x).fresh = s.fresh := rfl
@[simp] theorem State.setDie_parts (s : State) (d : Nat) (x : Die) : (s.setDie d x).parts = s.parts := rfl
@[simp] theorem State.setDie_mboxes (s : State) (d : Nat) (x : Die) : (s.setDie d x).mboxes = s.mboxes := rfl
@[simp] theorem State.setDie_cores (s : State) (d : Nat) (x : Die) : (s.setDie d x).cores = s.cores := rfl
@[simp] theorem State.setDie_lines (s : State) (d : Nat) (x : Die) : (s.setDie d x).lines = s.lines := rfl
@[simp] theorem State.setDie_slices (s : State) (d : Nat) (x : Die) : (s.setDie d x).slices = s.slices := rfl
@[simp] theorem State.setDie_streams (s : State) (d : Nat) (x : Die) : (s.setDie d x).streams = s.streams := rfl
@[simp] theorem State.setDie_mem (s : State) (d : Nat) (x : Die) : (s.setDie d x).mem = s.mem := rfl
@[simp] theorem State.setDie_channels (s : State) (d : Nat) (x : Die) : (s.setDie d x).channels = s.channels := rfl
@[simp] theorem State.setDie_links (s : State) (d : Nat) (x : Die) : (s.setDie d x).links = s.links := rfl
@[simp] theorem State.setDie_boot (s : State) (d : Nat) (x : Die) : (s.setDie d x).boot = s.boot := rfl
@[simp] theorem State.setDie_endpoint (s : State) (d : Nat) (x : Die) : (s.setDie d x).endpoint = s.endpoint := rfl

@[simp] theorem State.setMbox_wall (s : State) (m : Nat) (x : Mbox) : (s.setMbox m x).wall = s.wall := rfl
@[simp] theorem State.setMbox_meshCyc (s : State) (m : Nat) (x : Mbox) : (s.setMbox m x).meshCyc = s.meshCyc := rfl
@[simp] theorem State.setMbox_ringCyc (s : State) (m : Nat) (x : Mbox) : (s.setMbox m x).ringCyc = s.ringCyc := rfl
@[simp] theorem State.setMbox_cur (s : State) (m : Nat) (x : Mbox) : (s.setMbox m x).cur = s.cur := rfl
@[simp] theorem State.setMbox_agenda (s : State) (m : Nat) (x : Mbox) : (s.setMbox m x).agenda = s.agenda := rfl
@[simp] theorem State.setMbox_timers (s : State) (m : Nat) (x : Mbox) : (s.setMbox m x).timers = s.timers := rfl
@[simp] theorem State.setMbox_inputs (s : State) (m : Nat) (x : Mbox) : (s.setMbox m x).inputs = s.inputs := rfl
@[simp] theorem State.setMbox_ev (s : State) (m : Nat) (x : Mbox) : (s.setMbox m x).ev = s.ev := rfl
@[simp] theorem State.setMbox_fresh (s : State) (m : Nat) (x : Mbox) : (s.setMbox m x).fresh = s.fresh := rfl
@[simp] theorem State.setMbox_parts (s : State) (m : Nat) (x : Mbox) : (s.setMbox m x).parts = s.parts := rfl
@[simp] theorem State.setMbox_cores (s : State) (m : Nat) (x : Mbox) : (s.setMbox m x).cores = s.cores := rfl
@[simp] theorem State.setMbox_dies (s : State) (m : Nat) (x : Mbox) : (s.setMbox m x).dies = s.dies := rfl
@[simp] theorem State.setMbox_lines (s : State) (m : Nat) (x : Mbox) : (s.setMbox m x).lines = s.lines := rfl
@[simp] theorem State.setMbox_slices (s : State) (m : Nat) (x : Mbox) : (s.setMbox m x).slices = s.slices := rfl
@[simp] theorem State.setMbox_streams (s : State) (m : Nat) (x : Mbox) : (s.setMbox m x).streams = s.streams := rfl
@[simp] theorem State.setMbox_mem (s : State) (m : Nat) (x : Mbox) : (s.setMbox m x).mem = s.mem := rfl
@[simp] theorem State.setMbox_channels (s : State) (m : Nat) (x : Mbox) : (s.setMbox m x).channels = s.channels := rfl
@[simp] theorem State.setMbox_links (s : State) (m : Nat) (x : Mbox) : (s.setMbox m x).links = s.links := rfl
@[simp] theorem State.setMbox_boot (s : State) (m : Nat) (x : Mbox) : (s.setMbox m x).boot = s.boot := rfl
@[simp] theorem State.setMbox_endpoint (s : State) (m : Nat) (x : Mbox) : (s.setMbox m x).endpoint = s.endpoint := rfl

@[simp] theorem State.setSlice_wall (s : State) (k : Nat) (x : Slice) : (s.setSlice k x).wall = s.wall := rfl
@[simp] theorem State.setSlice_meshCyc (s : State) (k : Nat) (x : Slice) : (s.setSlice k x).meshCyc = s.meshCyc := rfl
@[simp] theorem State.setSlice_ringCyc (s : State) (k : Nat) (x : Slice) : (s.setSlice k x).ringCyc = s.ringCyc := rfl
@[simp] theorem State.setSlice_cur (s : State) (k : Nat) (x : Slice) : (s.setSlice k x).cur = s.cur := rfl
@[simp] theorem State.setSlice_agenda (s : State) (k : Nat) (x : Slice) : (s.setSlice k x).agenda = s.agenda := rfl
@[simp] theorem State.setSlice_timers (s : State) (k : Nat) (x : Slice) : (s.setSlice k x).timers = s.timers := rfl
@[simp] theorem State.setSlice_inputs (s : State) (k : Nat) (x : Slice) : (s.setSlice k x).inputs = s.inputs := rfl
@[simp] theorem State.setSlice_ev (s : State) (k : Nat) (x : Slice) : (s.setSlice k x).ev = s.ev := rfl
@[simp] theorem State.setSlice_fresh (s : State) (k : Nat) (x : Slice) : (s.setSlice k x).fresh = s.fresh := rfl
@[simp] theorem State.setSlice_parts (s : State) (k : Nat) (x : Slice) : (s.setSlice k x).parts = s.parts := rfl
@[simp] theorem State.setSlice_mboxes (s : State) (k : Nat) (x : Slice) : (s.setSlice k x).mboxes = s.mboxes := rfl
@[simp] theorem State.setSlice_cores (s : State) (k : Nat) (x : Slice) : (s.setSlice k x).cores = s.cores := rfl
@[simp] theorem State.setSlice_dies (s : State) (k : Nat) (x : Slice) : (s.setSlice k x).dies = s.dies := rfl
@[simp] theorem State.setSlice_lines (s : State) (k : Nat) (x : Slice) : (s.setSlice k x).lines = s.lines := rfl
@[simp] theorem State.setSlice_streams (s : State) (k : Nat) (x : Slice) : (s.setSlice k x).streams = s.streams := rfl
@[simp] theorem State.setSlice_mem (s : State) (k : Nat) (x : Slice) : (s.setSlice k x).mem = s.mem := rfl
@[simp] theorem State.setSlice_channels (s : State) (k : Nat) (x : Slice) : (s.setSlice k x).channels = s.channels := rfl
@[simp] theorem State.setSlice_links (s : State) (k : Nat) (x : Slice) : (s.setSlice k x).links = s.links := rfl
@[simp] theorem State.setSlice_boot (s : State) (k : Nat) (x : Slice) : (s.setSlice k x).boot = s.boot := rfl
@[simp] theorem State.setSlice_endpoint (s : State) (k : Nat) (x : Slice) : (s.setSlice k x).endpoint = s.endpoint := rfl

@[simp] theorem State.setLink_wall (s : State) (p : Nat) (x : Link) : (s.setLink p x).wall = s.wall := rfl
@[simp] theorem State.setLink_meshCyc (s : State) (p : Nat) (x : Link) : (s.setLink p x).meshCyc = s.meshCyc := rfl
@[simp] theorem State.setLink_ringCyc (s : State) (p : Nat) (x : Link) : (s.setLink p x).ringCyc = s.ringCyc := rfl
@[simp] theorem State.setLink_cur (s : State) (p : Nat) (x : Link) : (s.setLink p x).cur = s.cur := rfl
@[simp] theorem State.setLink_agenda (s : State) (p : Nat) (x : Link) : (s.setLink p x).agenda = s.agenda := rfl
@[simp] theorem State.setLink_timers (s : State) (p : Nat) (x : Link) : (s.setLink p x).timers = s.timers := rfl
@[simp] theorem State.setLink_inputs (s : State) (p : Nat) (x : Link) : (s.setLink p x).inputs = s.inputs := rfl
@[simp] theorem State.setLink_ev (s : State) (p : Nat) (x : Link) : (s.setLink p x).ev = s.ev := rfl
@[simp] theorem State.setLink_fresh (s : State) (p : Nat) (x : Link) : (s.setLink p x).fresh = s.fresh := rfl
@[simp] theorem State.setLink_parts (s : State) (p : Nat) (x : Link) : (s.setLink p x).parts = s.parts := rfl
@[simp] theorem State.setLink_mboxes (s : State) (p : Nat) (x : Link) : (s.setLink p x).mboxes = s.mboxes := rfl
@[simp] theorem State.setLink_cores (s : State) (p : Nat) (x : Link) : (s.setLink p x).cores = s.cores := rfl
@[simp] theorem State.setLink_dies (s : State) (p : Nat) (x : Link) : (s.setLink p x).dies = s.dies := rfl
@[simp] theorem State.setLink_lines (s : State) (p : Nat) (x : Link) : (s.setLink p x).lines = s.lines := rfl
@[simp] theorem State.setLink_slices (s : State) (p : Nat) (x : Link) : (s.setLink p x).slices = s.slices := rfl
@[simp] theorem State.setLink_streams (s : State) (p : Nat) (x : Link) : (s.setLink p x).streams = s.streams := rfl
@[simp] theorem State.setLink_mem (s : State) (p : Nat) (x : Link) : (s.setLink p x).mem = s.mem := rfl
@[simp] theorem State.setLink_channels (s : State) (p : Nat) (x : Link) : (s.setLink p x).channels = s.channels := rfl
@[simp] theorem State.setLink_boot (s : State) (p : Nat) (x : Link) : (s.setLink p x).boot = s.boot := rfl
@[simp] theorem State.setLink_endpoint (s : State) (p : Nat) (x : Link) : (s.setLink p x).endpoint = s.endpoint := rfl

@[simp] theorem State.setLine_wall (s : State) (l : Nat) (x : Line) : (s.setLine l x).wall = s.wall := rfl
@[simp] theorem State.setLine_meshCyc (s : State) (l : Nat) (x : Line) : (s.setLine l x).meshCyc = s.meshCyc := rfl
@[simp] theorem State.setLine_ringCyc (s : State) (l : Nat) (x : Line) : (s.setLine l x).ringCyc = s.ringCyc := rfl
@[simp] theorem State.setLine_cur (s : State) (l : Nat) (x : Line) : (s.setLine l x).cur = s.cur := rfl
@[simp] theorem State.setLine_agenda (s : State) (l : Nat) (x : Line) : (s.setLine l x).agenda = s.agenda := rfl
@[simp] theorem State.setLine_timers (s : State) (l : Nat) (x : Line) : (s.setLine l x).timers = s.timers := rfl
@[simp] theorem State.setLine_inputs (s : State) (l : Nat) (x : Line) : (s.setLine l x).inputs = s.inputs := rfl
@[simp] theorem State.setLine_ev (s : State) (l : Nat) (x : Line) : (s.setLine l x).ev = s.ev := rfl
@[simp] theorem State.setLine_fresh (s : State) (l : Nat) (x : Line) : (s.setLine l x).fresh = s.fresh := rfl
@[simp] theorem State.setLine_parts (s : State) (l : Nat) (x : Line) : (s.setLine l x).parts = s.parts := rfl
@[simp] theorem State.setLine_mboxes (s : State) (l : Nat) (x : Line) : (s.setLine l x).mboxes = s.mboxes := rfl
@[simp] theorem State.setLine_cores (s : State) (l : Nat) (x : Line) : (s.setLine l x).cores = s.cores := rfl
@[simp] theorem State.setLine_dies (s : State) (l : Nat) (x : Line) : (s.setLine l x).dies = s.dies := rfl
@[simp] theorem State.setLine_slices (s : State) (l : Nat) (x : Line) : (s.setLine l x).slices = s.slices := rfl
@[simp] theorem State.setLine_streams (s : State) (l : Nat) (x : Line) : (s.setLine l x).streams = s.streams := rfl
@[simp] theorem State.setLine_mem (s : State) (l : Nat) (x : Line) : (s.setLine l x).mem = s.mem := rfl
@[simp] theorem State.setLine_channels (s : State) (l : Nat) (x : Line) : (s.setLine l x).channels = s.channels := rfl
@[simp] theorem State.setLine_links (s : State) (l : Nat) (x : Line) : (s.setLine l x).links = s.links := rfl
@[simp] theorem State.setLine_boot (s : State) (l : Nat) (x : Line) : (s.setLine l x).boot = s.boot := rfl
@[simp] theorem State.setLine_endpoint (s : State) (l : Nat) (x : Line) : (s.setLine l x).endpoint = s.endpoint := rfl

@[simp] theorem State.setStream_wall (s : State) (m : Stream) (x : StreamState) : (s.setStream m x).wall = s.wall := rfl
@[simp] theorem State.setStream_meshCyc (s : State) (m : Stream) (x : StreamState) : (s.setStream m x).meshCyc = s.meshCyc := rfl
@[simp] theorem State.setStream_ringCyc (s : State) (m : Stream) (x : StreamState) : (s.setStream m x).ringCyc = s.ringCyc := rfl
@[simp] theorem State.setStream_cur (s : State) (m : Stream) (x : StreamState) : (s.setStream m x).cur = s.cur := rfl
@[simp] theorem State.setStream_agenda (s : State) (m : Stream) (x : StreamState) : (s.setStream m x).agenda = s.agenda := rfl
@[simp] theorem State.setStream_timers (s : State) (m : Stream) (x : StreamState) : (s.setStream m x).timers = s.timers := rfl
@[simp] theorem State.setStream_inputs (s : State) (m : Stream) (x : StreamState) : (s.setStream m x).inputs = s.inputs := rfl
@[simp] theorem State.setStream_ev (s : State) (m : Stream) (x : StreamState) : (s.setStream m x).ev = s.ev := rfl
@[simp] theorem State.setStream_fresh (s : State) (m : Stream) (x : StreamState) : (s.setStream m x).fresh = s.fresh := rfl
@[simp] theorem State.setStream_parts (s : State) (m : Stream) (x : StreamState) : (s.setStream m x).parts = s.parts := rfl
@[simp] theorem State.setStream_mboxes (s : State) (m : Stream) (x : StreamState) : (s.setStream m x).mboxes = s.mboxes := rfl
@[simp] theorem State.setStream_cores (s : State) (m : Stream) (x : StreamState) : (s.setStream m x).cores = s.cores := rfl
@[simp] theorem State.setStream_dies (s : State) (m : Stream) (x : StreamState) : (s.setStream m x).dies = s.dies := rfl
@[simp] theorem State.setStream_lines (s : State) (m : Stream) (x : StreamState) : (s.setStream m x).lines = s.lines := rfl
@[simp] theorem State.setStream_slices (s : State) (m : Stream) (x : StreamState) : (s.setStream m x).slices = s.slices := rfl
@[simp] theorem State.setStream_mem (s : State) (m : Stream) (x : StreamState) : (s.setStream m x).mem = s.mem := rfl
@[simp] theorem State.setStream_channels (s : State) (m : Stream) (x : StreamState) : (s.setStream m x).channels = s.channels := rfl
@[simp] theorem State.setStream_links (s : State) (m : Stream) (x : StreamState) : (s.setStream m x).links = s.links := rfl
@[simp] theorem State.setStream_boot (s : State) (m : Stream) (x : StreamState) : (s.setStream m x).boot = s.boot := rfl
@[simp] theorem State.setStream_endpoint (s : State) (m : Stream) (x : StreamState) : (s.setStream m x).endpoint = s.endpoint := rfl

@[simp] theorem State.setMe_wall (s : State) (x : Core) : (s.setMe x).wall = s.wall := rfl
@[simp] theorem State.setMe_meshCyc (s : State) (x : Core) : (s.setMe x).meshCyc = s.meshCyc := rfl
@[simp] theorem State.setMe_ringCyc (s : State) (x : Core) : (s.setMe x).ringCyc = s.ringCyc := rfl
@[simp] theorem State.setMe_cur (s : State) (x : Core) : (s.setMe x).cur = s.cur := rfl
@[simp] theorem State.setMe_agenda (s : State) (x : Core) : (s.setMe x).agenda = s.agenda := rfl
@[simp] theorem State.setMe_timers (s : State) (x : Core) : (s.setMe x).timers = s.timers := rfl
@[simp] theorem State.setMe_inputs (s : State) (x : Core) : (s.setMe x).inputs = s.inputs := rfl
@[simp] theorem State.setMe_ev (s : State) (x : Core) : (s.setMe x).ev = s.ev := rfl
@[simp] theorem State.setMe_fresh (s : State) (x : Core) : (s.setMe x).fresh = s.fresh := rfl
@[simp] theorem State.setMe_parts (s : State) (x : Core) : (s.setMe x).parts = s.parts := rfl
@[simp] theorem State.setMe_mboxes (s : State) (x : Core) : (s.setMe x).mboxes = s.mboxes := rfl
@[simp] theorem State.setMe_dies (s : State) (x : Core) : (s.setMe x).dies = s.dies := rfl
@[simp] theorem State.setMe_lines (s : State) (x : Core) : (s.setMe x).lines = s.lines := rfl
@[simp] theorem State.setMe_slices (s : State) (x : Core) : (s.setMe x).slices = s.slices := rfl
@[simp] theorem State.setMe_streams (s : State) (x : Core) : (s.setMe x).streams = s.streams := rfl
@[simp] theorem State.setMe_mem (s : State) (x : Core) : (s.setMe x).mem = s.mem := rfl
@[simp] theorem State.setMe_channels (s : State) (x : Core) : (s.setMe x).channels = s.channels := rfl
@[simp] theorem State.setMe_links (s : State) (x : Core) : (s.setMe x).links = s.links := rfl
@[simp] theorem State.setMe_boot (s : State) (x : Core) : (s.setMe x).boot = s.boot := rfl
@[simp] theorem State.setMe_endpoint (s : State) (x : Core) : (s.setMe x).endpoint = s.endpoint := rfl

@[simp] theorem State.setTask_wall (s : State) (x : Slot) : (s.setTask x).wall = s.wall := rfl
@[simp] theorem State.setTask_meshCyc (s : State) (x : Slot) : (s.setTask x).meshCyc = s.meshCyc := rfl
@[simp] theorem State.setTask_ringCyc (s : State) (x : Slot) : (s.setTask x).ringCyc = s.ringCyc := rfl
@[simp] theorem State.setTask_cur (s : State) (x : Slot) : (s.setTask x).cur = s.cur := rfl
@[simp] theorem State.setTask_agenda (s : State) (x : Slot) : (s.setTask x).agenda = s.agenda := rfl
@[simp] theorem State.setTask_timers (s : State) (x : Slot) : (s.setTask x).timers = s.timers := rfl
@[simp] theorem State.setTask_inputs (s : State) (x : Slot) : (s.setTask x).inputs = s.inputs := rfl
@[simp] theorem State.setTask_ev (s : State) (x : Slot) : (s.setTask x).ev = s.ev := rfl
@[simp] theorem State.setTask_fresh (s : State) (x : Slot) : (s.setTask x).fresh = s.fresh := rfl
@[simp] theorem State.setTask_parts (s : State) (x : Slot) : (s.setTask x).parts = s.parts := rfl
@[simp] theorem State.setTask_mboxes (s : State) (x : Slot) : (s.setTask x).mboxes = s.mboxes := rfl
@[simp] theorem State.setTask_dies (s : State) (x : Slot) : (s.setTask x).dies = s.dies := rfl
@[simp] theorem State.setTask_lines (s : State) (x : Slot) : (s.setTask x).lines = s.lines := rfl
@[simp] theorem State.setTask_slices (s : State) (x : Slot) : (s.setTask x).slices = s.slices := rfl
@[simp] theorem State.setTask_streams (s : State) (x : Slot) : (s.setTask x).streams = s.streams := rfl
@[simp] theorem State.setTask_mem (s : State) (x : Slot) : (s.setTask x).mem = s.mem := rfl
@[simp] theorem State.setTask_channels (s : State) (x : Slot) : (s.setTask x).channels = s.channels := rfl
@[simp] theorem State.setTask_links (s : State) (x : Slot) : (s.setTask x).links = s.links := rfl
@[simp] theorem State.setTask_boot (s : State) (x : Slot) : (s.setTask x).boot = s.boot := rfl
@[simp] theorem State.setTask_endpoint (s : State) (x : Slot) : (s.setTask x).endpoint = s.endpoint := rfl

@[simp] theorem State.setTaskOf_wall (s : State) (r : TaskRef) (x : Slot) : (s.setTaskOf r x).wall = s.wall := rfl
@[simp] theorem State.setTaskOf_meshCyc (s : State) (r : TaskRef) (x : Slot) : (s.setTaskOf r x).meshCyc = s.meshCyc := rfl
@[simp] theorem State.setTaskOf_ringCyc (s : State) (r : TaskRef) (x : Slot) : (s.setTaskOf r x).ringCyc = s.ringCyc := rfl
@[simp] theorem State.setTaskOf_cur (s : State) (r : TaskRef) (x : Slot) : (s.setTaskOf r x).cur = s.cur := rfl
@[simp] theorem State.setTaskOf_agenda (s : State) (r : TaskRef) (x : Slot) : (s.setTaskOf r x).agenda = s.agenda := rfl
@[simp] theorem State.setTaskOf_timers (s : State) (r : TaskRef) (x : Slot) : (s.setTaskOf r x).timers = s.timers := rfl
@[simp] theorem State.setTaskOf_inputs (s : State) (r : TaskRef) (x : Slot) : (s.setTaskOf r x).inputs = s.inputs := rfl
@[simp] theorem State.setTaskOf_ev (s : State) (r : TaskRef) (x : Slot) : (s.setTaskOf r x).ev = s.ev := rfl
@[simp] theorem State.setTaskOf_fresh (s : State) (r : TaskRef) (x : Slot) : (s.setTaskOf r x).fresh = s.fresh := rfl
@[simp] theorem State.setTaskOf_parts (s : State) (r : TaskRef) (x : Slot) : (s.setTaskOf r x).parts = s.parts := rfl
@[simp] theorem State.setTaskOf_mboxes (s : State) (r : TaskRef) (x : Slot) : (s.setTaskOf r x).mboxes = s.mboxes := rfl
@[simp] theorem State.setTaskOf_dies (s : State) (r : TaskRef) (x : Slot) : (s.setTaskOf r x).dies = s.dies := rfl
@[simp] theorem State.setTaskOf_lines (s : State) (r : TaskRef) (x : Slot) : (s.setTaskOf r x).lines = s.lines := rfl
@[simp] theorem State.setTaskOf_slices (s : State) (r : TaskRef) (x : Slot) : (s.setTaskOf r x).slices = s.slices := rfl
@[simp] theorem State.setTaskOf_streams (s : State) (r : TaskRef) (x : Slot) : (s.setTaskOf r x).streams = s.streams := rfl
@[simp] theorem State.setTaskOf_mem (s : State) (r : TaskRef) (x : Slot) : (s.setTaskOf r x).mem = s.mem := rfl
@[simp] theorem State.setTaskOf_channels (s : State) (r : TaskRef) (x : Slot) : (s.setTaskOf r x).channels = s.channels := rfl
@[simp] theorem State.setTaskOf_links (s : State) (r : TaskRef) (x : Slot) : (s.setTaskOf r x).links = s.links := rfl
@[simp] theorem State.setTaskOf_boot (s : State) (r : TaskRef) (x : Slot) : (s.setTaskOf r x).boot = s.boot := rfl
@[simp] theorem State.setTaskOf_endpoint (s : State) (r : TaskRef) (x : Slot) : (s.setTaskOf r x).endpoint = s.endpoint := rfl

@[simp] theorem State.atTick_wall (s : State) (w : Cur) (n : Nat) (e : Ev) : (s.atTick w n e).wall = s.wall := rfl
@[simp] theorem State.atTick_meshCyc (s : State) (w : Cur) (n : Nat) (e : Ev) : (s.atTick w n e).meshCyc = s.meshCyc := rfl
@[simp] theorem State.atTick_ringCyc (s : State) (w : Cur) (n : Nat) (e : Ev) : (s.atTick w n e).ringCyc = s.ringCyc := rfl
@[simp] theorem State.atTick_cur (s : State) (w : Cur) (n : Nat) (e : Ev) : (s.atTick w n e).cur = s.cur := rfl
@[simp] theorem State.atTick_agenda (s : State) (w : Cur) (n : Nat) (e : Ev) : (s.atTick w n e).agenda = s.agenda := rfl
@[simp] theorem State.atTick_inputs (s : State) (w : Cur) (n : Nat) (e : Ev) : (s.atTick w n e).inputs = s.inputs := rfl
@[simp] theorem State.atTick_ev (s : State) (w : Cur) (n : Nat) (e : Ev) : (s.atTick w n e).ev = s.ev := rfl
@[simp] theorem State.atTick_fresh (s : State) (w : Cur) (n : Nat) (e : Ev) : (s.atTick w n e).fresh = s.fresh := rfl
@[simp] theorem State.atTick_parts (s : State) (w : Cur) (n : Nat) (e : Ev) : (s.atTick w n e).parts = s.parts := rfl
@[simp] theorem State.atTick_mboxes (s : State) (w : Cur) (n : Nat) (e : Ev) : (s.atTick w n e).mboxes = s.mboxes := rfl
@[simp] theorem State.atTick_cores (s : State) (w : Cur) (n : Nat) (e : Ev) : (s.atTick w n e).cores = s.cores := rfl
@[simp] theorem State.atTick_dies (s : State) (w : Cur) (n : Nat) (e : Ev) : (s.atTick w n e).dies = s.dies := rfl
@[simp] theorem State.atTick_lines (s : State) (w : Cur) (n : Nat) (e : Ev) : (s.atTick w n e).lines = s.lines := rfl
@[simp] theorem State.atTick_slices (s : State) (w : Cur) (n : Nat) (e : Ev) : (s.atTick w n e).slices = s.slices := rfl
@[simp] theorem State.atTick_streams (s : State) (w : Cur) (n : Nat) (e : Ev) : (s.atTick w n e).streams = s.streams := rfl
@[simp] theorem State.atTick_mem (s : State) (w : Cur) (n : Nat) (e : Ev) : (s.atTick w n e).mem = s.mem := rfl
@[simp] theorem State.atTick_channels (s : State) (w : Cur) (n : Nat) (e : Ev) : (s.atTick w n e).channels = s.channels := rfl
@[simp] theorem State.atTick_links (s : State) (w : Cur) (n : Nat) (e : Ev) : (s.atTick w n e).links = s.links := rfl
@[simp] theorem State.atTick_boot (s : State) (w : Cur) (n : Nat) (e : Ev) : (s.atTick w n e).boot = s.boot := rfl
@[simp] theorem State.atTick_endpoint (s : State) (w : Cur) (n : Nat) (e : Ev) : (s.atTick w n e).endpoint = s.endpoint := rfl

@[simp] theorem State.atPartTick_wall (s : State) (p n : Nat) (e : Ev) : (s.atPartTick p n e).wall = s.wall := rfl
@[simp] theorem State.atPartTick_meshCyc (s : State) (p n : Nat) (e : Ev) : (s.atPartTick p n e).meshCyc = s.meshCyc := rfl
@[simp] theorem State.atPartTick_ringCyc (s : State) (p n : Nat) (e : Ev) : (s.atPartTick p n e).ringCyc = s.ringCyc := rfl
@[simp] theorem State.atPartTick_cur (s : State) (p n : Nat) (e : Ev) : (s.atPartTick p n e).cur = s.cur := rfl
@[simp] theorem State.atPartTick_agenda (s : State) (p n : Nat) (e : Ev) : (s.atPartTick p n e).agenda = s.agenda := rfl
@[simp] theorem State.atPartTick_inputs (s : State) (p n : Nat) (e : Ev) : (s.atPartTick p n e).inputs = s.inputs := rfl
@[simp] theorem State.atPartTick_ev (s : State) (p n : Nat) (e : Ev) : (s.atPartTick p n e).ev = s.ev := rfl
@[simp] theorem State.atPartTick_fresh (s : State) (p n : Nat) (e : Ev) : (s.atPartTick p n e).fresh = s.fresh := rfl
@[simp] theorem State.atPartTick_parts (s : State) (p n : Nat) (e : Ev) : (s.atPartTick p n e).parts = s.parts := rfl
@[simp] theorem State.atPartTick_mboxes (s : State) (p n : Nat) (e : Ev) : (s.atPartTick p n e).mboxes = s.mboxes := rfl
@[simp] theorem State.atPartTick_cores (s : State) (p n : Nat) (e : Ev) : (s.atPartTick p n e).cores = s.cores := rfl
@[simp] theorem State.atPartTick_dies (s : State) (p n : Nat) (e : Ev) : (s.atPartTick p n e).dies = s.dies := rfl
@[simp] theorem State.atPartTick_lines (s : State) (p n : Nat) (e : Ev) : (s.atPartTick p n e).lines = s.lines := rfl
@[simp] theorem State.atPartTick_slices (s : State) (p n : Nat) (e : Ev) : (s.atPartTick p n e).slices = s.slices := rfl
@[simp] theorem State.atPartTick_streams (s : State) (p n : Nat) (e : Ev) : (s.atPartTick p n e).streams = s.streams := rfl
@[simp] theorem State.atPartTick_mem (s : State) (p n : Nat) (e : Ev) : (s.atPartTick p n e).mem = s.mem := rfl
@[simp] theorem State.atPartTick_channels (s : State) (p n : Nat) (e : Ev) : (s.atPartTick p n e).channels = s.channels := rfl
@[simp] theorem State.atPartTick_links (s : State) (p n : Nat) (e : Ev) : (s.atPartTick p n e).links = s.links := rfl
@[simp] theorem State.atPartTick_boot (s : State) (p n : Nat) (e : Ev) : (s.atPartTick p n e).boot = s.boot := rfl
@[simp] theorem State.atPartTick_endpoint (s : State) (p n : Nat) (e : Ev) : (s.atPartTick p n e).endpoint = s.endpoint := rfl

@[simp] theorem State.atWall_wall (s : State) (n : Nat) (e : Ev) : (s.atWall n e).wall = s.wall := rfl
@[simp] theorem State.atWall_meshCyc (s : State) (n : Nat) (e : Ev) : (s.atWall n e).meshCyc = s.meshCyc := rfl
@[simp] theorem State.atWall_ringCyc (s : State) (n : Nat) (e : Ev) : (s.atWall n e).ringCyc = s.ringCyc := rfl
@[simp] theorem State.atWall_cur (s : State) (n : Nat) (e : Ev) : (s.atWall n e).cur = s.cur := rfl
@[simp] theorem State.atWall_agenda (s : State) (n : Nat) (e : Ev) : (s.atWall n e).agenda = s.agenda := rfl
@[simp] theorem State.atWall_inputs (s : State) (n : Nat) (e : Ev) : (s.atWall n e).inputs = s.inputs := rfl
@[simp] theorem State.atWall_ev (s : State) (n : Nat) (e : Ev) : (s.atWall n e).ev = s.ev := rfl
@[simp] theorem State.atWall_fresh (s : State) (n : Nat) (e : Ev) : (s.atWall n e).fresh = s.fresh := rfl
@[simp] theorem State.atWall_parts (s : State) (n : Nat) (e : Ev) : (s.atWall n e).parts = s.parts := rfl
@[simp] theorem State.atWall_mboxes (s : State) (n : Nat) (e : Ev) : (s.atWall n e).mboxes = s.mboxes := rfl
@[simp] theorem State.atWall_cores (s : State) (n : Nat) (e : Ev) : (s.atWall n e).cores = s.cores := rfl
@[simp] theorem State.atWall_dies (s : State) (n : Nat) (e : Ev) : (s.atWall n e).dies = s.dies := rfl
@[simp] theorem State.atWall_lines (s : State) (n : Nat) (e : Ev) : (s.atWall n e).lines = s.lines := rfl
@[simp] theorem State.atWall_slices (s : State) (n : Nat) (e : Ev) : (s.atWall n e).slices = s.slices := rfl
@[simp] theorem State.atWall_streams (s : State) (n : Nat) (e : Ev) : (s.atWall n e).streams = s.streams := rfl
@[simp] theorem State.atWall_mem (s : State) (n : Nat) (e : Ev) : (s.atWall n e).mem = s.mem := rfl
@[simp] theorem State.atWall_channels (s : State) (n : Nat) (e : Ev) : (s.atWall n e).channels = s.channels := rfl
@[simp] theorem State.atWall_links (s : State) (n : Nat) (e : Ev) : (s.atWall n e).links = s.links := rfl
@[simp] theorem State.atWall_boot (s : State) (n : Nat) (e : Ev) : (s.atWall n e).boot = s.boot := rfl
@[simp] theorem State.atWall_endpoint (s : State) (n : Nat) (e : Ev) : (s.atWall n e).endpoint = s.endpoint := rfl

@[simp] theorem State.now_wall (s : State) (w : Cur) (e : Ev) : (s.now w e).wall = s.wall := rfl
@[simp] theorem State.now_meshCyc (s : State) (w : Cur) (e : Ev) : (s.now w e).meshCyc = s.meshCyc := rfl
@[simp] theorem State.now_ringCyc (s : State) (w : Cur) (e : Ev) : (s.now w e).ringCyc = s.ringCyc := rfl
@[simp] theorem State.now_cur (s : State) (w : Cur) (e : Ev) : (s.now w e).cur = s.cur := rfl
@[simp] theorem State.now_timers (s : State) (w : Cur) (e : Ev) : (s.now w e).timers = s.timers := rfl
@[simp] theorem State.now_inputs (s : State) (w : Cur) (e : Ev) : (s.now w e).inputs = s.inputs := rfl
@[simp] theorem State.now_ev (s : State) (w : Cur) (e : Ev) : (s.now w e).ev = s.ev := rfl
@[simp] theorem State.now_fresh (s : State) (w : Cur) (e : Ev) : (s.now w e).fresh = s.fresh := rfl
@[simp] theorem State.now_parts (s : State) (w : Cur) (e : Ev) : (s.now w e).parts = s.parts := rfl
@[simp] theorem State.now_mboxes (s : State) (w : Cur) (e : Ev) : (s.now w e).mboxes = s.mboxes := rfl
@[simp] theorem State.now_cores (s : State) (w : Cur) (e : Ev) : (s.now w e).cores = s.cores := rfl
@[simp] theorem State.now_dies (s : State) (w : Cur) (e : Ev) : (s.now w e).dies = s.dies := rfl
@[simp] theorem State.now_lines (s : State) (w : Cur) (e : Ev) : (s.now w e).lines = s.lines := rfl
@[simp] theorem State.now_slices (s : State) (w : Cur) (e : Ev) : (s.now w e).slices = s.slices := rfl
@[simp] theorem State.now_streams (s : State) (w : Cur) (e : Ev) : (s.now w e).streams = s.streams := rfl
@[simp] theorem State.now_mem (s : State) (w : Cur) (e : Ev) : (s.now w e).mem = s.mem := rfl
@[simp] theorem State.now_channels (s : State) (w : Cur) (e : Ev) : (s.now w e).channels = s.channels := rfl
@[simp] theorem State.now_links (s : State) (w : Cur) (e : Ev) : (s.now w e).links = s.links := rfl
@[simp] theorem State.now_boot (s : State) (w : Cur) (e : Ev) : (s.now w e).boot = s.boot := rfl
@[simp] theorem State.now_endpoint (s : State) (w : Cur) (e : Ev) : (s.now w e).endpoint = s.endpoint := rfl

@[simp] theorem State.bump_wall (s : State) : (s.bump).wall = s.wall := rfl
@[simp] theorem State.bump_meshCyc (s : State) : (s.bump).meshCyc = s.meshCyc := rfl
@[simp] theorem State.bump_ringCyc (s : State) : (s.bump).ringCyc = s.ringCyc := rfl
@[simp] theorem State.bump_cur (s : State) : (s.bump).cur = s.cur := rfl
@[simp] theorem State.bump_agenda (s : State) : (s.bump).agenda = s.agenda := rfl
@[simp] theorem State.bump_timers (s : State) : (s.bump).timers = s.timers := rfl
@[simp] theorem State.bump_inputs (s : State) : (s.bump).inputs = s.inputs := rfl
@[simp] theorem State.bump_ev (s : State) : (s.bump).ev = s.ev := rfl
@[simp] theorem State.bump_parts (s : State) : (s.bump).parts = s.parts := rfl
@[simp] theorem State.bump_mboxes (s : State) : (s.bump).mboxes = s.mboxes := rfl
@[simp] theorem State.bump_cores (s : State) : (s.bump).cores = s.cores := rfl
@[simp] theorem State.bump_dies (s : State) : (s.bump).dies = s.dies := rfl
@[simp] theorem State.bump_lines (s : State) : (s.bump).lines = s.lines := rfl
@[simp] theorem State.bump_slices (s : State) : (s.bump).slices = s.slices := rfl
@[simp] theorem State.bump_streams (s : State) : (s.bump).streams = s.streams := rfl
@[simp] theorem State.bump_mem (s : State) : (s.bump).mem = s.mem := rfl
@[simp] theorem State.bump_channels (s : State) : (s.bump).channels = s.channels := rfl
@[simp] theorem State.bump_links (s : State) : (s.bump).links = s.links := rfl
@[simp] theorem State.bump_boot (s : State) : (s.bump).boot = s.boot := rfl
@[simp] theorem State.bump_endpoint (s : State) : (s.bump).endpoint = s.endpoint := rfl

/-! ## What the tables read after an update -/

@[simp] theorem State.core_setCore (s : State) (k : Nat) (x : Core) : (s.setCore k x).core k = x := by
  simp [State.core, State.setCore]

theorem State.core_setCore_ne (s : State) (k j : Nat) (x : Core) (h : j ≠ k) : (s.setCore k x).core j = s.core j := by
  simp [State.core, State.setCore, Tbl.getD_set_ne _ _ _ _ _ h]

@[simp] theorem State.setCore_setCore (s : State) (k : Nat) (x y : Core) : (s.setCore k x).setCore k y = s.setCore k y := by
  simp [State.setCore]

@[simp] theorem State.part_setPart (s : State) (p : Nat) (x : Part) : (s.setPart p x).part p = x := by
  simp [State.part, State.setPart]

theorem State.part_setPart_ne (s : State) (p q : Nat) (x : Part) (h : q ≠ p) : (s.setPart p x).part q = s.part q := by
  simp [State.part, State.setPart, Tbl.getD_set_ne _ _ _ _ _ h]

@[simp] theorem State.die_setDie (s : State) (d : Nat) (x : Die) : (s.setDie d x).die d = x := by
  simp [State.die, State.setDie]

theorem State.die_setDie_ne (s : State) (d e : Nat) (x : Die) (h : e ≠ d) : (s.setDie d x).die e = s.die e := by
  simp [State.die, State.setDie, Tbl.getD_set_ne _ _ _ _ _ h]

@[simp] theorem State.mbox_setMbox (s : State) (m : Nat) (x : Mbox) : (s.setMbox m x).mbox m = x := by
  simp [State.mbox, State.setMbox]

theorem State.mbox_setMbox_ne (s : State) (m n : Nat) (x : Mbox) (h : n ≠ m) : (s.setMbox m x).mbox n = s.mbox n := by
  simp [State.mbox, State.setMbox, Tbl.getD_set_ne _ _ _ _ _ h]

@[simp] theorem State.link_setLink (s : State) (p : Nat) (x : Link) : (s.setLink p x).link p = x := by
  simp [State.link, State.setLink]

/-- A line that its slice's cache ways still hold reads as it was set; one that has left them starts at the floor (R269). -/
@[simp] theorem State.line_setLine (s : State) (l : Nat) (x : Line) (h : x.out = false) : (s.setLine l x).line l = x := by
  simp only [State.line, State.setLine, Tbl.get?_set_self, h, Bool.false_eq_true, if_false]

@[simp] theorem State.stream_setStream (s : State) (m : Stream) (x : StreamState) : (s.setStream m x).stream m = x := by
  simp [State.stream, State.setStream]

@[simp] theorem State.me_setMe (s : State) (c : Core) : (s.setMe c).me = c := by
  simp [State.me, State.setMe]

@[simp] theorem State.setMe_setMe (s : State) (c d : Core) : (s.setMe c).setMe d = s.setMe d := by
  simp [State.setMe]

@[simp] theorem vget_vset {α : Type} {n : Nat} (v : Vector α n) (i : Fin n) (x : α) : vget (vset v i x) i = x := by
  simp [vget, vset]

theorem vget_vset_ne {α : Type} {n : Nat} (v : Vector α n) (i j : Fin n) (x : α) (h : j ≠ i) :
    vget (vset v i x) j = vget v j := by
  simp only [vget, vset]
  exact Vector.getElem_set_ne _ _ (fun e => h (Fin.ext e.symm))

@[simp] theorem Core.task_setTask (c : Core) (i : Fin 4) (t : Slot) : (c.setTask i t).task i = t :=
  vget_vset c.tasks i t

theorem Core.task_setTask_ne (c : Core) (i j : Fin 4) (t : Slot) (h : j ≠ i) : (c.setTask i t).task j = c.task j := by
  exact vget_vset_ne c.tasks _ _ _ h

@[simp] theorem Core.setTask_setTask (c : Core) (i : Fin 4) (t u : Slot) : (c.setTask i t).setTask i u = c.setTask i u := by
  simp [Core.setTask, vset]

@[simp] theorem Core.runOf_setRun (c : Core) (e : Engine) (r : Run) : (c.setRun e r).runOf e = r :=
  vget_vset c.runs e.idx r

@[simp] theorem Core.task_setRun (c : Core) (e : Engine) (r : Run) (i : Fin 4) : (c.setRun e r).task i = c.task i := rfl

@[simp] theorem Core.runOf_setTask (c : Core) (i : Fin 4) (t : Slot) (e : Engine) : (c.setTask i t).runOf e = c.runOf e := rfl

@[simp] theorem State.task_setTask (s : State) (t : Slot) : (s.setTask t).task = t := by
  simp [State.task, State.setTask]

@[simp] theorem State.taskOf_setTaskOf (s : State) (r : TaskRef) (t : Slot) : (s.setTaskOf r t).taskOf r = t := by
  simp [State.taskOf, State.setTaskOf]

@[simp] theorem State.setTask_setTask (s : State) (t u : Slot) : (s.setTask t).setTask u = s.setTask u := by
  simp [State.setTask]

@[simp] theorem State.me_setTask (s : State) (t : Slot) : (s.setTask t).me = s.me.setTask s.cur.slot t := by
  simp [State.setTask]

/-- The acting task is the task of its reference. -/
theorem State.task_eq (s : State) : s.task = s.taskOf s.meRef := rfl

@[simp] theorem State.tick_setTask (s : State) (t : Slot) : (s.setTask t).tick = s.tick := by
  simp only [State.tick, State.partNo, State.me_setTask]
  rfl

/-! ## g and w registers -/

@[simp] theorem Slot.reg_zero (t : Slot) : t.reg 0 = 0 := by simp [Slot.reg]

@[simp] theorem Slot.setReg_zero (t : Slot) (v : Word64) : t.setReg 0 v = t := by simp [Slot.setReg]

/-- Every register after a write: only the named one changes, and g0 stays 0. -/
theorem Slot.reg_setReg (t : Slot) (d r : GReg) (v : Word64) :
    (t.setReg d v).reg r = if r = d ∧ d ≠ 0 then v else t.reg r := by
  by_cases hd : d = 0
  · simp [hd]
  · by_cases hr : r = d
    · subst hr
      simp [Slot.setReg, Slot.reg, hd]
    · by_cases h0 : r = 0
      · simp [h0, Ne.symm hd]
      · simp only [Slot.setReg, hd, if_false, Slot.reg, h0, hr, false_and]
        exact vget_vset_ne _ _ _ _ hr

@[simp] theorem Slot.advance_pc (t : Slot) (n c : Nat) : (t.advance n c).pc = t.pc + 4 := rfl
@[simp] theorem Slot.advance_g (t : Slot) (n c : Nat) : (t.advance n c).g = t.g := rfl
@[simp] theorem Slot.advance_reg (t : Slot) (n c : Nat) (r : GReg) : (t.advance n c).reg r = t.reg r := rfl
@[simp] theorem Slot.setReg_pc (t : Slot) (d : GReg) (v : Word64) : (t.setReg d v).pc = t.pc := by
  simp only [Slot.setReg]
  split <;> rfl

/-- A write to a register changes the slot in `g` alone. -/
theorem Slot.setReg_eq (t : Slot) (d : GReg) (v : Word64) : t.setReg d v = { t with g := (t.setReg d v).g } := by
  simp only [Slot.setReg]
  split <;> rfl

/-- Every w register after a write: only the named one changes, and w0 stays 0. -/
theorem WalkUnit.reg_setReg (u : WalkUnit) (d r : WReg) (v : Word64) (t : Nat) :
    (u.setReg d v t).reg r = if r = d ∧ d ≠ 0 then v else u.reg r := by
  by_cases hd : d = 0
  · simp [hd, WalkUnit.setReg]
  · by_cases hr : r = d
    · subst hr
      simp [WalkUnit.setReg, WalkUnit.reg, hd]
    · by_cases h0 : r = 0
      · simp [h0, WalkUnit.reg, Ne.symm hd]
      · simp only [WalkUnit.setReg, hd, if_false, WalkUnit.reg, h0, hr, false_and]
        exact vget_vset_ne _ _ _ _ hr

end Sys2Proof.Machine
end

