-- ==== Sys2Proof/Laws/Memory.lean ====
section
/-! SUPPORT. The byte memories: what a read gives after each operation, and that each operation keeps the canonical
form (rising addresses, no zero byte). -/

namespace Sys2Proof.Machine

/-! ## The canonical form, by bounds -/

/-- A canonical memory whose addresses all lie in [lo, hi). -/
def Memory.within (lo hi : Nat) : Memory → Prop
  | [] => True
  | (k, v) :: rest => lo ≤ k ∧ k < hi ∧ v ≠ 0 ∧ Memory.within (k + 1) hi rest

theorem Memory.wf_tail {c : Host.Cell} {m : Memory} (h : Memory.wf (c :: m) = true) : Memory.wf m = true := by
  cases m with
  | nil => rfl
  | cons d rest =>
    simp only [Memory.wf, Bool.and_eq_true] at h
    exact h.2

theorem Memory.within_mono {lo lo' hi hi' : Nat} {m : Memory} (h : Memory.within lo hi m) (h1 : lo' ≤ lo)
    (h2 : hi ≤ hi') : Memory.within lo' hi' m := by
  induction m generalizing lo lo' with
  | nil => trivial
  | cons c rest ih =>
    obtain ⟨k, v⟩ := c
    obtain ⟨a, b, c, d⟩ := h
    exact ⟨by omega, by omega, c, ih d (Nat.le_refl _)⟩

theorem Memory.within_wf {lo hi : Nat} {m : Memory} (h : Memory.within lo hi m) : Memory.wf m = true := by
  induction m generalizing lo with
  | nil => rfl
  | cons c rest ih =>
    obtain ⟨k, v⟩ := c
    obtain ⟨_, _, hv, hr⟩ := h
    cases rest with
    | nil => simpa [Memory.wf] using hv
    | cons d tl =>
      obtain ⟨k', v'⟩ := d
      have h1 := ih hr
      obtain ⟨h2, _⟩ := hr
      simp only [Memory.wf, Bool.and_eq_true, decide_eq_true_eq, bne_iff_ne, ne_eq]
      exact ⟨⟨by omega, hv⟩, h1⟩

/-- A canonical memory has some upper bound. -/
theorem Memory.wf_within {k : Nat} {v : Byte} {m : Memory} (h : Memory.wf ((k, v) :: m) = true) :
    ∃ hi, Memory.within k hi ((k, v) :: m) := by
  induction m generalizing k v with
  | nil =>
    refine ⟨k + 1, Nat.le_refl _, Nat.lt_succ_self _, ?_, trivial⟩
    simpa [Memory.wf] using h
  | cons c rest ih =>
    obtain ⟨k', v'⟩ := c
    simp only [Memory.wf, Bool.and_eq_true, decide_eq_true_eq, bne_iff_ne, ne_eq] at h
    obtain ⟨hi, hw⟩ := ih h.2
    obtain ⟨a, b, c, d⟩ := hw
    exact ⟨hi, Nat.le_refl _, by omega, h.1.2, by omega, b, c, d⟩

theorem Memory.exists_within {m : Memory} (h : Memory.wf m = true) : ∃ hi, Memory.within 0 hi m := by
  cases m with
  | nil => exact ⟨0, trivial⟩
  | cons c rest =>
    obtain ⟨k, v⟩ := c
    obtain ⟨hi, hw⟩ := Memory.wf_within h
    exact ⟨hi, Memory.within_mono hw (Nat.zero_le _) (Nat.le_refl _)⟩

theorem Memory.within_append {lo mid hi : Nat} {m n : Memory} (h1 : Memory.within lo mid m) (h2 : Memory.within mid hi n)
    (h : lo ≤ mid) (h' : mid ≤ hi) : Memory.within lo hi (m ++ n) := by
  induction m generalizing lo with
  | nil => exact Memory.within_mono h2 h (Nat.le_refl _)
  | cons c rest ih =>
    obtain ⟨k, v⟩ := c
    obtain ⟨a, b, c, d⟩ := h1
    exact ⟨a, by omega, c, ih d (by omega)⟩

theorem Memory.within_below {lo hi a : Nat} {m : Memory} (h : Memory.within lo hi m) :
    Memory.within lo a (m.filter (fun c => decide (c.1 < a))) := by
  induction m generalizing lo with
  | nil => trivial
  | cons c rest ih =>
    obtain ⟨k, v⟩ := c
    obtain ⟨x, y, z, w⟩ := h
    simp only [List.filter_cons]
    split
    · rename_i hk
      exact ⟨x, by simpa using hk, z, ih w⟩
    · exact Memory.within_mono (ih w) (by omega) (Nat.le_refl _)

theorem Memory.within_above {lo hi a : Nat} {m : Memory} (h : Memory.within lo hi m) :
    Memory.within a hi (m.filter (fun c => decide (a ≤ c.1))) := by
  induction m generalizing lo with
  | nil => trivial
  | cons c rest ih =>
    obtain ⟨k, v⟩ := c
    obtain ⟨x, y, z, w⟩ := h
    simp only [List.filter_cons]
    split
    · rename_i hk
      have hk' : a ≤ k := by simpa using hk
      have w' : List.filter (fun c => decide (a ≤ c.1)) rest = rest := by
        apply List.filter_eq_self.mpr
        intro c hc
        have : ∀ (m : Memory) (lo : Nat), Memory.within lo hi m → ∀ c ∈ m, lo ≤ c.1 := by
          intro m
          induction m with
          | nil => intro _ _ c hc; cases hc
          | cons d tl ih2 =>
            intro lo hw c hc
            obtain ⟨k2, v2⟩ := d
            obtain ⟨p, _, _, q⟩ := hw
            cases hc with
            | head => exact p
            | tail _ hc => exact Nat.le_trans (by omega) (ih2 _ q c hc)
        have := this rest _ w c hc
        simpa using (by omega : a ≤ c.1)
      rw [w']
      exact ⟨hk', y, z, w⟩
    · exact ih w

theorem Memory.within_cells (a : Nat) (bs : List Byte) : Memory.within a (a + bs.length) (Memory.cells a bs) := by
  induction bs generalizing a with
  | nil => trivial
  | cons b rest ih =>
    have h := ih (a + 1)
    simp only [Memory.cells]
    split
    · exact Memory.within_mono h (by omega) (by simp only [List.length_cons]; omega)
    · rename_i hb
      exact ⟨Nat.le_refl _, by simp only [List.length_cons]; omega, hb,
        Memory.within_mono h (Nat.le_refl _) (by simp only [List.length_cons]; omega)⟩

/-! ## Every operation keeps the form -/

/-- A store keeps the canonical form. -/
@[simp] theorem Memory.wf_store {m : Memory} (h : Memory.wf m = true) (a : Nat) (bs : List Byte) :
    Memory.wf (Memory.store m a bs) = true := by
  obtain ⟨hi, hw⟩ := Memory.exists_within h
  have h1 := Memory.within_below (a := a) hw
  have h2 := Memory.within_cells a bs
  have h3 := Memory.within_mono (Memory.within_above (a := a + bs.length) hw) (Nat.le_refl _)
    (Nat.le_max_left hi (a + bs.length))
  exact Memory.within_wf (Memory.within_append h1
    (Memory.within_append h2 h3 (by omega) (Nat.le_max_right _ _)) (Nat.zero_le _)
    (Nat.le_trans (by omega) (Nat.le_max_right hi (a + bs.length))))

/-- A clear keeps the canonical form. -/
@[simp] theorem Memory.wf_clear {m : Memory} (h : Memory.wf m = true) (a n : Nat) : Memory.wf (Memory.clear m a n) = true := by
  obtain ⟨hi, hw⟩ := Memory.exists_within h
  have h1 := Memory.within_below (a := a) hw
  have h3 := Memory.within_mono (Memory.within_above (a := a + n) hw) (Nat.le_refl _)
    (Nat.le_max_left hi (a + n))
  exact Memory.within_wf (Memory.within_append h1 (Memory.within_mono h3 (by omega) (Nat.le_refl _))
    (Nat.zero_le _) (Nat.le_trans (by omega) (Nat.le_max_right hi (a + n))))

/-- Stores of single bytes keep the canonical form. -/
@[simp] theorem Memory.wf_scatter {m : Memory} (h : Memory.wf m = true) (cs : List (Nat × Byte)) :
    Memory.wf (Memory.scatter m cs) = true := by
  induction cs generalizing m with
  | nil => exact h
  | cons c rest ih => exact ih (Memory.wf_store h _ _)

theorem Memory.within_window {lo hi : Nat} {m : Memory} (h : Memory.within lo hi m) (a n : Nat) :
    Memory.within (lo - a) (hi - a) (Memory.window m a n) := by
  induction m generalizing lo with
  | nil => trivial
  | cons c rest ih =>
    obtain ⟨k, v⟩ := c
    obtain ⟨x, y, z, w⟩ := h
    have hr := ih w
    simp only [Memory.window, List.filterMap_cons]
    split
    · rename_i hk
      exact Memory.within_mono hr (by omega) (Nat.le_refl _)
    · rename_i c hk
      split at hk
      · rename_i hin
        simp only [Option.some.injEq] at hk
        subst hk
        refine ⟨by omega, by omega, z, ?_⟩
        exact Memory.within_mono hr (by omega) (Nat.le_refl _)
      · cases hk

/-- A window of a canonical memory is canonical. -/
theorem Memory.wf_window {m : Memory} (h : Memory.wf m = true) (a n : Nat) : Memory.wf (Memory.window m a n) = true := by
  obtain ⟨hi, hw⟩ := Memory.exists_within h
  exact Memory.within_wf (Memory.within_window hw a n)

/-! ## What a read gives -/

theorem Memory.get_append_of_not_mem {m n : Memory} {a : Nat} (h : ∀ c ∈ m, c.1 ≠ a) :
    Memory.get (m ++ n) a = Memory.get n a := by
  induction m with
  | nil => rfl
  | cons c rest ih =>
    obtain ⟨k, v⟩ := c
    have h1 : k ≠ a := h _ (List.mem_cons_self ..)
    simp only [List.cons_append, Memory.get, h1, if_false]
    exact ih (fun c hc => h c (List.mem_cons_of_mem _ hc))

theorem Memory.get_filter {m : Memory} {a : Nat} (p : Nat → Bool) (h : p a = true) :
    Memory.get (m.filter (fun c => p c.1)) a = Memory.get m a := by
  induction m with
  | nil => rfl
  | cons c rest ih =>
    obtain ⟨k, v⟩ := c
    simp only [List.filter_cons]
    by_cases hk : k = a
    · subst hk
      simp [h, Memory.get]
    · by_cases hp : p k = true
      · simp [hp, Memory.get, hk, ih]
      · simp [hp, Memory.get, hk, ih]

theorem Memory.get_of_not_mem {m : Memory} {a : Nat} (h : ∀ c ∈ m, c.1 ≠ a) : Memory.get m a = 0 := by
  induction m with
  | nil => rfl
  | cons c rest ih =>
    obtain ⟨k, v⟩ := c
    have h1 : k ≠ a := h _ (List.mem_cons_self ..)
    simp only [Memory.get, h1, if_false]
    exact ih (fun c hc => h c (List.mem_cons_of_mem _ hc))

theorem Memory.get_append {m n : Memory} {a : Nat} :
    Memory.get (m ++ n) a = if m.any (fun c => c.1 == a) then Memory.get m a else Memory.get n a := by
  induction m with
  | nil => rfl
  | cons c rest ih =>
    obtain ⟨k, v⟩ := c
    by_cases hk : k = a
    · simp [Memory.get, hk]
    · simp only [List.cons_append, Memory.get, hk, if_false, ih, List.any_cons,
        beq_eq_false_iff_ne.mpr hk, Bool.false_or]

theorem Memory.mem_cells {a : Nat} {bs : List Byte} {c : Host.Cell} (h : c ∈ Memory.cells a bs) :
    a ≤ c.1 ∧ c.1 < a + bs.length := by
  induction bs generalizing a with
  | nil => cases h
  | cons b rest ih =>
    simp only [Memory.cells] at h
    simp only [List.length_cons]
    split at h
    · have := ih h
      omega
    · cases h with
      | head => simp only; omega
      | tail _ h => have := ih h; omega

theorem Memory.get_cells (a i : Nat) (bs : List Byte) (h : i < bs.length) :
    Memory.get (Memory.cells a bs) (a + i) = bs[i] := by
  induction bs generalizing a i with
  | nil => cases h
  | cons b rest ih =>
    simp only [Memory.cells]
    cases i with
    | zero =>
      split
      · rename_i hb
        simp only [Nat.add_zero, List.getElem_cons_zero]
        rw [hb]
        apply Memory.get_of_not_mem
        intro c hc
        have := Memory.mem_cells hc
        omega
      · simp [Memory.get]
    | succ j =>
      have h' : j < rest.length := by simpa using h
      have e : a + (j + 1) = (a + 1) + j := by omega
      split
      · rw [e]
        simpa using ih (a + 1) j h'
      · simp only [Memory.get, show a ≠ a + (j + 1) by omega, if_false]
        rw [e]
        simpa using ih (a + 1) j h'

/-- A byte that was stored reads as stored. -/
theorem Memory.get_store_mem (m : Memory) (a i : Nat) (bs : List Byte) (h : i < bs.length) :
    Memory.get (Memory.store m a bs) (a + i) = bs[i] := by
  simp only [Memory.store]
  rw [Memory.get_append_of_not_mem]
  · rw [Memory.get_append]
    split
    · exact Memory.get_cells a i bs h
    · rename_i hn
      have hc : Memory.get (Memory.cells a bs) (a + i) = bs[i] := Memory.get_cells a i bs h
      rw [Memory.get_of_not_mem] at hc
      · rw [← hc]
        apply Memory.get_of_not_mem
        intro c hm
        have := (List.mem_filter.mp hm).2
        simp only [decide_eq_true_eq] at this
        omega
      · intro c hm e
        apply hn
        simp only [List.any_eq_true, beq_iff_eq]
        exact ⟨c, hm, e⟩
  · intro c hm
    have := (List.mem_filter.mp hm).2
    simp only [decide_eq_true_eq] at this
    omega

/-- Every other byte reads as before a store. -/
theorem Memory.get_store_of_not_mem (m : Memory) (a j : Nat) (bs : List Byte) (h : j < a ∨ a + bs.length ≤ j) :
    Memory.get (Memory.store m a bs) j = Memory.get m j := by
  simp only [Memory.store]
  rcases h with h | h
  · rw [Memory.get_append]
    split
    · exact Memory.get_filter (fun k => decide (k < a)) (by simpa using h)
    · rename_i hn
      rw [Memory.get_append_of_not_mem, Memory.get_of_not_mem]
      · symm
        rw [← Memory.get_filter (fun k => decide (k < a)) (by simpa using h)]
        apply Memory.get_of_not_mem
        intro c hm e
        apply hn
        simp only [List.any_eq_true, beq_iff_eq]
        exact ⟨c, hm, e⟩
      · intro c hm
        have := (List.mem_filter.mp hm).2
        simp only [decide_eq_true_eq] at this
        omega
      · intro c hm
        have := Memory.mem_cells hm
        omega
  · rw [Memory.get_append_of_not_mem, Memory.get_append_of_not_mem]
    · exact Memory.get_filter (fun k => decide (a + bs.length ≤ k)) (by simpa using h)
    · intro c hm
      have := Memory.mem_cells hm
      omega
    · intro c hm
      have := (List.mem_filter.mp hm).2
      simp only [decide_eq_true_eq] at this
      omega

/-- A read of bytes after a store elsewhere. -/
theorem Memory.load_store_of_disjoint (m : Memory) (a b n : Nat) (bs : List Byte)
    (h : b + n ≤ a ∨ a + bs.length ≤ b) : Memory.load (Memory.store m a bs) b n = Memory.load m b n := by
  induction n generalizing b with
  | zero => rfl
  | succ n ih =>
    simp only [Memory.load]
    rw [Memory.get_store_of_not_mem _ _ _ _ (by omega), ih (b + 1) (by omega)]

/-- A read of the stored bytes gives them. -/
theorem Memory.load_store_self (m : Memory) (a : Nat) (bs : List Byte) :
    Memory.load (Memory.store m a bs) a bs.length = bs := by
  have : ∀ n i, i + n = bs.length → Memory.load (Memory.store m a bs) (a + i) n = bs.drop i := by
    intro n
    induction n with
    | zero =>
      intro i hi
      simp [Memory.load, List.drop_eq_nil_of_le (show bs.length ≤ i by omega)]
    | succ n ih =>
      intro i hi
      have hlt : i < bs.length := by omega
      simp only [Memory.load]
      rw [Memory.get_store_mem _ _ _ _ hlt, show a + i + 1 = a + (i + 1) by omega, ih (i + 1) (by omega)]
      exact (List.drop_eq_getElem_cons hlt).symm
  simpa using this bs.length 0 (by omega)

/-! ## Little-endian values -/

/-- The value of the bytes of a value. -/
theorem leNat_leBytes (n v : Nat) : leNat (leBytes n v) = v % 256 ^ n := by
  induction n generalizing v with
  | zero => simp [leBytes, leNat, Nat.mod_one]
  | succ n ih =>
    simp only [leBytes, leNat, ih, BitVec.toNat_ofNat]
    rw [show 256 ^ (n + 1) = 256 * 256 ^ n by rw [Nat.pow_succ, Nat.mul_comm], Nat.mod_mul]

@[simp] theorem leBytes_length (n v : Nat) : (leBytes n v).length = n := by
  induction n generalizing v with
  | zero => rfl
  | succ n ih => simp [leBytes, ih]

end Sys2Proof.Machine
end

