-- ==== Sys2Proof/Laws/Mems.lean ====
section
/-! SUPPORT. Who leaves memory alone: for each operation on the state that writes no byte of physical or host memory, one
lemma that says so. Every other operation keeps the memories' canonical form (Laws/MemoryOk.lean). -/

namespace Sys2Proof.Machine

open Sys2Proof

/-- A fold of steps that leave the memories alone leaves them alone. -/
theorem foldl_mems {α : Type} (f : State → α → State) (l : List α) (s : State)
    (h : ∀ s x, (f s x).mem = s.mem ∧ (f s x).endpoint.mem = s.endpoint.mem) :
    (l.foldl f s).mem = s.mem ∧ (l.foldl f s).endpoint.mem = s.endpoint.mem := by
  induction l generalizing s with
  | nil => exact ⟨rfl, rfl⟩
  | cons x rest ih =>
    simp only [List.foldl_cons]
    exact ⟨(ih _).1.trans (h s x).1, (ih _).2.trans (h s x).2⟩

theorem foldr_mems {α : Type} (f : α → State → State) (l : List α) (s : State)
    (h : ∀ s x, (f x s).mem = s.mem ∧ (f x s).endpoint.mem = s.endpoint.mem) :
    (l.foldr f s).mem = s.mem ∧ (l.foldr f s).endpoint.mem = s.endpoint.mem := by
  induction l with
  | nil => exact ⟨rfl, rfl⟩
  | cons x rest ih =>
    simp only [List.foldr_cons]
    exact ⟨(h _ x).1.trans ih.1, (h _ x).2.trans ih.2⟩

/-- What holds at the start of a fold and is kept by each of its steps holds at its end. -/
theorem foldl_keeps {α β : Type} (P : β → Prop) (f : β → α → β) (l : List α) (b : β) (h0 : P b)
    (h : ∀ b x, P b → P (f b x)) : P (l.foldl f b) := by
  induction l generalizing b with
  | nil => exact h0
  | cons x rest ih => exact ih _ (h _ x h0)

/-- The same of a fold from the right. -/
theorem foldr_keeps {α β : Type} (P : β → Prop) (f : α → β → β) (l : List α) (b : β) (h0 : P b)
    (h : ∀ b x, P b → P (f x b)) : P (l.foldr f b) := by
  induction l with
  | nil => exact h0
  | cons x rest ih => exact h _ x ih

@[simp] theorem State.finish_mems (s : State) (cost : Nat) :
    (s.finish cost).mem = s.mem ∧ (s.finish cost).endpoint.mem = s.endpoint.mem :=
  ⟨rfl, rfl⟩

@[simp] theorem State.finishReg_mems (s : State) (d : GReg) (v : Word64) (cost : Nat) :
    (s.finishReg d v cost).mem = s.mem ∧ (s.finishReg d v cost).endpoint.mem = s.endpoint.mem :=
  ⟨rfl, rfl⟩

@[simp] theorem State.jump_mems (s : State) (d : GReg) (link pc : Word64) (cost : Nat) :
    (s.jump d link pc cost).mem = s.mem ∧ (s.jump d link pc cost).endpoint.mem = s.endpoint.mem :=
  ⟨rfl, rfl⟩

@[simp] theorem State.fillEntry_mems (s : State) (k : Nat) (e : TlbEntry) (w : WalkFor) :
    (s.fillEntry k e w).mem = s.mem ∧ (s.fillEntry k e w).endpoint.mem = s.endpoint.mem := by
  unfold State.fillEntry
  (repeat' split) <;> simp

@[simp] theorem State.touchDie_mems (s : State) (d : Nat) (e : TlbEntry) :
    (s.touchDie d e).mem = s.mem ∧ (s.touchDie d e).endpoint.mem = s.endpoint.mem :=
  ⟨rfl, rfl⟩

@[simp] theorem State.startWalk_mems (s : State) (k va : Nat) (w : WalkFor) (ticks : Nat) (r : Except TransFail TlbEntry) :
    (s.startWalk k va w ticks r).mem = s.mem ∧ (s.startWalk k va w ticks r).endpoint.mem = s.endpoint.mem :=
  ⟨rfl, rfl⟩

@[simp] theorem State.fillTlbs_mems (s : State) (k va : Nat) (w : WalkFor) :
    (s.fillTlbs k va w).mem = s.mem ∧ (s.fillTlbs k va w).endpoint.mem = s.endpoint.mem := by
  unfold State.fillTlbs
  dsimp only
  (repeat' split) <;> simp

@[simp] theorem State.evict_mems (s : State) (k v : Nat) :
    (s.evict k v).mem = s.mem ∧ (s.evict k v).endpoint.mem = s.endpoint.mem := by
  unfold State.evict
  dsimp only
  (repeat' split) <;> simp

@[simp] theorem State.takeWay_mems (s : State) (k l : Nat) :
    (s.takeWay k l).mem = s.mem ∧ (s.takeWay k l).endpoint.mem = s.endpoint.mem := by
  unfold State.takeWay
  dsimp only
  (repeat' split) <;> simp

@[simp] theorem State.touchSlice_mems (s : State) (pa : Nat) :
    (s.touchSlice pa).mem = s.mem ∧ (s.touchSlice pa).endpoint.mem = s.endpoint.mem := by
  unfold State.touchSlice
  split <;> simp

@[simp] theorem State.clearTables_mems (s : State) (pa n : Nat) :
    (s.clearTables pa n).mem = s.mem ∧ (s.clearTables pa n).endpoint.mem = s.endpoint.mem :=
  ⟨rfl, rfl⟩

@[simp] theorem State.fillCache_mems (s : State) (k l : Nat) (data : BitVec 512) (wts rts : Nat) :
    (s.fillCache k l data wts rts).mem = s.mem ∧ (s.fillCache k l data wts rts).endpoint.mem = s.endpoint.mem := by
  unfold State.fillCache
  dsimp only
  (repeat' split) <;> simp

@[simp] theorem State.hangCopy_mems (s : State) (k l : Nat) :
    (s.hangCopy k l).mem = s.mem ∧ (s.hangCopy k l).endpoint.mem = s.endpoint.mem := by
  unfold State.hangCopy
  dsimp only
  (repeat' split) <;> simp

@[simp] theorem State.fillSlice_mems (s : State) (k l : Nat) :
    (s.fillSlice k l).mem = s.mem ∧ (s.fillSlice k l).endpoint.mem = s.endpoint.mem := by
  unfold State.fillSlice
  dsimp only
  (repeat' split) <;> simp

@[simp] theorem State.fillData_mems (s : State) (k l : Nat) :
    (s.fillData k l).mem = s.mem ∧ (s.fillData k l).endpoint.mem = s.endpoint.mem := by
  simp [State.fillData]

@[simp] theorem State.pushFlit_mems (s : State) (home d p : Nat) (e : Ev) :
    (s.pushFlit home d p e).mem = s.mem ∧ (s.pushFlit home d p e).endpoint.mem = s.endpoint.mem :=
  ⟨rfl, rfl⟩

@[simp] theorem State.pushDie_mems (s : State) (l d : Nat) (ks : List Nat) :
    (s.pushDie l d ks).mem = s.mem ∧ (s.pushDie l d ks).endpoint.mem = s.endpoint.mem := by
  unfold State.pushDie
  try dsimp only
  constructor <;> (repeat' split) <;> first | rfl | simp [apply_ite State.mem, apply_ite State.endpoint, apply_ite Endpoint.mem, foldl_mems, foldr_mems]

@[simp] theorem State.pushLine_mems (s : State) (l : Nat) :
    (s.pushLine l).mem = s.mem ∧ (s.pushLine l).endpoint.mem = s.endpoint.mem := by
  unfold State.pushLine
  dsimp only
  refine foldl_keeps (fun t : State => t.mem = s.mem ∧ t.endpoint.mem = s.endpoint.mem) _ _ _ (by split <;> simp) (fun b x h => ?_)
  split
  all_goals simpa using h

@[simp] theorem State.homeRead_mems (s : State) (pa n ts lease : Nat) :
    (s.homeRead pa n ts lease).1.mem = s.mem ∧ (s.homeRead pa n ts lease).1.endpoint.mem = s.endpoint.mem := by
  simp [State.homeRead]

@[simp] theorem State.unpinTask_mems (s : State) (r : TaskRef) :
    (s.unpinTask r).mem = s.mem ∧ (s.unpinTask r).endpoint.mem = s.endpoint.mem := by
  unfold State.unpinTask
  simp [foldl_mems]

@[simp] theorem State.pinLine_mems (s : State) (r : TaskRef) (l : Nat) :
    (s.pinLine r l).mem = s.mem ∧ (s.pinLine r l).endpoint.mem = s.endpoint.mem := by
  unfold State.pinLine
  try dsimp only
  constructor <;> (repeat' split) <;> first | rfl | simp [apply_ite State.mem, apply_ite State.endpoint, apply_ite Endpoint.mem, foldl_mems, foldr_mems]

@[simp] theorem State.returnLine_mems (s : State) (l : Nat) :
    (s.returnLine l).mem = s.mem ∧ (s.returnLine l).endpoint.mem = s.endpoint.mem := by
  unfold State.returnLine
  dsimp only
  (repeat' split) <;> simp

@[simp] theorem State.disown_mems (s : State) (d : Nat) (ls : List Nat) :
    (s.disown d ls).mem = s.mem ∧ (s.disown d ls).endpoint.mem = s.endpoint.mem := by
  unfold State.disown
  try dsimp only
  constructor <;> (repeat' split) <;> first | rfl | simp [apply_ite State.mem, apply_ite State.endpoint, apply_ite Endpoint.mem, foldl_mems, foldr_mems]

@[simp] theorem State.ownLine_mems (s : State) (d l : Nat) :
    (s.ownLine d l).mem = s.mem ∧ (s.ownLine d l).endpoint.mem = s.endpoint.mem := by
  simp [State.ownLine]

@[simp] theorem State.fillCode_mems (s : State) (k : Nat) (a : Agent) (va : Nat) :
    (s.fillCode k a va).mem = s.mem ∧ (s.fillCode k a va).endpoint.mem = s.endpoint.mem := by
  unfold State.fillCode
  dsimp only
  (repeat' split) <;> simp

@[simp] theorem State.injectAt_mems (s : State) (from_ goal : Nat) (vc : Fin 4) (head p : Nat) (k : FlitKind) (num : Option (Stream × Nat)) :
    (s.injectAt from_ goal vc head p k num).mem = s.mem ∧ (s.injectAt from_ goal vc head p k num).endpoint.mem = s.endpoint.mem :=
  ⟨rfl, rfl⟩

@[simp] theorem State.inject_mems (s : State) (from_ goal : Nat) (vc : Fin 4) (late p : Nat) (k : FlitKind) :
    (s.inject from_ goal vc late p k).mem = s.mem ∧ (s.inject from_ goal vc late p k).endpoint.mem = s.endpoint.mem :=
  ⟨rfl, rfl⟩

@[simp] theorem State.ringQueue_mems (s : State) (p : Nat) (ready : Nat → Nat) (h : RingHop) (rest : List RingHop) (flit : Nat → Option RingFlit) :
    (s.ringQueue p ready h rest flit).mem = s.mem ∧ (s.ringQueue p ready h rest flit).endpoint.mem = s.endpoint.mem :=
  ⟨rfl, rfl⟩

@[simp] theorem State.ringWays_mems (s : State) (p : Nat) (hops : List RingHop) :
    (s.ringWays p hops).mem = s.mem ∧ (s.ringWays p hops).endpoint.mem = s.endpoint.mem := by
  unfold State.ringWays
  split <;> simp

@[simp] theorem State.carry_mems (s : State) (a src b dst : Nat) (vc : Fin 4) (p bytes : Nat) (late : Nat → Nat) (back : List RingHop) (kind : Nat → FlitKind) (num : Option (Stream × Nat)) (mesh : Bool) :
    (s.carry a src b dst vc p bytes late back kind num mesh).mem = s.mem ∧ (s.carry a src b dst vc p bytes late back kind num mesh).endpoint.mem = s.endpoint.mem := by
  unfold State.carry
  dsimp only
  (repeat' split) <;> simp [foldl_mems]

@[simp] theorem State.track_mems (s : State) (sm : Stream) (m : SentMsg) :
    (s.track sm m).mem = s.mem ∧ (s.track sm m).endpoint.mem = s.endpoint.mem :=
  ⟨rfl, rfl⟩

@[simp] theorem State.send_mems (s : State) (a src b dst : Nat) (vc : Fin 4) (p bytes : Nat) (late : Nat → Nat) (back : List RingHop) (kind : Nat → FlitKind) (mesh : Bool) :
    (s.send a src b dst vc p bytes late back kind mesh).mem = s.mem ∧ (s.send a src b dst vc p bytes late back kind mesh).endpoint.mem = s.endpoint.mem := by
  unfold State.send
  (repeat' split) <;> simp

@[simp] theorem State.travel_mems (s : State) (a src b dst : Nat) (vc : Fin 4) (p out back : Nat) :
    (s.travel a src b dst vc p out back).mem = s.mem ∧ (s.travel a src b dst vc p out back).endpoint.mem = s.endpoint.mem := by
  simp [State.travel]

@[simp] theorem State.linesTravel_mems (s : State) (k : Nat) (ls : List Nat) (write : Bool) :
    (s.linesTravel k ls write).mem = s.mem ∧ (s.linesTravel k ls write).endpoint.mem = s.endpoint.mem := by
  unfold State.linesTravel
  simp [foldl_mems]

@[simp] theorem State.exchange_mems (s : State) (k pa : Nat) (vc : Fin 4) (out back : Nat) :
    (s.exchange k pa vc out back).mem = s.mem ∧ (s.exchange k pa vc out back).endpoint.mem = s.endpoint.mem := by
  simp [State.exchange]

@[simp] theorem State.appendRecord_mems (s : State) (p : Nat) (x : FaultRec) :
    (s.appendRecord p x).mem = s.mem ∧ (s.appendRecord p x).endpoint.mem = s.endpoint.mem :=
  ⟨rfl, rfl⟩

@[simp] theorem State.releaseLines_mems (s : State) (k id : Nat) :
    (s.releaseLines k id).mem = s.mem ∧ (s.releaseLines k id).endpoint.mem = s.endpoint.mem :=
  ⟨rfl, rfl⟩

@[simp] theorem State.cancelStep_mems (s : State) (k : Nat) (x : XStep) :
    (s.cancelStep k x).mem = s.mem ∧ (s.cancelStep k x).endpoint.mem = s.endpoint.mem := by
  unfold State.cancelStep
  split <;> simp

@[simp] theorem State.dropBag_mems (s : State) (k : Nat) :
    (s.dropBag k).mem = s.mem ∧ (s.dropBag k).endpoint.mem = s.endpoint.mem :=
  ⟨rfl, rfl⟩

@[simp] theorem State.cancelWork_mems (s : State) (k : Nat) (i : Fin 4) :
    (s.cancelWork k i).mem = s.mem ∧ (s.cancelWork k i).endpoint.mem = s.endpoint.mem := by
  unfold State.cancelWork
  try dsimp only
  constructor <;> (repeat' split) <;> first | rfl | simp [apply_ite State.mem, apply_ite State.endpoint, apply_ite Endpoint.mem, foldl_mems, foldr_mems]

@[simp] theorem State.noteWalk_mems (s : State) (k va lvl : Nat) :
    (s.noteWalk k va lvl).mem = s.mem ∧ (s.noteWalk k va lvl).endpoint.mem = s.endpoint.mem := by
  unfold State.noteWalk
  dsimp only
  (repeat' split) <;> simp

@[simp] theorem State.packetDone_mems (s : State) (t : Slot) :
    (s.packetDone t).mem = s.mem ∧ (s.packetDone t).endpoint.mem = s.endpoint.mem := by
  unfold State.packetDone
  split <;> simp

@[simp] theorem State.afterScoped_mems (s : State) (r : TaskRef) (x : Access) :
    (s.afterScoped r x).mem = s.mem ∧ (s.afterScoped r x).endpoint.mem = s.endpoint.mem := by
  unfold State.afterScoped
  (repeat' split) <;> simp

@[simp] theorem State.numberAnswered_mems (s : State) (k n : Nat) :
    (s.numberAnswered k n).mem = s.mem ∧ (s.numberAnswered k n).endpoint.mem = s.endpoint.mem :=
  ⟨rfl, rfl⟩

@[simp] theorem State.storeAnswered_mems (s : State) (k n : Nat) :
    (s.storeAnswered k n).mem = s.mem ∧ (s.storeAnswered k n).endpoint.mem = s.endpoint.mem :=
  ⟨rfl, rfl⟩

@[simp] theorem State.answerStore_mems (s : State) (k pa : Nat) :
    (s.answerStore k pa).mem = s.mem ∧ (s.answerStore k pa).endpoint.mem = s.endpoint.mem := by
  simp [State.answerStore]

@[simp] theorem State.wordRetry_mems (s : State) :
    (s.wordRetry).mem = s.mem ∧ (s.wordRetry).endpoint.mem = s.endpoint.mem := by
  simp [State.wordRetry]

@[simp] theorem State.releasePins_mems (s : State) (r : TaskRef) :
    (s.releasePins r).mem = s.mem ∧ (s.releasePins r).endpoint.mem = s.endpoint.mem := by
  simp [State.releasePins]

@[simp] theorem State.endWork_mems (s : State) (r : TaskRef) (failed : Bool) :
    (s.endWork r failed).mem = s.mem ∧ (s.endWork r failed).endpoint.mem = s.endpoint.mem := by
  unfold State.endWork
  split <;> simp

@[simp] theorem State.engFault_mems (s : State) (e : Engine) (cause acc why addr : Nat) :
    (s.engFault e cause acc why addr).mem = s.mem ∧ (s.engFault e cause acc why addr).endpoint.mem = s.endpoint.mem :=
  ⟨rfl, rfl⟩

@[simp] theorem State.leaveTrap_mems (s : State) (cost : Nat) :
    (s.leaveTrap cost).mem = s.mem ∧ (s.leaveTrap cost).endpoint.mem = s.endpoint.mem :=
  ⟨rfl, rfl⟩

@[simp] theorem State.resume_mems (s : State) (r : TaskRef) (how : ResumeHow) :
    (s.resume r how).mem = s.mem ∧ (s.resume r how).endpoint.mem = s.endpoint.mem := by
  unfold State.resume
  dsimp only
  (repeat' split) <;> simp

@[simp] theorem State.partFault_mems (s : State) (p cause mbox addr : Nat) :
    (s.partFault p cause mbox addr).mem = s.mem ∧ (s.partFault p cause mbox addr).endpoint.mem = s.endpoint.mem := by
  unfold State.partFault
  try dsimp only
  constructor <;> (repeat' split) <;> first | rfl | simp [apply_ite State.mem, apply_ite State.endpoint, apply_ite Endpoint.mem, foldl_mems, foldr_mems]

@[simp] theorem State.startTask_mems (s : State) (k : Nat) (i : Fin 4) (l : Launch) :
    (s.startTask k i l).mem = s.mem ∧ (s.startTask k i l).endpoint.mem = s.endpoint.mem := by
  unfold State.startTask
  dsimp only
  (repeat' split) <;> simp

theorem State.acceptLaunch_mems {s t : State} {k : Nat} {l : Launch} (h : s.acceptLaunch k l = some t) :
    t.mem = s.mem ∧ t.endpoint.mem = s.endpoint.mem := by
  unfold State.acceptLaunch at h
  dsimp only at h
  repeat' split at h
  all_goals first | cases h; done | (simp only [Option.some.injEq] at h; subst h; exact ⟨rfl, rfl⟩) |
    (simp only [Option.some.injEq] at h; subst h; simp)

@[simp] theorem State.noteSpec_mems (s : State) (r : TaskRef) (x : Access) (wts : Nat) :
    (s.noteSpec r x wts).mem = s.mem ∧ (s.noteSpec r x wts).endpoint.mem = s.endpoint.mem := by
  unfold State.noteSpec
  split <;> simp

@[simp] theorem State.sendNumber_mems (s : State) (r : TaskRef) :
    (s.sendNumber r).mem = s.mem ∧ (s.sendNumber r).endpoint.mem = s.endpoint.mem :=
  ⟨rfl, rfl⟩

@[simp] theorem State.requestOut_mems (s : State) (r : TaskRef) (x : Access) (sm : Stream) (n late : Nat) :
    (s.requestOut r x sm n late).mem = s.mem ∧ (s.requestOut r x sm n late).endpoint.mem = s.endpoint.mem := by
  unfold State.requestOut
  dsimp only
  (repeat' split) <;> simp

@[simp] theorem State.depart_mems (s : State) (r : TaskRef) (x : Access) (sm : Stream) (n : Nat) :
    (s.depart r x sm n).mem = s.mem ∧ (s.depart r x sm n).endpoint.mem = s.endpoint.mem := by
  unfold State.depart
  dsimp only
  (repeat' split) <;> simp

@[simp] theorem State.submit_mems (s : State) (r : TaskRef) (x : Access) :
    (s.submit r x).mem = s.mem ∧ (s.submit r x).endpoint.mem = s.endpoint.mem := by
  unfold State.submit
  dsimp only
  split
  · split <;> simp
  · simp

@[simp] theorem State.issueAccess_mems (s : State) (x : Access) :
    (s.issueAccess x).mem = s.mem ∧ (s.issueAccess x).endpoint.mem = s.endpoint.mem := by
  unfold State.issueAccess
  dsimp only
  (repeat' split) <;> simp

@[simp] theorem State.issueStore_mems (s : State) (x : Access) :
    (s.issueStore x).mem = s.mem ∧ (s.issueStore x).endpoint.mem = s.endpoint.mem := by
  unfold State.issueStore
  dsimp only
  (repeat' split) <;> simp

@[simp] theorem State.readLines_mems (s : State) (pa n ts lease : Nat) :
    (s.readLines pa n ts lease).1.mem = s.mem ∧ (s.readLines pa n ts lease).1.endpoint.mem = s.endpoint.mem := by
  exact foldl_keeps (fun b : State × List Byte × Nat => b.1.mem = s.mem ∧ b.1.endpoint.mem = s.endpoint.mem) _ _ _
    ⟨rfl, rfl⟩ (fun b x h => by simpa using h)

@[simp] theorem State.notePick_mems (s : State) (k va : Nat) :
    (s.notePick k va).mem = s.mem ∧ (s.notePick k va).endpoint.mem = s.endpoint.mem := by
  unfold State.notePick
  dsimp only
  (repeat' split) <;> simp

@[simp] theorem State.readParts_mems (s : State) (pas : List (Nat × Nat)) (ts lease : Nat) :
    (s.readParts pas ts lease).1.mem = s.mem ∧ (s.readParts pas ts lease).1.endpoint.mem = s.endpoint.mem := by
  exact foldl_keeps (fun b : State × List Byte × Nat => b.1.mem = s.mem ∧ b.1.endpoint.mem = s.endpoint.mem) _ _ _
    ⟨rfl, rfl⟩ (fun b x h => by simpa using h)

@[simp] theorem State.putRow_mems (s : State) (k : Nat) (step : Option Nat) (pos time : Nat) (res : RowResult) :
    (s.putRow k step pos time res).mem = s.mem ∧ (s.putRow k step pos time res).endpoint.mem = s.endpoint.mem :=
  ⟨rfl, rfl⟩

@[simp] theorem State.rowTravels_mems (s : State) (k : Nat) (pas : List (Nat × Nat)) :
    (s.rowTravels k pas).mem = s.mem ∧ (s.rowTravels k pas).endpoint.mem = s.endpoint.mem := by
  unfold State.rowTravels
  simp [foldl_mems]

@[simp] theorem State.askRow_mems (s : State) (k : Nat) (step : Option Nat) (pos va n align ts lease : Nat) (pre : Option (Nat × Nat)) :
    (s.askRow k step pos va n align ts lease pre).1.mem = s.mem ∧ (s.askRow k step pos va n align ts lease pre).1.endpoint.mem = s.endpoint.mem := by
  unfold State.askRow
  try dsimp only
  constructor <;> (repeat' split) <;> first | rfl | simp [apply_ite State.mem, apply_ite State.endpoint, apply_ite Endpoint.mem, foldl_mems, foldr_mems]

@[simp] theorem State.dropBypass_mems (s : State) (who : Cur) :
    (s.dropBypass who).mem = s.mem ∧ (s.dropBypass who).endpoint.mem = s.endpoint.mem := by
  unfold State.dropBypass
  dsimp only
  (repeat' split) <;> simp

@[simp] theorem State.askLine_mems (s : State) (who : Cur) (c : CacheSel) (pin : Option Bool) (pad va pa : Nat) :
    (s.askLine who c pin pad va pa).mem = s.mem ∧ (s.askLine who c pin pad va pa).endpoint.mem = s.endpoint.mem := by
  simp [State.askLine]

@[simp] theorem State.startFill_mems (s : State) (who : Cur) (va pa : Nat) :
    (s.startFill who va pa).mem = s.mem ∧ (s.startFill who va pa).endpoint.mem = s.endpoint.mem := by
  unfold State.startFill
  dsimp only
  (repeat' split) <;> simp

@[simp] theorem State.placeWords_mems (s : State) (a : Agent) (ws : List Nat) :
    (s.placeWords a ws).mem = s.mem ∧ (s.placeWords a ws).endpoint.mem = s.endpoint.mem :=
  ⟨rfl, rfl⟩

@[simp] theorem State.divide_mems (s : State) (d : GReg) (v : Word64) :
    (s.divide d v).mem = s.mem ∧ (s.divide d v).endpoint.mem = s.endpoint.mem := by
  unfold State.divide
  split <;> simp

@[simp] theorem State.confirm_mems (s : State) (x : TabEntry) :
    (s.confirm x).mem = s.mem ∧ (s.confirm x).endpoint.mem = s.endpoint.mem := by
  simp [State.confirm]

@[simp] theorem State.branch_mems (s : State) (taken : Bool) (off : BitVec 16) :
    (s.branch taken off).mem = s.mem ∧ (s.branch taken off).endpoint.mem = s.endpoint.mem := by
  unfold State.branch
  split <;> simp

@[simp] theorem State.loadReply_mems (s : State) (r : TaskRef) :
    (s.loadReply r).mem = s.mem ∧ (s.loadReply r).endpoint.mem = s.endpoint.mem := by
  unfold State.loadReply
  dsimp only
  (repeat' split) <;> simp

@[simp] theorem State.retryResponse_mems (s : State) (r : TaskRef) :
    (s.retryResponse r).mem = s.mem ∧ (s.retryResponse r).endpoint.mem = s.endpoint.mem := by
  unfold State.retryResponse
  dsimp only
  (repeat' split) <;> simp

@[simp] theorem State.sendReply_mems (s : State) (r : TaskRef) (x : Access) (from_ : Nat) (held : Bool) :
    (s.sendReply r x from_ held).mem = s.mem ∧ (s.sendReply r x from_ held).endpoint.mem = s.endpoint.mem := by
  unfold State.sendReply
  dsimp only
  (repeat' split) <;> simp

@[simp] theorem State.fromDram_mems (s : State) (pa p : Nat) :
    (s.fromDram pa p).mem = s.mem ∧ (s.fromDram pa p).endpoint.mem = s.endpoint.mem :=
  ⟨rfl, rfl⟩

@[simp] theorem State.answer_mems (s : State) (r : TaskRef) (x : Access) (v : Word64) (st from_ : Nat) (held : Bool) :
    (s.answer r x v st from_ held).mem = s.mem ∧ (s.answer r x v st from_ held).endpoint.mem = s.endpoint.mem := by
  unfold State.answer
  split <;> simp

@[simp] theorem State.performInSlice_mems (s : State) (r : TaskRef) (x : Access) (c : SliceCopy) :
    (s.performInSlice r x c).mem = s.mem ∧ (s.performInSlice r x c).endpoint.mem = s.endpoint.mem := by
  unfold State.performInSlice
  split <;> simp

@[simp] theorem State.storeAtHome_mems (s : State) (r : TaskRef) (n : Nat) :
    (s.storeAtHome r n).mem = s.mem ∧ (s.storeAtHome r n).endpoint.mem = s.endpoint.mem :=
  ⟨rfl, rfl⟩

@[simp] theorem State.delayStores_mems (s : State) (r : TaskRef) (n : Nat) :
    (s.delayStores r n).mem = s.mem ∧ (s.delayStores r n).endpoint.mem = s.endpoint.mem :=
  ⟨rfl, rfl⟩

@[simp] theorem State.leasePush_mems (s : State) (d l : Nat) (p : Option Nat) (data : BitVec 512) (wts rts : Nat) :
    (s.leasePush d l p data wts rts).mem = s.mem ∧ (s.leasePush d l p data wts rts).endpoint.mem = s.endpoint.mem := by
  unfold State.leasePush
  try dsimp only
  constructor <;> (repeat' split) <;> first | rfl | simp [apply_ite State.mem, apply_ite State.endpoint, apply_ite Endpoint.mem, foldl_mems, foldr_mems]

@[simp] theorem State.taskReplay_mems (s : State) (sm : Stream) (n : Nat) (r : TaskRef) (tries : Nat) :
    (s.taskReplay sm n r tries).mem = s.mem ∧ (s.taskReplay sm n r tries).endpoint.mem = s.endpoint.mem := by
  unfold State.taskReplay
  dsimp only
  (repeat' split) <;> simp

@[simp] theorem State.msgReplay_mems (s : State) (sm : Stream) (m : SentMsg) :
    (s.msgReplay sm m).mem = s.mem ∧ (s.msgReplay sm m).endpoint.mem = s.endpoint.mem := by
  unfold State.msgReplay
  split <;> simp

@[simp] theorem State.requestReplay_mems (s : State) (sm : Stream) (n : Nat) :
    (s.requestReplay sm n).mem = s.mem ∧ (s.requestReplay sm n).endpoint.mem = s.endpoint.mem := by
  unfold State.requestReplay
  dsimp only
  (repeat' split) <;> simp

@[simp] theorem State.requestAck_mems (s : State) (sm : Stream) (n : Nat) :
    (s.requestAck sm n).mem = s.mem ∧ (s.requestAck sm n).endpoint.mem = s.endpoint.mem := by
  unfold State.requestAck
  dsimp only
  (repeat' split) <;> simp

@[simp] theorem State.control_mems (s : State) (from_ to_ : Nat) (vc : Fin 4) (who : Cur) (e : Ev) :
    (s.control from_ to_ vc who e).mem = s.mem ∧ (s.control from_ to_ vc who e).endpoint.mem = s.endpoint.mem := by
  unfold State.control
  dsimp only
  (repeat' split) <;> simp

@[simp] theorem State.takeBars_mems (s : State) (p : Nat) (f : BarReq → Bool) :
    (s.takeBars p f).1.mem = s.mem ∧ (s.takeBars p f).1.endpoint.mem = s.endpoint.mem :=
  ⟨rfl, rfl⟩

@[simp] theorem State.holdDelivery_mems (s : State) (k : Nat) (x : Delivery) :
    (s.holdDelivery k x).mem = s.mem ∧ (s.holdDelivery k x).endpoint.mem = s.endpoint.mem := by
  unfold State.holdDelivery
  dsimp only
  (repeat' split) <;> simp

@[simp] theorem State.fillStation_mems (s : State) (k : Nat) (ds : List Delivery) :
    (s.fillStation k ds).mem = s.mem ∧ (s.fillStation k ds).endpoint.mem = s.endpoint.mem := by
  induction ds generalizing s with
  | nil => exact ⟨rfl, rfl⟩
  | cons x rest ih =>
    unfold State.fillStation
    split <;> simp [ih]

@[simp] theorem State.sevAt_mems (s : State) (r : TaskRef) (stamp : Nat) :
    (s.sevAt r stamp).mem = s.mem ∧ (s.sevAt r stamp).endpoint.mem = s.endpoint.mem := by
  unfold State.sevAt
  split <;> simp

@[simp] theorem State.fillSlots_mems (s : State) (k n : Nat) :
    (s.fillSlots k n).mem = s.mem ∧ (s.fillSlots k n).endpoint.mem = s.endpoint.mem := by
  induction n generalizing s with
  | zero => exact ⟨rfl, rfl⟩
  | succ n ih =>
    unfold State.fillSlots
    dsimp only
    repeat' split
    all_goals first | exact ⟨rfl, rfl⟩ | simp [ih]

@[simp] theorem State.offer_mems (s : State) (k : Nat) (ls : List (Nat × Launch)) :
    ((s.offer k ls).1).mem = s.mem ∧ ((s.offer k ls).1).endpoint.mem = s.endpoint.mem := by
  induction ls generalizing s with
  | nil => exact ⟨rfl, rfl⟩
  | cons x rest ih =>
    obtain ⟨c, l⟩ := x
    unfold State.offer
    dsimp only
    repeat' split
    · rename_i h
      simp [ih, State.acceptLaunch_mems h]
    all_goals simp [ih]

@[simp] theorem State.offerPackets_mems (s : State) (num k n : Nat) :
    (s.offerPackets num k n).mem = s.mem ∧ (s.offerPackets num k n).endpoint.mem = s.endpoint.mem := by
  induction n with
  | zero => exact ⟨rfl, rfl⟩
  | succ n ih =>
    unfold State.offerPackets
    dsimp only
    split
    all_goals simp [ih]

@[simp] theorem State.offerChildren_mems (s : State) (r : TaskRef) (k : Nat) :
    (s.offerChildren r k).mem = s.mem ∧ (s.offerChildren r k).endpoint.mem = s.endpoint.mem := by
  unfold State.offerChildren
  dsimp only
  split
  · exact ⟨rfl, rfl⟩
  · have h := State.offer_mems s k (s.taskOf r).pendSpawn
    simpa using h

@[simp] theorem State.launchAccept_mems (s : State) (k : Nat) :
    (s.launchAccept k).mem = s.mem ∧ (s.launchAccept k).endpoint.mem = s.endpoint.mem := by
  refine foldl_keeps (fun t : State => t.mem = s.mem ∧ t.endpoint.mem = s.endpoint.mem) _ _ _ ?_ ?_
  · refine foldl_keeps (fun t : State => t.mem = s.mem ∧ t.endpoint.mem = s.endpoint.mem) _ _ _ ?_ ?_
    · simp
    · intro b x h
      simpa using h
  · intro b x h
    refine foldl_keeps (fun t : State => t.mem = s.mem ∧ t.endpoint.mem = s.endpoint.mem) _ _ _ h ?_
    intro b x h
    simpa using h

@[simp] theorem State.stopMailbox_mems (s : State) (num cause : Nat) :
    (s.stopMailbox num cause).mem = s.mem ∧ (s.stopMailbox num cause).endpoint.mem = s.endpoint.mem := by
  unfold State.stopMailbox
  dsimp only
  (repeat' split) <;> simp

@[simp] theorem State.headerRead_mems (s : State) (p die va : Nat) :
    ((s.headerRead p die va).2).mem = s.mem ∧ ((s.headerRead p die va).2).endpoint.mem = s.endpoint.mem := by
  unfold State.headerRead
  (repeat' split) <;> simp

@[simp] theorem State.packetParse_mems (s : State) (num : Nat) :
    (s.packetParse num).mem = s.mem ∧ (s.packetParse num).endpoint.mem = s.endpoint.mem := by
  unfold State.packetParse
  dsimp only
  (repeat' split) <;> simp [foldl_mems]

@[simp] theorem State.frontTake_mems (s : State) (ps : List Nat) :
    (s.frontTake ps).mem = s.mem ∧ (s.frontTake ps).endpoint.mem = s.endpoint.mem := by
  unfold State.frontTake
  generalize s.frontReady ps = ready
  generalize List.range 32 = ds
  refine foldr_keeps (fun t : State => t.mem = s.mem ∧ t.endpoint.mem = s.endpoint.mem) _ _ _ ⟨rfl, rfl⟩ (fun b x h => ?_)
  split
  all_goals simpa using h

@[simp] theorem State.startPacket_mems (s : State) (r : TaskRef) :
    (s.startPacket r).mem = s.mem ∧ (s.startPacket r).endpoint.mem = s.endpoint.mem := by
  unfold State.startPacket
  dsimp only
  (repeat' split) <;> simp

@[simp] theorem State.noteWalks_mems (s : State) (vas : List Nat) :
    (s.noteWalks vas).mem = s.mem ∧ (s.noteWalks vas).endpoint.mem = s.endpoint.mem := by
  unfold State.noteWalks
  simp [foldl_mems]

@[simp] theorem State.noteUpTo_mems (s : State) (cause addr : Nat) (vas : List Nat) :
    (s.noteUpTo cause addr vas).mem = s.mem ∧ (s.noteUpTo cause addr vas).endpoint.mem = s.endpoint.mem := by
  unfold State.noteUpTo
  split <;> simp

@[simp] theorem State.taskRead_mems (s : State) (va : Nat) :
    (s.taskRead va).1.mem = s.mem ∧ (s.taskRead va).1.endpoint.mem = s.endpoint.mem := by
  unfold State.taskRead
  split <;> simp

@[simp] theorem State.taskReads_mems (s : State) (vas : List Nat) :
    ((s.taskReads vas).1).mem = s.mem ∧ ((s.taskReads vas).1).endpoint.mem = s.endpoint.mem := by
  induction vas generalizing s with
  | nil => exact ⟨rfl, rfl⟩
  | cons va rest ih =>
    unfold State.taskReads
    simp [ih]

@[simp] theorem State.bringData_mems (s : State) (r : TaskRef) (pa : Nat) :
    (s.bringData r pa).mem = s.mem ∧ (s.bringData r pa).endpoint.mem = s.endpoint.mem := by
  unfold State.bringData
  (repeat' split) <;> simp

@[simp] theorem State.bring_mems (s : State) (r : TaskRef) (c : CacheSel) (va pa : Nat) :
    (s.bring r c va pa).mem = s.mem ∧ (s.bring r c va pa).endpoint.mem = s.endpoint.mem := by
  unfold State.bring
  dsimp only
  (repeat' split) <;> simp

@[simp] theorem State.missFilled_mems (s : State) (r : TaskRef) (a : Agent) (va : Nat) :
    (s.missFilled r a va).mem = s.mem ∧ (s.missFilled r a va).endpoint.mem = s.endpoint.mem := by
  unfold State.missFilled
  dsimp only
  (repeat' split) <;> simp

@[simp] theorem State.codeArrives_mems (s : State) (r : TaskRef) (c : CacheSel) (va : Nat) (pin : Bool) :
    (s.codeArrives r c va pin).mem = s.mem ∧ (s.codeArrives r c va pin).endpoint.mem = s.endpoint.mem := by
  unfold State.codeArrives
  dsimp only
  (repeat' split) <;> simp

@[simp] theorem State.safeEffect_mems (s : State) (k : Nat) (i : Fin 4) (r : SafeRec) :
    (s.safeEffect k i r).mem = s.mem ∧ (s.safeEffect k i r).endpoint.mem = s.endpoint.mem := by
  simp [State.safeEffect]

@[simp] theorem State.cfgWrite_mems (s : State) (r : CfgReg) (v : Word64) :
    (s.cfgWrite r v).mem = s.mem ∧ (s.cfgWrite r v).endpoint.mem = s.endpoint.mem := by
  unfold State.cfgWrite
  split <;> simp

@[simp] theorem State.soon_mems (s : State) (js : List Job) :
    (s.soon js).mem = s.mem ∧ (s.soon js).endpoint.mem = s.endpoint.mem :=
  ⟨rfl, rfl⟩

@[simp] theorem State.endsJob_mems (s : State) (k : Nat) :
    (s.endsJob k).mem = s.mem ∧ (s.endsJob k).endpoint.mem = s.endpoint.mem :=
  ⟨rfl, rfl⟩

@[simp] theorem State.partnerFills_mems (s : State) (k : Nat) :
    (s.partnerFills k).mem = s.mem ∧ (s.partnerFills k).endpoint.mem = s.endpoint.mem := by
  unfold State.partnerFills
  split <;> simp

@[simp] theorem State.enginesJob_mems (s : State) (k : Nat) :
    (s.enginesJob k).mem = s.mem ∧ (s.enginesJob k).endpoint.mem = s.endpoint.mem := by
  unfold State.enginesJob
  dsimp only
  (repeat' split) <;> simp

@[simp] theorem State.fillMiss_mems (s : State) (k tick : Nat) (i : Fin 4) :
    (s.fillMiss k tick i).mem = s.mem ∧ (s.fillMiss k tick i).endpoint.mem = s.endpoint.mem := by
  unfold State.fillMiss
  split <;> simp

@[simp] theorem State.issueChosen_mems (s : State) (k : Nat) :
    (s.issueChosen k).mem = s.mem ∧ (s.issueChosen k).endpoint.mem = s.endpoint.mem := by
  unfold State.issueChosen
  dsimp only
  (repeat' split) <;> simp

@[simp] theorem State.arbitrateJob_mems (s : State) (k : Nat) :
    (s.arbitrateJob k).mem = s.mem ∧ (s.arbitrateJob k).endpoint.mem = s.endpoint.mem := by
  unfold State.arbitrateJob
  dsimp only
  repeat' split
  all_goals simp [foldl_mems]

@[simp] theorem State.dropTimers_mems (s : State) (clock : Option Nat) (now_ : Nat) :
    (s.dropTimers clock now_).mem = s.mem ∧ (s.dropTimers clock now_).endpoint.mem = s.endpoint.mem :=
  ⟨rfl, rfl⟩

@[simp] theorem State.deliveredTick_mems (s : State) (p : Nat) :
    (s.deliveredTick p).mem = s.mem ∧ (s.deliveredTick p).endpoint.mem = s.endpoint.mem := by
  unfold State.deliveredTick
  try dsimp only
  constructor <;> (repeat' split) <;> first | rfl | simp [apply_ite State.mem, apply_ite State.endpoint, apply_ite Endpoint.mem, foldl_mems, foldr_mems]

@[simp] theorem State.barriersJob_mems (s : State) (p : Nat) :
    (s.barriersJob p).mem = s.mem ∧ (s.barriersJob p).endpoint.mem = s.endpoint.mem :=
  ⟨rfl, rfl⟩

@[simp] theorem State.frontEnds_mems (s : State) :
    (s.frontEnds).mem = s.mem ∧ (s.frontEnds).endpoint.mem = s.endpoint.mem := by
  unfold State.frontEnds
  exact s.frontTake_mems _

@[simp] theorem State.wallPeriod_mems (s : State) :
    (s.wallPeriod).mem = s.mem ∧ (s.wallPeriod).endpoint.mem = s.endpoint.mem := by
  unfold State.wallPeriod
  dsimp only
  (repeat' split) <;> simp

@[simp] theorem State.setMat_mems (s : State) (m : MatUnit) :
    (s.setMat m).mem = s.mem ∧ (s.setMat m).endpoint.mem = s.endpoint.mem :=
  ⟨rfl, rfl⟩

@[simp] theorem State.matFault_mems (s : State) (cause : Nat) :
    (s.matFault cause).mem = s.mem ∧ (s.matFault cause).endpoint.mem = s.endpoint.mem :=
  ⟨rfl, rfl⟩

@[simp] theorem State.matNext_mems (s : State) (len at_ : Nat) :
    (s.matNext len at_).mem = s.mem ∧ (s.matNext len at_).endpoint.mem = s.endpoint.mem :=
  ⟨rfl, rfl⟩

@[simp] theorem State.matStay_mems (s : State) (n at_ : Nat) :
    (s.matStay n at_).mem = s.mem ∧ (s.matStay n at_).endpoint.mem = s.endpoint.mem :=
  ⟨rfl, rfl⟩

@[simp] theorem State.loadB_mems (s : State) (tn : TileReg) (scales : Memory) (len : Nat) :
    (s.loadB tn scales len).mem = s.mem ∧ (s.loadB tn scales len).endpoint.mem = s.endpoint.mem :=
  ⟨rfl, rfl⟩

@[simp] theorem State.mrowsRow_mems (s : State) (p : Place) (stride n dst r len : Nat) (steer : Bool) :
    (s.mrowsRow p stride n dst r len steer).mem = s.mem ∧ (s.mrowsRow p stride n dst r len steer).endpoint.mem = s.endpoint.mem := by
  unfold State.mrowsRow
  dsimp only
  (repeat' split) <;> simp

@[simp] theorem State.mfeedRow_mems (s : State) (q : QReg) (n dst r : Nat) (steer tagged : Bool) :
    (s.mfeedRow q n dst r steer tagged).mem = s.mem ∧ (s.mfeedRow q n dst r steer tagged).endpoint.mem = s.endpoint.mem := by
  unfold State.mfeedRow
  dsimp only
  (repeat' split) <;> simp

@[simp] theorem State.bagAsk_mems (s : State) :
    (s.bagAsk).mem = s.mem ∧ (s.bagAsk).endpoint.mem = s.endpoint.mem := by
  unfold State.bagAsk
  dsimp only
  (repeat' split) <;> simp

@[simp] theorem State.accRowDone_mems (s : State) (r n len late : Nat) :
    (s.accRowDone r n len late).mem = s.mem ∧ (s.accRowDone r n len late).endpoint.mem = s.endpoint.mem := by
  unfold State.accRowDone
  split <;> simp

@[simp] theorem State.mdrainRow_mems (s : State) (p : Place) (clr h vw : Bool) (n first r : Nat) :
    (s.mdrainRow p clr h vw n first r).mem = s.mem ∧ (s.mdrainRow p clr h vw n first r).endpoint.mem = s.endpoint.mem := by
  unfold State.mdrainRow
  dsimp only
  (repeat' split) <;> simp

@[simp] theorem State.mfillRow_mems (s : State) (p : Place) (h vw : Bool) (n first r : Nat) :
    (s.mfillRow p h vw n first r).mem = s.mem ∧ (s.mfillRow p h vw n first r).endpoint.mem = s.endpoint.mem := by
  unfold State.mfillRow
  dsimp only
  (repeat' split) <;> simp

@[simp] theorem State.mergeMatFlags_mems (s : State) :
    (s.mergeMatFlags).mem = s.mem ∧ (s.mergeMatFlags).endpoint.mem = s.endpoint.mem :=
  ⟨rfl, rfl⟩

@[simp] theorem State.vecNext_mems (s : State) (len n : Nat) (h : Hold) :
    (s.vecNext len n h).mem = s.mem ∧ (s.vecNext len n h).endpoint.mem = s.endpoint.mem :=
  ⟨rfl, rfl⟩

@[simp] theorem State.vecIssue_mems (s : State) (h : Hold) (len n wt : Nat) (srcs : List VReg) (d : Option VReg) (o : VOut) (effect : State → State) (he : (effect s).mem = s.mem ∧ (effect s).endpoint.mem = s.endpoint.mem) :
    (s.vecIssue h len n wt srcs d o effect).mem = s.mem ∧ (s.vecIssue h len n wt srcs d o effect).endpoint.mem = s.endpoint.mem := by
  unfold State.vecIssue
  dsimp only
  repeat' split
  all_goals simp [he]

@[simp] theorem State.vecWord_mems (s : State) (h : Hold) (m : Option Modifier) (t : ElemType) (lat : Nat) (srcs : List VReg) (d : VReg) (o : VOut) :
    (s.vecWord h m t lat srcs d o).mem = s.mem ∧ (s.vecWord h m t lat srcs d o).endpoint.mem = s.endpoint.mem := by
  simp [State.vecWord]

@[simp] theorem State.vecCtl_mems (s : State) (h : Hold) (srcs : List VReg) (fl : Flags) (effect : State → State) (he : (effect s).mem = s.mem ∧ (effect s).endpoint.mem = s.endpoint.mem) :
    (s.vecCtl h srcs fl effect).mem = s.mem ∧ (s.vecCtl h srcs fl effect).endpoint.mem = s.endpoint.mem := by
  unfold State.vecCtl
  exact State.vecIssue_mems _ _ _ _ _ _ _ _ _ he

@[simp] theorem State.setVec_mems (s : State) (u : VecUnit) :
    (s.setVec u).mem = s.mem ∧ (s.setVec u).endpoint.mem = s.endpoint.mem :=
  ⟨rfl, rfl⟩

@[simp] theorem State.vecFault_mems (s : State) (cause addr : Nat) :
    (s.vecFault cause addr).mem = s.mem ∧ (s.vecFault cause addr).endpoint.mem = s.endpoint.mem :=
  ⟨rfl, rfl⟩

@[simp] theorem State.vectorWriteback_mems (s : State) :
    (s.vectorWriteback).mem = s.mem ∧ (s.vectorWriteback).endpoint.mem = s.endpoint.mem := by
  unfold State.vectorWriteback
  dsimp only
  (repeat' split) <;> simp

@[simp] theorem State.setVp_mems (s : State) (i : VpReg) (w : Word64) :
    (s.setVp i w).mem = s.mem ∧ (s.setVp i w).endpoint.mem = s.endpoint.mem :=
  ⟨rfl, rfl⟩

@[simp] theorem State.incOff_mems (s : State) (inc : Bool) (vp : VpReg) (a : VAcc) :
    (s.incOff inc vp a).mem = s.mem ∧ (s.incOff inc vp a).endpoint.mem = s.endpoint.mem := by
  unfold State.incOff
  split <;> simp

@[simp] theorem State.vecStores_mems (s : State) (ws : List (Nat × List Byte)) :
    (s.vecStores ws).mem = s.mem ∧ (s.vecStores ws).endpoint.mem = s.endpoint.mem :=
  ⟨rfl, rfl⟩

@[simp] theorem State.incRow_mems (s : State) (inc : Bool) (vp : VpReg) :
    (s.incRow inc vp).mem = s.mem ∧ (s.incRow inc vp).endpoint.mem = s.endpoint.mem := by
  unfold State.incRow
  split <;> simp

@[simp] theorem State.vecTyped_mems (s : State) (h : Hold) (m : Option Modifier) (t : ElemType) (lat : Nat) (srcs : List VReg) (d : VReg) (o : VOut) :
    (s.vecTyped h m t lat srcs d o).mem = s.mem ∧ (s.vecTyped h m t lat srcs d o).endpoint.mem = s.endpoint.mem := by
  unfold State.vecTyped
  split <;> simp

@[simp] theorem State.vecArith_mems (s : State) (op : VOp) (h : Hold) (m : Option Modifier) (t : ElemType) (r : Rnd) (lat : Nat) (d a b : VReg) :
    (s.vecArith op h m t r lat d a b).mem = s.mem ∧ (s.vecArith op h m t r lat d a b).endpoint.mem = s.endpoint.mem := by
  simp [State.vecArith]

@[simp] theorem State.vecBits_mems (s : State) (f : Nat → Nat → Nat) (h : Hold) (t : ElemType) (d a b : VReg) :
    (s.vecBits f h t d a b).mem = s.mem ∧ (s.vecBits f h t d a b).endpoint.mem = s.endpoint.mem := by
  simp [State.vecBits]

@[simp] theorem State.vecSFn_mems (s : State) (f : SFn) (h : Sys2Proof.Hold) (m : Option Modifier) (t : ElemType) (r : Rnd) (d a : VReg) :
    (s.vecSFn f h m t r d a).mem = s.mem ∧ (s.vecSFn f h m t r d a).endpoint.mem = s.endpoint.mem := by
  simp [State.vecSFn]

@[simp] theorem State.vecReduce_mems (s : State) (f : List Nat → Nat × Flags) (h : Sys2Proof.Hold) (t : ElemType) (dir : Dir) (d a : VReg) :
    (s.vecReduce f h t dir d a).mem = s.mem ∧ (s.vecReduce f h t dir d a).endpoint.mem = s.endpoint.mem := by
  simp [State.vecReduce]

@[simp] theorem State.enterRow_mems (s : State) (k : Nat) (q : QReg) (x : QTransit) :
    (s.enterRow k q x).mem = s.mem ∧ (s.enterRow k q x).endpoint.mem = s.endpoint.mem :=
  ⟨rfl, rfl⟩

@[simp] theorem State.deliverRow_mems (s : State) (k : Nat) (q : QReg) :
    (s.deliverRow k q).mem = s.mem ∧ (s.deliverRow k q).endpoint.mem = s.endpoint.mem := by
  unfold State.deliverRow
  dsimp only
  (repeat' split) <;> simp

@[simp] theorem State.heldRow_mems (s : State) (k : Nat) (q : QReg) (dst : Nat) :
    (s.heldRow k q dst).mem = s.mem ∧ (s.heldRow k q dst).endpoint.mem = s.endpoint.mem := by
  unfold State.heldRow
  split <;> simp

@[simp] theorem State.setStep_mems (s : State) (k : Nat) (x : XStep) :
    (s.setStep k x).mem = s.mem ∧ (s.setStep k x).endpoint.mem = s.endpoint.mem :=
  ⟨rfl, rfl⟩

@[simp] theorem State.addStep_mems (s : State) (x : XStep) :
    (s.addStep x).mem = s.mem ∧ (s.addStep x).endpoint.mem = s.endpoint.mem := by
  unfold State.addStep
  (repeat' split) <;> simp

@[simp] theorem State.scheduleFill_mems (s : State) (k : Nat) (x : XStep) :
    (s.scheduleFill k x).mem = s.mem ∧ (s.scheduleFill k x).endpoint.mem = s.endpoint.mem :=
  ⟨rfl, rfl⟩

@[simp] theorem State.startStep_mems (s : State) (x : XStep) :
    (s.startStep x).mem = s.mem ∧ (s.startStep x).endpoint.mem = s.endpoint.mem := by
  unfold State.startStep
  dsimp only
  (repeat' split) <;> simp

@[simp] theorem State.xissue_mems (s : State) (len : Nat) (h : XHdr) (r : XIssue) :
    (s.xissue len h r).mem = s.mem ∧ (s.xissue len h r).endpoint.mem = s.endpoint.mem := by
  unfold State.xissue
  dsimp only
  (repeat' split) <;> simp

@[simp] theorem State.admitList_mems (s : State) (p : Place) (t : State) (he : t.mem = s.mem ∧ t.endpoint.mem = s.endpoint.mem) :
    (s.admitList p t).mem = s.mem ∧ (s.admitList p t).endpoint.mem = s.endpoint.mem := by
  unfold State.admitList
  split
  · simpa using he
  · exact he

@[simp] theorem State.xnow_mems (s : State) (len : Nat) (h : XHdr) (r : XIssue) (f : Core → Core) :
    (s.xnow len h r f).mem = s.mem ∧ (s.xnow len h r f).endpoint.mem = s.endpoint.mem := by
  unfold State.xnow
  dsimp only
  (repeat' split) <;> simp

@[simp] theorem State.busyWord_mems (s : State) (i : Instr) (h : XHdr) (sp : SpadAddr) (g : BitVec 10) (on : Bool) :
    (s.busyWord i h sp g on).mem = s.mem ∧ (s.busyWord i h sp g on).endpoint.mem = s.endpoint.mem := by
  simp [State.busyWord]

@[simp] theorem State.readTargets_mems (s : State) (k : Nat) (seen : List (Nat × List Byte)) (ts : List Target) (stamp lease : Nat) :
    (s.readTargets k seen ts stamp lease).1.mem = s.mem ∧ (s.readTargets k seen ts stamp lease).1.endpoint.mem = s.endpoint.mem := by
  unfold State.readTargets
  refine foldl_keeps (fun b : State × List (Nat × List Byte) × Nat =>
    b.1.mem = s.mem ∧ b.1.endpoint.mem = s.endpoint.mem) _ _ _ ?_ ?_
  · simp
  · intro b x h
    simpa using h

@[simp] theorem State.stepFails_mems (s : State) (k : Nat) (x : XStep) (b : BadSector) :
    (s.stepFails k x b).mem = s.mem ∧ (s.stepFails k x b).endpoint.mem = s.endpoint.mem :=
  ⟨rfl, rfl⟩

@[simp] theorem State.noteSector_mems (s : State) (k : Nat) (vas : List Nat) :
    (s.noteSector k vas).mem = s.mem ∧ (s.noteSector k vas).endpoint.mem = s.endpoint.mem := by
  unfold State.noteSector
  refine foldl_keeps (fun t : State => t.mem = s.mem ∧ t.endpoint.mem = s.endpoint.mem) _ _ _ ⟨rfl, rfl⟩ (fun b x h => ?_)
  split
  all_goals simpa using h

@[simp] theorem State.moveSector_mems (s : State) (k : Nat) (x : XStep) :
    (s.moveSector k x).mem = s.mem ∧ (s.moveSector k x).endpoint.mem = s.endpoint.mem := by
  unfold State.moveSector
  dsimp only
  (repeat' split) <;> simp

@[simp] theorem State.noteTargets_mems (s : State) (k : Nat) (vas : List Nat) :
    (s.noteTargets k vas).mem = s.mem ∧ (s.noteTargets k vas).endpoint.mem = s.endpoint.mem := by
  unfold State.noteTargets
  refine foldl_keeps (fun t : State => t.mem = s.mem ∧ t.endpoint.mem = s.endpoint.mem) _ _ _ ⟨rfl, rfl⟩ (fun b x h => ?_)
  split
  all_goals simpa using h

@[simp] theorem State.askGather_mems (s : State) (k : Nat) (x0 : XStep) :
    (s.askGather k x0).mem = s.mem ∧ (s.askGather k x0).endpoint.mem = s.endpoint.mem := by
  unfold State.askGather
  dsimp only
  (repeat' split) <;> simp

@[simp] theorem State.gatherRow_mems (s : State) (k id pos : Nat) (r : RowResult) :
    (s.gatherRow k id pos r).mem = s.mem ∧ (s.gatherRow k id pos r).endpoint.mem = s.endpoint.mem := by
  unfold State.gatherRow
  dsimp only
  (repeat' split) <;> simp

@[simp] theorem State.rowDelivered_mems (s : State) (k id : Nat) :
    (s.rowDelivered k id).mem = s.mem ∧ (s.rowDelivered k id).endpoint.mem = s.endpoint.mem := by
  unfold State.rowDelivered
  dsimp only
  (repeat' split) <;> simp

@[simp] theorem State.moveDue_mems (s : State) (k tick id : Nat) :
    (s.moveDue k tick id).mem = s.mem ∧ (s.moveDue k tick id).endpoint.mem = s.endpoint.mem := by
  unfold State.moveDue
  (repeat' split) <;> simp

@[simp] theorem State.sectorsJob_mems (s : State) (k : Nat) :
    (s.sectorsJob k).mem = s.mem ∧ (s.sectorsJob k).endpoint.mem = s.endpoint.mem := by
  unfold State.sectorsJob
  try dsimp only
  constructor <;> (repeat' split) <;> first | rfl | simp [apply_ite State.mem, apply_ite State.endpoint, apply_ite Endpoint.mem, foldl_mems, foldr_mems]

@[simp] theorem State.faultParts_mems (s : State) (ps : List Nat) (cause : Nat) :
    (s.faultParts ps cause).mem = s.mem ∧ (s.faultParts ps cause).endpoint.mem = s.endpoint.mem := by
  unfold State.faultParts
  simp [foldl_mems]

@[simp] theorem State.portError_mems (s : State) (port : Nat) :
    (s.portError port).mem = s.mem ∧ (s.portError port).endpoint.mem = s.endpoint.mem :=
  ⟨rfl, rfl⟩

@[simp] theorem State.portSend_mems (s : State) (port : Nat) (bs : List Byte) :
    (s.portSend port bs).mem = s.mem ∧ (s.portSend port bs).endpoint.mem = s.endpoint.mem :=
  ⟨rfl, rfl⟩

@[simp] theorem State.receive_mems (s : State) (port : Nat) (f : ChegenFlit) (go : State → Link → State) (hg : ∀ l, (go s l).mem = s.mem ∧ (go s l).endpoint.mem = s.endpoint.mem) :
    (s.receive port f go).mem = s.mem ∧ (s.receive port f go).endpoint.mem = s.endpoint.mem := by
  unfold State.receive
  dsimp only
  repeat' split
  all_goals first | simp | exact hg _

@[simp] theorem State.dataFlit_mems (s : State) (port : Nat) (f : ChegenFlit) :
    (s.dataFlit port f).mem = s.mem ∧ (s.dataFlit port f).endpoint.mem = s.endpoint.mem := by
  unfold State.dataFlit
  simp [apply_ite State.mem, apply_ite State.endpoint, apply_ite Endpoint.mem]

@[simp] theorem State.nakFlit_mems (s : State) (port : Nat) (f : ChegenFlit) :
    (s.nakFlit port f).mem = s.mem ∧ (s.nakFlit port f).endpoint.mem = s.endpoint.mem := by
  unfold State.nakFlit
  simp [apply_ite State.mem, apply_ite State.endpoint]

@[simp] theorem State.retrainPort_mems (s : State) (port : Nat) :
    (s.retrainPort port).mem = s.mem ∧ (s.retrainPort port).endpoint.mem = s.endpoint.mem :=
  ⟨rfl, rfl⟩

@[simp] theorem State.portLaneFails_mems (s : State) (port : Nat) :
    (s.portLaneFails port).mem = s.mem ∧ (s.portLaneFails port).endpoint.mem = s.endpoint.mem := by
  unfold State.portLaneFails
  dsimp only
  (repeat' split) <;> simp

@[simp] theorem State.portTrained_mems (s : State) (port : Nat) (up : Bool) :
    (s.portTrained port up).mem = s.mem ∧ (s.portTrained port up).endpoint.mem = s.endpoint.mem := by
  unfold State.portTrained
  dsimp only
  (repeat' split) <;> simp

@[simp] theorem State.postWindow_mems (s : State) (c core step : Nat) (cells : List (Nat × Byte)) :
    (s.postWindow c core step cells).mem = s.mem ∧ (s.postWindow c core step cells).endpoint.mem = s.endpoint.mem := by
  simp [State.postWindow]

@[simp] theorem State.peerAnswered_mems (s : State) (core step : Nat) :
    (s.peerAnswered core step).mem = s.mem ∧ (s.peerAnswered core step).endpoint.mem = s.endpoint.mem :=
  ⟨rfl, rfl⟩

@[simp] theorem State.tryPubs_mems (s : State) (k : Nat) :
    (s.tryPubs k).mem = s.mem ∧ (s.tryPubs k).endpoint.mem = s.endpoint.mem := by
  unfold State.tryPubs
  simp [foldl_mems]

@[simp] theorem State.beginPublish_mems (s : State) (k : Nat) (x : XStep) :
    (s.beginPublish k x).mem = s.mem ∧ (s.beginPublish k x).endpoint.mem = s.endpoint.mem := by
  unfold State.beginPublish
  (repeat' split) <;> simp

@[simp] theorem State.endStep_mems (s : State) (k id : Nat) :
    (s.endStep k id).mem = s.mem ∧ (s.endStep k id).endpoint.mem = s.endpoint.mem :=
  ⟨rfl, rfl⟩

@[simp] theorem State.stepFault_mems (s : State) (k : Nat) (x : XStep) (cause addr : Nat) :
    (s.stepFault k x cause addr).mem = s.mem ∧ (s.stepFault k x cause addr).endpoint.mem = s.endpoint.mem :=
  ⟨rfl, rfl⟩

@[simp] theorem State.reserveLines_mems (s : State) (k id : Nat) (ls : List Nat) :
    (s.reserveLines k id ls).mem = s.mem ∧ (s.reserveLines k id ls).endpoint.mem = s.endpoint.mem := by
  unfold State.reserveLines
  simp [foldl_mems]

@[simp] theorem State.commitFlits_mems (s : State) (k : Nat) (x : XStep) (goal : Nat) :
    (s.commitFlits k x goal).mem = s.mem ∧ (s.commitFlits k x goal).endpoint.mem = s.endpoint.mem := by
  unfold State.commitFlits
  simp [foldl_mems]

@[simp] theorem State.reserveRising_mems (s : State) (k id : Nat) (ls : List Nat) :
    (s.reserveRising k id ls).1.mem = s.mem ∧ (s.reserveRising k id ls).1.endpoint.mem = s.endpoint.mem := by
  induction ls generalizing s with
  | nil => exact ⟨rfl, rfl⟩
  | cons l rest ih =>
    unfold State.reserveRising
    split <;> simp [ih]

@[simp] theorem State.sendWindows_mems (s : State) (k : Nat) (x : XStep) :
    (s.sendWindows k x).mem = s.mem ∧ (s.sendWindows k x).endpoint.mem = s.endpoint.mem := by
  unfold State.sendWindows
  simp [foldl_mems]

@[simp] theorem State.memberDone_mems (s : State) (k : Nat) (st : Nat) (x : XStep) :
    (s.memberDone k st x).mem = s.mem ∧ (s.memberDone k st x).endpoint.mem = s.endpoint.mem := by
  unfold State.memberDone
  split <;> simp

@[simp] theorem State.endMembers_mems (s : State) (k : Nat) (xs : List XStep) :
    (s.endMembers k xs).mem = s.mem ∧ (s.endMembers k xs).endpoint.mem = s.endpoint.mem :=
  ⟨rfl, rfl⟩

@[simp] theorem State.landing_mems (s : State) (k id t : Nat) :
    (s.landing k id t).mem = s.mem ∧ (s.landing k id t).endpoint.mem = s.endpoint.mem := by
  unfold State.landing
  dsimp only
  (repeat' split) <;> simp

@[simp] theorem State.stepComplete_mems (s : State) (k : Nat) (x : XStep) :
    (s.stepComplete k x).mem = s.mem ∧ (s.stepComplete k x).endpoint.mem = s.endpoint.mem := by
  unfold State.stepComplete
  dsimp only
  (repeat' split) <;> simp

@[simp] theorem State.finalPub_mems (s : State) (k : Nat) :
    (s.finalPub k).mem = s.mem ∧ (s.finalPub k).endpoint.mem = s.endpoint.mem := by
  unfold State.finalPub
  dsimp only
  (repeat' split) <;> simp

@[simp] theorem State.setWlk_mems (s : State) (u : WalkUnit) :
    (s.setWlk u).mem = s.mem ∧ (s.setWlk u).endpoint.mem = s.endpoint.mem :=
  ⟨rfl, rfl⟩

@[simp] theorem State.walkOn_mems (s : State) (n : Nat) :
    (s.walkOn n).mem = s.mem ∧ (s.walkOn n).endpoint.mem = s.endpoint.mem :=
  ⟨rfl, rfl⟩

@[simp] theorem State.walkFault_mems (s : State) (cause : Nat) :
    (s.walkFault cause).mem = s.mem ∧ (s.walkFault cause).endpoint.mem = s.endpoint.mem :=
  ⟨rfl, rfl⟩

@[simp] theorem State.walkReg_mems (s : State) (d : WReg) (v : Word64) (lat : Nat) :
    (s.walkReg d v lat).mem = s.mem ∧ (s.walkReg d v lat).endpoint.mem = s.endpoint.mem :=
  ⟨rfl, rfl⟩

@[simp] theorem State.walkTo_mems (s : State) (off : BitVec 15) (u : WalkUnit) :
    (s.walkTo off u).mem = s.mem ∧ (s.walkTo off u).endpoint.mem = s.endpoint.mem := by
  unfold State.walkTo
  dsimp only
  (repeat' split) <;> simp

@[simp] theorem State.walkStore_mems (s : State) (p : Place) (o : Nat) (bs : List Byte) (till : Nat) :
    (s.walkStore p o bs till).mem = s.mem ∧ (s.walkStore p o bs till).endpoint.mem = s.endpoint.mem :=
  ⟨rfl, rfl⟩

@[simp] theorem State.notify_mems (s : State) (n : Notice) :
    (s.notify n).mem = s.mem ∧ (s.notify n).endpoint.mem = s.endpoint.mem :=
  ⟨rfl, rfl⟩

@[simp] theorem State.refuse_mems (s : State) :
    (s.refuse).mem = s.mem ∧ (s.refuse).endpoint.mem = s.endpoint.mem :=
  ⟨rfl, rfl⟩

@[simp] theorem State.hatboxError_mems (s : State) (d : Nat) (set : Bool) (core : Nat) :
    (s.hatboxError d set core).mem = s.mem ∧ (s.hatboxError d set core).endpoint.mem = s.endpoint.mem := by
  unfold State.hatboxError
  dsimp only
  (repeat' split) <;> simp

@[simp] theorem State.discardTraffic_mems (s : State) (p : Nat) :
    (s.discardTraffic p).mem = s.mem ∧ (s.discardTraffic p).endpoint.mem = s.endpoint.mem :=
  ⟨rfl, rfl⟩

@[simp] theorem State.clearPart_mems (s : State) (p : Nat) :
    (s.clearPart p).mem = s.mem ∧ (s.clearPart p).endpoint.mem = s.endpoint.mem := by
  unfold State.clearPart
  simp [foldl_mems]

@[simp] theorem State.fillCaches_mems (s : State) (p k : Nat) :
    (s.fillCaches p k).mem = s.mem ∧ (s.fillCaches p k).endpoint.mem = s.endpoint.mem := by
  unfold State.fillCaches
  split <;> simp

@[simp] theorem State.fillAllCaches_mems (s : State) (p : Nat) :
    (s.fillAllCaches p).mem = s.mem ∧ (s.fillAllCaches p).endpoint.mem = s.endpoint.mem := by
  unfold State.fillAllCaches
  simp [foldl_mems]

@[simp] theorem State.leaveSafes_mems (s : State) (k : Nat) :
    (s.leaveSafes k).mem = s.mem ∧ (s.leaveSafes k).endpoint.mem = s.endpoint.mem := by
  refine foldl_keeps (fun t : State => t.mem = s.mem ∧ t.endpoint.mem = s.endpoint.mem) _ _ _ ⟨rfl, rfl⟩ ?_
  intro b x h
  dsimp only
  repeat' split
  all_goals first | exact h | simpa using h

@[simp] theorem State.keepNamedItems_mems (s : State) (k : Nat) :
    (s.keepNamedItems k).mem = s.mem ∧ (s.keepNamedItems k).endpoint.mem = s.endpoint.mem := by
  unfold State.keepNamedItems
  split <;> simp

@[simp] theorem State.coreSave_mems (s : State) (k : Nat) :
    (s.coreSave k).mem = s.mem ∧ (s.coreSave k).endpoint.mem = s.endpoint.mem := by
  simp [State.coreSave]

@[simp] theorem State.setSlot_mems (s : State) (set : Bool) (k : Nat) (h : HatSlot) :
    (s.setSlot set k h).mem = s.mem ∧ (s.setSlot set k h).endpoint.mem = s.endpoint.mem :=
  ⟨rfl, rfl⟩

@[simp] theorem State.storeImage_mems (s : State) (set : Bool) (k : Nat) (c : Core) :
    (s.storeImage set k c).mem = s.mem ∧ (s.storeImage set k c).endpoint.mem = s.endpoint.mem :=
  ⟨rfl, rfl⟩

@[simp] theorem State.saveDone_mems (s : State) (p : Nat) :
    (s.saveDone p).mem = s.mem ∧ (s.saveDone p).endpoint.mem = s.endpoint.mem := by
  unfold State.saveDone
  simp [foldl_mems]

@[simp] theorem State.restoreImage_mems (s : State) (p : Nat) (fl : Bool) (h : Nat × HatSlot) :
    (s.restoreImage p fl h).mem = s.mem ∧ (s.restoreImage p fl h).endpoint.mem = s.endpoint.mem := by
  unfold State.restoreImage
  split <;> simp

@[simp] theorem State.timeSliceSwitch_mems (s : State) (k m : Nat) :
    (s.timeSliceSwitch k m).mem = s.mem ∧ (s.timeSliceSwitch k m).endpoint.mem = s.endpoint.mem := by
  unfold State.timeSliceSwitch
  dsimp only
  (repeat' split) <;> simp

@[simp] theorem State.placeBinding_mems (s : State) (q : Part) (r : QbindRec) :
    (s.placeBinding q r).mem = s.mem ∧ (s.placeBinding q r).endpoint.mem = s.endpoint.mem :=
  ⟨rfl, rfl⟩

@[simp] theorem State.placeMbox_mems (s : State) (p : Nat) (g : Image) (m : MboxRec) :
    (s.placeMbox p g m).mem = s.mem ∧ (s.placeMbox p g m).endpoint.mem = s.endpoint.mem :=
  ⟨rfl, rfl⟩

@[simp] theorem State.beginCore_mems (s : State) (p k : Nat) :
    (s.beginCore p k).mem = s.mem ∧ (s.beginCore p k).endpoint.mem = s.endpoint.mem := by
  unfold State.beginCore
  dsimp only
  (repeat' split) <;> simp

@[simp] theorem State.createPart_mems (s : State) (p : Nat) (q : Part) :
    (s.createPart p q).mem = s.mem ∧ (s.createPart p q).endpoint.mem = s.endpoint.mem := by
  unfold State.createPart
  simp [foldl_mems]

@[simp] theorem State.changePart_mems (s : State) (p : Nat) (q : Part) :
    (s.changePart p q).mem = s.mem ∧ (s.changePart p q).endpoint.mem = s.endpoint.mem := by
  unfold State.changePart
  simp [foldl_mems]

@[simp] theorem State.dropEntries_mems (s : State) (p : Nat) (gone : TlbEntry → Bool) :
    (s.dropEntries p gone).mem = s.mem ∧ (s.dropEntries p gone).endpoint.mem = s.endpoint.mem :=
  ⟨rfl, rfl⟩

@[simp] theorem State.markOld_mems (s : State) (p va n : Nat) :
    (s.markOld p va n).mem = s.mem ∧ (s.markOld p va n).endpoint.mem = s.endpoint.mem :=
  ⟨rfl, rfl⟩

@[simp] theorem State.invalidated_mems (s : State) (p : Nat) (e : Ev) :
    (s.invalidated p e).mem = s.mem ∧ (s.invalidated p e).endpoint.mem = s.endpoint.mem := by
  unfold State.invalidated
  (repeat' split) <;> simp

@[simp] theorem State.invalidate_mems (s : State) (p : Nat) (iop : BitVec 2) (va n : Nat) (gone : TlbEntry → Bool) (e : Ev) :
    (s.invalidate p iop va n gone e).mem = s.mem ∧ (s.invalidate p iop va n gone e).endpoint.mem = s.endpoint.mem := by
  unfold State.invalidate
  dsimp only
  (repeat' split) <;> simp

@[simp] theorem State.slotCopy_mems (s : State) (d : Nat) (set : Bool) (core : Nat) (way : SlotCopy) :
    (s.slotCopy d set core way).mem = s.mem ∧ (s.slotCopy d set core way).endpoint.mem = s.endpoint.mem := by
  unfold State.slotCopy
  dsimp only
  (repeat' split) <;> simp

@[simp] theorem State.trimSet_mems (s : State) (k : Nat) (set cap : Nat) (ls : List Nat) :
    (s.trimSet k set cap ls).mem = s.mem ∧ (s.trimSet k set cap ls).endpoint.mem = s.endpoint.mem := by
  unfold State.trimSet
  simp [foldl_mems]

@[simp] theorem State.ringLeaves_mems (s : State) (d : Nat) (x : RingPkt) :
    (s.ringLeaves d x).mem = s.mem ∧ (s.ringLeaves d x).endpoint.mem = s.endpoint.mem := by
  unfold State.ringLeaves
  split <;> simp

@[simp] theorem State.ringPlace_mems (s : State) (d : Nat) (takes : List RingTake) (l : Nat) (seen : List Nat) (ps : List RingPkt) :
    (s.ringPlace d takes l seen ps).mem = s.mem ∧ (s.ringPlace d takes l seen ps).endpoint.mem = s.endpoint.mem := by
  induction ps generalizing s seen with
  | nil => exact ⟨rfl, rfl⟩
  | cons x rest ih =>
    unfold State.ringPlace
    dsimp only
    split
    all_goals simp [ih]

@[simp] theorem State.ringNext_mems (s : State) (x : RingPkt) :
    (s.ringNext x).mem = s.mem ∧ (s.ringNext x).endpoint.mem = s.endpoint.mem := by
  simp [State.ringNext]

theorem State.ringPlaces_mems (s : State) (d : Nat) (takes : List RingTake) (ls : List Nat) :
    let t := ls.foldl (fun s l => s.ringPlace d takes l [] (s.die d).queues) s
    t.mem = s.mem ∧ t.endpoint.mem = s.endpoint.mem := by
  induction ls generalizing s with
  | nil => exact ⟨rfl, rfl⟩
  | cons l ls ih => simpa using ih (s.ringPlace d takes l [] (s.die d).queues)

@[simp] theorem State.ringDie_mems (s : State) (d : Nat) :
    (s.ringDie d).mem = s.mem ∧ (s.ringDie d).endpoint.mem = s.endpoint.mem := by
  unfold State.ringDie
  extract_lets die taken here takes s1 s2
  have h := State.ringPlaces_mems s2 d takes (List.range 4)
  exact ⟨h.1.trans (by simp [s2, s1, foldl_mems]), h.2.trans (by simp [s2, s1, foldl_mems])⟩

@[simp] theorem State.ringCycle_mems (s : State) :
    (s.ringCycle).mem = s.mem ∧ (s.ringCycle).endpoint.mem = s.endpoint.mem := by
  unfold State.ringCycle
  simp [foldl_mems]

@[simp] theorem State.ringError_mems (s : State) (d i l : Nat) (laneFailure : Bool) :
    (s.ringError d i l laneFailure).mem = s.mem ∧ (s.ringError d i l laneFailure).endpoint.mem = s.endpoint.mem := by
  simp [State.ringError]

@[simp] theorem State.ringTableErr_mems (s : State) (d i l : Nat) (k : RingErr) :
    (s.ringTableErr d i l k).mem = s.mem ∧ (s.ringTableErr d i l k).endpoint.mem = s.endpoint.mem := by
  unfold State.ringTableErr
  split <;> simp

@[simp] theorem State.ringLaneFails_mems (s : State) (d : Nat) (l : Fin 4) :
    (s.ringLaneFails d l).mem = s.mem ∧ (s.ringLaneFails d l).endpoint.mem = s.endpoint.mem := by
  unfold State.ringLaneFails
  dsimp only
  (repeat' split) <;> simp

@[simp] theorem State.requestArrives_mems (s : State) (f : Flit) (r : TaskRef) (x : Access) :
    (s.requestArrives f r x).mem = s.mem ∧ (s.requestArrives f r x).endpoint.mem = s.endpoint.mem := by
  unfold State.requestArrives
  dsimp only
  (repeat' split) <;> simp

@[simp] theorem State.fetchArrives_mems (s : State) (f : Flit) (who : Cur) (c : CacheSel) (pin : Option Bool) (va pa : Nat) :
    (s.fetchArrives f who c pin va pa).mem = s.mem ∧ (s.fetchArrives f who c pin va pa).endpoint.mem = s.endpoint.mem := by
  unfold State.fetchArrives
  (repeat' split) <;> simp

@[simp] theorem State.arriveDo_mems (s : State) (f : Flit) :
    (s.arriveDo f).mem = s.mem ∧ (s.arriveDo f).endpoint.mem = s.endpoint.mem := by
  unfold State.arriveDo
  split
  all_goals (repeat' split)
  all_goals simp [foldl_mems]

@[simp] theorem State.arrive_mems (s : State) (f : Flit) :
    (s.arrive f).mem = s.mem ∧ (s.arrive f).endpoint.mem = s.endpoint.mem := by
  unfold State.arrive
  try dsimp only
  constructor <;> (repeat' split) <;> first | rfl | simp [apply_ite State.mem, apply_ite State.endpoint, apply_ite Endpoint.mem, foldl_mems, foldr_mems]

@[simp] theorem State.forward_mems (s : State) (g : Nat) (f : Flit) (out : Port) :
    (s.forward g f out).mem = s.mem ∧ (s.forward g f out).endpoint.mem = s.endpoint.mem := by
  unfold State.forward
  split <;> simp

@[simp] theorem State.meshGrant_mems (s : State) (g d : Nat) (out : Port) :
    (s.meshGrant g d out).mem = s.mem ∧ (s.meshGrant g d out).endpoint.mem = s.endpoint.mem := by
  unfold State.meshGrant
  dsimp only
  (repeat' split) <;> simp

@[simp] theorem State.meshCycle_mems (s : State) :
    (s.meshCycle).mem = s.mem ∧ (s.meshCycle).endpoint.mem = s.endpoint.mem := by
  unfold State.meshCycle
  simp only [State.soon_mems]
  refine foldl_keeps (fun t : State => t.mem = s.mem ∧ t.endpoint.mem = s.endpoint.mem) _ _ _ ?_ (fun b x h => by simpa using h)
  refine foldl_keeps (fun t : State => t.mem = s.mem ∧ t.endpoint.mem = s.endpoint.mem) _ _ _ ⟨rfl, rfl⟩ (fun b x h => ?_)
  refine foldl_keeps (fun t : State => t.mem = s.mem ∧ t.endpoint.mem = s.endpoint.mem) _ _ _ h (fun b x h => ?_)
  exact foldl_keeps (fun t : State => t.mem = s.mem ∧ t.endpoint.mem = s.endpoint.mem) _ _ _ h (fun b x h => by simpa using h)

@[simp] theorem State.holdLink_mems (s : State) (d : Nat) (out : Port) (head : Nat) :
    (s.holdLink d out head).mem = s.mem ∧ (s.holdLink d out head).endpoint.mem = s.endpoint.mem := by
  unfold State.holdLink
  split <;> simp

@[simp] theorem State.meshLinkOff_mems (s : State) (d : Nat) (out : Port) :
    (s.meshLinkOff d out).mem = s.mem ∧ (s.meshLinkOff d out).endpoint.mem = s.endpoint.mem :=
  ⟨rfl, rfl⟩

@[simp] theorem State.meshLaneFails_mems (s : State) (d : Nat) (out : Port) :
    (s.meshLaneFails d out).mem = s.mem ∧ (s.meshLaneFails d out).endpoint.mem = s.endpoint.mem := by
  unfold State.meshLaneFails
  dsimp only
  (repeat' split) <;> simp

@[simp] theorem State.hostQueue_mems (s : State) (e : Ev) :
    (s.hostQueue e).mem = s.mem ∧ (s.hostQueue e).endpoint.mem = s.endpoint.mem :=
  ⟨rfl, rfl⟩

@[simp] theorem State.hostDone_mems (s : State) :
    (s.hostDone).mem = s.mem ∧ (s.hostDone).endpoint.mem = s.endpoint.mem :=
  ⟨rfl, rfl⟩

@[simp] theorem State.hostBlocked_mems (s : State) (e : Ev) (n : Nat) :
    (s.hostBlocked e n).mem = s.mem ∧ (s.hostBlocked e n).endpoint.mem = s.endpoint.mem := by
  unfold State.hostBlocked
  split <;> simp

@[simp] theorem State.doorbell_mems (s : State) (off : Nat) (v : Word64) :
    (s.doorbell off v).mem = s.mem ∧ (s.doorbell off v).endpoint.mem = s.endpoint.mem := by
  unfold State.doorbell
  split <;> simp

@[simp] theorem State.bar0_mems (s : State) (off : Nat) (v : Option Word64) :
    (s.bar0 off v).mem = s.mem ∧ (s.bar0 off v).endpoint.mem = s.endpoint.mem := by
  unfold State.bar0
  split <;> simp

@[simp] theorem State.hostRead_mems (s : State) (q n : Nat) :
    (s.hostRead q n).1.mem = s.mem ∧ (s.hostRead q n).1.endpoint.mem = s.endpoint.mem := by
  exact foldl_keeps (fun b : State × List Byte => b.1.mem = s.mem ∧ b.1.endpoint.mem = s.endpoint.mem) _ _ _
    ⟨rfl, rfl⟩ (fun b x h => by simpa using h)

@[simp] theorem State.bootFails_mems (s : State) :
    (s.bootFails).mem = s.mem ∧ (s.bootFails).endpoint.mem = s.endpoint.mem :=
  ⟨rfl, rfl⟩

@[simp] theorem State.secondWay_mems (s : State) (k set way : Nat) :
    (s.secondWay k set way).mem = s.mem ∧ (s.secondWay k set way).endpoint.mem = s.endpoint.mem := by
  unfold State.secondWay
  dsimp only
  (repeat' split) <;> simp

@[simp] theorem State.spareServes_mems (s : State) (k set way : Nat) :
    (s.spareServes k set way).mem = s.mem ∧ (s.spareServes k set way).endpoint.mem = s.endpoint.mem :=
  ⟨rfl, rfl⟩

@[simp] theorem State.bootWay_mems (s : State) (k set way : Nat) :
    (s.bootWay k set way).mem = s.mem ∧ (s.bootWay k set way).endpoint.mem = s.endpoint.mem := by
  unfold State.bootWay
  split <;> simp

@[simp] theorem State.bootLink_mems (s : State) (l : LinkRef) :
    (s.bootLink l).mem = s.mem ∧ (s.bootLink l).endpoint.mem = s.endpoint.mem := by
  unfold State.bootLink
  (repeat' split) <;> simp

@[simp] theorem State.bootFound_mems (s : State) (f : BootReport) :
    (s.bootFound f).mem = s.mem ∧ (s.bootFound f).endpoint.mem = s.endpoint.mem := by
  unfold State.bootFound
  simp [foldl_mems]

@[simp] theorem State.bootOpens_mems (s : State) :
    (s.bootOpens).mem = s.mem ∧ (s.bootOpens).endpoint.mem = s.endpoint.mem :=
  ⟨rfl, rfl⟩

@[simp] theorem State.powerUpdate_mems (s : State) (r : PowerReading) :
    (s.powerUpdate r).mem = s.mem ∧ (s.powerUpdate r).endpoint.mem = s.endpoint.mem :=
  ⟨rfl, rfl⟩

@[simp] theorem State.powerRead_mems (s : State) (r : PowerReading) :
    (s.powerRead r).mem = s.mem ∧ (s.powerRead r).endpoint.mem = s.endpoint.mem := by
  unfold State.powerRead
  split <;> simp

@[simp] theorem State.wayMoved_mems (s : State) (k set way : Nat) (line : Option Nat) :
    (s.wayMoved k set way line).mem = s.mem ∧ (s.wayMoved k set way line).endpoint.mem = s.endpoint.mem := by
  unfold State.wayMoved
  split <;> simp

@[simp] theorem State.wayMove_mems (s : State) (k set way : Nat) :
    (s.wayMove k set way).mem = s.mem ∧ (s.wayMove k set way).endpoint.mem = s.endpoint.mem := by
  unfold State.wayMove
  (repeat' split) <;> simp

@[simp] theorem State.wayGoesOn_mems (s : State) (k set : Nat) :
    (s.wayGoesOn k set).mem = s.mem ∧ (s.wayGoesOn k set).endpoint.mem = s.endpoint.mem := by
  unfold State.wayGoesOn
  split <;> simp

@[simp] theorem State.wayReplace_mems (s : State) (k set way : Nat) :
    (s.wayReplace k set way).mem = s.mem ∧ (s.wayReplace k set way).endpoint.mem = s.endpoint.mem := by
  unfold State.wayReplace
  (repeat' split) <;> simp

@[simp] theorem State.wayError_mems (s : State) (k set way : Nat) :
    (s.wayError k set way).mem = s.mem ∧ (s.wayError k set way).endpoint.mem = s.endpoint.mem := by
  unfold State.wayError
  dsimp only
  (repeat' split) <;> simp

@[simp] theorem State.rowSpared_mems (s : State) (d bank row : Nat) :
    (s.rowSpared d bank row).mem = s.mem ∧ (s.rowSpared d bank row).endpoint.mem = s.endpoint.mem := by
  unfold State.rowSpared
  dsimp only
  (repeat' split) <;> simp

@[simp] theorem State.rowError_mems (s : State) (d bank row : Nat) :
    (s.rowError d bank row).mem = s.mem ∧ (s.rowError d bank row).endpoint.mem = s.endpoint.mem := by
  unfold State.rowError
  dsimp only
  (repeat' split) <;> simp

end Sys2Proof.Machine
end

