-- ==== Sys2Proof/Laws/MemoryOk.lean ====
section
/-! SUPPORT. Every operation on the state that writes physical or host memory keeps the canonical form. -/

namespace Sys2Proof.Machine

open Sys2Proof

/-- Both memories are in canonical form. -/
def Good (t : State) : Prop := Memory.wf t.mem = true ∧ Memory.wf t.endpoint.mem = true

/-- A fold of steps that keep the form keeps it. -/
theorem foldl_good {α : Type} (f : State → α → State) (l : List α) (s : State) (h : Good s)
    (hf : ∀ s x, Good s → Good (f s x)) : Good (l.foldl f s) :=
  foldl_keeps Good f l s h hf

@[simp] theorem State.physStore_wf (s : State) (pa : Nat) (bs : List Byte) (h1 : Memory.wf s.mem = true)
    (h2 : Memory.wf s.endpoint.mem = true) :
    Memory.wf (s.physStore pa bs).mem = true ∧ Memory.wf (s.physStore pa bs).endpoint.mem = true := by
  unfold State.physStore
  try dsimp only
  constructor <;> (repeat' split) <;> simp [h1, h2]

@[simp] theorem State.homeWrite_wf (s : State) (pa : Nat) (bs : List Byte) (ts : Nat) (h1 : Memory.wf s.mem = true)
    (h2 : Memory.wf s.endpoint.mem = true) :
    Memory.wf (s.homeWrite pa bs ts).1.mem = true ∧ Memory.wf (s.homeWrite pa bs ts).1.endpoint.mem = true := by
  unfold State.homeWrite
  try dsimp only
  constructor <;> (repeat' split) <;> simp [h1, h2]

@[simp] theorem State.commitCells_wf (s : State) (cells : List (Nat × Byte)) (st : Nat) (h1 : Memory.wf s.mem = true)
    (h2 : Memory.wf s.endpoint.mem = true) :
    Memory.wf (s.commitCells cells st).mem = true ∧ Memory.wf (s.commitCells cells st).endpoint.mem = true := by
  unfold State.commitCells
  exact foldl_good _ _ _ (foldl_good _ _ _ ⟨h1, h2⟩ (fun t x h => by have h1 := h.1; have h2 := h.2; simp [Good, h1, h2])) (fun t x h => by have h1 := h.1; have h2 := h.2; simp [Good, h1, h2])

@[simp] theorem State.perform_wf (s : State) (x : Access) (ts : Nat) (h1 : Memory.wf s.mem = true)
    (h2 : Memory.wf s.endpoint.mem = true) :
    Memory.wf (s.perform x ts).1.mem = true ∧ Memory.wf (s.perform x ts).1.endpoint.mem = true := by
  unfold State.perform
  try dsimp only
  constructor <;> (repeat' split) <;> simp [h1, h2]

@[simp] theorem State.joinUpdate_wf (s : State) (r : TaskRef) (f : Option FaultInfo) (h1 : Memory.wf s.mem = true)
    (h2 : Memory.wf s.endpoint.mem = true) :
    Memory.wf (s.joinUpdate r f).mem = true ∧ Memory.wf (s.joinUpdate r f).endpoint.mem = true := by
  unfold State.joinUpdate
  try dsimp only
  constructor <;> (repeat' split) <;> simp [h1, h2]

@[simp] theorem State.storeDo_wf (s : State) (r : TaskRef) (x : Access) (h1 : Memory.wf s.mem = true)
    (h2 : Memory.wf s.endpoint.mem = true) :
    Memory.wf (s.storeDo r x).mem = true ∧ Memory.wf (s.storeDo r x).endpoint.mem = true := by
  unfold State.storeDo
  try dsimp only
  constructor <;> (repeat' split) <;> simp [h1, h2]

@[simp] theorem State.flushStores_wf (s : State) (r : TaskRef) (h1 : Memory.wf s.mem = true)
    (h2 : Memory.wf s.endpoint.mem = true) :
    Memory.wf (s.flushStores r).mem = true ∧ Memory.wf (s.flushStores r).endpoint.mem = true := by
  have h := foldl_good (fun (s : State) (x : Access) => s.storeDo r x) (s.storesOf r) s ⟨h1, h2⟩ (fun t x h => by have h1 := h.1; have h2 := h.2; simp [Good, h1, h2])
  exact h

@[simp] theorem State.endTask_wf (s : State) (r : TaskRef) (f : Option FaultInfo) (h1 : Memory.wf s.mem = true)
    (h2 : Memory.wf s.endpoint.mem = true) :
    Memory.wf (s.endTask r f).mem = true ∧ Memory.wf (s.endTask r f).endpoint.mem = true := by
  unfold State.endTask
  try dsimp only
  constructor <;> (repeat' split) <;> simp [h1, h2]

@[simp] theorem State.takeFault_wf (s : State) (r : TaskRef) (f : FaultInfo) (sector : Bool) (h1 : Memory.wf s.mem = true)
    (h2 : Memory.wf s.endpoint.mem = true) :
    Memory.wf (s.takeFault r f sector).mem = true ∧ Memory.wf (s.takeFault r f sector).endpoint.mem = true := by
  unfold State.takeFault
  try dsimp only
  constructor <;> (repeat' split) <;> simp [h1, h2]

@[simp] theorem State.seqFault_wf (s : State) (cause acc why addr code : Nat) (h1 : Memory.wf s.mem = true)
    (h2 : Memory.wf s.endpoint.mem = true) :
    Memory.wf (s.seqFault cause acc why addr code).mem = true ∧ Memory.wf (s.seqFault cause acc why addr code).endpoint.mem = true := by
  unfold State.seqFault
  try dsimp only
  constructor <;> (repeat' split) <;> simp [h1, h2]

@[simp] theorem State.memWord_wf (s : State) (op : MemOp) (sc : Option Scope) (dst : GReg) (ea a b : Word64) (reply : Bool) (h1 : Memory.wf s.mem = true)
    (h2 : Memory.wf s.endpoint.mem = true) :
    Memory.wf (s.memWord op sc dst ea a b reply).mem = true ∧ Memory.wf (s.memWord op sc dst ea a b reply).endpoint.mem = true := by
  unfold State.memWord
  try dsimp only
  constructor <;> (repeat' split) <;> simp [h1, h2]

@[simp] theorem State.fetchFault_wf (s : State) (who : Cur) (cause why addr : Nat) (h1 : Memory.wf s.mem = true)
    (h2 : Memory.wf s.endpoint.mem = true) :
    Memory.wf (s.fetchFault who cause why addr).mem = true ∧ Memory.wf (s.fetchFault who cause why addr).endpoint.mem = true := by
  unfold State.fetchFault
  try dsimp only
  constructor <;> (repeat' split) <;> simp [h1, h2]

@[simp] theorem State.plainLoad_wf (s : State) (n : Nat) (signed : Bool) (d a : GReg) (imm : BitVec 16) (h1 : Memory.wf s.mem = true)
    (h2 : Memory.wf s.endpoint.mem = true) :
    Memory.wf (s.plainLoad n signed d a imm).mem = true ∧ Memory.wf (s.plainLoad n signed d a imm).endpoint.mem = true := by
  unfold State.plainLoad
  try dsimp only
  constructor <;> (repeat' split) <;> simp [h1, h2]

@[simp] theorem State.plainStore_wf (s : State) (n : Nat) (d a : GReg) (imm : BitVec 16) (h1 : Memory.wf s.mem = true)
    (h2 : Memory.wf s.endpoint.mem = true) :
    Memory.wf (s.plainStore n d a imm).mem = true ∧ Memory.wf (s.plainStore n d a imm).endpoint.mem = true := by
  unfold State.plainStore
  try dsimp only
  constructor <;> (repeat' split) <;> simp [h1, h2]

@[simp] theorem State.loadSpec_wf (s : State) (d : GReg) (ea : Word64) (h1 : Memory.wf s.mem = true)
    (h2 : Memory.wf s.endpoint.mem = true) :
    Memory.wf (s.loadSpec d ea).mem = true ∧ Memory.wf (s.loadSpec d ea).endpoint.mem = true := by
  unfold State.loadSpec
  try dsimp only
  constructor <;> (repeat' split) <;> simp [h1, h2]

@[simp] theorem State.checkWord_wf (s : State) (d : GReg) (h1 : Memory.wf s.mem = true)
    (h2 : Memory.wf s.endpoint.mem = true) :
    Memory.wf (s.checkWord d).mem = true ∧ Memory.wf (s.checkWord d).endpoint.mem = true := by
  unfold State.checkWord
  try dsimp only
  constructor <;> (repeat' split) <;> simp [h1, h2]

@[simp] theorem State.amo_wf (s : State) (op : MemOp) (sc : Scope) (d a b : GReg) (h1 : Memory.wf s.mem = true)
    (h2 : Memory.wf s.endpoint.mem = true) :
    Memory.wf (s.amo op sc d a b).mem = true ∧ Memory.wf (s.amo op sc d a b).endpoint.mem = true := by
  unfold State.amo
  try dsimp only
  constructor <;> (repeat' split) <;> simp [h1, h2]

@[simp] theorem State.performAtHome_wf (s : State) (r : TaskRef) (x : Access) (h1 : Memory.wf s.mem = true)
    (h2 : Memory.wf s.endpoint.mem = true) :
    Memory.wf (s.performAtHome r x).mem = true ∧ Memory.wf (s.performAtHome r x).endpoint.mem = true := by
  unfold State.performAtHome
  try dsimp only
  constructor <;> (repeat' split) <;> simp [h1, h2]

@[simp] theorem State.performAccess_wf (s : State) (r : TaskRef) (x : Access) (h1 : Memory.wf s.mem = true)
    (h2 : Memory.wf s.endpoint.mem = true) :
    Memory.wf (s.performAccess r x).mem = true ∧ Memory.wf (s.performAccess r x).endpoint.mem = true := by
  unfold State.performAccess
  try dsimp only
  constructor <;> (repeat' split) <;> simp [h1, h2]

@[simp] theorem State.requestAtHome_wf (s : State) (sm : Stream) (n : Nat) (h1 : Memory.wf s.mem = true)
    (h2 : Memory.wf s.endpoint.mem = true) :
    Memory.wf (s.requestAtHome sm n).mem = true ∧ Memory.wf (s.requestAtHome sm n).endpoint.mem = true := by
  unfold State.requestAtHome
  try dsimp only
  constructor <;> (repeat' split) <;> simp [h1, h2]

@[simp] theorem State.requestRetry_wf (s : State) (r : TaskRef) (h1 : Memory.wf s.mem = true)
    (h2 : Memory.wf s.endpoint.mem = true) :
    Memory.wf (s.requestRetry r).mem = true ∧ Memory.wf (s.requestRetry r).endpoint.mem = true := by
  unfold State.requestRetry
  try dsimp only
  constructor <;> (repeat' split) <;> simp [h1, h2]

@[simp] theorem State.storeStamped_wf (s : State) (r : TaskRef) (h1 : Memory.wf s.mem = true)
    (h2 : Memory.wf s.endpoint.mem = true) :
    Memory.wf (s.storeStamped r).mem = true ∧ Memory.wf (s.storeStamped r).endpoint.mem = true := by
  unfold State.storeStamped
  try dsimp only
  constructor <;> (repeat' split) <;> simp [h1, h2]

@[simp] theorem State.barReply_wf (s : State) (r : BarReq) (v : Option Word64) (stamp : Nat) (h1 : Memory.wf s.mem = true)
    (h2 : Memory.wf s.endpoint.mem = true) :
    Memory.wf (s.barReply r v stamp).mem = true ∧ Memory.wf (s.barReply r v stamp).endpoint.mem = true := by
  unfold State.barReply
  try dsimp only
  constructor <;> (repeat' split) <;> simp [h1, h2]

@[simp] theorem State.barAnswer_wf (s : State) (r : BarReq) (v : Option Word64) (stamp : Nat) (h1 : Memory.wf s.mem = true)
    (h2 : Memory.wf s.endpoint.mem = true) :
    Memory.wf (s.barAnswer r v stamp).mem = true ∧ Memory.wf (s.barAnswer r v stamp).endpoint.mem = true := by
  unfold State.barAnswer
  try dsimp only
  constructor <;> (repeat' split) <;> simp [h1, h2]

@[simp] theorem State.wakeBar_wf (s : State) (home num : Nat) (h1 : Memory.wf s.mem = true)
    (h2 : Memory.wf s.endpoint.mem = true) :
    Memory.wf (s.wakeBar home num).mem = true ∧ Memory.wf (s.wakeBar home num).endpoint.mem = true := by
  exact foldr_keeps Good _ _ _ ⟨h1, h2⟩ (fun t x h => by have h1 := h.1; have h2 := h.2; simp [Good, h1, h2])

@[simp] theorem State.barPerform_wf (s : State) (r : BarReq) (h1 : Memory.wf s.mem = true)
    (h2 : Memory.wf s.endpoint.mem = true) :
    Memory.wf (s.barPerform r).mem = true ∧ Memory.wf (s.barPerform r).endpoint.mem = true := by
  unfold State.barPerform
  try dsimp only
  constructor <;> (repeat' split) <;> simp [h1, h2]

@[simp] theorem State.barsBefore_wf (s : State) (r : BarReq) (h1 : Memory.wf s.mem = true)
    (h2 : Memory.wf s.endpoint.mem = true) :
    Memory.wf (s.barsBefore r).mem = true ∧ Memory.wf (s.barsBefore r).endpoint.mem = true := by
  unfold State.barsBefore
  dsimp only
  exact foldl_good _ _ _ (by simp [Good, h1, h2]) (fun t x h => by have h1 := h.1; have h2 := h.2; simp [Good, h1, h2])

@[simp] theorem State.barWord_wf (s : State) (fn : BarFn) (d a b : GReg) (h1 : Memory.wf s.mem = true)
    (h2 : Memory.wf s.endpoint.mem = true) :
    Memory.wf (s.barWord fn d a b).mem = true ∧ Memory.wf (s.barWord fn d a b).endpoint.mem = true := by
  unfold State.barWord
  split
  · simp [h1, h2]
  · split
    · simp [h1, h2]
    · exact ⟨h1, h2⟩
    · extract_lets s1 r sl s2
      have g2 : Good s2 := by
        simp only [s2, sl, s1, Good, State.setTask_mem, State.setTask_endpoint]
        split
        · simp [h1, h2]
        · exact ⟨h1, h2⟩
      clear_value s2 sl
      obtain ⟨a1, a2⟩ := g2
      split <;> simp [a1, a2]

@[simp] theorem State.runWord_wf (s : State) (e : Engine) (d a : GReg) (n : BitVec 3) (h1 : Memory.wf s.mem = true)
    (h2 : Memory.wf s.endpoint.mem = true) :
    Memory.wf (s.runWord e d a n).mem = true ∧ Memory.wf (s.runWord e d a n).endpoint.mem = true := by
  unfold State.runWord
  try dsimp only
  constructor <;> (repeat' split) <;> simp [h1, h2]

@[simp] theorem State.putPacket_wf (s : State) (num : Nat) (cells : List (Nat × Byte)) (n ts : Nat) (h1 : Memory.wf s.mem = true)
    (h2 : Memory.wf s.endpoint.mem = true) :
    Memory.wf (s.putPacket num cells n ts).1.mem = true ∧ Memory.wf (s.putPacket num cells n ts).1.endpoint.mem = true := by
  unfold State.putPacket
  try dsimp only
  constructor <;> (repeat' split) <;> simp [h1, h2]

@[simp] theorem State.spawnChildren_wf (s : State) (d a b : GReg) (h1 : Memory.wf s.mem = true)
    (h2 : Memory.wf s.endpoint.mem = true) :
    Memory.wf (s.spawnChildren d a b).mem = true ∧ Memory.wf (s.spawnChildren d a b).endpoint.mem = true := by
  unfold State.spawnChildren
  lift_lets
  extract_lets desc recAt n s1
  have hm := State.taskReads_mems s1 (dwords desc 3)
  have m1 : Memory.wf s1.mem = true ∧ Memory.wf s1.endpoint.mem = true := by simp [s1, h1, h2]
  generalize s1.taskReads (dwords desc 3) = x at hm ⊢
  obtain ⟨s2, ws⟩ := x
  rw [← hm.1, ← hm.2] at m1
  clear_value s1
  obtain ⟨a1, a2⟩ := m1
  refine foldl_good _ _ _ (foldl_good _ _ _ ?_ (fun t x h => by have h1 := h.1; have h2 := h.2; simp [Good, h1, h2])) (fun t x h => by have h1 := h.1; have h2 := h.2; simp [Good, h1, h2])
  simp only [Good, State.setTask_mem, State.setTask_endpoint]
  split
  · exact ⟨a1, a2⟩
  · split
    · exact ⟨a1, a2⟩
    · simp [a1, a2]

@[simp] theorem State.takeReport_wf (s : State) (k : Nat) (i : Fin 4) (r : Report) (h1 : Memory.wf s.mem = true)
    (h2 : Memory.wf s.endpoint.mem = true) :
    Memory.wf (s.takeReport k i r).mem = true ∧ Memory.wf (s.takeReport k i r).endpoint.mem = true := by
  unfold State.takeReport
  try dsimp only
  constructor <;> (repeat' split) <;> simp [h1, h2]

@[simp] theorem State.reportJob_wf (s : State) (k : Nat) (h1 : Memory.wf s.mem = true)
    (h2 : Memory.wf s.endpoint.mem = true) :
    Memory.wf (s.reportJob k).mem = true ∧ Memory.wf (s.reportJob k).endpoint.mem = true := by
  have hg := foldl_good (fun (t : State) i => match (t.core k).report i (s.tickOf k) with
      | none => t
      | some r => t.takeReport k i r) (List.finRange 4) s ⟨h1, h2⟩ (fun t x h => by
    have h1 := h.1
    have h2 := h.2
    split <;> simp [Good, h1, h2])
  unfold State.reportJob
  lift_lets
  extract_lets tick s1 c
  have hs : Good s1 := hg
  clear_value s1
  have g1 := hs.1
  have g2 := hs.2
  split
  · exact ⟨h1, h2⟩
  · split
    · simp [g1, g2]
    · exact hs

@[simp] theorem State.peerCommit_wf (s : State) (port : Nat) (cells : List (Nat × Byte)) (h1 : Memory.wf s.mem = true)
    (h2 : Memory.wf s.endpoint.mem = true) :
    Memory.wf (s.peerCommit port cells).mem = true ∧ Memory.wf (s.peerCommit port cells).endpoint.mem = true := by
  unfold State.peerCommit
  try dsimp only
  constructor <;> (repeat' split) <;> simp [h1, h2]

@[simp] theorem State.sendPacket_wf (s : State) (k : Nat) (x : XStep) (m : Nat) (h1 : Memory.wf s.mem = true)
    (h2 : Memory.wf s.endpoint.mem = true) :
    Memory.wf (s.sendPacket k x m).mem = true ∧ Memory.wf (s.sendPacket k x m).endpoint.mem = true := by
  unfold State.sendPacket
  try dsimp only
  constructor <;> (repeat' split) <;> simp [h1, h2]

@[simp] theorem State.shadowFilled_wf (s : State) (k : Nat) (x : XStep) (h1 : Memory.wf s.mem = true)
    (h2 : Memory.wf s.endpoint.mem = true) :
    Memory.wf (s.shadowFilled k x).mem = true ∧ Memory.wf (s.shadowFilled k x).endpoint.mem = true := by
  unfold State.shadowFilled
  try dsimp only
  constructor <;> (repeat' split) <;> simp [h1, h2]

@[simp] theorem State.publishCommit_wf (s : State) (k : Nat) (x : XStep) (h1 : Memory.wf s.mem = true)
    (h2 : Memory.wf s.endpoint.mem = true) :
    Memory.wf (s.publishCommit k x).mem = true ∧ Memory.wf (s.publishCommit k x).endpoint.mem = true := by
  unfold State.publishCommit
  dsimp only
  (repeat' split) <;> simp [foldl_mems, h1, h2]

@[simp] theorem State.redLine_wf (s : State) (k : Nat) (x : XStep) (l : Nat) (h1 : Memory.wf s.mem = true)
    (h2 : Memory.wf s.endpoint.mem = true) :
    Memory.wf (s.redLine k x l).mem = true ∧ Memory.wf (s.redLine k x l).endpoint.mem = true := by
  unfold State.redLine
  dsimp only
  have hg (s0 : State) (h : Good s0) (op : RedOp) (signed : Bool) (st : Nat) (es : List (Nat × Nat)) :
      Good (es.foldl (fun (s : State) e =>
          s.commitCells ((leBytes 4 (redValue op signed (leNat (s.physLoad e.1 4)) e.2)).zipIdx.map
            (fun b => (e.1 + b.2, b.1))) st) s0) :=
    foldl_good _ _ _ h (fun t x h => by have h1 := h.1; have h2 := h.2; simp [Good, h1, h2])
  split
  · rename_i op signed _
    split
    · exact ⟨h1, h2⟩
    · split
      · simp [h1, h2]
      · simp [h1, h2]
      · have hd := hg (s.disown (dieOf k) [l]) (by simp [Good, h1, h2]) op signed ((s.disown (dieOf k) [l]).commitStamp [l] x.stamp)
          (x.redElems.filter (fun e => lineOf e.1 == l))
        have d1 := hd.1
        have d2 := hd.2
        split <;> simp [d1, d2]
  all_goals exact ⟨h1, h2⟩

@[simp] theorem State.releaseRecord_wf (s : State) (p : Nat) (r : TaskRef) (x : FaultRec) (h1 : Memory.wf s.mem = true)
    (h2 : Memory.wf s.endpoint.mem = true) :
    Memory.wf (s.releaseRecord p r x).mem = true ∧ Memory.wf (s.releaseRecord p r x).endpoint.mem = true := by
  unfold State.releaseRecord
  try dsimp only
  constructor <;> (repeat' split) <;> simp [h1, h2]

@[simp] theorem State.placeCode_wf (s : State) (pas : List (Nat × Nat)) (c : CodeImage) (h1 : Memory.wf s.mem = true)
    (h2 : Memory.wf s.endpoint.mem = true) :
    Memory.wf (s.placeCode pas c).mem = true ∧ Memory.wf (s.placeCode pas c).endpoint.mem = true := by
  refine foldl_good _ _ _ ⟨h1, h2⟩ (fun t x h => ?_)
  have h1 := h.1
  have h2 := h.2
  dsimp only
  split <;> simp [Good, h1, h2]

@[simp] theorem State.placeLeaf_wf (s : State) (xs : List (Section_ × Nat)) (g : PlacedPage) (h1 : Memory.wf s.mem = true)
    (h2 : Memory.wf s.endpoint.mem = true) :
    Memory.wf (s.placeLeaf xs g).mem = true ∧ Memory.wf (s.placeLeaf xs g).endpoint.mem = true := by
  unfold State.placeLeaf
  try dsimp only
  constructor <;> (repeat' split) <;> simp [h1, h2]

@[simp] theorem State.placeLeaves_wf (s : State) (file : List Byte) (place : Placement) (h1 : Memory.wf s.mem = true)
    (h2 : Memory.wf s.endpoint.mem = true) :
    Memory.wf (s.placeLeaves file place).mem = true ∧ Memory.wf (s.placeLeaves file place).endpoint.mem = true := by
  unfold State.placeLeaves
  exact foldl_good _ _ _ ⟨h1, h2⟩ (fun t x h => by have h1 := h.1; have h2 := h.2; simp [Good, h1, h2])

@[simp] theorem State.placeImage_wf (s : State) (p : Nat) (g : Image) (h1 : Memory.wf s.mem = true)
    (h2 : Memory.wf s.endpoint.mem = true) :
    Memory.wf (s.placeImage p g).mem = true ∧ Memory.wf (s.placeImage p g).endpoint.mem = true := by
  unfold State.placeImage
  refine foldl_good _ _ _ ?_ (fun t x h => by have h1 := h.1; have h2 := h.2; simp [Good, h1, h2])
  have hd : Good (g.data.foldl (fun (s : State) d => s.physStore d.pa d.bytes)
      ((imageCode g).foldl (fun s c => s.placeCode g.codePa c) s)) :=
    foldl_good _ _ _ (foldl_good _ _ _ ⟨h1, h2⟩ (fun t x h => by have h1 := h.1; have h2 := h.2; simp [Good, h1, h2])) (fun t x h => by have h1 := h.1; have h2 := h.2; simp [Good, h1, h2])
  have hc := foldl_good (fun t k => t.setCore k (g.banks.foldl Core.placeBank (t.core k).bare)) (s.part p).cores _ hd (fun t x h => by have h1 := h.1; have h2 := h.2; simp [Good, h1, h2])
  have hq : Good _ := foldl_good (fun t r => t.placeBinding (s.part p) r) g.qbinds _ hc (fun t x h => by have h1 := h.1; have h2 := h.2; simp [Good, h1, h2])
  constructor
  · rw [(State.fillAllCaches_mems _ _).1, State.setPart_mem]
    exact hq.1
  · rw [(State.fillAllCaches_mems _ _).2, State.setPart_endpoint]
    exact hq.2

@[simp] theorem State.setWays_wf (s : State) (d rw : Nat) (h1 : Memory.wf s.mem = true)
    (h2 : Memory.wf s.endpoint.mem = true) :
    Memory.wf (s.setWays d rw).mem = true ∧ Memory.wf (s.setWays d rw).endpoint.mem = true := by
  exact ⟨Memory.wf_clear h1 _ _, h2⟩

@[simp] theorem State.assignWays_wf (s : State) (d rw : Nat) (h1 : Memory.wf s.mem = true)
    (h2 : Memory.wf s.endpoint.mem = true) :
    Memory.wf (s.assignWays d rw).mem = true ∧ Memory.wf (s.assignWays d rw).endpoint.mem = true := by
  unfold State.assignWays
  refine foldl_good _ _ _ ?_ (fun t x h => foldl_good _ _ _ h (fun t x h => by have h1 := h.1; have h2 := h.2; simp [Good, h1, h2]))
  simp [Good, h1, h2]

@[simp] theorem State.pmWrite_wf (s : State) (r : PmReg) (h1 : Memory.wf s.mem = true)
    (h2 : Memory.wf s.endpoint.mem = true) :
    Memory.wf (s.pmWrite r).mem = true ∧ Memory.wf (s.pmWrite r).endpoint.mem = true := by
  unfold State.pmWrite
  try dsimp only
  constructor <;> (repeat' split) <;> simp [h1, h2]

@[simp] theorem State.hostWrite_wf (s : State) (q : Nat) (bs : List Byte) (h1 : Memory.wf s.mem = true)
    (h2 : Memory.wf s.endpoint.mem = true) :
    Memory.wf (s.hostWrite q bs).mem = true ∧ Memory.wf (s.hostWrite q bs).endpoint.mem = true := by
  exact foldl_good _ _ _ ⟨h1, h2⟩ (fun t x h => by have h1 := h.1; have h2 := h.2; simp [Good, h1, h2])

@[simp] theorem State.hostAccess_wf (s : State) (q : Nat) (write : Option (List Byte)) (len : Nat) (h1 : Memory.wf s.mem = true)
    (h2 : Memory.wf s.endpoint.mem = true) :
    Memory.wf (s.hostAccess q write len).mem = true ∧ Memory.wf (s.hostAccess q write len).endpoint.mem = true := by
  unfold State.hostAccess
  try dsimp only
  constructor <;> (repeat' split) <;> simp [h1, h2]

end Sys2Proof.Machine
end

