-- ==== Sys2Proof/Laws/PerInstr.lean ====
section
/-! SUPPORT. The round trip of each instruction through the encoder and the decoder, one lemma per constructor: the family
`RoundTrip` of LAWS.json. -/

set_option Elab.async false

set_option linter.unusedSimpArgs false

namespace Sys2Proof.Laws

/-- The words of a well-formed instruction decode to it, with its own length, whatever words follow. An event has no
words. -/
def RoundTrip.Statement (i : Instr) : Prop :=
  ∀ u rest, i.unit? = some u → i.wf = true → decode u (encode i ++ rest) = some (i, (encode i).length)

/-! ## What each field of a built word reads -/

theorem reg5_eq (w lo : Nat) : reg5 w lo = Fin.ofNat 32 (fld w lo 5) := rfl
theorem reg4_eq (w lo : Nat) : reg4 w lo = Fin.ofNat 16 (fld w lo 4) := rfl

theorem encReg_flds {op fn : Nat} (d a b : Fin 32) (ho : op < 64) (hf : fn < 2048) :
    let w := encReg op d a b fn
    fld w 26 6 = op ∧ fld w 21 5 = d.val ∧ fld w 16 5 = a.val ∧ fld w 11 5 = b.val ∧ fld w 0 11 = fn ∧
      fld w 9 2 = fn / 512 ∧ fld w 0 9 = fn % 512 ∧ fld w 0 6 = fn % 64 ∧ fld w 6 10 = b.val * 32 + fn / 64 ∧
      fld w 0 16 = b.val * 2048 + fn ∧ fld w 0 21 = a.val * 65536 + b.val * 2048 + fn ∧
      fld w 0 26 = d.val * 2097152 + a.val * 65536 + b.val * 2048 + fn := by
  simp only [fld, encReg, put]; omega

theorem encImm_flds {op : Nat} (d a : Fin 32) (imm : BitVec 16) (ho : op < 64) :
    let w := encImm op d a imm
    fld w 26 6 = op ∧ fld w 21 5 = d.val ∧ fld w 16 5 = a.val ∧ fld w 0 16 = imm.toNat := by
  simp only [fld, encImm, put]; omega

theorem encSys_flds {op d a k n : Nat} (ho : op < 64) (hd : d < 32) (ha : a < 32) (hk : k < 16) (hn : n < 4096) :
    let w := encSys op d a k n
    fld w 26 6 = op ∧ fld w 21 5 = d ∧ fld w 16 5 = a ∧ fld w 12 4 = k ∧ fld w 0 12 = n ∧ fld w 0 3 = n % 8 ∧
      fld w 3 9 = n / 8 ∧ fld w 16 10 = d * 32 + a ∧ fld w 0 4 = n % 16 ∧ fld w 4 8 = n / 16 ∧ fld w 0 8 = n % 256 ∧
      fld w 8 4 = n / 256 ∧ fld w 0 16 = k * 4096 + n ∧ fld w 12 14 = d * 512 + a * 16 + k ∧
      fld w 3 18 = a * 8192 + k * 512 + n / 8 ∧ fld w 6 15 = a * 1024 + k * 64 + n / 64 ∧ fld w 0 6 = n % 64 := by
  simp only [fld, encSys, put]; omega

theorem jal_flds (d : Fin 32) (off : BitVec 21) :
    let w := put 0x1D 26 + put d.val 21 + off.toNat
    fld w 26 6 = 0x1D ∧ fld w 21 5 = d.val ∧ fld w 0 21 = off.toNat := by
  simp only [fld, put]; omega

theorem toNat_mod {w k : Nat} (x : BitVec w) (h : k = 2 ^ w) : x.toNat % k = x.toNat :=
  h ▸ Nat.mod_eq_of_lt x.isLt

theorem toNat_div {w k : Nat} (x : BitVec w) (h : k = 2 ^ w) : x.toNat / k = 0 := h ▸ Nat.div_eq_of_lt x.isLt

theorem runOk_iff {d : GReg} {n : BitVec 3} (h : runOk d n = true) : n.toNat ≤ 4 ∧ d.val + n.toNat ≤ 32 := by
  simpa [runOk] using h

theorem scope_code_lt (sc : Scope) : sc.code < 4 := by cases sc <;> decide
theorem scope_ofCode (sc : Scope) : Scope.ofCode sc.code = sc := by cases sc <;> rfl
theorem cache_code_lt (c : CacheSel) : c.code < 6 := by cases c <;> decide
theorem cache_ofCode (c : CacheSel) : CacheSel.ofCode? (c.code % 8) = some c := by cases c <;> rfl
theorem cache_high (c : CacheSel) : c.code / 8 = 0 := by cases c <;> rfl

theorem scope_flds {op n : Nat} (sc : Scope) (d a b : Fin 32) (ho : op < 64) (hn : n < 512) :
    let w := encReg op d a b (put sc.code 9 + n)
    fld w 26 6 = op ∧ fld w 21 5 = d.val ∧ fld w 16 5 = a.val ∧ fld w 11 5 = b.val ∧ fld w 9 2 = sc.code ∧
      fld w 0 9 = n := by
  have := scope_code_lt sc
  simp only [fld, encReg, put]; omega

theorem shift_flds {k : Nat} (d a : Fin 32) (sh : BitVec 6) (hk : k < 32) :
    let w := encReg 6 d a 0 (put k 6 + sh.toNat)
    fld w 26 6 = 6 ∧ fld w 21 5 = d.val ∧ fld w 16 5 = a.val ∧ fld w 6 10 = k ∧ fld w 0 6 = sh.toNat := by
  simp only [fld, encReg, put]; simp; omega

theorem put_zero (k : Nat) : put 0 k = 0 := by simp [put]

/-! ## From the words of one unit to the statement -/

theorem seq_words {i : Instr} {w : Nat} (hi : i.unit? = some .seq) (he : encode i = [w])
    (hd : i.wf = true → decodeSeq w = some i) : RoundTrip.Statement i := by
  intro u rest hu hw
  cases hi.symm.trans hu
  rw [he]
  show (decodeSeq w).map _ = some (i, 1)
  rw [hd hw]; rfl

theorem wlk_words {i : Instr} {w : Nat} (hi : i.unit? = some (.eng .walker)) (he : encode i = [w])
    (hd : i.wf = true → decodeWlk w = some i) : RoundTrip.Statement i := by
  intro u rest hu hw
  cases hi.symm.trans hu
  rw [he]
  show (decodeWlk w).map _ = some (i, 1)
  rw [hd hw]; rfl

theorem mat_words {i : Instr} {w : Nat} {ps : List Nat} (hi : i.unit? = some (.eng .matrix)) (he : encode i = w :: ps)
    (hp : stepParams w = ps.length) (hd : i.wf = true → decodeMat w ps = some i) : RoundTrip.Statement i := by
  intro u rest hu hw
  cases hi.symm.trans hu
  simp [he, decode, hp, hd hw, Nat.add_comm]

theorem xfr_words {i : Instr} {w : Nat} {ps : List Nat} (hi : i.unit? = some (.eng .transfer)) (he : encode i = w :: ps)
    (hp : stepParams w = ps.length) (hd : i.wf = true → decodeXfr w ps = some i) : RoundTrip.Statement i := by
  intro u rest hu hw
  cases hi.symm.trans hu
  simp [he, decode, hp, hd hw, Nat.add_comm]

theorem vec_words {i : Instr} {w : Nat} (hi : i.unit? = some (.eng .vector)) (he : encode i = [w])
    (hb : bit w 28 = false) (hd : i.wf = true → decodeVecBody w none = some i) : RoundTrip.Statement i := by
  intro u rest hu hw
  cases hi.symm.trans hu
  simp [he, decode, decodeVec, hb, hd hw]

theorem b2n_lt (b : Bool) : b2n b < 2 := by cases b <;> decide
theorem b2n_eq (b : Bool) : (b2n b == 1) = b := by cases b <;> rfl

theorem encMod_flds (m : Modifier) : let w := encMod m
    fld w 28 4 = 0 ∧ fld w 22 6 = 0x3E ∧ fld w 0 7 = 0 ∧ fld w 21 1 = b2n m.sat ∧ fld w 20 1 = b2n m.clamp ∧
      fld w 19 1 = b2n m.neg ∧ fld w 18 1 = b2n m.abs ∧ fld w 12 6 = m.sc.toNat ∧ fld w 7 5 = m.c.val := by
  have h1 := b2n_lt m.sat
  have h2 := b2n_lt m.clamp
  have h3 := b2n_lt m.neg
  have h4 := b2n_lt m.abs
  have h5 := m.sc.isLt
  have h6 := m.c.isLt
  simp only [fld, encMod, put]
  generalize b2n m.sat = x1 at *
  generalize b2n m.clamp = x2 at *
  generalize b2n m.neg = x3 at *
  generalize b2n m.abs = x4 at *
  generalize m.sc.toNat = x5 at *
  generalize m.c.val = x6 at *
  refine ⟨?_, ?_, ?_, ?_, ?_, ?_, ?_, ?_, ?_⟩ <;> omega

theorem fld_modifier (m : Modifier) : decodeModifier (encMod m) = some m := by
  have h := encMod_flds m
  obtain ⟨h1, h2, h3, h4, h5, h6, h7, h8, h9⟩ := h
  unfold decodeModifier
  generalize encMod m = w at *
  rw [if_pos ⟨h1, h2, h3⟩]
  simp [bit, reg5, h4, h5, h6, h7, h8, h9, b2n_eq]

theorem encVec_flds {op t d a b x : Nat} (h : Hold) (m : Bool) (ho : op < 64) (ht : t < 8) (hd : d < 32) (ha : a < 32)
    (hb : b < 32) (hx : x < 16) : let w := encVec h m op t d a b x
    fld w 29 3 = h.toNat ∧ fld w 28 1 = b2n m ∧ fld w 22 6 = op ∧ fld w 19 3 = t ∧ fld w 14 5 = d ∧ fld w 9 5 = a ∧
      fld w 4 5 = b ∧ fld w 0 4 = x ∧ fld w 0 1 = x % 2 ∧ fld w 1 1 = x / 2 % 2 ∧ fld w 2 2 = x / 4 ∧ fld w 0 2 = x % 4 ∧
      fld w 0 3 = x % 8 ∧ fld w 9 2 = a % 4 ∧ fld w 4 2 = b % 4 ∧ fld w 14 2 = d % 4 ∧ fld w 7 2 = b / 8 ∧
      fld w 4 3 = b % 8 := by
  have h1 := b2n_lt m
  have h2 := h.isLt
  simp only [fld, encVec, put]
  generalize b2n m = x1 at *
  generalize h.toNat = x2 at *
  refine ⟨?_, ?_, ?_, ?_, ?_, ?_, ?_, ?_, ?_, ?_, ?_, ?_, ?_, ?_, ?_, ?_, ?_, ?_⟩ <;> omega

theorem elem_lt (t : ElemType) : t.code < 8 := by cases t <;> decide
theorem elem_ofCode (t : ElemType) : ElemType.ofCode t.code = t := by cases t <;> rfl
theorem rnd_lt (r : Rnd) : r.code < 16 := by cases r <;> decide
theorem rnd_ofCode (r : Rnd) : Rnd.ofCode? r.code = some r := by cases r <;> rfl
theorem b2n_lt16 (b : Bool) : b2n b < 16 := by cases b <;> decide

theorem b2n_mod (b : Bool) : (b2n b % 2 == 1) = b := by cases b <;> rfl
theorem b2n_le (b : Bool) : b2n b ≤ 1 := by cases b <;> decide
theorem cond_ofCode (c : Cond) : Cond.ofCode? c.code = some c := by cases c <;> rfl
theorem dir_ofCode (c : Dir) : Dir.ofCode? c.code = some c := by cases c <;> rfl
theorem iota_ofCode (c : Iota) : Iota.ofCode? c.code = some c := by cases c <;> rfl
theorem splat_ofCode (c : Splat) : Splat.ofCode c.code = c := by cases c <;> rfl
theorem splat_le (c : Splat) : c.code < 4 := by cases c <;> decide
theorem skip_ofCode (c : SkipCond) : SkipCond.ofCode? c.code = some c := by
  cases c with
  | empty => rfl
  | full => rfl
  | sg s => revert s; decide
theorem two_bits (a b : Bool) : b2n a + put (b2n b) 1 < 4 ∧ ((b2n a + put (b2n b) 1) % 2 == 1) = a ∧
    ((b2n a + put (b2n b) 1) / 2 % 2 == 1) = b := by revert a b; decide
theorem topk_bits (a b : Bool) (v : Fin 4) : b2n a + put (b2n b) 1 + put v.val 2 < 16 ∧
    ((b2n a + put (b2n b) 1 + put v.val 2) % 2 == 1) = a ∧ ((b2n a + put (b2n b) 1 + put v.val 2) / 2 % 2 == 1) = b ∧
    (b2n a + put (b2n b) 1 + put v.val 2) / 4 = v.val := by revert a b v; decide

theorem decodeVec_mod {w w2 : Nat} {y : Modifier} {i : Instr} (hb : bit w 28 = true)
    (hop : takesModifier (fld w 22 6) = true) (hm : decodeModifier w2 = some y)
    (hd : decodeVecBody w (some y) = some i) : decodeVec w (some w2) = some (i, 2) := by
  simp [decodeVec, hb, hop, hm, hd]

theorem decodeVec_plain {w : Nat} {n : Option Nat} {i : Instr} (hb : bit w 28 = false)
    (hd : decodeVecBody w none = some i) : decodeVec w n = some (i, 1) := by simp [decodeVec, hb, hd]

theorem vec_words_mod {i : Instr} {h : Hold} {m : Option Modifier} {op t d a b x : Nat}
    (hi : i.unit? = some (.eng .vector)) (he : encode i = encVecM h m op t d a b x) (hop : takesModifier op = true)
    (ho : op < 64) (ht : t < 8) (hd : d < 32) (ha : a < 32) (hb : b < 32) (hx : x < 16)
    (hn : i.wf = true → decodeVecBody (encVec h m.isSome op t d a b x) m = some i) : RoundTrip.Statement i := by
  intro u rest hu hw
  cases hi.symm.trans hu
  have e := hn hw
  rw [he]
  cases m with
  | none =>
    have f := (encVec_flds h false ho ht hd ha hb hx).2.1
    exact decodeVec_plain (by rw [bit, f]; rfl) e
  | some y =>
    have f := encVec_flds h true ho ht hd ha hb hx
    exact decodeVec_mod (by rw [bit, f.2.1]; rfl) (by rw [f.2.2.1]; exact hop) (fld_modifier y) e

theorem skip_lt (c : SkipCond) : c.code < 16 := by
  cases c with
  | empty => decide
  | full => decide
  | sg s => show 8 + s.val < 16; omega

theorem skip_flds (h : Hold) (n : BitVec 15) (c : SkipCond) : let w := put h.toNat 29 + put 0x18 22 + put n.toNat 4 + c.code
    fld w 29 3 = h.toNat ∧ fld w 28 1 = 0 ∧ fld w 22 6 = 0x18 ∧ fld w 19 3 = 0 ∧ fld w 4 15 = n.toNat ∧
      fld w 0 4 = c.code := by
  have h1 := skip_lt c
  have h2 := h.isLt
  have h3 := n.isLt
  simp only [fld, put]
  generalize c.code = x1 at *
  generalize h.toNat = x2 at *
  generalize n.toNat = x3 at *
  refine ⟨?_, ?_, ?_, ?_, ?_, ?_⟩ <;> omega

theorem encWlk_flds {op d a b n : Nat} (ho : op < 32) (hd : d < 16) (ha : a < 16) (hb : b < 16) (hn : n < 32768) :
    let w := encWlk op d a b n
    fld w 27 5 = op ∧ fld w 23 4 = d ∧ fld w 19 4 = a ∧ fld w 15 4 = b ∧ fld w 0 15 = n ∧ fld w 2 13 = n / 4 ∧
      fld w 0 2 = n % 4 ∧ fld w 9 6 = n / 512 ∧ fld w 8 1 = n / 256 % 2 ∧ fld w 5 3 = n / 32 % 8 ∧ fld w 0 5 = n % 32 ∧
      fld w 4 11 = n / 16 ∧ fld w 3 1 = n / 8 % 2 ∧ fld w 0 3 = n % 8 := by
  simp only [fld, encWlk, put]
  refine ⟨?_, ?_, ?_, ?_, ?_, ?_, ?_, ?_, ?_, ?_, ?_, ?_, ?_, ?_⟩ <;> omega

theorem wsize_ofCode (z : WSize) : WSize.ofCode z.code = z := by cases z <;> rfl
theorem wsize_lt (z : WSize) : z.code < 4 := by cases z <;> decide
theorem wcond_ofCode (c : WCond) : WCond.ofCode? c.code = some c := by cases c <;> rfl
theorem go_bits (sl : Fin 32) (kv : Bool) (k : Fin 8) : let n := sl.val + put k.val 5 + put (b2n kv) 8
    n < 512 ∧ n / 256 % 2 = b2n kv ∧ n / 32 % 8 = k.val ∧ n % 32 = sl.val := by
  have h := b2n_lt kv
  simp only [put]
  generalize b2n kv = x at *
  refine ⟨?_, ?_, ?_, ?_⟩ <;> omega
theorem exit_bits (kv : Bool) (k : Fin 8) : let n := k.val + put (b2n kv) 3
    n < 16 ∧ n / 8 % 2 = b2n kv ∧ n % 8 = k.val := by
  have h := b2n_lt kv
  simp only [put]
  generalize b2n kv = x at *
  refine ⟨?_, ?_, ?_⟩ <;> omega

theorem low_fld {v : Nat} (k : Nat) (h : v < 2 ^ k) : fld v 0 k = v := by simpa [fld] using Nat.mod_eq_of_lt h
theorem high_fld {v : Nat} (k n : Nat) (h : v < 2 ^ k) : fld v k n = 0 := by simp [fld, Nat.div_eq_of_lt h]

theorem decodeSpad_enc {a : SpadAddr} (h : a.ok = true) : decodeSpad (encSpad a) = some a := by
  have f : fld (encSpad a) 21 4 = 0 ∧ fld (encSpad a) 31 1 = b2n a.tf ∧ fld (encSpad a) 17 4 = a.bank.toNat ∧
      fld (encSpad a) 0 17 = a.off.toNat ∧ fld (encSpad a) 25 6 = a.tile.val := by
    have h1 := b2n_lt a.tf
    have h2 := a.bank.isLt
    have h3 := a.off.isLt
    have h4 := a.tile.isLt
    simp only [fld, encSpad, put]
    generalize b2n a.tf = x1 at *
    generalize a.bank.toNat = x2 at *
    generalize a.off.toNat = x3 at *
    generalize a.tile.val = x4 at *
    refine ⟨?_, ?_, ?_, ?_, ?_⟩ <;> omega
  have h' : a.tf = false ∨ a.bank = 0 := by simpa [SpadAddr.ok] using h
  have c : fld (encSpad a) 31 1 = 0 ∨ fld (encSpad a) 17 4 = 0 := by
    rw [f.2.1, f.2.2.1]
    cases h' with
    | inl e => exact .inl (by rw [e]; rfl)
    | inr e => exact .inr (by rw [e]; rfl)
  obtain ⟨f1, f2, f3, f4, f5⟩ := f
  unfold decodeSpad
  generalize encSpad a = w at *
  rw [if_pos ⟨f1, c⟩]
  simp [bit, f2, f3, f4, f5, b2n_eq]

theorem bag_flds (n e : BitVec 13) : let w := n.toNat + put e.toNat 16
    fld w 13 3 = 0 ∧ fld w 29 3 = 0 ∧ fld w 0 13 = n.toNat ∧ fld w 16 13 = e.toNat := by
  have h1 := n.isLt
  have h2 := e.isLt
  simp only [fld, put]
  refine ⟨?_, ?_, ?_, ?_⟩ <;> omega

theorem encXfr_flds {op p sl f : Nat} (x : XHdr) (ho : op < 32) (hp : p < 4) (hs : sl < 32) (hf : f < 256) :
    let w := encXfr op p x sl f
    fld w 27 5 = op ∧ fld w 25 2 = p ∧ fld w 22 3 = x.k.val ∧ fld w 14 8 = x.wm.toNat ∧ fld w 9 5 = sl ∧
      fld w 8 1 = b2n x.kv ∧ fld w 0 8 = f ∧ fld w 0 2 = f % 4 ∧ fld w 2 1 = f / 4 % 2 ∧ fld w 3 5 = f / 8 ∧
      fld w 3 1 = f / 8 % 2 ∧ fld w 4 4 = f / 16 ∧ fld w 2 6 = f / 4 ∧ fld w 0 3 = f % 8 ∧ fld w 0 6 = f % 64 ∧
      fld w 6 2 = f / 64 ∧ fld w 0 1 = f % 2 ∧ fld w 1 7 = f / 2 := by
  have h1 := b2n_lt x.kv
  have h2 := x.wm.isLt
  have h3 := x.k.isLt
  simp only [fld, encXfr, put]
  generalize b2n x.kv = y1 at *
  generalize x.wm.toNat = y2 at *
  generalize x.k.val = y3 at *
  refine ⟨?_, ?_, ?_, ?_, ?_, ?_, ?_, ?_, ?_, ?_, ?_, ?_, ?_, ?_, ?_, ?_, ?_, ?_⟩ <;> omega

theorem dfr_bits1 (a b : Bool) : let f := 1 + put (b2n a) 2 + put (b2n b) 3
    f < 256 ∧ f % 4 = 1 ∧ f / 4 % 2 = b2n a ∧ f < 16 ∧ f / 8 % 2 = b2n b ∧ f / 16 = 0 := by
  revert a b; decide

theorem dfr_bits2 (a b : Bool) : let f := 2 + put (b2n a) 2 + put (b2n b) 3
    f < 256 ∧ f % 4 = 2 ∧ f / 4 % 2 = b2n a ∧ f < 16 ∧ f / 8 % 2 = b2n b ∧ f / 16 = 0 := by
  revert a b; decide

theorem b2n_zero (b : Bool) : b2n b = 0 ↔ b = false := by cases b <;> decide

theorem dfr_bit (a : Bool) : let f := put (b2n a) 2
    f < 256 ∧ f % 4 = 0 ∧ f / 4 % 2 = b2n a ∧ f / 8 = 0 := by revert a; decide

theorem rel_bits (t : Fin 64) : let f := put 1 6 + t.val
    f < 256 ∧ f / 64 = 1 ∧ f % 64 = t.val := by revert t; decide

theorem redop_lt (o : RedOp) : o.code < 4 := by cases o <;> decide
theorem redop_ofCode (o : RedOp) : RedOp.ofCode o.code = o := by cases o <;> rfl

theorem decodeXHdr_enc {op p sl f : Nat} (x : XHdr) (ho : op < 32) (hp : p < 4) (hs : sl < 32) (hf : f < 256) :
    decodeXHdr (encXfr op p x sl f) = x := by
  have g := encXfr_flds x ho hp hs hf
  obtain ⟨k, kv, wm⟩ := x
  simp [decodeXHdr, reg3, bit, g, b2n_eq]

/-! ## Sequencer words -/

theorem RoundTrip.add (d : GReg) (a : GReg) (b : GReg) : RoundTrip.Statement (.add d a b) := by
  refine seq_words rfl rfl fun _ => ?_
  have h := encReg_flds (op := 1) (fn := 0) d a b (by decide) (by decide)
  simp [decodeSeq, decodeAlu, only, reg5_eq, h]

theorem RoundTrip.sub (d : GReg) (a : GReg) (b : GReg) : RoundTrip.Statement (.sub d a b) := by
  refine seq_words rfl rfl fun _ => ?_
  have h := encReg_flds (op := 1) (fn := 1) d a b (by decide) (by decide)
  simp [decodeSeq, decodeAlu, only, reg5_eq, h]

theorem RoundTrip.and (d : GReg) (a : GReg) (b : GReg) : RoundTrip.Statement (.and d a b) := by
  refine seq_words rfl rfl fun _ => ?_
  have h := encReg_flds (op := 1) (fn := 2) d a b (by decide) (by decide)
  simp [decodeSeq, decodeAlu, only, reg5_eq, h]

theorem RoundTrip.or (d : GReg) (a : GReg) (b : GReg) : RoundTrip.Statement (.or d a b) := by
  refine seq_words rfl rfl fun _ => ?_
  have h := encReg_flds (op := 1) (fn := 3) d a b (by decide) (by decide)
  simp [decodeSeq, decodeAlu, only, reg5_eq, h]

theorem RoundTrip.xor (d : GReg) (a : GReg) (b : GReg) : RoundTrip.Statement (.xor d a b) := by
  refine seq_words rfl rfl fun _ => ?_
  have h := encReg_flds (op := 1) (fn := 4) d a b (by decide) (by decide)
  simp [decodeSeq, decodeAlu, only, reg5_eq, h]

theorem RoundTrip.andn (d : GReg) (a : GReg) (b : GReg) : RoundTrip.Statement (.andn d a b) := by
  refine seq_words rfl rfl fun _ => ?_
  have h := encReg_flds (op := 1) (fn := 5) d a b (by decide) (by decide)
  simp [decodeSeq, decodeAlu, only, reg5_eq, h]

theorem RoundTrip.sll (d : GReg) (a : GReg) (b : GReg) : RoundTrip.Statement (.sll d a b) := by
  refine seq_words rfl rfl fun _ => ?_
  have h := encReg_flds (op := 1) (fn := 6) d a b (by decide) (by decide)
  simp [decodeSeq, decodeAlu, only, reg5_eq, h]

theorem RoundTrip.srl (d : GReg) (a : GReg) (b : GReg) : RoundTrip.Statement (.srl d a b) := by
  refine seq_words rfl rfl fun _ => ?_
  have h := encReg_flds (op := 1) (fn := 7) d a b (by decide) (by decide)
  simp [decodeSeq, decodeAlu, only, reg5_eq, h]

theorem RoundTrip.sra (d : GReg) (a : GReg) (b : GReg) : RoundTrip.Statement (.sra d a b) := by
  refine seq_words rfl rfl fun _ => ?_
  have h := encReg_flds (op := 1) (fn := 8) d a b (by decide) (by decide)
  simp [decodeSeq, decodeAlu, only, reg5_eq, h]

theorem RoundTrip.slt (d : GReg) (a : GReg) (b : GReg) : RoundTrip.Statement (.slt d a b) := by
  refine seq_words rfl rfl fun _ => ?_
  have h := encReg_flds (op := 1) (fn := 9) d a b (by decide) (by decide)
  simp [decodeSeq, decodeAlu, only, reg5_eq, h]

theorem RoundTrip.sltn (d : GReg) (a : GReg) (b : GReg) : RoundTrip.Statement (.sltn d a b) := by
  refine seq_words rfl rfl fun _ => ?_
  have h := encReg_flds (op := 1) (fn := 10) d a b (by decide) (by decide)
  simp [decodeSeq, decodeAlu, only, reg5_eq, h]

theorem RoundTrip.min (d : GReg) (a : GReg) (b : GReg) : RoundTrip.Statement (.min d a b) := by
  refine seq_words rfl rfl fun _ => ?_
  have h := encReg_flds (op := 1) (fn := 11) d a b (by decide) (by decide)
  simp [decodeSeq, decodeAlu, only, reg5_eq, h]

theorem RoundTrip.max (d : GReg) (a : GReg) (b : GReg) : RoundTrip.Statement (.max d a b) := by
  refine seq_words rfl rfl fun _ => ?_
  have h := encReg_flds (op := 1) (fn := 12) d a b (by decide) (by decide)
  simp [decodeSeq, decodeAlu, only, reg5_eq, h]

theorem RoundTrip.minn (d : GReg) (a : GReg) (b : GReg) : RoundTrip.Statement (.minn d a b) := by
  refine seq_words rfl rfl fun _ => ?_
  have h := encReg_flds (op := 1) (fn := 13) d a b (by decide) (by decide)
  simp [decodeSeq, decodeAlu, only, reg5_eq, h]

theorem RoundTrip.maxn (d : GReg) (a : GReg) (b : GReg) : RoundTrip.Statement (.maxn d a b) := by
  refine seq_words rfl rfl fun _ => ?_
  have h := encReg_flds (op := 1) (fn := 14) d a b (by decide) (by decide)
  simp [decodeSeq, decodeAlu, only, reg5_eq, h]

theorem RoundTrip.mul (d : GReg) (a : GReg) (b : GReg) : RoundTrip.Statement (.mul d a b) := by
  refine seq_words rfl rfl fun _ => ?_
  have h := encReg_flds (op := 1) (fn := 15) d a b (by decide) (by decide)
  simp [decodeSeq, decodeAlu, only, reg5_eq, h]

theorem RoundTrip.mulh (d : GReg) (a : GReg) (b : GReg) : RoundTrip.Statement (.mulh d a b) := by
  refine seq_words rfl rfl fun _ => ?_
  have h := encReg_flds (op := 1) (fn := 16) d a b (by decide) (by decide)
  simp [decodeSeq, decodeAlu, only, reg5_eq, h]

theorem RoundTrip.mulhn (d : GReg) (a : GReg) (b : GReg) : RoundTrip.Statement (.mulhn d a b) := by
  refine seq_words rfl rfl fun _ => ?_
  have h := encReg_flds (op := 1) (fn := 17) d a b (by decide) (by decide)
  simp [decodeSeq, decodeAlu, only, reg5_eq, h]

theorem RoundTrip.div (d : GReg) (a : GReg) (b : GReg) : RoundTrip.Statement (.div d a b) := by
  refine seq_words rfl rfl fun _ => ?_
  have h := encReg_flds (op := 1) (fn := 18) d a b (by decide) (by decide)
  simp [decodeSeq, decodeAlu, only, reg5_eq, h]

theorem RoundTrip.divn (d : GReg) (a : GReg) (b : GReg) : RoundTrip.Statement (.divn d a b) := by
  refine seq_words rfl rfl fun _ => ?_
  have h := encReg_flds (op := 1) (fn := 19) d a b (by decide) (by decide)
  simp [decodeSeq, decodeAlu, only, reg5_eq, h]

theorem RoundTrip.rem (d : GReg) (a : GReg) (b : GReg) : RoundTrip.Statement (.rem d a b) := by
  refine seq_words rfl rfl fun _ => ?_
  have h := encReg_flds (op := 1) (fn := 20) d a b (by decide) (by decide)
  simp [decodeSeq, decodeAlu, only, reg5_eq, h]

theorem RoundTrip.remn (d : GReg) (a : GReg) (b : GReg) : RoundTrip.Statement (.remn d a b) := by
  refine seq_words rfl rfl fun _ => ?_
  have h := encReg_flds (op := 1) (fn := 21) d a b (by decide) (by decide)
  simp [decodeSeq, decodeAlu, only, reg5_eq, h]

theorem RoundTrip.clz (d : GReg) (a : GReg) : RoundTrip.Statement (.clz d a) := by
  refine seq_words rfl rfl fun _ => ?_
  have h := encReg_flds (op := 1) (fn := 22) d a 0 (by decide) (by decide)
  simp [decodeSeq, decodeAlu, only, reg5_eq, h]

theorem RoundTrip.ctz (d : GReg) (a : GReg) : RoundTrip.Statement (.ctz d a) := by
  refine seq_words rfl rfl fun _ => ?_
  have h := encReg_flds (op := 1) (fn := 23) d a 0 (by decide) (by decide)
  simp [decodeSeq, decodeAlu, only, reg5_eq, h]

theorem RoundTrip.popc (d : GReg) (a : GReg) : RoundTrip.Statement (.popc d a) := by
  refine seq_words rfl rfl fun _ => ?_
  have h := encReg_flds (op := 1) (fn := 24) d a 0 (by decide) (by decide)
  simp [decodeSeq, decodeAlu, only, reg5_eq, h]

theorem RoundTrip.addi (d : GReg) (a : GReg) (imm : BitVec 16) : RoundTrip.Statement (.addi d a imm) := by
  refine seq_words rfl rfl fun _ => ?_
  have h := encImm_flds (op := 2) d a imm (by decide)
  simp [decodeSeq, only, reg5_eq, h]

theorem RoundTrip.andi (d : GReg) (a : GReg) (imm : BitVec 16) : RoundTrip.Statement (.andi d a imm) := by
  refine seq_words rfl rfl fun _ => ?_
  have h := encImm_flds (op := 3) d a imm (by decide)
  simp [decodeSeq, only, reg5_eq, h]

theorem RoundTrip.ori (d : GReg) (a : GReg) (imm : BitVec 16) : RoundTrip.Statement (.ori d a imm) := by
  refine seq_words rfl rfl fun _ => ?_
  have h := encImm_flds (op := 4) d a imm (by decide)
  simp [decodeSeq, only, reg5_eq, h]

theorem RoundTrip.xori (d : GReg) (a : GReg) (imm : BitVec 16) : RoundTrip.Statement (.xori d a imm) := by
  refine seq_words rfl rfl fun _ => ?_
  have h := encImm_flds (op := 5) d a imm (by decide)
  simp [decodeSeq, only, reg5_eq, h]

theorem RoundTrip.slli (d : GReg) (a : GReg) (sh : BitVec 6) : RoundTrip.Statement (.slli d a sh) := by
  refine seq_words rfl rfl fun _ => ?_
  have h := shift_flds (k := 0) d a sh (by decide)
  rw [put_zero, Nat.zero_add] at h
  simp [decodeSeq, only, reg5_eq, h]

theorem RoundTrip.srli (d : GReg) (a : GReg) (sh : BitVec 6) : RoundTrip.Statement (.srli d a sh) := by
  refine seq_words rfl rfl fun _ => ?_
  have h := shift_flds (k := 1) d a sh (by decide)
  simp [decodeSeq, only, reg5_eq, h]

theorem RoundTrip.srai (d : GReg) (a : GReg) (sh : BitVec 6) : RoundTrip.Statement (.srai d a sh) := by
  refine seq_words rfl rfl fun _ => ?_
  have h := shift_flds (k := 2) d a sh (by decide)
  simp [decodeSeq, only, reg5_eq, h]

theorem RoundTrip.lui (d : GReg) (imm : BitVec 16) : RoundTrip.Statement (.lui d imm) := by
  refine seq_words rfl rfl fun _ => ?_
  have h := encImm_flds (op := 7) d 0 imm (by decide)
  simp [decodeSeq, only, reg5_eq, h]

theorem RoundTrip.slti (d : GReg) (a : GReg) (imm : BitVec 16) : RoundTrip.Statement (.slti d a imm) := by
  refine seq_words rfl rfl fun _ => ?_
  have h := encImm_flds (op := 8) d a imm (by decide)
  simp [decodeSeq, only, reg5_eq, h]

theorem RoundTrip.sltni (d : GReg) (a : GReg) (imm : BitVec 16) : RoundTrip.Statement (.sltni d a imm) := by
  refine seq_words rfl rfl fun _ => ?_
  have h := encImm_flds (op := 9) d a imm (by decide)
  simp [decodeSeq, only, reg5_eq, h]

theorem RoundTrip.ldB (d : GReg) (a : GReg) (imm : BitVec 16) : RoundTrip.Statement (.ldB d a imm) := by
  refine seq_words rfl rfl fun _ => ?_
  have h := encImm_flds (op := 0x0A) d a imm (by decide)
  simp [decodeSeq, only, reg5_eq, h]

theorem RoundTrip.ldH (d : GReg) (a : GReg) (imm : BitVec 16) : RoundTrip.Statement (.ldH d a imm) := by
  refine seq_words rfl rfl fun _ => ?_
  have h := encImm_flds (op := 0x0B) d a imm (by decide)
  simp [decodeSeq, only, reg5_eq, h]

theorem RoundTrip.ldW (d : GReg) (a : GReg) (imm : BitVec 16) : RoundTrip.Statement (.ldW d a imm) := by
  refine seq_words rfl rfl fun _ => ?_
  have h := encImm_flds (op := 0x0C) d a imm (by decide)
  simp [decodeSeq, only, reg5_eq, h]

theorem RoundTrip.ldD (d : GReg) (a : GReg) (imm : BitVec 16) : RoundTrip.Statement (.ldD d a imm) := by
  refine seq_words rfl rfl fun _ => ?_
  have h := encImm_flds (op := 0x0D) d a imm (by decide)
  simp [decodeSeq, only, reg5_eq, h]

theorem RoundTrip.ldBn (d : GReg) (a : GReg) (imm : BitVec 16) : RoundTrip.Statement (.ldBn d a imm) := by
  refine seq_words rfl rfl fun _ => ?_
  have h := encImm_flds (op := 0x0E) d a imm (by decide)
  simp [decodeSeq, only, reg5_eq, h]

theorem RoundTrip.ldHn (d : GReg) (a : GReg) (imm : BitVec 16) : RoundTrip.Statement (.ldHn d a imm) := by
  refine seq_words rfl rfl fun _ => ?_
  have h := encImm_flds (op := 0x0F) d a imm (by decide)
  simp [decodeSeq, only, reg5_eq, h]

theorem RoundTrip.ldWn (d : GReg) (a : GReg) (imm : BitVec 16) : RoundTrip.Statement (.ldWn d a imm) := by
  refine seq_words rfl rfl fun _ => ?_
  have h := encImm_flds (op := 0x10) d a imm (by decide)
  simp [decodeSeq, only, reg5_eq, h]

theorem RoundTrip.stB (d : GReg) (a : GReg) (imm : BitVec 16) : RoundTrip.Statement (.stB d a imm) := by
  refine seq_words rfl rfl fun _ => ?_
  have h := encImm_flds (op := 0x11) d a imm (by decide)
  simp [decodeSeq, only, reg5_eq, h]

theorem RoundTrip.stH (d : GReg) (a : GReg) (imm : BitVec 16) : RoundTrip.Statement (.stH d a imm) := by
  refine seq_words rfl rfl fun _ => ?_
  have h := encImm_flds (op := 0x12) d a imm (by decide)
  simp [decodeSeq, only, reg5_eq, h]

theorem RoundTrip.stW (d : GReg) (a : GReg) (imm : BitVec 16) : RoundTrip.Statement (.stW d a imm) := by
  refine seq_words rfl rfl fun _ => ?_
  have h := encImm_flds (op := 0x13) d a imm (by decide)
  simp [decodeSeq, only, reg5_eq, h]

theorem RoundTrip.stD (d : GReg) (a : GReg) (imm : BitVec 16) : RoundTrip.Statement (.stD d a imm) := by
  refine seq_words rfl rfl fun _ => ?_
  have h := encImm_flds (op := 0x14) d a imm (by decide)
  simp [decodeSeq, only, reg5_eq, h]

theorem RoundTrip.ldS (d : GReg) (a : GReg) (imm : BitVec 16) : RoundTrip.Statement (.ldS d a imm) := by
  refine seq_words rfl rfl fun _ => ?_
  have h := encImm_flds (op := 0x15) d a imm (by decide)
  simp [decodeSeq, only, reg5_eq, h]

theorem RoundTrip.chk (d : GReg) : RoundTrip.Statement (.chk d) := by
  refine seq_words rfl rfl fun _ => ?_
  have h := encReg_flds (op := 0x16) (fn := 0) d 0 0 (by decide) (by decide)
  simp [decodeSeq, only, reg5_eq, h]

theorem RoundTrip.beq (a : GReg) (b : GReg) (off : BitVec 16) : RoundTrip.Statement (.beq a b off) := by
  refine seq_words rfl rfl fun _ => ?_
  have h := encImm_flds (op := 0x17) a b off (by decide)
  simp [decodeSeq, only, reg5_eq, h]

theorem RoundTrip.bne (a : GReg) (b : GReg) (off : BitVec 16) : RoundTrip.Statement (.bne a b off) := by
  refine seq_words rfl rfl fun _ => ?_
  have h := encImm_flds (op := 0x18) a b off (by decide)
  simp [decodeSeq, only, reg5_eq, h]

theorem RoundTrip.blt (a : GReg) (b : GReg) (off : BitVec 16) : RoundTrip.Statement (.blt a b off) := by
  refine seq_words rfl rfl fun _ => ?_
  have h := encImm_flds (op := 0x19) a b off (by decide)
  simp [decodeSeq, only, reg5_eq, h]

theorem RoundTrip.bge (a : GReg) (b : GReg) (off : BitVec 16) : RoundTrip.Statement (.bge a b off) := by
  refine seq_words rfl rfl fun _ => ?_
  have h := encImm_flds (op := 0x1A) a b off (by decide)
  simp [decodeSeq, only, reg5_eq, h]

theorem RoundTrip.bltn (a : GReg) (b : GReg) (off : BitVec 16) : RoundTrip.Statement (.bltn a b off) := by
  refine seq_words rfl rfl fun _ => ?_
  have h := encImm_flds (op := 0x1B) a b off (by decide)
  simp [decodeSeq, only, reg5_eq, h]

theorem RoundTrip.bgen (a : GReg) (b : GReg) (off : BitVec 16) : RoundTrip.Statement (.bgen a b off) := by
  refine seq_words rfl rfl fun _ => ?_
  have h := encImm_flds (op := 0x1C) a b off (by decide)
  simp [decodeSeq, only, reg5_eq, h]

theorem RoundTrip.jal (d : GReg) (off : BitVec 21) : RoundTrip.Statement (.jal d off) := by
  refine seq_words rfl rfl fun _ => ?_
  have h := jal_flds d off
  simp [decodeSeq, only, reg5_eq, h]

theorem RoundTrip.jalr (d : GReg) (a : GReg) (imm : BitVec 16) : RoundTrip.Statement (.jalr d a imm) := by
  refine seq_words rfl rfl fun _ => ?_
  have h := encImm_flds (op := 0x1E) d a imm (by decide)
  simp [decodeSeq, only, reg5_eq, h]

theorem RoundTrip.amoSwap (sc : Scope) (d : GReg) (a : GReg) (b : GReg) : RoundTrip.Statement (.amoSwap sc d a b) := by
  refine seq_words rfl rfl fun _ => ?_
  have h := scope_flds (op := 0x1F) (n := 0) sc d a b (by decide) (by decide)
  simp only [Nat.add_zero] at h
  simp [decodeSeq, decodeAmo, only, reg5_eq, h, scope_ofCode]

theorem RoundTrip.amoAdd (sc : Scope) (d : GReg) (a : GReg) (b : GReg) : RoundTrip.Statement (.amoAdd sc d a b) := by
  refine seq_words rfl rfl fun _ => ?_
  have h := scope_flds (op := 0x1F) (n := 1) sc d a b (by decide) (by decide)
  simp [decodeSeq, decodeAmo, only, reg5_eq, h, scope_ofCode]

theorem RoundTrip.amoAnd (sc : Scope) (d : GReg) (a : GReg) (b : GReg) : RoundTrip.Statement (.amoAnd sc d a b) := by
  refine seq_words rfl rfl fun _ => ?_
  have h := scope_flds (op := 0x1F) (n := 2) sc d a b (by decide) (by decide)
  simp [decodeSeq, decodeAmo, only, reg5_eq, h, scope_ofCode]

theorem RoundTrip.amoOr (sc : Scope) (d : GReg) (a : GReg) (b : GReg) : RoundTrip.Statement (.amoOr sc d a b) := by
  refine seq_words rfl rfl fun _ => ?_
  have h := scope_flds (op := 0x1F) (n := 3) sc d a b (by decide) (by decide)
  simp [decodeSeq, decodeAmo, only, reg5_eq, h, scope_ofCode]

theorem RoundTrip.amoXor (sc : Scope) (d : GReg) (a : GReg) (b : GReg) : RoundTrip.Statement (.amoXor sc d a b) := by
  refine seq_words rfl rfl fun _ => ?_
  have h := scope_flds (op := 0x1F) (n := 4) sc d a b (by decide) (by decide)
  simp [decodeSeq, decodeAmo, only, reg5_eq, h, scope_ofCode]

theorem RoundTrip.amoMax (sc : Scope) (d : GReg) (a : GReg) (b : GReg) : RoundTrip.Statement (.amoMax sc d a b) := by
  refine seq_words rfl rfl fun _ => ?_
  have h := scope_flds (op := 0x1F) (n := 5) sc d a b (by decide) (by decide)
  simp [decodeSeq, decodeAmo, only, reg5_eq, h, scope_ofCode]

theorem RoundTrip.amoMin (sc : Scope) (d : GReg) (a : GReg) (b : GReg) : RoundTrip.Statement (.amoMin sc d a b) := by
  refine seq_words rfl rfl fun _ => ?_
  have h := scope_flds (op := 0x1F) (n := 6) sc d a b (by decide) (by decide)
  simp [decodeSeq, decodeAmo, only, reg5_eq, h, scope_ofCode]

theorem RoundTrip.amoMaxn (sc : Scope) (d : GReg) (a : GReg) (b : GReg) : RoundTrip.Statement (.amoMaxn sc d a b) := by
  refine seq_words rfl rfl fun _ => ?_
  have h := scope_flds (op := 0x1F) (n := 7) sc d a b (by decide) (by decide)
  simp [decodeSeq, decodeAmo, only, reg5_eq, h, scope_ofCode]

theorem RoundTrip.amoMinn (sc : Scope) (d : GReg) (a : GReg) (b : GReg) : RoundTrip.Statement (.amoMinn sc d a b) := by
  refine seq_words rfl rfl fun _ => ?_
  have h := scope_flds (op := 0x1F) (n := 8) sc d a b (by decide) (by decide)
  simp [decodeSeq, decodeAmo, only, reg5_eq, h, scope_ofCode]

theorem RoundTrip.cas (sc : Scope) (d : GReg) (a : GReg) (b : GReg) : RoundTrip.Statement (.cas sc d a b) := by
  refine seq_words rfl rfl fun _ => ?_
  have h := scope_flds (op := 0x20) (n := 0) sc d a b (by decide) (by decide)
  simp only [Nat.add_zero] at h
  simp [decodeSeq, only, reg5_eq, h, scope_ofCode]

theorem RoundTrip.redAdd (sc : Scope) (a : GReg) (b : GReg) : RoundTrip.Statement (.redAdd sc a b) := by
  refine seq_words rfl rfl fun _ => ?_
  have h := scope_flds (op := 0x21) (n := 0) sc 0 a b (by decide) (by decide)
  simp only [Nat.add_zero] at h
  simp [decodeSeq, decodeRed, only, reg5_eq, h, scope_ofCode]

theorem RoundTrip.redFadd32 (sc : Scope) (a : GReg) (b : GReg) : RoundTrip.Statement (.redFadd32 sc a b) := by
  refine seq_words rfl rfl fun _ => ?_
  have h := scope_flds (op := 0x21) (n := 1) sc 0 a b (by decide) (by decide)
  simp [decodeSeq, decodeRed, only, reg5_eq, h, scope_ofCode]

theorem RoundTrip.redMax (sc : Scope) (a : GReg) (b : GReg) : RoundTrip.Statement (.redMax sc a b) := by
  refine seq_words rfl rfl fun _ => ?_
  have h := scope_flds (op := 0x21) (n := 2) sc 0 a b (by decide) (by decide)
  simp [decodeSeq, decodeRed, only, reg5_eq, h, scope_ofCode]

theorem RoundTrip.redMin (sc : Scope) (a : GReg) (b : GReg) : RoundTrip.Statement (.redMin sc a b) := by
  refine seq_words rfl rfl fun _ => ?_
  have h := scope_flds (op := 0x21) (n := 3) sc 0 a b (by decide) (by decide)
  simp [decodeSeq, decodeRed, only, reg5_eq, h, scope_ofCode]

theorem RoundTrip.lda (sc : Scope) (d : GReg) (a : GReg) : RoundTrip.Statement (.lda sc d a) := by
  refine seq_words rfl rfl fun _ => ?_
  have h := scope_flds (op := 0x22) (n := 0) sc d a 0 (by decide) (by decide)
  simp only [Nat.add_zero] at h
  simp [decodeSeq, only, reg5_eq, h, scope_ofCode]

theorem RoundTrip.stl (sc : Scope) (a : GReg) (b : GReg) : RoundTrip.Statement (.stl sc a b) := by
  refine seq_words rfl rfl fun _ => ?_
  have h := scope_flds (op := 0x23) (n := 0) sc 0 a b (by decide) (by decide)
  simp only [Nat.add_zero] at h
  simp [decodeSeq, only, reg5_eq, h, scope_ofCode]

theorem RoundTrip.fenceMem : RoundTrip.Statement (.fenceMem) := by
  refine seq_words rfl rfl fun _ => ?_
  have h := encReg_flds (op := 0x24) (fn := 0) 0 0 0 (by decide) (by decide)
  simp [decodeSeq, only, reg5_eq, h]

theorem RoundTrip.fenceEngines : RoundTrip.Statement (.fenceEngines) := by
  refine seq_words rfl rfl fun _ => ?_
  have h := encReg_flds (op := 0x24) (fn := 1) 0 0 0 (by decide) (by decide)
  simp [decodeSeq, only, reg5_eq, h]

theorem RoundTrip.fenceBoth : RoundTrip.Statement (.fenceBoth) := by
  refine seq_words rfl rfl fun _ => ?_
  have h := encReg_flds (op := 0x24) (fn := 2) 0 0 0 (by decide) (by decide)
  simp [decodeSeq, only, reg5_eq, h]

theorem RoundTrip.barInit (d : GReg) (a : GReg) (b : GReg) : RoundTrip.Statement (.barInit d a b) := by
  refine seq_words rfl rfl fun _ => ?_
  have h := encReg_flds (op := 0x25) (fn := 0) d a b (by decide) (by decide)
  simp [decodeSeq, decodeBar, only, reg5_eq, h]

theorem RoundTrip.barArr (d : GReg) (a : GReg) (b : GReg) : RoundTrip.Statement (.barArr d a b) := by
  refine seq_words rfl rfl fun _ => ?_
  have h := encReg_flds (op := 0x25) (fn := 1) d a b (by decide) (by decide)
  simp [decodeSeq, decodeBar, only, reg5_eq, h]

theorem RoundTrip.barWait (d : GReg) (a : GReg) (b : GReg) : RoundTrip.Statement (.barWait d a b) := by
  refine seq_words rfl rfl fun _ => ?_
  have h := encReg_flds (op := 0x25) (fn := 2) d a b (by decide) (by decide)
  simp [decodeSeq, decodeBar, only, reg5_eq, h]

theorem RoundTrip.barArrw (d : GReg) (a : GReg) (b : GReg) : RoundTrip.Statement (.barArrw d a b) := by
  refine seq_words rfl rfl fun _ => ?_
  have h := encReg_flds (op := 0x25) (fn := 3) d a b (by decide) (by decide)
  simp [decodeSeq, decodeBar, only, reg5_eq, h]

theorem RoundTrip.barQuery (d : GReg) (a : GReg) (b : GReg) : RoundTrip.Statement (.barQuery d a b) := by
  refine seq_words rfl rfl fun _ => ?_
  have h := encReg_flds (op := 0x25) (fn := 4) d a b (by decide) (by decide)
  simp [decodeSeq, decodeBar, only, reg5_eq, h]

theorem RoundTrip.sev (a : GReg) : RoundTrip.Statement (.sev a) := by
  refine seq_words rfl rfl fun _ => ?_
  have h := encReg_flds (op := 0x26) (fn := 0) 0 a 0 (by decide) (by decide)
  simp [decodeSeq, only, reg5_eq, h]

theorem RoundTrip.wfe : RoundTrip.Statement (.wfe) := by
  refine seq_words rfl rfl fun _ => ?_
  have h := encReg_flds (op := 0x26) (fn := 1) 0 0 0 (by decide) (by decide)
  simp [decodeSeq, only, reg5_eq, h]

theorem RoundTrip.clrev : RoundTrip.Statement (.clrev) := by
  refine seq_words rfl rfl fun _ => ?_
  have h := encReg_flds (op := 0x26) (fn := 2) 0 0 0 (by decide) (by decide)
  simp [decodeSeq, only, reg5_eq, h]

theorem RoundTrip.spawn (d : GReg) (a : GReg) (b : GReg) : RoundTrip.Statement (.spawn d a b) := by
  refine seq_words rfl rfl fun _ => ?_
  have h := encReg_flds (op := 0x27) (fn := 0) d a b (by decide) (by decide)
  simp [decodeSeq, only, reg5_eq, h]

theorem RoundTrip.join (d : GReg) (a : GReg) : RoundTrip.Statement (.join d a) := by
  refine seq_words rfl rfl fun _ => ?_
  have h := encReg_flds (op := 0x28) (fn := 0) d a 0 (by decide) (by decide)
  simp [decodeSeq, only, reg5_eq, h]

theorem RoundTrip.send (d : GReg) (a : GReg) (b : GReg) : RoundTrip.Statement (.send d a b) := by
  refine seq_words rfl rfl fun _ => ?_
  have h := encReg_flds (op := 0x29) (fn := 0) d a b (by decide) (by decide)
  simp [decodeSeq, only, reg5_eq, h]

theorem RoundTrip.runV (d : GReg) (a : GReg) (n : BitVec 3) : RoundTrip.Statement (.runV d a n) := by
  refine seq_words rfl rfl fun hw => ?_
  have hr := runOk_iff hw
  have h := encSys_flds (op := 0x2A) (d := d.val) (a := a.val) (k := 0) (n := n.toNat) (by decide) (by omega) (by omega) (by decide) (by omega)
  simp [decodeSeq, decodeRun, only, reg5_eq, h, hr, toNat_mod n (k := 8) rfl, toNat_div n (k := 8) rfl]

theorem RoundTrip.runM (d : GReg) (a : GReg) (n : BitVec 3) : RoundTrip.Statement (.runM d a n) := by
  refine seq_words rfl rfl fun hw => ?_
  have hr := runOk_iff hw
  have h := encSys_flds (op := 0x2A) (d := d.val) (a := a.val) (k := 1) (n := n.toNat) (by decide) (by omega) (by omega) (by decide) (by omega)
  simp [decodeSeq, decodeRun, only, reg5_eq, h, hr, toNat_mod n (k := 8) rfl, toNat_div n (k := 8) rfl]

theorem RoundTrip.runX (d : GReg) (a : GReg) (n : BitVec 3) : RoundTrip.Statement (.runX d a n) := by
  refine seq_words rfl rfl fun hw => ?_
  have hr := runOk_iff hw
  have h := encSys_flds (op := 0x2A) (d := d.val) (a := a.val) (k := 2) (n := n.toNat) (by decide) (by omega) (by omega) (by decide) (by omega)
  simp [decodeSeq, decodeRun, only, reg5_eq, h, hr, toNat_mod n (k := 8) rfl, toNat_div n (k := 8) rfl]

theorem RoundTrip.runW (d : GReg) (a : GReg) (n : BitVec 3) : RoundTrip.Statement (.runW d a n) := by
  refine seq_words rfl rfl fun hw => ?_
  have hr := runOk_iff hw
  have h := encSys_flds (op := 0x2A) (d := d.val) (a := a.val) (k := 3) (n := n.toNat) (by decide) (by omega) (by omega) (by decide) (by omega)
  simp [decodeSeq, decodeRun, only, reg5_eq, h, hr, toNat_mod n (k := 8) rfl, toNat_div n (k := 8) rfl]

theorem RoundTrip.ewaitE (mask : BitVec 4) : RoundTrip.Statement (.ewaitE mask) := by
  refine seq_words rfl rfl fun _ => ?_
  have h := encSys_flds (op := 0x2B) (d := 0) (a := 0) (k := 0) (n := mask.toNat) (by decide) (by omega) (by omega) (by decide) (by omega)
  simp [decodeSeq, only, reg5_eq, h, toNat_mod mask (k := 16) rfl, toNat_div mask (k := 16) rfl]

theorem RoundTrip.ewaitK (mask : BitVec 8) : RoundTrip.Statement (.ewaitK mask) := by
  refine seq_words rfl rfl fun _ => ?_
  have h := encSys_flds (op := 0x2B) (d := 0) (a := 0) (k := 1) (n := mask.toNat) (by decide) (by omega) (by omega) (by decide) (by omega)
  simp [decodeSeq, only, reg5_eq, h, toNat_mod mask (k := 256) rfl, toNat_div mask (k := 256) rfl]

theorem RoundTrip.atTick (a : GReg) : RoundTrip.Statement (.atTick a) := by
  refine seq_words rfl rfl fun _ => ?_
  have h := encSys_flds (op := 0x2C) (d := 0) (a := a.val) (k := 0) (n := 0) (by decide) (by omega) (by omega) (by decide) (by omega)
  simp [decodeSeq, only, reg5_eq, h]

theorem RoundTrip.codePf (a : GReg) (c : CacheSel) : RoundTrip.Statement (.codePf a c) := by
  refine seq_words rfl rfl fun _ => ?_
  have h := encSys_flds (op := 0x2D) (d := 0) (a := a.val) (k := 0) (n := c.code) (by decide) (by omega) (by omega) (by decide) (by have := cache_code_lt c; omega)
  simp [decodeSeq, decodeCode, only, reg5_eq, h, cache_ofCode, cache_high]

theorem RoundTrip.codePin (a : GReg) (c : CacheSel) : RoundTrip.Statement (.codePin a c) := by
  refine seq_words rfl rfl fun _ => ?_
  have h := encSys_flds (op := 0x2D) (d := 0) (a := a.val) (k := 1) (n := c.code) (by decide) (by omega) (by omega) (by decide) (by have := cache_code_lt c; omega)
  simp [decodeSeq, decodeCode, only, reg5_eq, h, cache_ofCode, cache_high]

theorem RoundTrip.codeUnpin (a : GReg) (c : CacheSel) : RoundTrip.Statement (.codeUnpin a c) := by
  refine seq_words rfl rfl fun _ => ?_
  have h := encSys_flds (op := 0x2D) (d := 0) (a := a.val) (k := 2) (n := c.code) (by decide) (by omega) (by omega) (by decide) (by have := cache_code_lt c; omega)
  simp [decodeSeq, decodeCode, only, reg5_eq, h, cache_ofCode, cache_high]

theorem RoundTrip.safe (num : BitVec 12) : RoundTrip.Statement (.safe num) := by
  refine seq_words rfl rfl fun _ => ?_
  have h := encSys_flds (op := 0x2E) (d := 0) (a := 0) (k := 0) (n := num.toNat) (by decide) (by omega) (by omega) (by decide) (by omega)
  simp [decodeSeq, only, reg5_eq, h]

theorem RoundTrip.cfgr (d : GReg) (num : BitVec 12) : RoundTrip.Statement (.cfgr d num) := by
  refine seq_words rfl rfl fun _ => ?_
  have h := encSys_flds (op := 0x2F) (d := d.val) (a := 0) (k := 0) (n := num.toNat) (by decide) (by omega) (by omega) (by decide) (by omega)
  simp [decodeSeq, only, reg5_eq, h]

theorem RoundTrip.cfgw (a : GReg) (num : BitVec 12) : RoundTrip.Statement (.cfgw a num) := by
  refine seq_words rfl rfl fun _ => ?_
  have h := encSys_flds (op := 0x2F) (d := 0) (a := a.val) (k := 1) (n := num.toNat) (by decide) (by omega) (by omega) (by decide) (by omega)
  simp [decodeSeq, only, reg5_eq, h]

theorem RoundTrip.syscall (code : BitVec 12) : RoundTrip.Statement (.syscall code) := by
  refine seq_words rfl rfl fun _ => ?_
  have h := encSys_flds (op := 0x30) (d := 0) (a := 0) (k := 0) (n := code.toNat) (by decide) (by omega) (by omega) (by decide) (by omega)
  simp [decodeSeq, decodeSys, only, reg5_eq, h]

theorem RoundTrip.brk (code : BitVec 12) : RoundTrip.Statement (.brk code) := by
  refine seq_words rfl rfl fun _ => ?_
  have h := encSys_flds (op := 0x30) (d := 0) (a := 0) (k := 1) (n := code.toNat) (by decide) (by omega) (by omega) (by decide) (by omega)
  simp [decodeSeq, decodeSys, only, reg5_eq, h]

theorem RoundTrip.eret : RoundTrip.Statement (.eret) := by
  refine seq_words rfl rfl fun _ => ?_
  have h := encSys_flds (op := 0x30) (d := 0) (a := 0) (k := 2) (n := 0) (by decide) (by omega) (by omega) (by decide) (by omega)
  simp [decodeSeq, decodeSys, only, reg5_eq, h]

theorem RoundTrip.halt : RoundTrip.Statement (.halt) := by
  refine seq_words rfl rfl fun _ => ?_
  have h := encSys_flds (op := 0x30) (d := 0) (a := 0) (k := 3) (n := 0) (by decide) (by omega) (by omega) (by decide) (by omega)
  simp [decodeSeq, decodeSys, only, reg5_eq, h]

theorem RoundTrip.qdepth (d : GReg) (q : BitVec 3) : RoundTrip.Statement (.qdepth d q) := by
  refine seq_words rfl rfl fun _ => ?_
  have h := encSys_flds (op := 0x31) (d := d.val) (a := 0) (k := 0) (n := q.toNat) (by decide) (by omega) (by omega) (by decide) (by omega)
  simp [decodeSeq, only, reg5_eq, h, toNat_mod q (k := 8) rfl, toNat_div q (k := 8) rfl]

theorem RoundTrip.tstate (d : GReg) (t : TtReg) : RoundTrip.Statement (.tstate d t) := by
  refine seq_words rfl rfl fun _ => ?_
  have h := encSys_flds (op := 0x32) (d := d.val) (a := 0) (k := 0) (n := t.val) (by decide) (by omega) (by omega) (by decide) (by omega)
  simp [decodeSeq, only, reg5_eq, h, Nat.mod_eq_of_lt t.isLt, Nat.div_eq_of_lt t.isLt]

/-! ## Vector words -/

theorem RoundTrip.vshape (h : Hold) (vp : VpReg) : RoundTrip.Statement (.vshape h vp) := by
  have f := encVec_flds (op := 0x01) (t := 0) (d := 0) (a := vp.val) (b := 0) (x := 0) h false (by decide) (by decide) (by decide) (by omega) (by decide) (by decide)
  refine vec_words rfl rfl (by rw [bit, f.2.1]; rfl) fun _ => ?_
  simp [decodeVecBody, only, bit, reg5_eq, reg2, f, Nat.mod_eq_of_lt vp.isLt]

theorem RoundTrip.vld (h : Hold) (t : ElemType) (inc : Bool) (d : VReg) (vp : VpReg) : RoundTrip.Statement (.vld h t inc d vp) := by
  have f := encVec_flds (op := 0x02) (t := t.code) (d := d.val) (a := vp.val) (b := 0) (x := (b2n inc)) h false (by decide) (elem_lt t) (by omega) (by omega) (by decide) (b2n_lt16 inc)
  refine vec_words rfl rfl (by rw [bit, f.2.1]; rfl) fun _ => ?_
  simp [decodeVecBody, only, bit, reg5_eq, reg2, f, elem_ofCode, Nat.mod_eq_of_lt vp.isLt, b2n_mod, b2n_le]

theorem RoundTrip.vst (h : Hold) (t : ElemType) (inc : Bool) (d : VReg) (vp : VpReg) : RoundTrip.Statement (.vst h t inc d vp) := by
  have f := encVec_flds (op := 0x03) (t := t.code) (d := d.val) (a := vp.val) (b := 0) (x := (b2n inc)) h false (by decide) (elem_lt t) (by omega) (by omega) (by decide) (b2n_lt16 inc)
  refine vec_words rfl rfl (by rw [bit, f.2.1]; rfl) fun _ => ?_
  simp [decodeVecBody, only, bit, reg5_eq, reg2, f, elem_ofCode, Nat.mod_eq_of_lt vp.isLt, b2n_mod, b2n_le]

theorem RoundTrip.vldacc (h : Hold) (t : ElemType) (inc : Bool) (ex : Bool) (d : VReg) (vp : VpReg) : RoundTrip.Statement (.vldacc h t inc ex d vp) := by
  have f := encVec_flds (op := 0x04) (t := t.code) (d := d.val) (a := vp.val) (b := 0) (x := (b2n inc + put (b2n ex) 1)) h false (by decide) (elem_lt t) (by omega) (by omega) (by decide) (by have := two_bits inc ex; omega)
  refine vec_words rfl rfl (by rw [bit, f.2.1]; rfl) fun hw => ?_
  have hw : t.isFloat = true := hw
  simp [decodeVecBody, only, bit, reg5_eq, reg2, f, hw, elem_ofCode, Nat.mod_eq_of_lt vp.isLt, two_bits inc ex]

theorem RoundTrip.vstacc (h : Hold) (t : ElemType) (inc : Bool) (ex : Bool) (d : VReg) (vp : VpReg) : RoundTrip.Statement (.vstacc h t inc ex d vp) := by
  have f := encVec_flds (op := 0x05) (t := t.code) (d := d.val) (a := vp.val) (b := 0) (x := (b2n inc + put (b2n ex) 1)) h false (by decide) (elem_lt t) (by omega) (by omega) (by decide) (by have := two_bits inc ex; omega)
  refine vec_words rfl rfl (by rw [bit, f.2.1]; rfl) fun hw => ?_
  have hw : t.isFloat = true := hw
  simp [decodeVecBody, only, bit, reg5_eq, reg2, f, hw, elem_ofCode, Nat.mod_eq_of_lt vp.isLt, two_bits inc ex]

theorem RoundTrip.vmov (h : Hold) (t : ElemType) (d : VReg) (a : VReg) : RoundTrip.Statement (.vmov h t d a) := by
  have f := encVec_flds (op := 0x06) (t := t.code) (d := d.val) (a := a.val) (b := 0) (x := 0) h false (by decide) (elem_lt t) (by omega) (by omega) (by decide) (by decide)
  refine vec_words rfl rfl (by rw [bit, f.2.1]; rfl) fun _ => ?_
  simp [decodeVecBody, only, bit, reg5_eq, reg2, f, elem_ofCode]

theorem RoundTrip.vsplat (h : Hold) (t : ElemType) (x : Splat) (d : VReg) (a : VReg) : RoundTrip.Statement (.vsplat h t x d a) := by
  have f := encVec_flds (op := 0x07) (t := t.code) (d := d.val) (a := a.val) (b := 0) (x := x.code) h false (by decide) (elem_lt t) (by omega) (by omega) (by decide) (by cases x <;> decide)
  refine vec_words rfl rfl (by rw [bit, f.2.1]; rfl) fun hw => ?_
  have hw : (x != .vp || decide (a.val < 4)) = true := hw
  simp [decodeVecBody, only, bit, reg5_eq, reg2, f, hw, elem_ofCode, splat_ofCode, splat_le]
  cases x <;> simp_all [Splat.code]

theorem RoundTrip.vadd (h : Hold) (m : Option Modifier) (t : ElemType) (r : Rnd) (d : VReg) (a : VReg) (b : VReg) : RoundTrip.Statement (.vadd h m t r d a b) := by
  refine vec_words_mod (h := h) (op := 0x08) (t := t.code) (d := d.val) (a := a.val) (b := b.val) (x := r.code) rfl rfl rfl (by decide) (elem_lt t) (by omega) (by omega) (by omega) (rnd_lt r) fun hw => ?_
  have hw : modOk false m = true := hw
  have f := encVec_flds (op := 0x08) (t := t.code) (d := d.val) (a := a.val) (b := b.val) (x := r.code) h m.isSome (by decide) (elem_lt t) (by omega) (by omega) (by omega) (rnd_lt r)
  simp [decodeVecBody, only, bit, reg5_eq, reg2, f, rnd_ofCode, hw, elem_ofCode]

theorem RoundTrip.vsub (h : Hold) (m : Option Modifier) (t : ElemType) (r : Rnd) (d : VReg) (a : VReg) (b : VReg) : RoundTrip.Statement (.vsub h m t r d a b) := by
  refine vec_words_mod (h := h) (op := 0x09) (t := t.code) (d := d.val) (a := a.val) (b := b.val) (x := r.code) rfl rfl rfl (by decide) (elem_lt t) (by omega) (by omega) (by omega) (rnd_lt r) fun hw => ?_
  have hw : modOk false m = true := hw
  have f := encVec_flds (op := 0x09) (t := t.code) (d := d.val) (a := a.val) (b := b.val) (x := r.code) h m.isSome (by decide) (elem_lt t) (by omega) (by omega) (by omega) (rnd_lt r)
  simp [decodeVecBody, only, bit, reg5_eq, reg2, f, rnd_ofCode, hw, elem_ofCode]

theorem RoundTrip.vmul (h : Hold) (m : Option Modifier) (t : ElemType) (r : Rnd) (d : VReg) (a : VReg) (b : VReg) : RoundTrip.Statement (.vmul h m t r d a b) := by
  refine vec_words_mod (h := h) (op := 0x0A) (t := t.code) (d := d.val) (a := a.val) (b := b.val) (x := r.code) rfl rfl rfl (by decide) (elem_lt t) (by omega) (by omega) (by omega) (rnd_lt r) fun hw => ?_
  have hw : modOk false m = true := hw
  have f := encVec_flds (op := 0x0A) (t := t.code) (d := d.val) (a := a.val) (b := b.val) (x := r.code) h m.isSome (by decide) (elem_lt t) (by omega) (by omega) (by omega) (rnd_lt r)
  simp [decodeVecBody, only, bit, reg5_eq, reg2, f, rnd_ofCode, hw, elem_ofCode]

theorem RoundTrip.vfma (h : Hold) (m : Option Modifier) (t : ElemType) (r : Rnd) (d : VReg) (a : VReg) (b : VReg) : RoundTrip.Statement (.vfma h m t r d a b) := by
  refine vec_words_mod (h := h) (op := 0x0B) (t := t.code) (d := d.val) (a := a.val) (b := b.val) (x := r.code) rfl rfl rfl (by decide) (elem_lt t) (by omega) (by omega) (by omega) (rnd_lt r) fun _ => ?_
  have f := encVec_flds (op := 0x0B) (t := t.code) (d := d.val) (a := a.val) (b := b.val) (x := r.code) h m.isSome (by decide) (elem_lt t) (by omega) (by omega) (by omega) (rnd_lt r)
  simp [decodeVecBody, only, bit, reg5_eq, reg2, f, rnd_ofCode, elem_ofCode]

theorem RoundTrip.vmax (h : Hold) (m : Option Modifier) (t : ElemType) (d : VReg) (a : VReg) (b : VReg) : RoundTrip.Statement (.vmax h m t d a b) := by
  refine vec_words_mod (h := h) (op := 0x0C) (t := t.code) (d := d.val) (a := a.val) (b := b.val) (x := 0) rfl rfl rfl (by decide) (elem_lt t) (by omega) (by omega) (by omega) (by decide) fun hw => ?_
  have hw : modOk false m = true := hw
  have f := encVec_flds (op := 0x0C) (t := t.code) (d := d.val) (a := a.val) (b := b.val) (x := 0) h m.isSome (by decide) (elem_lt t) (by omega) (by omega) (by omega) (by decide)
  simp [decodeVecBody, only, bit, reg5_eq, reg2, f, hw, elem_ofCode]

theorem RoundTrip.vmin (h : Hold) (m : Option Modifier) (t : ElemType) (d : VReg) (a : VReg) (b : VReg) : RoundTrip.Statement (.vmin h m t d a b) := by
  refine vec_words_mod (h := h) (op := 0x0D) (t := t.code) (d := d.val) (a := a.val) (b := b.val) (x := 0) rfl rfl rfl (by decide) (elem_lt t) (by omega) (by omega) (by omega) (by decide) fun hw => ?_
  have hw : modOk false m = true := hw
  have f := encVec_flds (op := 0x0D) (t := t.code) (d := d.val) (a := a.val) (b := b.val) (x := 0) h m.isSome (by decide) (elem_lt t) (by omega) (by omega) (by omega) (by decide)
  simp [decodeVecBody, only, bit, reg5_eq, reg2, f, hw, elem_ofCode]

theorem RoundTrip.vdiv (h : Hold) (m : Option Modifier) (t : ElemType) (r : Rnd) (d : VReg) (a : VReg) (b : VReg) : RoundTrip.Statement (.vdiv h m t r d a b) := by
  refine vec_words_mod (h := h) (op := 0x0E) (t := t.code) (d := d.val) (a := a.val) (b := b.val) (x := r.code) rfl rfl rfl (by decide) (elem_lt t) (by omega) (by omega) (by omega) (rnd_lt r) fun hw => ?_
  have hw : modOk false m = true ∧ t.isFloat = true := by simpa [floatMod] using (show floatMod t m = true from hw)
  have f := encVec_flds (op := 0x0E) (t := t.code) (d := d.val) (a := a.val) (b := b.val) (x := r.code) h m.isSome (by decide) (elem_lt t) (by omega) (by omega) (by omega) (rnd_lt r)
  simp [decodeVecBody, only, bit, reg5_eq, reg2, f, rnd_ofCode, hw, elem_ofCode]

theorem RoundTrip.vcvt (h : Hold) (m : Option Modifier) (t : ElemType) (r : Rnd) (d : VReg) (a : VReg) (src : ElemType) : RoundTrip.Statement (.vcvt h m t r d a src) := by
  refine vec_words_mod (h := h) (op := 0x0F) (t := t.code) (d := d.val) (a := a.val) (b := src.code) (x := r.code) rfl rfl rfl (by decide) (elem_lt t) (by omega) (by omega) (by have := elem_lt src; omega) (rnd_lt r) fun hw => ?_
  have hw : modOk false m = true := hw
  have f := encVec_flds (op := 0x0F) (t := t.code) (d := d.val) (a := a.val) (b := src.code) (x := r.code) h m.isSome (by decide) (elem_lt t) (by omega) (by omega) (by have := elem_lt src; omega) (rnd_lt r)
  simp [decodeVecBody, only, bit, reg5_eq, reg2, f, rnd_ofCode, hw, elem_ofCode, Nat.mod_eq_of_lt (elem_lt src), elem_lt src]

theorem RoundTrip.vand (h : Hold) (t : ElemType) (d : VReg) (a : VReg) (b : VReg) : RoundTrip.Statement (.vand h t d a b) := by
  have f := encVec_flds (op := 0x10) (t := t.code) (d := d.val) (a := a.val) (b := b.val) (x := 0) h false (by decide) (elem_lt t) (by omega) (by omega) (by omega) (by decide)
  refine vec_words rfl rfl (by rw [bit, f.2.1]; rfl) fun _ => ?_
  simp [decodeVecBody, only, bit, reg5_eq, reg2, f, elem_ofCode]

theorem RoundTrip.vor (h : Hold) (t : ElemType) (d : VReg) (a : VReg) (b : VReg) : RoundTrip.Statement (.vor h t d a b) := by
  have f := encVec_flds (op := 0x11) (t := t.code) (d := d.val) (a := a.val) (b := b.val) (x := 0) h false (by decide) (elem_lt t) (by omega) (by omega) (by omega) (by decide)
  refine vec_words rfl rfl (by rw [bit, f.2.1]; rfl) fun _ => ?_
  simp [decodeVecBody, only, bit, reg5_eq, reg2, f, elem_ofCode]

theorem RoundTrip.vxor (h : Hold) (t : ElemType) (d : VReg) (a : VReg) (b : VReg) : RoundTrip.Statement (.vxor h t d a b) := by
  have f := encVec_flds (op := 0x12) (t := t.code) (d := d.val) (a := a.val) (b := b.val) (x := 0) h false (by decide) (elem_lt t) (by omega) (by omega) (by omega) (by decide)
  refine vec_words rfl rfl (by rw [bit, f.2.1]; rfl) fun _ => ?_
  simp [decodeVecBody, only, bit, reg5_eq, reg2, f, elem_ofCode]

theorem RoundTrip.vshl (h : Hold) (t : ElemType) (d : VReg) (a : VReg) (b : VReg) : RoundTrip.Statement (.vshl h t d a b) := by
  have f := encVec_flds (op := 0x13) (t := t.code) (d := d.val) (a := a.val) (b := b.val) (x := 0) h false (by decide) (elem_lt t) (by omega) (by omega) (by omega) (by decide)
  refine vec_words rfl rfl (by rw [bit, f.2.1]; rfl) fun hw => ?_
  have hw : t.isFloat = false := by simpa using (show (!t.isFloat) = true from hw)
  simp [decodeVecBody, only, bit, reg5_eq, reg2, f, hw, elem_ofCode]

theorem RoundTrip.vshrSrl (h : Hold) (t : ElemType) (d : VReg) (a : VReg) (b : VReg) : RoundTrip.Statement (.vshrSrl h t d a b) := by
  have f := encVec_flds (op := 0x14) (t := t.code) (d := d.val) (a := a.val) (b := b.val) (x := 0) h false (by decide) (elem_lt t) (by omega) (by omega) (by omega) (by decide)
  refine vec_words rfl rfl (by rw [bit, f.2.1]; rfl) fun hw => ?_
  have hw : t.isFloat = false := by simpa using (show (!t.isFloat) = true from hw)
  simp [decodeVecBody, only, bit, reg5_eq, reg2, f, hw, elem_ofCode]

theorem RoundTrip.vshrSra (h : Hold) (t : ElemType) (d : VReg) (a : VReg) (b : VReg) : RoundTrip.Statement (.vshrSra h t d a b) := by
  have f := encVec_flds (op := 0x14) (t := t.code) (d := d.val) (a := a.val) (b := b.val) (x := 1) h false (by decide) (elem_lt t) (by omega) (by omega) (by omega) (by decide)
  refine vec_words rfl rfl (by rw [bit, f.2.1]; rfl) fun hw => ?_
  have hw : t.isSigned = true := hw
  simp [decodeVecBody, only, bit, reg5_eq, reg2, f, hw, elem_ofCode]

theorem RoundTrip.vmpush (h : Hold) (t : ElemType) (c : Cond) (a : VReg) (b : VReg) : RoundTrip.Statement (.vmpush h t c a b) := by
  have f := encVec_flds (op := 0x15) (t := t.code) (d := 0) (a := a.val) (b := b.val) (x := c.code) h false (by decide) (elem_lt t) (by decide) (by omega) (by omega) (by cases c <;> decide)
  refine vec_words rfl rfl (by rw [bit, f.2.1]; rfl) fun hw => ?_
  have hw : (!c.floatOnly || t.isFloat) = true := hw
  simp [decodeVecBody, only, bit, reg5_eq, reg2, f, hw, elem_ofCode, cond_ofCode]

theorem RoundTrip.vminv (h : Hold) : RoundTrip.Statement (.vminv h) := by
  have f := encVec_flds (op := 0x16) (t := 0) (d := 0) (a := 0) (b := 0) (x := 0) h false (by decide) (by decide) (by decide) (by decide) (by decide) (by decide)
  refine vec_words rfl rfl (by rw [bit, f.2.1]; rfl) fun _ => ?_
  simp [decodeVecBody, only, bit, reg5_eq, reg2, f]

theorem RoundTrip.vmpop (h : Hold) : RoundTrip.Statement (.vmpop h) := by
  have f := encVec_flds (op := 0x17) (t := 0) (d := 0) (a := 0) (b := 0) (x := 0) h false (by decide) (by decide) (by decide) (by decide) (by decide) (by decide)
  refine vec_words rfl rfl (by rw [bit, f.2.1]; rfl) fun _ => ?_
  simp [decodeVecBody, only, bit, reg5_eq, reg2, f]

theorem RoundTrip.vskip (h : Hold) (c : SkipCond) (n : BitVec 15) : RoundTrip.Statement (.vskip h c n) := by
  have f := skip_flds h n c
  refine vec_words (w := put h.toNat 29 + put 0x18 22 + put n.toNat 4 + c.code) rfl rfl (by rw [bit, f.2.1]; rfl) fun _ => ?_
  simp [decodeVecBody, only, f, skip_ofCode]

theorem RoundTrip.vsel (h : Hold) (t : ElemType) (d : VReg) (a : VReg) (b : VReg) : RoundTrip.Statement (.vsel h t d a b) := by
  have f := encVec_flds (op := 0x19) (t := t.code) (d := d.val) (a := a.val) (b := b.val) (x := 0) h false (by decide) (elem_lt t) (by omega) (by omega) (by omega) (by decide)
  refine vec_words rfl rfl (by rw [bit, f.2.1]; rfl) fun _ => ?_
  simp [decodeVecBody, only, bit, reg5_eq, reg2, f, elem_ofCode]

theorem RoundTrip.vloop (h : Hold) (s : BitVec 3) (l : BitVec 10) (vp : VpReg) : RoundTrip.Statement (.vloop h s l vp) := by
  have f := encVec_flds (op := 0x1A) (t := 0) (d := (l.toNat / 32)) (a := vp.val) (b := (l.toNat % 32)) (x := s.toNat) h false (by decide) (by decide) (by omega) (by omega) (by omega) (by omega)
  refine vec_words rfl rfl (by rw [bit, f.2.1]; rfl) fun _ => ?_
  simp [decodeVecBody, only, bit, reg5_eq, reg2, f, Nat.mod_eq_of_lt vp.isLt, toNat_mod s (k := 8) rfl, Nat.div_add_mod']
  exact s.isLt

theorem RoundTrip.vexp2 (h : Hold) (m : Option Modifier) (t : ElemType) (r : Rnd) (d : VReg) (a : VReg) : RoundTrip.Statement (.vexp2 h m t r d a) := by
  refine vec_words_mod (h := h) (op := 0x1B) (t := t.code) (d := d.val) (a := a.val) (b := 0) (x := r.code) rfl rfl rfl (by decide) (elem_lt t) (by omega) (by omega) (by decide) (rnd_lt r) fun hw => ?_
  have hw : modOk false m = true ∧ t.isFloat = true := by simpa [floatMod] using (show floatMod t m = true from hw)
  have f := encVec_flds (op := 0x1B) (t := t.code) (d := d.val) (a := a.val) (b := 0) (x := r.code) h m.isSome (by decide) (elem_lt t) (by omega) (by omega) (by decide) (rnd_lt r)
  simp [decodeVecBody, only, bit, reg5_eq, reg2, f, rnd_ofCode, hw, elem_ofCode]

theorem RoundTrip.vlog2 (h : Hold) (m : Option Modifier) (t : ElemType) (r : Rnd) (d : VReg) (a : VReg) : RoundTrip.Statement (.vlog2 h m t r d a) := by
  refine vec_words_mod (h := h) (op := 0x1C) (t := t.code) (d := d.val) (a := a.val) (b := 0) (x := r.code) rfl rfl rfl (by decide) (elem_lt t) (by omega) (by omega) (by decide) (rnd_lt r) fun hw => ?_
  have hw : modOk false m = true ∧ t.isFloat = true := by simpa [floatMod] using (show floatMod t m = true from hw)
  have f := encVec_flds (op := 0x1C) (t := t.code) (d := d.val) (a := a.val) (b := 0) (x := r.code) h m.isSome (by decide) (elem_lt t) (by omega) (by omega) (by decide) (rnd_lt r)
  simp [decodeVecBody, only, bit, reg5_eq, reg2, f, rnd_ofCode, hw, elem_ofCode]

theorem RoundTrip.vrcp (h : Hold) (m : Option Modifier) (t : ElemType) (r : Rnd) (d : VReg) (a : VReg) : RoundTrip.Statement (.vrcp h m t r d a) := by
  refine vec_words_mod (h := h) (op := 0x1D) (t := t.code) (d := d.val) (a := a.val) (b := 0) (x := r.code) rfl rfl rfl (by decide) (elem_lt t) (by omega) (by omega) (by decide) (rnd_lt r) fun hw => ?_
  have hw : modOk false m = true ∧ t.isFloat = true := by simpa [floatMod] using (show floatMod t m = true from hw)
  have f := encVec_flds (op := 0x1D) (t := t.code) (d := d.val) (a := a.val) (b := 0) (x := r.code) h m.isSome (by decide) (elem_lt t) (by omega) (by omega) (by decide) (rnd_lt r)
  simp [decodeVecBody, only, bit, reg5_eq, reg2, f, rnd_ofCode, hw, elem_ofCode]

theorem RoundTrip.vrsqrt (h : Hold) (m : Option Modifier) (t : ElemType) (r : Rnd) (d : VReg) (a : VReg) : RoundTrip.Statement (.vrsqrt h m t r d a) := by
  refine vec_words_mod (h := h) (op := 0x1E) (t := t.code) (d := d.val) (a := a.val) (b := 0) (x := r.code) rfl rfl rfl (by decide) (elem_lt t) (by omega) (by omega) (by decide) (rnd_lt r) fun hw => ?_
  have hw : modOk false m = true ∧ t.isFloat = true := by simpa [floatMod] using (show floatMod t m = true from hw)
  have f := encVec_flds (op := 0x1E) (t := t.code) (d := d.val) (a := a.val) (b := 0) (x := r.code) h m.isSome (by decide) (elem_lt t) (by omega) (by omega) (by decide) (rnd_lt r)
  simp [decodeVecBody, only, bit, reg5_eq, reg2, f, rnd_ofCode, hw, elem_ofCode]

theorem RoundTrip.vtanh (h : Hold) (m : Option Modifier) (t : ElemType) (r : Rnd) (d : VReg) (a : VReg) : RoundTrip.Statement (.vtanh h m t r d a) := by
  refine vec_words_mod (h := h) (op := 0x1F) (t := t.code) (d := d.val) (a := a.val) (b := 0) (x := r.code) rfl rfl rfl (by decide) (elem_lt t) (by omega) (by omega) (by decide) (rnd_lt r) fun hw => ?_
  have hw : modOk false m = true ∧ t.isFloat = true := by simpa [floatMod] using (show floatMod t m = true from hw)
  have f := encVec_flds (op := 0x1F) (t := t.code) (d := d.val) (a := a.val) (b := 0) (x := r.code) h m.isSome (by decide) (elem_lt t) (by omega) (by omega) (by decide) (rnd_lt r)
  simp [decodeVecBody, only, bit, reg5_eq, reg2, f, rnd_ofCode, hw, elem_ofCode]

theorem RoundTrip.vsig (h : Hold) (m : Option Modifier) (t : ElemType) (r : Rnd) (d : VReg) (a : VReg) : RoundTrip.Statement (.vsig h m t r d a) := by
  refine vec_words_mod (h := h) (op := 0x20) (t := t.code) (d := d.val) (a := a.val) (b := 0) (x := r.code) rfl rfl rfl (by decide) (elem_lt t) (by omega) (by omega) (by decide) (rnd_lt r) fun hw => ?_
  have hw : modOk false m = true ∧ t.isFloat = true := by simpa [floatMod] using (show floatMod t m = true from hw)
  have f := encVec_flds (op := 0x20) (t := t.code) (d := d.val) (a := a.val) (b := 0) (x := r.code) h m.isSome (by decide) (elem_lt t) (by omega) (by omega) (by decide) (rnd_lt r)
  simp [decodeVecBody, only, bit, reg5_eq, reg2, f, rnd_ofCode, hw, elem_ofCode]

theorem RoundTrip.vredsum (h : Hold) (t : ElemType) (r : Rnd) (dir : Dir) (d : VReg) (a : VReg) : RoundTrip.Statement (.vredsum h t r dir d a) := by
  have f := encVec_flds (op := 0x21) (t := t.code) (d := d.val) (a := a.val) (b := dir.code) (x := r.code) h false (by decide) (elem_lt t) (by omega) (by omega) (by cases dir <;> decide) (rnd_lt r)
  refine vec_words rfl rfl (by rw [bit, f.2.1]; rfl) fun hw => ?_
  have hw : (t.isFloat || r == .dyn) = true := hw
  simp [decodeVecBody, only, bit, reg5_eq, reg2, f, rnd_ofCode, hw, elem_ofCode, dir_ofCode]
  cases t <;> cases r <;> simp_all [ElemType.isFloat, Rnd.code]

theorem RoundTrip.vredmax (h : Hold) (t : ElemType) (dir : Dir) (d : VReg) (a : VReg) : RoundTrip.Statement (.vredmax h t dir d a) := by
  have f := encVec_flds (op := 0x22) (t := t.code) (d := d.val) (a := a.val) (b := dir.code) (x := 0) h false (by decide) (elem_lt t) (by omega) (by omega) (by cases dir <;> decide) (by decide)
  refine vec_words rfl rfl (by rw [bit, f.2.1]; rfl) fun _ => ?_
  simp [decodeVecBody, only, bit, reg5_eq, reg2, f, elem_ofCode, dir_ofCode]

theorem RoundTrip.vredmin (h : Hold) (t : ElemType) (dir : Dir) (d : VReg) (a : VReg) : RoundTrip.Statement (.vredmin h t dir d a) := by
  have f := encVec_flds (op := 0x23) (t := t.code) (d := d.val) (a := a.val) (b := dir.code) (x := 0) h false (by decide) (elem_lt t) (by omega) (by omega) (by cases dir <;> decide) (by decide)
  refine vec_words rfl rfl (by rw [bit, f.2.1]; rfl) fun _ => ?_
  simp [decodeVecBody, only, bit, reg5_eq, reg2, f, elem_ofCode, dir_ofCode]

theorem RoundTrip.vtopk (h : Hold) (t : ElemType) (mx : Bool) (id : Bool) (vpk : VpReg) (d : VReg) (a : VReg) (b : VReg) : RoundTrip.Statement (.vtopk h t mx id vpk d a b) := by
  have f := encVec_flds (op := 0x24) (t := t.code) (d := d.val) (a := a.val) (b := b.val) (x := (b2n (!mx) + put (b2n id) 1 + put vpk.val 2)) h false (by decide) (elem_lt t) (by omega) (by omega) (by omega) (by have := topk_bits (!mx) id vpk; omega)
  refine vec_words rfl rfl (by rw [bit, f.2.1]; rfl) fun hw => ?_
  have hw : (id || b == 0) = true := hw
  simp [decodeVecBody, only, bit, reg5_eq, reg2, f, hw, elem_ofCode, Nat.mod_eq_of_lt vpk.isLt, topk_bits (!mx) id vpk]
  intro e
  simpa [e] using hw

theorem RoundTrip.vtopm (h : Hold) (t : ElemType) (mx : Bool) (id : Bool) (vpk : VpReg) (d : VReg) (a : VReg) (b : VReg) : RoundTrip.Statement (.vtopm h t mx id vpk d a b) := by
  have f := encVec_flds (op := 0x25) (t := t.code) (d := d.val) (a := a.val) (b := b.val) (x := (b2n (!mx) + put (b2n id) 1 + put vpk.val 2)) h false (by decide) (elem_lt t) (by omega) (by omega) (by omega) (by have := topk_bits (!mx) id vpk; omega)
  refine vec_words rfl rfl (by rw [bit, f.2.1]; rfl) fun hw => ?_
  have hw : (t == .f32 || t == .i32 || t == .n32) = true := hw
  simp [decodeVecBody, only, bit, reg5_eq, reg2, f, hw, elem_ofCode, Nat.mod_eq_of_lt vpk.isLt, topk_bits (!mx) id vpk]
  cases t <;> simp_all [ElemType.code]

theorem RoundTrip.vperm (h : Hold) (t : ElemType) (g : Grain) (d : VReg) (a : VReg) (b : VReg) : RoundTrip.Statement (.vperm h t g d a b) := by
  cases g with
  | lin =>
    have f := encVec_flds (op := 0x26) (t := t.code) (d := d.val) (a := a.val) (b := b.val) (x := 1) h false (by decide) (elem_lt t) (by omega) (by omega) (by omega) (by decide)
    refine vec_words (w := encVec h false 0x26 t.code d.val a.val b.val 1) rfl rfl (by rw [bit, f.2.1]; rfl) fun hw => ?_
    simp [decodeVecBody, only, bit, reg5_eq, reg2, f, elem_ofCode]
  | row =>
    have f := encVec_flds (op := 0x26) (t := t.code) (d := d.val) (a := a.val) (b := b.val) (x := 0) h false (by decide) (elem_lt t) (by omega) (by omega) (by omega) (by decide)
    refine vec_words (w := encVec h false 0x26 t.code d.val a.val b.val 0) rfl rfl (by rw [bit, f.2.1]; rfl) fun hw => ?_
    simp [decodeVecBody, only, bit, reg5_eq, reg2, f, elem_ofCode]

theorem RoundTrip.vgath (h : Hold) (t : ElemType) (g : Grain) (d : VReg) (vp : VpReg) (b : VReg) : RoundTrip.Statement (.vgath h t g d vp b) := by
  cases g with
  | lin =>
    have f := encVec_flds (op := 0x27) (t := t.code) (d := d.val) (a := vp.val) (b := b.val) (x := 0) h false (by decide) (elem_lt t) (by omega) (by omega) (by omega) (by decide)
    refine vec_words (w := encVec h false 0x27 t.code d.val vp.val b.val 0) rfl rfl (by rw [bit, f.2.1]; rfl) fun hw => ?_
    simp [decodeVecBody, only, bit, reg5_eq, reg2, f, elem_ofCode, Nat.mod_eq_of_lt vp.isLt]
  | row =>
    have f := encVec_flds (op := 0x27) (t := t.code) (d := d.val) (a := vp.val) (b := b.val) (x := 1) h false (by decide) (elem_lt t) (by omega) (by omega) (by omega) (by decide)
    refine vec_words (w := encVec h false 0x27 t.code d.val vp.val b.val 1) rfl rfl (by rw [bit, f.2.1]; rfl) fun hw => ?_
    simp [decodeVecBody, only, bit, reg5_eq, reg2, f, elem_ofCode, Nat.mod_eq_of_lt vp.isLt]

theorem RoundTrip.vscat (h : Hold) (t : ElemType) (g : Grain) (d : VReg) (vp : VpReg) (b : VReg) : RoundTrip.Statement (.vscat h t g d vp b) := by
  cases g with
  | lin =>
    have f := encVec_flds (op := 0x28) (t := t.code) (d := d.val) (a := vp.val) (b := b.val) (x := 0) h false (by decide) (elem_lt t) (by omega) (by omega) (by omega) (by decide)
    refine vec_words (w := encVec h false 0x28 t.code d.val vp.val b.val 0) rfl rfl (by rw [bit, f.2.1]; rfl) fun hw => ?_
    simp [decodeVecBody, only, bit, reg5_eq, reg2, f, elem_ofCode, Nat.mod_eq_of_lt vp.isLt]
  | row =>
    have f := encVec_flds (op := 0x28) (t := t.code) (d := d.val) (a := vp.val) (b := b.val) (x := 1) h false (by decide) (elem_lt t) (by omega) (by omega) (by omega) (by decide)
    refine vec_words (w := encVec h false 0x28 t.code d.val vp.val b.val 1) rfl rfl (by rw [bit, f.2.1]; rfl) fun hw => ?_
    simp [decodeVecBody, only, bit, reg5_eq, reg2, f, elem_ofCode, Nat.mod_eq_of_lt vp.isLt]

theorem RoundTrip.vrand (h : Hold) (t : ElemType) (x : RandVar) (d : VReg) (va : VpReg) (vb : VpReg) : RoundTrip.Statement (.vrand h t x d va vb) := by
  cases x with
  | bits =>
    have f := encVec_flds (op := 0x29) (t := t.code) (d := d.val) (a := va.val) (b := vb.val) (x := 0) h false (by decide) (elem_lt t) (by omega) (by omega) (by omega) (by decide)
    refine vec_words (w := encVec h false 0x29 t.code d.val va.val vb.val 0) rfl rfl (by rw [bit, f.2.1]; rfl) fun hw => ?_
    have hw : t.isFloat = false := by simpa [RandVar.accepts] using (show RandVar.accepts .bits t = true from hw)
    simp [decodeVecBody, only, bit, reg5_eq, reg2, f, elem_ofCode, hw, Nat.mod_eq_of_lt va.isLt, Nat.mod_eq_of_lt vb.isLt]
  | unif =>
    have f := encVec_flds (op := 0x29) (t := t.code) (d := d.val) (a := va.val) (b := vb.val) (x := 1) h false (by decide) (elem_lt t) (by omega) (by omega) (by omega) (by decide)
    refine vec_words (w := encVec h false 0x29 t.code d.val va.val vb.val 1) rfl rfl (by rw [bit, f.2.1]; rfl) fun hw => ?_
    have hw : t.isFloat = true := by simpa [RandVar.accepts] using (show RandVar.accepts .unif t = true from hw)
    simp [decodeVecBody, only, bit, reg5_eq, reg2, f, elem_ofCode, hw, Nat.mod_eq_of_lt va.isLt, Nat.mod_eq_of_lt vb.isLt]

theorem RoundTrip.vqrs (h : Hold) (t : ElemType) (x : RandVar) (d : VReg) (va : VpReg) (vb : VpReg) : RoundTrip.Statement (.vqrs h t x d va vb) := by
  cases x with
  | bits =>
    have f := encVec_flds (op := 0x2A) (t := t.code) (d := d.val) (a := va.val) (b := vb.val) (x := 0) h false (by decide) (elem_lt t) (by omega) (by omega) (by omega) (by decide)
    refine vec_words (w := encVec h false 0x2A t.code d.val va.val vb.val 0) rfl rfl (by rw [bit, f.2.1]; rfl) fun hw => ?_
    have hw : t.isFloat = false := by simpa [RandVar.accepts] using (show RandVar.accepts .bits t = true from hw)
    simp [decodeVecBody, only, bit, reg5_eq, reg2, f, elem_ofCode, hw, Nat.mod_eq_of_lt va.isLt, Nat.mod_eq_of_lt vb.isLt]
  | unif =>
    have f := encVec_flds (op := 0x2A) (t := t.code) (d := d.val) (a := va.val) (b := vb.val) (x := 1) h false (by decide) (elem_lt t) (by omega) (by omega) (by omega) (by decide)
    refine vec_words (w := encVec h false 0x2A t.code d.val va.val vb.val 1) rfl rfl (by rw [bit, f.2.1]; rfl) fun hw => ?_
    have hw : t.isFloat = true := by simpa [RandVar.accepts] using (show RandVar.accepts .unif t = true from hw)
    simp [decodeVecBody, only, bit, reg5_eq, reg2, f, elem_ofCode, hw, Nat.mod_eq_of_lt va.isLt, Nat.mod_eq_of_lt vb.isLt]

theorem RoundTrip.vqdir (h : Hold) (va : VpReg) (vb : VpReg) : RoundTrip.Statement (.vqdir h va vb) := by
  have f := encVec_flds (op := 0x2B) (t := 0) (d := 0) (a := va.val) (b := vb.val) (x := 0) h false (by decide) (by decide) (by decide) (by omega) (by omega) (by decide)
  refine vec_words rfl rfl (by rw [bit, f.2.1]; rfl) fun _ => ?_
  simp [decodeVecBody, only, bit, reg5_eq, reg2, f, Nat.mod_eq_of_lt va.isLt, Nat.mod_eq_of_lt vb.isLt]

theorem RoundTrip.vpchk (h : Hold) (t : ElemType) (vp : VpReg) (d : VReg) (a : VReg) (b : VReg) : RoundTrip.Statement (.vpchk h t vp d a b) := by
  have f := encVec_flds (op := 0x2C) (t := t.code) (d := d.val) (a := a.val) (b := b.val) (x := vp.val) h false (by decide) (elem_lt t) (by omega) (by omega) (by omega) (by omega)
  refine vec_words rfl rfl (by rw [bit, f.2.1]; rfl) fun hw => ?_
  have hw : t.isFloat = true := hw
  simp [decodeVecBody, only, bit, reg5_eq, reg2, f, hw, elem_ofCode, Nat.mod_eq_of_lt vp.isLt]

theorem RoundTrip.vpush (h : Hold) (t : ElemType) (q : QReg) (a : VReg) (vb : VpReg) : RoundTrip.Statement (.vpush h t q a vb) := by
  have f := encVec_flds (op := 0x2D) (t := t.code) (d := q.val) (a := a.val) (b := vb.val) (x := 0) h false (by decide) (elem_lt t) (by omega) (by omega) (by omega) (by decide)
  refine vec_words rfl rfl (by rw [bit, f.2.1]; rfl) fun _ => ?_
  simp [decodeVecBody, only, bit, reg5_eq, reg2, f, elem_ofCode, Nat.mod_eq_of_lt q.isLt, Nat.mod_eq_of_lt vb.isLt]

theorem RoundTrip.vpop (h : Hold) (t : ElemType) (d : VReg) (q : QReg) : RoundTrip.Statement (.vpop h t d q) := by
  have f := encVec_flds (op := 0x2E) (t := t.code) (d := d.val) (a := q.val) (b := 0) (x := 0) h false (by decide) (elem_lt t) (by omega) (by omega) (by decide) (by decide)
  refine vec_words rfl rfl (by rw [bit, f.2.1]; rfl) fun _ => ?_
  simp [decodeVecBody, only, bit, reg5_eq, reg2, f, elem_ofCode, Nat.mod_eq_of_lt q.isLt]

theorem RoundTrip.vtrans (h : Hold) (t : ElemType) (d : VReg) (a : VReg) : RoundTrip.Statement (.vtrans h t d a) := by
  have f := encVec_flds (op := 0x2F) (t := t.code) (d := d.val) (a := a.val) (b := 0) (x := 0) h false (by decide) (elem_lt t) (by omega) (by omega) (by decide) (by decide)
  refine vec_words rfl rfl (by rw [bit, f.2.1]; rfl) fun _ => ?_
  simp [decodeVecBody, only, bit, reg5_eq, reg2, f, elem_ofCode]

theorem RoundTrip.viota (h : Hold) (t : ElemType) (x : Iota) (d : VReg) : RoundTrip.Statement (.viota h t x d) := by
  have f := encVec_flds (op := 0x30) (t := t.code) (d := d.val) (a := 0) (b := 0) (x := x.code) h false (by decide) (elem_lt t) (by omega) (by decide) (by decide) (by cases x <;> decide)
  refine vec_words rfl rfl (by rw [bit, f.2.1]; rfl) fun hw => ?_
  have hw : (!t.isFloat || t == .f32) = true := hw
  simp [decodeVecBody, only, bit, reg5_eq, reg2, f, hw, elem_ofCode, iota_ofCode]
  cases t <;> simp_all [ElemType.isFloat, ElemType.code]

theorem RoundTrip.vclass (h : Hold) (t : ElemType) (d : VReg) (a : VReg) : RoundTrip.Statement (.vclass h t d a) := by
  have f := encVec_flds (op := 0x31) (t := t.code) (d := d.val) (a := a.val) (b := 0) (x := 0) h false (by decide) (elem_lt t) (by omega) (by omega) (by decide) (by decide)
  refine vec_words rfl rfl (by rw [bit, f.2.1]; rfl) fun hw => ?_
  have hw : t.isFloat = true := hw
  simp [decodeVecBody, only, bit, reg5_eq, reg2, f, hw, elem_ofCode]

theorem RoundTrip.vexit (h : Hold) : RoundTrip.Statement (.vexit h) := by
  have f := encVec_flds (op := 0x32) (t := 0) (d := 0) (a := 0) (b := 0) (x := 0) h false (by decide) (by decide) (by decide) (by decide) (by decide) (by decide)
  refine vec_words rfl rfl (by rw [bit, f.2.1]; rfl) fun _ => ?_
  simp [decodeVecBody, only, bit, reg5_eq, reg2, f]

/-! ## Matrix words -/

theorem RoundTrip.mfmt (af : BitVec 4) (bf : BitVec 4) (ex : Bool) : RoundTrip.Statement (.mfmt af bf ex) := by
  have f : fld (encMat 0x01 0 (put af.toNat 21 + put bf.toNat 17 + put (b2n ex) 16)) 25 2 = 0 ∧ fld (encMat 0x01 0 (put af.toNat 21 + put bf.toNat 17 + put (b2n ex) 16)) 27 5 = 1 ∧ fld (encMat 0x01 0 (put af.toNat 21 + put bf.toNat 17 + put (b2n ex) 16)) 0 16 = 0 ∧ fld (encMat 0x01 0 (put af.toNat 21 + put bf.toNat 17 + put (b2n ex) 16)) 21 4 = af.toNat ∧ fld (encMat 0x01 0 (put af.toNat 21 + put bf.toNat 17 + put (b2n ex) 16)) 17 4 = bf.toNat ∧ fld (encMat 0x01 0 (put af.toNat 21 + put bf.toNat 17 + put (b2n ex) 16)) 16 1 = b2n ex := by
    have b0 := af.isLt
    have b1 := bf.isLt
    have b2 := b2n_lt ex
    simp only [fld, encMat, put]
    generalize af.toNat = y0 at *
    generalize bf.toNat = y1 at *
    generalize b2n ex = y2 at *
    refine ⟨?_, ?_, ?_, ?_, ?_, ?_⟩ <;> omega
  refine mat_words (w := encMat 0x01 0 (put af.toNat 21 + put bf.toNat 17 + put (b2n ex) 16)) (ps := []) rfl rfl f.1 fun hw => ?_
  have hw : tileFmtCode af.toNat = true ∧ tileFmtCode bf.toNat = true := by simpa [countIn, Instr.wf, and_assoc] using hw
  simp [decodeMat, only, bit, reg5_eq, reg3, reg2, b2n_eq, f, countIn, hw]

theorem RoundTrip.mldb (tn : TileReg) : RoundTrip.Statement (.mldb tn) := by
  have f : fld (encMat 0x02 0 (put tn.val 22)) 25 2 = 0 ∧ fld (encMat 0x02 0 (put tn.val 22)) 27 5 = 2 ∧ fld (encMat 0x02 0 (put tn.val 22)) 0 22 = 0 ∧ fld (encMat 0x02 0 (put tn.val 22)) 22 3 = tn.val := by
    have b0 := tn.isLt
    simp only [fld, encMat, put]
    generalize tn.val = y0 at *
    refine ⟨?_, ?_, ?_, ?_⟩ <;> omega
  refine mat_words (w := encMat 0x02 0 (put tn.val 22)) (ps := []) rfl rfl f.1 fun _ => ?_
  simp [decodeMat, only, bit, reg5_eq, reg3, reg2, b2n_eq, f, countIn]

theorem RoundTrip.mldbScaled (tn : TileReg) (sc : SpadAddr) : RoundTrip.Statement (.mldbScaled tn sc) := by
  have f : fld (encMat 0x02 1 (put tn.val 22 + put 1 21)) 25 2 = 1 ∧ fld (encMat 0x02 1 (put tn.val 22 + put 1 21)) 27 5 = 2 ∧ fld (encMat 0x02 1 (put tn.val 22 + put 1 21)) 0 21 = 0 ∧ fld (encMat 0x02 1 (put tn.val 22 + put 1 21)) 21 1 = 1 ∧ fld (encMat 0x02 1 (put tn.val 22 + put 1 21)) 22 3 = tn.val := by
    have b0 := tn.isLt
    simp only [fld, encMat, put]
    generalize tn.val = y0 at *
    refine ⟨?_, ?_, ?_, ?_, ?_⟩ <;> omega
  refine mat_words (w := encMat 0x02 1 (put tn.val 22 + put 1 21)) (ps := [encSpad sc]) rfl rfl f.1 fun hw => ?_
  have hw : sc.ok = true := by simpa [countIn, Instr.wf, and_assoc] using hw
  have s0 := decodeSpad_enc hw
  simp [decodeMat, only, bit, reg5_eq, reg3, reg2, b2n_eq, f, countIn, s0, hw]

theorem RoundTrip.mrows (st : Bool) (n : BitVec 11) (dst : BitVec 10) (a : SpadAddr) (pitch : Option (BitVec 17)) : RoundTrip.Statement (.mrows st n dst a pitch) := by
  cases pitch with
  | none =>
    have f : fld (encMat 0x03 1 (put n.toNat 14 + put dst.toNat 4 + put (b2n st) 3)) 25 2 = 1 ∧ fld (encMat 0x03 1 (put n.toNat 14 + put dst.toNat 4 + put (b2n st) 3)) 27 5 = 3 ∧ fld (encMat 0x03 1 (put n.toNat 14 + put dst.toNat 4 + put (b2n st) 3)) 0 3 = 0 ∧ fld (encMat 0x03 1 (put n.toNat 14 + put dst.toNat 4 + put (b2n st) 3)) 3 1 = b2n st ∧ fld (encMat 0x03 1 (put n.toNat 14 + put dst.toNat 4 + put (b2n st) 3)) 14 11 = n.toNat ∧ fld (encMat 0x03 1 (put n.toNat 14 + put dst.toNat 4 + put (b2n st) 3)) 4 10 = dst.toNat := by
      have b0 := n.isLt
      have b1 := dst.isLt
      have b2 := b2n_lt st
      simp only [fld, encMat, put]
      generalize n.toNat = y0 at *
      generalize dst.toNat = y1 at *
      generalize b2n st = y2 at *
      refine ⟨?_, ?_, ?_, ?_, ?_, ?_⟩ <;> omega
    refine mat_words (w := encMat 0x03 1 (put n.toNat 14 + put dst.toNat 4 + put (b2n st) 3)) (ps := [encSpad a]) rfl rfl f.1 fun hw => ?_
    have hw : a.ok = true ∧ countOk n.toNat 1024 = true := by simpa [countIn, Instr.wf, and_assoc] using hw
    have s0 := decodeSpad_enc hw.1
    simp [decodeMat, only, bit, reg5_eq, reg3, reg2, b2n_eq, f, countIn, s0, hw]
  | some p =>
    have f : fld (encMat 0x03 2 (put n.toNat 14 + put dst.toNat 4 + put (b2n st) 3)) 25 2 = 2 ∧ fld (encMat 0x03 2 (put n.toNat 14 + put dst.toNat 4 + put (b2n st) 3)) 27 5 = 3 ∧ fld (encMat 0x03 2 (put n.toNat 14 + put dst.toNat 4 + put (b2n st) 3)) 0 3 = 0 ∧ fld (encMat 0x03 2 (put n.toNat 14 + put dst.toNat 4 + put (b2n st) 3)) 3 1 = b2n st ∧ fld (encMat 0x03 2 (put n.toNat 14 + put dst.toNat 4 + put (b2n st) 3)) 14 11 = n.toNat ∧ fld (encMat 0x03 2 (put n.toNat 14 + put dst.toNat 4 + put (b2n st) 3)) 4 10 = dst.toNat := by
      have b0 := n.isLt
      have b1 := dst.isLt
      have b2 := b2n_lt st
      simp only [fld, encMat, put]
      generalize n.toNat = y0 at *
      generalize dst.toNat = y1 at *
      generalize b2n st = y2 at *
      refine ⟨?_, ?_, ?_, ?_, ?_, ?_⟩ <;> omega
    have gp := low_fld 17 p.isLt
    have kp := high_fld 17 15 p.isLt
    refine mat_words (w := encMat 0x03 2 (put n.toNat 14 + put dst.toNat 4 + put (b2n st) 3)) (ps := [encSpad a, p.toNat]) rfl rfl f.1 fun hw => ?_
    have hw : a.ok = true ∧ countOk n.toNat 1024 = true := by simpa [countIn, Instr.wf, and_assoc] using hw
    have s0 := decodeSpad_enc hw.1
    simp [decodeMat, only, bit, reg5_eq, reg3, reg2, b2n_eq, f, countIn, gp, kp, s0, hw]

theorem RoundTrip.mbag (st : Bool) (sl : ShReg) (l : SpadAddr) (n : BitVec 13) (e : BitVec 13) (r : SpadAddr) : RoundTrip.Statement (.mbag st sl l n e r) := by
  have f : fld (encMat 0x04 3 (put sl.val 20 + put (b2n st) 19)) 25 2 = 3 ∧ fld (encMat 0x04 3 (put sl.val 20 + put (b2n st) 19)) 27 5 = 4 ∧ fld (encMat 0x04 3 (put sl.val 20 + put (b2n st) 19)) 0 19 = 0 ∧ fld (encMat 0x04 3 (put sl.val 20 + put (b2n st) 19)) 19 1 = b2n st ∧ fld (encMat 0x04 3 (put sl.val 20 + put (b2n st) 19)) 20 5 = sl.val := by
    have b0 := sl.isLt
    have b1 := b2n_lt st
    simp only [fld, encMat, put]
    generalize sl.val = y0 at *
    generalize b2n st = y1 at *
    refine ⟨?_, ?_, ?_, ?_, ?_⟩ <;> omega
  have g := bag_flds n e
  refine mat_words (w := encMat 0x04 3 (put sl.val 20 + put (b2n st) 19)) (ps := [encSpad l, n.toNat + put e.toNat 16, encSpad r]) rfl rfl f.1 fun hw => ?_
  have hw : l.ok = true ∧ r.ok = true ∧ countOk n.toNat 4096 = true ∧ countOk e.toNat 4096 = true := by simpa [countIn, Instr.wf, and_assoc] using hw
  have s0 := decodeSpad_enc hw.1
  have s2 := decodeSpad_enc hw.2.1
  simp [decodeMat, only, bit, reg5_eq, reg3, reg2, b2n_eq, f, countIn, g, s0, s2, hw]

theorem RoundTrip.mfeed (st : Bool) (tg : Bool) (q : QReg) (n : BitVec 11) (dst : BitVec 10) : RoundTrip.Statement (.mfeed st tg q n dst) := by
  have f : fld (encMat 0x05 0 (put q.val 23 + put n.toNat 12 + put (b2n st) 11 + put (b2n tg) 10 + dst.toNat)) 25 2 = 0 ∧ fld (encMat 0x05 0 (put q.val 23 + put n.toNat 12 + put (b2n st) 11 + put (b2n tg) 10 + dst.toNat)) 27 5 = 5 ∧ fld (encMat 0x05 0 (put q.val 23 + put n.toNat 12 + put (b2n st) 11 + put (b2n tg) 10 + dst.toNat)) 12 11 = n.toNat ∧ fld (encMat 0x05 0 (put q.val 23 + put n.toNat 12 + put (b2n st) 11 + put (b2n tg) 10 + dst.toNat)) 11 1 = b2n st ∧ fld (encMat 0x05 0 (put q.val 23 + put n.toNat 12 + put (b2n st) 11 + put (b2n tg) 10 + dst.toNat)) 10 1 = b2n tg ∧ fld (encMat 0x05 0 (put q.val 23 + put n.toNat 12 + put (b2n st) 11 + put (b2n tg) 10 + dst.toNat)) 23 2 = q.val ∧ fld (encMat 0x05 0 (put q.val 23 + put n.toNat 12 + put (b2n st) 11 + put (b2n tg) 10 + dst.toNat)) 0 10 = dst.toNat := by
    have b0 := q.isLt
    have b1 := n.isLt
    have b2 := b2n_lt st
    have b3 := b2n_lt tg
    have b4 := dst.isLt
    simp only [fld, encMat, put]
    generalize q.val = y0 at *
    generalize n.toNat = y1 at *
    generalize b2n st = y2 at *
    generalize b2n tg = y3 at *
    generalize dst.toNat = y4 at *
    refine ⟨?_, ?_, ?_, ?_, ?_, ?_, ?_⟩ <;> omega
  refine mat_words (w := encMat 0x05 0 (put q.val 23 + put n.toNat 12 + put (b2n st) 11 + put (b2n tg) 10 + dst.toNat)) (ps := []) rfl rfl f.1 fun hw => ?_
  have hw : countOk n.toNat 1024 = true ∧ (tg = false ∨ dst = 0) := by simpa [countIn, Instr.wf, and_assoc] using hw
  simp [decodeMat, only, bit, reg5_eq, reg3, reg2, b2n_eq, f, countIn, Nat.mod_eq_of_lt q.isLt, hw]
  intro e
  simpa using congrArg BitVec.toNat (hw.2.resolve_left (by simp [e]))

theorem RoundTrip.mclose : RoundTrip.Statement (.mclose) := by
  have f : fld (encMat 0x06 0 0) 25 2 = 0 ∧ fld (encMat 0x06 0 0) 27 5 = 6 ∧ fld (encMat 0x06 0 0) 0 25 = 0 := by
    simp only [fld, encMat, put]
    refine ⟨?_, ?_, ?_⟩ <;> omega
  refine mat_words (w := encMat 0x06 0 0) (ps := []) rfl rfl f.1 fun _ => ?_
  simp [decodeMat, only, bit, reg5_eq, reg3, reg2, b2n_eq, f, countIn]

theorem RoundTrip.mclr (vw : Bool) (n : BitVec 11) (first : BitVec 10) : RoundTrip.Statement (.mclr vw n first) := by
  have f : fld (encMat 0x07 0 (put (b2n vw) 21 + put n.toNat 10 + first.toNat)) 25 2 = 0 ∧ fld (encMat 0x07 0 (put (b2n vw) 21 + put n.toNat 10 + first.toNat)) 27 5 = 7 ∧ fld (encMat 0x07 0 (put (b2n vw) 21 + put n.toNat 10 + first.toNat)) 22 3 = 0 ∧ fld (encMat 0x07 0 (put (b2n vw) 21 + put n.toNat 10 + first.toNat)) 10 11 = n.toNat ∧ fld (encMat 0x07 0 (put (b2n vw) 21 + put n.toNat 10 + first.toNat)) 21 1 = b2n vw ∧ fld (encMat 0x07 0 (put (b2n vw) 21 + put n.toNat 10 + first.toNat)) 0 10 = first.toNat := by
    have b0 := b2n_lt vw
    have b1 := n.isLt
    have b2 := first.isLt
    simp only [fld, encMat, put]
    generalize b2n vw = y0 at *
    generalize n.toNat = y1 at *
    generalize first.toNat = y2 at *
    refine ⟨?_, ?_, ?_, ?_, ?_, ?_⟩ <;> omega
  refine mat_words (w := encMat 0x07 0 (put (b2n vw) 21 + put n.toNat 10 + first.toNat)) (ps := []) rfl rfl f.1 fun hw => ?_
  have hw : countOk n.toNat 1024 = true := by simpa [countIn, Instr.wf, and_assoc] using hw
  simp [decodeMat, only, bit, reg5_eq, reg3, reg2, b2n_eq, f, countIn, hw]

theorem RoundTrip.mdrain (clr : Bool) (h : Bool) (vw : Bool) (n : BitVec 11) (first : BitVec 10) (a : SpadAddr) : RoundTrip.Statement (.mdrain clr h vw n first a) := by
  have f : fld (encMat 0x08 1 (put (b2n clr) 23 + put (b2n h) 22 + put (b2n vw) 21 + put n.toNat 10 + first.toNat)) 25 2 = 1 ∧ fld (encMat 0x08 1 (put (b2n clr) 23 + put (b2n h) 22 + put (b2n vw) 21 + put n.toNat 10 + first.toNat)) 27 5 = 8 ∧ fld (encMat 0x08 1 (put (b2n clr) 23 + put (b2n h) 22 + put (b2n vw) 21 + put n.toNat 10 + first.toNat)) 24 1 = 0 ∧ fld (encMat 0x08 1 (put (b2n clr) 23 + put (b2n h) 22 + put (b2n vw) 21 + put n.toNat 10 + first.toNat)) 23 1 = b2n clr ∧ fld (encMat 0x08 1 (put (b2n clr) 23 + put (b2n h) 22 + put (b2n vw) 21 + put n.toNat 10 + first.toNat)) 22 1 = b2n h ∧ fld (encMat 0x08 1 (put (b2n clr) 23 + put (b2n h) 22 + put (b2n vw) 21 + put n.toNat 10 + first.toNat)) 21 1 = b2n vw ∧ fld (encMat 0x08 1 (put (b2n clr) 23 + put (b2n h) 22 + put (b2n vw) 21 + put n.toNat 10 + first.toNat)) 10 11 = n.toNat ∧ fld (encMat 0x08 1 (put (b2n clr) 23 + put (b2n h) 22 + put (b2n vw) 21 + put n.toNat 10 + first.toNat)) 0 10 = first.toNat := by
    have b0 := b2n_lt clr
    have b1 := b2n_lt h
    have b2 := b2n_lt vw
    have b3 := n.isLt
    have b4 := first.isLt
    simp only [fld, encMat, put]
    generalize b2n clr = y0 at *
    generalize b2n h = y1 at *
    generalize b2n vw = y2 at *
    generalize n.toNat = y3 at *
    generalize first.toNat = y4 at *
    refine ⟨?_, ?_, ?_, ?_, ?_, ?_, ?_, ?_⟩ <;> omega
  refine mat_words (w := encMat 0x08 1 (put (b2n clr) 23 + put (b2n h) 22 + put (b2n vw) 21 + put n.toNat 10 + first.toNat)) (ps := [encSpad a]) rfl rfl f.1 fun hw => ?_
  have hw : a.ok = true ∧ countOk n.toNat 1024 = true := by simpa [countIn, Instr.wf, and_assoc] using hw
  have s0 := decodeSpad_enc hw.1
  simp [decodeMat, only, bit, reg5_eq, reg3, reg2, b2n_eq, f, countIn, s0, hw]

theorem RoundTrip.mfill (h : Bool) (vw : Bool) (n : BitVec 11) (first : BitVec 10) (a : SpadAddr) : RoundTrip.Statement (.mfill h vw n first a) := by
  have f : fld (encMat 0x09 1 (put (b2n h) 22 + put (b2n vw) 21 + put n.toNat 10 + first.toNat)) 25 2 = 1 ∧ fld (encMat 0x09 1 (put (b2n h) 22 + put (b2n vw) 21 + put n.toNat 10 + first.toNat)) 27 5 = 9 ∧ fld (encMat 0x09 1 (put (b2n h) 22 + put (b2n vw) 21 + put n.toNat 10 + first.toNat)) 23 2 = 0 ∧ fld (encMat 0x09 1 (put (b2n h) 22 + put (b2n vw) 21 + put n.toNat 10 + first.toNat)) 22 1 = b2n h ∧ fld (encMat 0x09 1 (put (b2n h) 22 + put (b2n vw) 21 + put n.toNat 10 + first.toNat)) 21 1 = b2n vw ∧ fld (encMat 0x09 1 (put (b2n h) 22 + put (b2n vw) 21 + put n.toNat 10 + first.toNat)) 10 11 = n.toNat ∧ fld (encMat 0x09 1 (put (b2n h) 22 + put (b2n vw) 21 + put n.toNat 10 + first.toNat)) 0 10 = first.toNat := by
    have b0 := b2n_lt h
    have b1 := b2n_lt vw
    have b2 := n.isLt
    have b3 := first.isLt
    simp only [fld, encMat, put]
    generalize b2n h = y0 at *
    generalize b2n vw = y1 at *
    generalize n.toNat = y2 at *
    generalize first.toNat = y3 at *
    refine ⟨?_, ?_, ?_, ?_, ?_, ?_, ?_⟩ <;> omega
  refine mat_words (w := encMat 0x09 1 (put (b2n h) 22 + put (b2n vw) 21 + put n.toNat 10 + first.toNat)) (ps := [encSpad a]) rfl rfl f.1 fun hw => ?_
  have hw : a.ok = true ∧ countOk n.toNat 1024 = true := by simpa [countIn, Instr.wf, and_assoc] using hw
  have s0 := decodeSpad_enc hw.1
  simp [decodeMat, only, bit, reg5_eq, reg3, reg2, b2n_eq, f, countIn, s0, hw]

theorem RoundTrip.mtagb (base : BitVec 10) : RoundTrip.Statement (.mtagb base) := by
  have f : fld (encMat 0x0A 0 base.toNat) 25 2 = 0 ∧ fld (encMat 0x0A 0 base.toNat) 27 5 = 10 ∧ fld (encMat 0x0A 0 base.toNat) 10 15 = 0 ∧ fld (encMat 0x0A 0 base.toNat) 0 10 = base.toNat := by
    have b0 := base.isLt
    simp only [fld, encMat, put]
    generalize base.toNat = y0 at *
    refine ⟨?_, ?_, ?_, ?_⟩ <;> omega
  refine mat_words (w := encMat 0x0A 0 base.toNat) (ps := []) rfl rfl f.1 fun _ => ?_
  simp [decodeMat, only, bit, reg5_eq, reg3, reg2, b2n_eq, f, countIn]

theorem RoundTrip.msync (kv : Bool) (k : Tok) : RoundTrip.Statement (.msync kv k) := by
  have f : fld (encMat 0x0B 0 (put (b2n kv) 3 + k.val)) 25 2 = 0 ∧ fld (encMat 0x0B 0 (put (b2n kv) 3 + k.val)) 27 5 = 11 ∧ fld (encMat 0x0B 0 (put (b2n kv) 3 + k.val)) 4 21 = 0 ∧ fld (encMat 0x0B 0 (put (b2n kv) 3 + k.val)) 3 1 = b2n kv ∧ fld (encMat 0x0B 0 (put (b2n kv) 3 + k.val)) 0 3 = k.val := by
    have b0 := b2n_lt kv
    have b1 := k.isLt
    simp only [fld, encMat, put]
    generalize b2n kv = y0 at *
    generalize k.val = y1 at *
    refine ⟨?_, ?_, ?_, ?_, ?_⟩ <;> omega
  refine mat_words (w := encMat 0x0B 0 (put (b2n kv) 3 + k.val)) (ps := []) rfl rfl f.1 fun _ => ?_
  simp [decodeMat, only, bit, reg5_eq, reg3, reg2, b2n_eq, f, countIn]

theorem RoundTrip.mflags (c : BitVec 5) (a : SpadAddr) : RoundTrip.Statement (.mflags c a) := by
  have f : fld (encMat 0x0C 1 c.toNat) 25 2 = 1 ∧ fld (encMat 0x0C 1 c.toNat) 27 5 = 12 ∧ fld (encMat 0x0C 1 c.toNat) 5 20 = 0 ∧ fld (encMat 0x0C 1 c.toNat) 0 5 = c.toNat := by
    have b0 := c.isLt
    simp only [fld, encMat, put]
    generalize c.toNat = y0 at *
    refine ⟨?_, ?_, ?_, ?_⟩ <;> omega
  refine mat_words (w := encMat 0x0C 1 c.toNat) (ps := [encSpad a]) rfl rfl f.1 fun hw => ?_
  have hw : a.ok = true := by simpa [countIn, Instr.wf, and_assoc] using hw
  have s0 := decodeSpad_enc hw
  simp [decodeMat, only, bit, reg5_eq, reg3, reg2, b2n_eq, f, countIn, s0, hw]

theorem RoundTrip.mcharge (fx : Bool) (u : BitVec 4) : RoundTrip.Statement (.mcharge fx u) := by
  have f : fld (encMat 0x0D 0 (put (b2n fx) 4 + u.toNat)) 25 2 = 0 ∧ fld (encMat 0x0D 0 (put (b2n fx) 4 + u.toNat)) 27 5 = 13 ∧ fld (encMat 0x0D 0 (put (b2n fx) 4 + u.toNat)) 5 20 = 0 ∧ fld (encMat 0x0D 0 (put (b2n fx) 4 + u.toNat)) 4 1 = b2n fx ∧ fld (encMat 0x0D 0 (put (b2n fx) 4 + u.toNat)) 0 4 = u.toNat := by
    have b0 := b2n_lt fx
    have b1 := u.isLt
    simp only [fld, encMat, put]
    generalize b2n fx = y0 at *
    generalize u.toNat = y1 at *
    refine ⟨?_, ?_, ?_, ?_, ?_⟩ <;> omega
  refine mat_words (w := encMat 0x0D 0 (put (b2n fx) 4 + u.toNat)) (ps := []) rfl rfl f.1 fun hw => ?_
  have hw : fx = true ∨ u = 0 := by simpa [countIn, Instr.wf, and_assoc] using hw
  simp [decodeMat, only, bit, reg5_eq, reg3, reg2, b2n_eq, f, countIn, hw]
  intro e
  simpa using congrArg BitVec.toNat (hw.resolve_left (by simp [e]))

theorem RoundTrip.mexit : RoundTrip.Statement (.mexit) := by
  have f : fld (encMat 0x0E 0 0) 25 2 = 0 ∧ fld (encMat 0x0E 0 0) 27 5 = 14 ∧ fld (encMat 0x0E 0 0) 0 25 = 0 := by
    simp only [fld, encMat, put]
    refine ⟨?_, ?_, ?_⟩ <;> omega
  refine mat_words (w := encMat 0x0E 0 0) (ps := []) rfl rfl f.1 fun _ => ?_
  simp [decodeMat, only, bit, reg5_eq, reg3, reg2, b2n_eq, f, countIn]

/-! ## Transfer words -/

theorem RoundTrip.xcopyG2s (x : XHdr) (dfr : Bool) (sl : ShReg) (sp : SpadAddr) (off : Word32) : RoundTrip.Statement (.xcopyG2s x dfr sl sp off) := by
  have e := dfr_bit dfr
  have f := encXfr_flds (op := 0x01) (p := 2) (sl := sl.val) (f := (put (b2n dfr) 2)) x (by decide) (by decide) (by omega) (e.1)
  have y := decodeXHdr_enc (op := 0x01) (p := 2) (sl := sl.val) (f := (put (b2n dfr) 2)) x (by decide) (by decide) (by omega) (e.1)
  refine xfr_words (w := encXfr 0x01 2 x sl.val (put (b2n dfr) 2)) (ps := [encSpad sp, off.toNat]) rfl rfl f.2.1 fun hw => ?_
  have hw : x.ok = true ∧ sp.ok = true := by simpa [countIn, Instr.wf, and_assoc] using hw
  have s0 := decodeSpad_enc hw.2
  simp [decodeXfr, only, bit, reg5_eq, reg3, reg2, b2n_eq, f, countIn, s0, y, e, hw]

theorem RoundTrip.xcopyS2g (x : XHdr) (dfr : Bool) (dr : Bool) (sl : ShReg) (sp : SpadAddr) (off : Word32) : RoundTrip.Statement (.xcopyS2g x dfr dr sl sp off) := by
  have e := dfr_bits1 dfr dr
  have f := encXfr_flds (op := 0x01) (p := 2) (sl := sl.val) (f := (1 + put (b2n dfr) 2 + put (b2n dr) 3)) x (by decide) (by decide) (by omega) (e.1)
  have y := decodeXHdr_enc (op := 0x01) (p := 2) (sl := sl.val) (f := (1 + put (b2n dfr) 2 + put (b2n dr) 3)) x (by decide) (by decide) (by omega) (e.1)
  refine xfr_words (w := encXfr 0x01 2 x sl.val (1 + put (b2n dfr) 2 + put (b2n dr) 3)) (ps := [encSpad sp, off.toNat]) rfl rfl f.2.1 fun hw => ?_
  have hw : x.ok = true ∧ sp.ok = true ∧ (dr = false ∨ sp.tf = true) := by simpa [countIn, Instr.wf, and_assoc] using hw
  have s0 := decodeSpad_enc hw.2.1
  simp [decodeXfr, only, bit, reg5_eq, reg3, reg2, b2n_eq, f, countIn, s0, y, e, hw, b2n_zero]

theorem RoundTrip.xcopyS2s (x : XHdr) (dfr : Bool) (dr : Bool) (sl : ShReg) (a : SpadAddr) (b : SpadAddr) : RoundTrip.Statement (.xcopyS2s x dfr dr sl a b) := by
  have e := dfr_bits2 dfr dr
  have f := encXfr_flds (op := 0x01) (p := 2) (sl := sl.val) (f := (2 + put (b2n dfr) 2 + put (b2n dr) 3)) x (by decide) (by decide) (by omega) (e.1)
  have y := decodeXHdr_enc (op := 0x01) (p := 2) (sl := sl.val) (f := (2 + put (b2n dfr) 2 + put (b2n dr) 3)) x (by decide) (by decide) (by omega) (e.1)
  refine xfr_words (w := encXfr 0x01 2 x sl.val (2 + put (b2n dfr) 2 + put (b2n dr) 3)) (ps := [encSpad a, encSpad b]) rfl rfl f.2.1 fun hw => ?_
  have hw : x.ok = true ∧ a.ok = true ∧ b.ok = true ∧ (dr = false ∨ a.tf = true) := by simpa [countIn, Instr.wf, and_assoc] using hw
  have s0 := decodeSpad_enc hw.2.1
  have s1 := decodeSpad_enc hw.2.2.1
  simp [decodeXfr, only, bit, reg5_eq, reg3, reg2, b2n_eq, f, countIn, s0, s1, y, e, hw, b2n_zero]

theorem RoundTrip.xcopy2 (x : XHdr) (dfr : Bool) (sl : ShReg) (dl : ShReg) : RoundTrip.Statement (.xcopy2 x dfr sl dl) := by
  have e := dfr_bit dfr
  have f := encXfr_flds (op := 0x02) (p := 1) (sl := sl.val) (f := (put (b2n dfr) 2)) x (by decide) (by decide) (by omega) (e.1)
  have y := decodeXHdr_enc (op := 0x02) (p := 1) (sl := sl.val) (f := (put (b2n dfr) 2)) x (by decide) (by decide) (by omega) (e.1)
  have gdl := low_fld 5 dl.isLt
  have kdl := high_fld 5 27 dl.isLt
  refine xfr_words (w := encXfr 0x02 1 x sl.val (put (b2n dfr) 2)) (ps := [dl.val]) rfl rfl f.2.1 fun hw => ?_
  have hw : x.ok = true := by simpa [countIn, Instr.wf, and_assoc] using hw
  simp [decodeXfr, only, bit, reg5_eq, reg3, reg2, b2n_eq, f, countIn, gdl, kdl, y, e, hw]

theorem RoundTrip.xgath (x : XHdr) (dfr : Bool) (sl : ShReg) (l : SpadAddr) (n : BitVec 13) (b : SpadAddr) : RoundTrip.Statement (.xgath x dfr sl l n b) := by
  have e := dfr_bit dfr
  have f := encXfr_flds (op := 0x03) (p := 3) (sl := sl.val) (f := (put (b2n dfr) 2)) x (by decide) (by decide) (by omega) (e.1)
  have y := decodeXHdr_enc (op := 0x03) (p := 3) (sl := sl.val) (f := (put (b2n dfr) 2)) x (by decide) (by decide) (by omega) (e.1)
  have gn := low_fld 13 n.isLt
  have kn := high_fld 13 19 n.isLt
  refine xfr_words (w := encXfr 0x03 3 x sl.val (put (b2n dfr) 2)) (ps := [encSpad l, n.toNat, encSpad b]) rfl rfl f.2.1 fun hw => ?_
  have hw : x.ok = true ∧ l.ok = true ∧ b.ok = true ∧ countOk n.toNat 4096 = true := by simpa [countIn, Instr.wf, and_assoc] using hw
  have s0 := decodeSpad_enc hw.2.1
  have s2 := decodeSpad_enc hw.2.2.1
  simp [decodeXfr, only, bit, reg5_eq, reg3, reg2, b2n_eq, f, countIn, gn, kn, s0, s2, y, e, hw]

theorem RoundTrip.xmcast (x : XHdr) (vp : VpReg) (src : SpadAddr) (g : BitVec 10) (set : BitVec 22) : RoundTrip.Statement (.xmcast x vp src g set) := by
  have f := encXfr_flds (op := 0x04) (p := 3) (sl := 0) (f := vp.val) x (by decide) (by decide) (by decide) (by omega)
  have y := decodeXHdr_enc (op := 0x04) (p := 3) (sl := 0) (f := vp.val) x (by decide) (by decide) (by decide) (by omega)
  have gg := low_fld 10 g.isLt
  have kg := high_fld 10 22 g.isLt
  have gset := low_fld 22 set.isLt
  have kset := high_fld 22 10 set.isLt
  refine xfr_words (w := encXfr 0x04 3 x 0 vp.val) (ps := [encSpad src, g.toNat, set.toNat]) rfl rfl f.2.1 fun hw => ?_
  have hw : x.ok = true ∧ src.ok = true ∧ src.tf = false ∧ countOk g.toNat 512 = true := by simpa [countIn, Instr.wf, and_assoc] using hw
  have s0 := decodeSpad_enc hw.2.1
  simp [decodeXfr, only, bit, reg5_eq, reg3, reg2, b2n_eq, f, countIn, gg, kg, gset, kset, s0, Nat.mod_eq_of_lt vp.isLt, y, hw]

theorem RoundTrip.xred (x : XHdr) (op : RedOp) (sl : ShReg) (sp : SpadAddr) (off : Word32) : RoundTrip.Statement (.xred x op sl sp off) := by
  have f := encXfr_flds (op := 0x05) (p := 2) (sl := sl.val) (f := op.code) x (by decide) (by decide) (by omega) (by have := redop_lt op; omega)
  have y := decodeXHdr_enc (op := 0x05) (p := 2) (sl := sl.val) (f := op.code) x (by decide) (by decide) (by omega) (by have := redop_lt op; omega)
  refine xfr_words (w := encXfr 0x05 2 x sl.val op.code) (ps := [encSpad sp, off.toNat]) rfl rfl f.2.1 fun hw => ?_
  have hw : x.ok = true ∧ sp.ok = true := by simpa [countIn, Instr.wf, and_assoc] using hw
  have s0 := decodeSpad_enc hw.2
  simp [decodeXfr, only, bit, reg5_eq, reg3, reg2, b2n_eq, f, countIn, s0, y, redop_ofCode, Nat.mod_eq_of_lt (redop_lt op), Nat.div_eq_of_lt (redop_lt op), hw]

theorem RoundTrip.xcomp (x : XHdr) (dfr : Bool) (sl : ShReg) (l : SpadAddr) (n : BitVec 13) (dl : ShReg) : RoundTrip.Statement (.xcomp x dfr sl l n dl) := by
  have e := dfr_bit dfr
  have f := encXfr_flds (op := 0x06) (p := 3) (sl := sl.val) (f := (put (b2n dfr) 2)) x (by decide) (by decide) (by omega) (e.1)
  have y := decodeXHdr_enc (op := 0x06) (p := 3) (sl := sl.val) (f := (put (b2n dfr) 2)) x (by decide) (by decide) (by omega) (e.1)
  have gn := low_fld 13 n.isLt
  have kn := high_fld 13 19 n.isLt
  have gdl := low_fld 5 dl.isLt
  have kdl := high_fld 5 27 dl.isLt
  refine xfr_words (w := encXfr 0x06 3 x sl.val (put (b2n dfr) 2)) (ps := [encSpad l, n.toNat, dl.val]) rfl rfl f.2.1 fun hw => ?_
  have hw : x.ok = true ∧ l.ok = true ∧ countOk n.toNat 4096 = true := by simpa [countIn, Instr.wf, and_assoc] using hw
  have s0 := decodeSpad_enc hw.2.1
  simp [decodeXfr, only, bit, reg5_eq, reg3, reg2, b2n_eq, f, countIn, gn, kn, gdl, kdl, s0, y, e, hw]

theorem RoundTrip.xtile (x : XHdr) (tn : TileReg) (sp : SpadAddr) : RoundTrip.Statement (.xtile x tn sp) := by
  have f := encXfr_flds (op := 0x07) (p := 1) (sl := 0) (f := tn.val) x (by decide) (by decide) (by decide) (by omega)
  have y := decodeXHdr_enc (op := 0x07) (p := 1) (sl := 0) (f := tn.val) x (by decide) (by decide) (by decide) (by omega)
  refine xfr_words (w := encXfr 0x07 1 x 0 tn.val) (ps := [encSpad sp]) rfl rfl f.2.1 fun hw => ?_
  have hw : x.ok = true ∧ sp.ok = true := by simpa [countIn, Instr.wf, and_assoc] using hw
  have s0 := decodeSpad_enc hw.2
  simp [decodeXfr, only, bit, reg5_eq, reg3, reg2, b2n_eq, f, countIn, s0, y, hw, Nat.mod_eq_of_lt tn.isLt]

theorem RoundTrip.xscale (x : XHdr) (sp : SpadAddr) (n : BitVec 7) : RoundTrip.Statement (.xscale x sp n) := by
  have f := encXfr_flds (op := 0x08) (p := 2) (sl := 0) (f := 0) x (by decide) (by decide) (by decide) (by decide)
  have y := decodeXHdr_enc (op := 0x08) (p := 2) (sl := 0) (f := 0) x (by decide) (by decide) (by decide) (by decide)
  have gn := low_fld 7 n.isLt
  have kn := high_fld 7 25 n.isLt
  refine xfr_words (w := encXfr 0x08 2 x 0 0) (ps := [encSpad sp, n.toNat]) rfl rfl f.2.1 fun hw => ?_
  have hw : x.ok = true ∧ sp.ok = true ∧ countOk n.toNat 64 = true := by simpa [countIn, Instr.wf, and_assoc] using hw
  have s0 := decodeSpad_enc hw.2.1
  simp [decodeXfr, only, bit, reg5_eq, reg3, reg2, b2n_eq, f, countIn, gn, kn, s0, y, hw]

theorem RoundTrip.xslot (x : XHdr) (sl : ShReg) (vp : VpReg) (off : Word32) : RoundTrip.Statement (.xslot x sl vp off) := by
  have f := encXfr_flds (op := 0x09) (p := 1) (sl := sl.val) (f := vp.val) x (by decide) (by decide) (by omega) (by omega)
  have y := decodeXHdr_enc (op := 0x09) (p := 1) (sl := sl.val) (f := vp.val) x (by decide) (by decide) (by omega) (by omega)
  refine xfr_words (w := encXfr 0x09 1 x sl.val vp.val) (ps := [off.toNat]) rfl rfl f.2.1 fun hw => ?_
  have hw : x.ok = true := by simpa [countIn, Instr.wf, and_assoc] using hw
  simp [decodeXfr, only, bit, reg5_eq, reg3, reg2, b2n_eq, f, countIn, Nat.mod_eq_of_lt vp.isLt, y, hw]

theorem RoundTrip.xslev (x : XHdr) (sl : ShReg) (vp : VpReg) (off : Word32) : RoundTrip.Statement (.xslev x sl vp off) := by
  have f := encXfr_flds (op := 0x0A) (p := 1) (sl := sl.val) (f := vp.val) x (by decide) (by decide) (by omega) (by omega)
  have y := decodeXHdr_enc (op := 0x0A) (p := 1) (sl := sl.val) (f := vp.val) x (by decide) (by decide) (by omega) (by omega)
  refine xfr_words (w := encXfr 0x0A 1 x sl.val vp.val) (ps := [off.toNat]) rfl rfl f.2.1 fun hw => ?_
  have hw : x.ok = true := by simpa [countIn, Instr.wf, and_assoc] using hw
  simp [decodeXfr, only, bit, reg5_eq, reg3, reg2, b2n_eq, f, countIn, Nat.mod_eq_of_lt vp.isLt, y, hw]

theorem RoundTrip.xpub (x : XHdr) : RoundTrip.Statement (.xpub x) := by
  have f := encXfr_flds (op := 0x0B) (p := 0) (sl := 0) (f := 0) x (by decide) (by decide) (by decide) (by decide)
  have y := decodeXHdr_enc (op := 0x0B) (p := 0) (sl := 0) (f := 0) x (by decide) (by decide) (by decide) (by decide)
  refine xfr_words (w := encXfr 0x0B 0 x 0 0) (ps := []) rfl rfl f.2.1 fun hw => ?_
  have hw : x.ok = true := by simpa [countIn, Instr.wf, and_assoc] using hw
  simp [decodeXfr, only, bit, reg5_eq, reg3, reg2, b2n_eq, f, countIn, y, hw]

theorem RoundTrip.xsend (x : XHdr) (sp : SpadAddr) (mb : BitVec 12) : RoundTrip.Statement (.xsend x sp mb) := by
  have f := encXfr_flds (op := 0x0C) (p := 2) (sl := 0) (f := 0) x (by decide) (by decide) (by decide) (by decide)
  have y := decodeXHdr_enc (op := 0x0C) (p := 2) (sl := 0) (f := 0) x (by decide) (by decide) (by decide) (by decide)
  have gmb := low_fld 12 mb.isLt
  have kmb := high_fld 12 20 mb.isLt
  refine xfr_words (w := encXfr 0x0C 2 x 0 0) (ps := [encSpad sp, mb.toNat]) rfl rfl f.2.1 fun hw => ?_
  have hw : x.ok = true ∧ sp.ok = true := by simpa [countIn, Instr.wf, and_assoc] using hw
  have s0 := decodeSpad_enc hw.2
  simp [decodeXfr, only, bit, reg5_eq, reg3, reg2, b2n_eq, f, countIn, gmb, kmb, s0, y, hw]

theorem RoundTrip.xfillDef (x : XHdr) (tt : TtReg) (sp : SpadAddr) (len : BitVec 13) : RoundTrip.Statement (.xfillDef x tt sp len) := by
  have f := encXfr_flds (op := 0x0D) (p := 2) (sl := 0) (f := tt.val) x (by decide) (by decide) (by decide) (by omega)
  have y := decodeXHdr_enc (op := 0x0D) (p := 2) (sl := 0) (f := tt.val) x (by decide) (by decide) (by decide) (by omega)
  have glen := low_fld 13 len.isLt
  have klen := high_fld 13 19 len.isLt
  refine xfr_words (w := encXfr 0x0D 2 x 0 tt.val) (ps := [encSpad sp, len.toNat]) rfl rfl f.2.1 fun hw => ?_
  have hw : x.ok = true ∧ sp.ok = true ∧ sp.tf = false := by simpa [countIn, Instr.wf, and_assoc] using hw
  have s0 := decodeSpad_enc hw.2.1
  simp [decodeXfr, only, bit, reg5_eq, reg3, reg2, b2n_eq, f, countIn, glen, klen, s0, y, hw, Nat.mod_eq_of_lt tt.isLt, Nat.div_eq_of_lt tt.isLt]

theorem RoundTrip.xfillRel (x : XHdr) (tt : TtReg) : RoundTrip.Statement (.xfillRel x tt) := by
  have e := rel_bits tt
  have f := encXfr_flds (op := 0x0D) (p := 2) (sl := 0) (f := (put 1 6 + tt.val)) x (by decide) (by decide) (by decide) (e.1)
  have y := decodeXHdr_enc (op := 0x0D) (p := 2) (sl := 0) (f := (put 1 6 + tt.val)) x (by decide) (by decide) (by decide) (e.1)
  refine xfr_words (w := encXfr 0x0D 2 x 0 (put 1 6 + tt.val)) (ps := [0, 0]) rfl rfl f.2.1 fun hw => ?_
  have hw : x.ok = true := by simpa [countIn, Instr.wf, and_assoc] using hw
  simp [decodeXfr, only, bit, reg5_eq, reg3, reg2, b2n_eq, f, countIn, y, e, hw]

theorem RoundTrip.xwait (x : XHdr) : RoundTrip.Statement (.xwait x) := by
  have f := encXfr_flds (op := 0x0E) (p := 0) (sl := 0) (f := 0) x (by decide) (by decide) (by decide) (by decide)
  have y := decodeXHdr_enc (op := 0x0E) (p := 0) (sl := 0) (f := 0) x (by decide) (by decide) (by decide) (by decide)
  refine xfr_words (w := encXfr 0x0E 0 x 0 0) (ps := []) rfl rfl f.2.1 fun hw => ?_
  have hw : x.ok = true := by simpa [countIn, Instr.wf, and_assoc] using hw
  simp [decodeXfr, only, bit, reg5_eq, reg3, reg2, b2n_eq, f, countIn, y, hw]

theorem RoundTrip.xbusySet (x : XHdr) (sp : SpadAddr) (g : BitVec 10) : RoundTrip.Statement (.xbusySet x sp g) := by
  have f := encXfr_flds (op := 0x0F) (p := 2) (sl := 0) (f := 1) x (by decide) (by decide) (by decide) (by decide)
  have y := decodeXHdr_enc (op := 0x0F) (p := 2) (sl := 0) (f := 1) x (by decide) (by decide) (by decide) (by decide)
  have gg := low_fld 10 g.isLt
  have kg := high_fld 10 22 g.isLt
  refine xfr_words (w := encXfr 0x0F 2 x 0 1) (ps := [encSpad sp, g.toNat]) rfl rfl f.2.1 fun hw => ?_
  have hw : x.ok = true ∧ sp.ok = true ∧ sp.tf = false ∧ countOk g.toNat 512 = true := by simpa [countIn, Instr.wf, and_assoc] using hw
  have s0 := decodeSpad_enc hw.2.1
  simp [decodeXfr, only, bit, reg5_eq, reg3, reg2, b2n_eq, f, countIn, gg, kg, s0, y, hw]

theorem RoundTrip.xbusyClr (x : XHdr) (sp : SpadAddr) (g : BitVec 10) : RoundTrip.Statement (.xbusyClr x sp g) := by
  have f := encXfr_flds (op := 0x0F) (p := 2) (sl := 0) (f := 0) x (by decide) (by decide) (by decide) (by decide)
  have y := decodeXHdr_enc (op := 0x0F) (p := 2) (sl := 0) (f := 0) x (by decide) (by decide) (by decide) (by decide)
  have gg := low_fld 10 g.isLt
  have kg := high_fld 10 22 g.isLt
  refine xfr_words (w := encXfr 0x0F 2 x 0 0) (ps := [encSpad sp, g.toNat]) rfl rfl f.2.1 fun hw => ?_
  have hw : x.ok = true ∧ sp.ok = true ∧ sp.tf = false ∧ countOk g.toNat 512 = true := by simpa [countIn, Instr.wf, and_assoc] using hw
  have s0 := decodeSpad_enc hw.2.1
  simp [decodeXfr, only, bit, reg5_eq, reg3, reg2, b2n_eq, f, countIn, gg, kg, s0, y, hw]

theorem RoundTrip.xexit (wm : BitVec 8) : RoundTrip.Statement (.xexit wm) := by
  have f : fld (put 0x10 27 + put wm.toNat 14) 25 2 = 0 ∧ fld (put 0x10 27 + put wm.toNat 14) 27 5 = 0x10 ∧
      fld (put 0x10 27 + put wm.toNat 14) 0 14 = 0 ∧ fld (put 0x10 27 + put wm.toNat 14) 22 3 = 0 ∧
      fld (put 0x10 27 + put wm.toNat 14) 14 8 = wm.toNat := by
    have b := wm.isLt
    simp only [fld, put]
    generalize wm.toNat = y at *
    refine ⟨?_, ?_, ?_, ?_, ?_⟩ <;> omega
  refine xfr_words (ps := []) rfl rfl f.1 fun _ => ?_
  simp [decodeXfr, only, f]

/-! ## Walker words -/

theorem RoundTrip.wli (d : WReg) (imm : BitVec 15) : RoundTrip.Statement (.wli d imm) := by
  have f := encWlk_flds (op := 0x01) (d := d.val) (a := 0) (b := 0) (n := imm.toNat) (by decide) (by omega) (by decide) (by decide) (by omega)
  refine wlk_words rfl rfl fun _ => ?_
  simp [decodeWlk, only, reg4_eq, f]

theorem RoundTrip.wliHi (d : WReg) (imm : BitVec 15) : RoundTrip.Statement (.wliHi d imm) := by
  have f := encWlk_flds (op := 0x01) (d := d.val) (a := 0) (b := 1) (n := imm.toNat) (by decide) (by omega) (by decide) (by decide) (by omega)
  refine wlk_words rfl rfl fun _ => ?_
  simp [decodeWlk, only, reg4_eq, f]

theorem RoundTrip.wliVp (d : WReg) (n : VpReg) : RoundTrip.Statement (.wliVp d n) := by
  have f := encWlk_flds (op := 0x01) (d := d.val) (a := 0) (b := 2) (n := n.val) (by decide) (by omega) (by decide) (by decide) (by omega)
  refine wlk_words rfl rfl fun _ => ?_
  simp [decodeWlk, only, reg4_eq, f, reg2, Nat.mod_eq_of_lt n.isLt, Nat.div_eq_of_lt n.isLt]

theorem RoundTrip.wadd (d : WReg) (a : WReg) (b : WReg) (imm : BitVec 15) : RoundTrip.Statement (.wadd d a b imm) := by
  have f := encWlk_flds (op := 0x02) (d := d.val) (a := a.val) (b := b.val) (n := imm.toNat) (by decide) (by omega) (by omega) (by omega) (by omega)
  refine wlk_words rfl rfl fun _ => ?_
  simp [decodeWlk, only, reg4_eq, f]

theorem RoundTrip.wsub (d : WReg) (a : WReg) (b : WReg) (imm : BitVec 15) : RoundTrip.Statement (.wsub d a b imm) := by
  have f := encWlk_flds (op := 0x03) (d := d.val) (a := a.val) (b := b.val) (n := imm.toNat) (by decide) (by omega) (by omega) (by omega) (by omega)
  refine wlk_words rfl rfl fun _ => ?_
  simp [decodeWlk, only, reg4_eq, f]

theorem RoundTrip.wmul (d : WReg) (a : WReg) (b : WReg) (imm : BitVec 15) : RoundTrip.Statement (.wmul d a b imm) := by
  have f := encWlk_flds (op := 0x04) (d := d.val) (a := a.val) (b := b.val) (n := imm.toNat) (by decide) (by omega) (by omega) (by omega) (by omega)
  refine wlk_words rfl rfl fun _ => ?_
  simp [decodeWlk, only, reg4_eq, f]

theorem RoundTrip.wand (d : WReg) (a : WReg) (b : WReg) (imm : BitVec 15) : RoundTrip.Statement (.wand d a b imm) := by
  have f := encWlk_flds (op := 0x05) (d := d.val) (a := a.val) (b := b.val) (n := imm.toNat) (by decide) (by omega) (by omega) (by omega) (by omega)
  refine wlk_words rfl rfl fun _ => ?_
  simp [decodeWlk, only, reg4_eq, f]

theorem RoundTrip.wor (d : WReg) (a : WReg) (b : WReg) (imm : BitVec 15) : RoundTrip.Statement (.wor d a b imm) := by
  have f := encWlk_flds (op := 0x06) (d := d.val) (a := a.val) (b := b.val) (n := imm.toNat) (by decide) (by omega) (by omega) (by omega) (by omega)
  refine wlk_words rfl rfl fun _ => ?_
  simp [decodeWlk, only, reg4_eq, f]

theorem RoundTrip.wshl (d : WReg) (a : WReg) (b : WReg) (imm : BitVec 15) : RoundTrip.Statement (.wshl d a b imm) := by
  have f := encWlk_flds (op := 0x07) (d := d.val) (a := a.val) (b := b.val) (n := imm.toNat) (by decide) (by omega) (by omega) (by omega) (by omega)
  refine wlk_words rfl rfl fun _ => ?_
  simp [decodeWlk, only, reg4_eq, f]

theorem RoundTrip.wshr (d : WReg) (a : WReg) (b : WReg) (imm : BitVec 15) : RoundTrip.Statement (.wshr d a b imm) := by
  have f := encWlk_flds (op := 0x08) (d := d.val) (a := a.val) (b := b.val) (n := imm.toNat) (by decide) (by omega) (by omega) (by omega) (by omega)
  refine wlk_words rfl rfl fun _ => ?_
  simp [decodeWlk, only, reg4_eq, f]

theorem RoundTrip.wmin (d : WReg) (a : WReg) (b : WReg) (imm : BitVec 15) : RoundTrip.Statement (.wmin d a b imm) := by
  have f := encWlk_flds (op := 0x09) (d := d.val) (a := a.val) (b := b.val) (n := imm.toNat) (by decide) (by omega) (by omega) (by omega) (by omega)
  refine wlk_words rfl rfl fun _ => ?_
  simp [decodeWlk, only, reg4_eq, f]

theorem RoundTrip.wld (sz : WSize) (d : WReg) (a : WReg) (imm : BitVec 15) : RoundTrip.Statement (.wld sz d a imm) := by
  have f := encWlk_flds (op := 0x0A) (d := d.val) (a := a.val) (b := sz.code) (n := imm.toNat) (by decide) (by omega) (by omega) (by have := wsize_lt sz; omega) (by omega)
  refine wlk_words rfl rfl fun _ => ?_
  simp [decodeWlk, only, reg4_eq, f, wsize_ofCode, wsize_lt]

theorem RoundTrip.wbit (d : WReg) (a : WReg) (b : WReg) (imm : BitVec 15) : RoundTrip.Statement (.wbit d a b imm) := by
  have f := encWlk_flds (op := 0x0B) (d := d.val) (a := a.val) (b := b.val) (n := imm.toNat) (by decide) (by omega) (by omega) (by omega) (by omega)
  refine wlk_words rfl rfl fun _ => ?_
  simp [decodeWlk, only, reg4_eq, f]

theorem RoundTrip.wloop (a : WReg) (off : BitVec 15) : RoundTrip.Statement (.wloop a off) := by
  have f := encWlk_flds (op := 0x0C) (d := 0) (a := a.val) (b := 0) (n := off.toNat) (by decide) (by decide) (by omega) (by decide) (by omega)
  refine wlk_words rfl rfl fun _ => ?_
  simp [decodeWlk, only, reg4_eq, f]

theorem RoundTrip.wnext (d : WReg) (a : WReg) (off : BitVec 15) : RoundTrip.Statement (.wnext d a off) := by
  have f := encWlk_flds (op := 0x0D) (d := d.val) (a := a.val) (b := 0) (n := off.toNat) (by decide) (by omega) (by omega) (by decide) (by omega)
  refine wlk_words rfl rfl fun _ => ?_
  simp [decodeWlk, only, reg4_eq, f]

theorem RoundTrip.wskip (c : WCond) (a : WReg) (b : WReg) (off : BitVec 15) : RoundTrip.Statement (.wskip c a b off) := by
  have f := encWlk_flds (op := 0x0E) (d := c.code) (a := a.val) (b := b.val) (n := off.toNat) (by decide) (by cases c <;> decide) (by omega) (by omega) (by omega)
  refine wlk_words rfl rfl fun _ => ?_
  simp [decodeWlk, only, reg4_eq, f, wcond_ofCode]

theorem RoundTrip.wpos (k : ListKind) (a : WReg) (b : WReg) : RoundTrip.Statement (.wpos k a b) := by
  cases k with
  | bag =>
    have f := encWlk_flds (op := 0x0F) (d := 0) (a := a.val) (b := b.val) (n := 0) (by decide) (by decide) (by omega) (by omega) (by decide)
    refine wlk_words (w := encWlk 0x0F 0 a.val b.val 0) rfl rfl fun _ => ?_
    simp [decodeWlk, only, reg4_eq, f]
  | idx =>
    have f := encWlk_flds (op := 0x0F) (d := 0) (a := a.val) (b := b.val) (n := 1) (by decide) (by decide) (by omega) (by omega) (by decide)
    refine wlk_words (w := encWlk 0x0F 0 a.val b.val 1) rfl rfl fun _ => ?_
    simp [decodeWlk, only, reg4_eq, f]

theorem RoundTrip.wemitE (a : WReg) (b : WReg) (imm : BitVec 15) : RoundTrip.Statement (.wemitE a b imm) := by
  have f := encWlk_flds (op := 0x10) (d := 0) (a := a.val) (b := b.val) (n := imm.toNat) (by decide) (by decide) (by omega) (by omega) (by omega)
  refine wlk_words rfl rfl fun _ => ?_
  simp [decodeWlk, only, reg4_eq, f]

theorem RoundTrip.wemitL (a : WReg) (b : WReg) : RoundTrip.Statement (.wemitL a b) := by
  have f := encWlk_flds (op := 0x10) (d := 1) (a := a.val) (b := b.val) (n := 0) (by decide) (by decide) (by omega) (by omega) (by decide)
  refine wlk_words rfl rfl fun _ => ?_
  simp [decodeWlk, only, reg4_eq, f]

theorem RoundTrip.wemitW (a : WReg) (b : WReg) (imm : BitVec 15) : RoundTrip.Statement (.wemitW a b imm) := by
  have f := encWlk_flds (op := 0x10) (d := 2) (a := a.val) (b := b.val) (n := imm.toNat) (by decide) (by decide) (by omega) (by omega) (by omega)
  refine wlk_words rfl rfl fun _ => ?_
  simp [decodeWlk, only, reg4_eq, f]

theorem RoundTrip.wtile (a : WReg) : RoundTrip.Statement (.wtile a) := by
  have f := encWlk_flds (op := 0x11) (d := 0) (a := a.val) (b := 0) (n := 0) (by decide) (by decide) (by omega) (by decide) (by decide)
  refine wlk_words rfl rfl fun _ => ?_
  simp [decodeWlk, only, reg4_eq, f]

theorem RoundTrip.wrow (a : WReg) (imm : BitVec 15) : RoundTrip.Statement (.wrow a imm) := by
  have f := encWlk_flds (op := 0x12) (d := 0) (a := a.val) (b := 0) (n := imm.toNat) (by decide) (by decide) (by omega) (by decide) (by omega)
  refine wlk_words rfl rfl fun _ => ?_
  simp [decodeWlk, only, reg4_eq, f]

theorem RoundTrip.wgo (a : WReg) (sl : ShReg) (kv : Bool) (k : Tok) : RoundTrip.Statement (.wgo a sl kv k) := by
  have f := encWlk_flds (op := 0x13) (d := 0) (a := a.val) (b := 0) (n := (sl.val + put k.val 5 + put (b2n kv) 8)) (by decide) (by decide) (by omega) (by decide) (by have := go_bits sl kv k; omega)
  have g := go_bits sl kv k
  have g1 : (sl.val + put k.val 5 + put (b2n kv) 8) / 512 = 0 := Nat.div_eq_of_lt g.1
  refine wlk_words rfl rfl fun hw => ?_
  have hw : (kv || k == 0) = true := hw
  simp [decodeWlk, only, reg4_eq, f, reg5_eq, reg3, bit, g, b2n_eq, g1]
  revert hw
  cases kv <;> simp

theorem RoundTrip.wmove (sz : WSize) (d : WReg) (a : WReg) (b : WReg) : RoundTrip.Statement (.wmove sz d a b) := by
  have f := encWlk_flds (op := 0x14) (d := d.val) (a := a.val) (b := b.val) (n := sz.code) (by decide) (by omega) (by omega) (by omega) (by have := wsize_lt sz; omega)
  refine wlk_words rfl rfl fun _ => ?_
  simp [decodeWlk, only, reg4_eq, f, wsize_ofCode, Nat.mod_eq_of_lt (wsize_lt sz), Nat.div_eq_of_lt (wsize_lt sz)]

theorem RoundTrip.wexit (kv : Bool) (k : Tok) : RoundTrip.Statement (.wexit kv k) := by
  have f := encWlk_flds (op := 0x15) (d := 0) (a := 0) (b := 0) (n := (k.val + put (b2n kv) 3)) (by decide) (by decide) (by decide) (by decide) (by have := exit_bits kv k; omega)
  have g := exit_bits kv k
  have g1 : (k.val + put (b2n kv) 3) / 16 = 0 := Nat.div_eq_of_lt g.1
  refine wlk_words rfl rfl fun hw => ?_
  have hw : (kv || k == 0) = true := hw
  simp [decodeWlk, only, reg4_eq, f, reg3, bit, g, b2n_eq, g1]
  revert hw
  cases kv <;> simp

/-! ## Events -/

theorem RoundTrip.barrierRequestArrival : RoundTrip.Statement (.barrierRequestArrival) :=
  fun _ _ h => nomatch h

theorem RoundTrip.barrierReply : RoundTrip.Statement (.barrierReply) :=
  fun _ _ h => nomatch h

theorem RoundTrip.sevArrival : RoundTrip.Statement (.sevArrival) :=
  fun _ _ h => nomatch h

theorem RoundTrip.retryResponse : RoundTrip.Statement (.retryResponse) :=
  fun _ _ h => nomatch h

theorem RoundTrip.requestRetry : RoundTrip.Statement (.requestRetry) :=
  fun _ _ h => nomatch h

theorem RoundTrip.storeStamped : RoundTrip.Statement (.storeStamped) :=
  fun _ _ h => nomatch h

theorem RoundTrip.loadReply : RoundTrip.Statement (.loadReply) :=
  fun _ _ h => nomatch h

theorem RoundTrip.leasePush : RoundTrip.Statement (.leasePush) :=
  fun _ _ h => nomatch h

theorem RoundTrip.ownershipReturn : RoundTrip.Statement (.ownershipReturn) :=
  fun _ _ h => nomatch h

theorem RoundTrip.vectorWriteback : RoundTrip.Statement (.vectorWriteback) :=
  fun _ _ h => nomatch h

theorem RoundTrip.queueRowDelivery : RoundTrip.Statement (.queueRowDelivery) :=
  fun _ _ h => nomatch h

theorem RoundTrip.runEnd : RoundTrip.Statement (.runEnd) :=
  fun _ _ h => nomatch h

theorem RoundTrip.rowPassLand : RoundTrip.Statement (.rowPassLand) :=
  fun _ _ h => nomatch h

theorem RoundTrip.bagRowArrival : RoundTrip.Statement (.bagRowArrival) :=
  fun _ _ h => nomatch h

theorem RoundTrip.tileClaim : RoundTrip.Statement (.tileClaim) :=
  fun _ _ h => nomatch h

theorem RoundTrip.shadowFilled : RoundTrip.Statement (.shadowFilled) :=
  fun _ _ h => nomatch h

theorem RoundTrip.publishReserve : RoundTrip.Statement (.publishReserve) :=
  fun _ _ h => nomatch h

theorem RoundTrip.publishCommit : RoundTrip.Statement (.publishCommit) :=
  fun _ _ h => nomatch h

theorem RoundTrip.scratchpadPublish : RoundTrip.Statement (.scratchpadPublish) :=
  fun _ _ h => nomatch h

theorem RoundTrip.stepComplete : RoundTrip.Statement (.stepComplete) :=
  fun _ _ h => nomatch h

theorem RoundTrip.xredLineApply : RoundTrip.Statement (.xredLineApply) :=
  fun _ _ h => nomatch h

theorem RoundTrip.multicastLanding : RoundTrip.Statement (.multicastLanding) :=
  fun _ _ h => nomatch h

theorem RoundTrip.sectorPageFault : RoundTrip.Statement (.sectorPageFault) :=
  fun _ _ h => nomatch h

theorem RoundTrip.stepResume : RoundTrip.Statement (.stepResume) :=
  fun _ _ h => nomatch h

theorem RoundTrip.packetParse : RoundTrip.Statement (.packetParse) :=
  fun _ _ h => nomatch h

theorem RoundTrip.launchQueueAccept : RoundTrip.Statement (.launchQueueAccept) :=
  fun _ _ h => nomatch h

theorem RoundTrip.timedLaunchStart : RoundTrip.Statement (.timedLaunchStart) :=
  fun _ _ h => nomatch h

theorem RoundTrip.watchdogExpiry : RoundTrip.Statement (.watchdogExpiry) :=
  fun _ _ h => nomatch h

theorem RoundTrip.partitionReset : RoundTrip.Statement (.partitionReset) :=
  fun _ _ h => nomatch h

theorem RoundTrip.partitionReopen : RoundTrip.Statement (.partitionReopen) :=
  fun _ _ h => nomatch h

theorem RoundTrip.uncorrectableMemoryError : RoundTrip.Statement (.uncorrectableMemoryError) :=
  fun _ _ h => nomatch h

theorem RoundTrip.timeSliceSwitch : RoundTrip.Statement (.timeSliceSwitch) :=
  fun _ _ h => nomatch h

theorem RoundTrip.heldDelivery : RoundTrip.Statement (.heldDelivery) :=
  fun _ _ h => nomatch h

theorem RoundTrip.coreSave : RoundTrip.Statement (.coreSave) :=
  fun _ _ h => nomatch h

theorem RoundTrip.swapSave : RoundTrip.Statement (.swapSave) :=
  fun _ _ h => nomatch h

theorem RoundTrip.swapRestore : RoundTrip.Statement (.swapRestore) :=
  fun _ _ h => nomatch h

theorem RoundTrip.swapDone : RoundTrip.Statement (.swapDone) :=
  fun _ _ h => nomatch h

theorem RoundTrip.taskResume : RoundTrip.Statement (.taskResume) :=
  fun _ _ h => nomatch h

theorem RoundTrip.taskEnd : RoundTrip.Statement (.taskEnd) :=
  fun _ _ h => nomatch h

theorem RoundTrip.faultRecordRemove : RoundTrip.Statement (.faultRecordRemove) :=
  fun _ _ h => nomatch h

theorem RoundTrip.partitionDescriptorWrite : RoundTrip.Statement (.partitionDescriptorWrite) :=
  fun _ _ h => nomatch h

theorem RoundTrip.remapTableWrite : RoundTrip.Statement (.remapTableWrite) :=
  fun _ _ h => nomatch h

theorem RoundTrip.mailboxStateWrite : RoundTrip.Statement (.mailboxStateWrite) :=
  fun _ _ h => nomatch h

theorem RoundTrip.ringTableWrite : RoundTrip.Statement (.ringTableWrite) :=
  fun _ _ h => nomatch h

theorem RoundTrip.ringctlWrite : RoundTrip.Statement (.ringctlWrite) :=
  fun _ _ h => nomatch h

theorem RoundTrip.meshcfgWrite : RoundTrip.Statement (.meshcfgWrite) :=
  fun _ _ h => nomatch h

theorem RoundTrip.portChannelBind : RoundTrip.Statement (.portChannelBind) :=
  fun _ _ h => nomatch h

theorem RoundTrip.translationBlockWrite : RoundTrip.Statement (.translationBlockWrite) :=
  fun _ _ h => nomatch h

theorem RoundTrip.invalidateVa : RoundTrip.Statement (.invalidateVa) :=
  fun _ _ h => nomatch h

theorem RoundTrip.invalidateAsid : RoundTrip.Statement (.invalidateAsid) :=
  fun _ _ h => nomatch h

theorem RoundTrip.hatboxBankMapWrite : RoundTrip.Statement (.hatboxBankMapWrite) :=
  fun _ _ h => nomatch h

theorem RoundTrip.hatboxSlotCopy : RoundTrip.Statement (.hatboxSlotCopy) :=
  fun _ _ h => nomatch h

theorem RoundTrip.pmRegisterWrite : RoundTrip.Statement (.pmRegisterWrite) :=
  fun _ _ h => nomatch h

theorem RoundTrip.imageLoad : RoundTrip.Statement (.imageLoad) :=
  fun _ _ h => nomatch h

theorem RoundTrip.doorbell : RoundTrip.Statement (.doorbell) :=
  fun _ _ h => nomatch h

theorem RoundTrip.hostDramAccess : RoundTrip.Statement (.hostDramAccess) :=
  fun _ _ h => nomatch h

theorem RoundTrip.tableWalkComplete : RoundTrip.Statement (.tableWalkComplete) :=
  fun _ _ h => nomatch h

theorem RoundTrip.pickerRowDelivery : RoundTrip.Statement (.pickerRowDelivery) :=
  fun _ _ h => nomatch h

theorem RoundTrip.flitPromotion : RoundTrip.Statement (.flitPromotion) :=
  fun _ _ h => nomatch h

theorem RoundTrip.requestReplay : RoundTrip.Statement (.requestReplay) :=
  fun _ _ h => nomatch h

theorem RoundTrip.requestAtHome : RoundTrip.Statement (.requestAtHome) :=
  fun _ _ h => nomatch h

theorem RoundTrip.linkProtocolError : RoundTrip.Statement (.linkProtocolError) :=
  fun _ _ h => nomatch h

theorem RoundTrip.data : RoundTrip.Statement (.data) :=
  fun _ _ h => nomatch h

theorem RoundTrip.nak : RoundTrip.Statement (.nak) :=
  fun _ _ h => nomatch h

theorem RoundTrip.ack : RoundTrip.Statement (.ack) :=
  fun _ _ h => nomatch h

theorem RoundTrip.credit : RoundTrip.Statement (.credit) :=
  fun _ _ h => nomatch h

theorem RoundTrip.linkRetrain : RoundTrip.Statement (.linkRetrain) :=
  fun _ _ h => nomatch h

theorem RoundTrip.portWindowCommit : RoundTrip.Statement (.portWindowCommit) :=
  fun _ _ h => nomatch h

theorem RoundTrip.ringTableError : RoundTrip.Statement (.ringTableError) :=
  fun _ _ h => nomatch h

theorem RoundTrip.ringLaneFailure : RoundTrip.Statement (.ringLaneFailure) :=
  fun _ _ h => nomatch h

theorem RoundTrip.meshLaneFailure : RoundTrip.Statement (.meshLaneFailure) :=
  fun _ _ h => nomatch h

theorem RoundTrip.sliceWayReplace : RoundTrip.Statement (.sliceWayReplace) :=
  fun _ _ h => nomatch h

theorem RoundTrip.dramRowSpare : RoundTrip.Statement (.dramRowSpare) :=
  fun _ _ h => nomatch h

theorem RoundTrip.bootStage0 : RoundTrip.Statement (.bootStage0) :=
  fun _ _ h => nomatch h

theorem RoundTrip.bootStage1 : RoundTrip.Statement (.bootStage1) :=
  fun _ _ h => nomatch h

theorem RoundTrip.bootStage2 : RoundTrip.Statement (.bootStage2) :=
  fun _ _ h => nomatch h

theorem RoundTrip.quoteRequest : RoundTrip.Statement (.quoteRequest) :=
  fun _ _ h => nomatch h

theorem RoundTrip.powerLevelUpdate : RoundTrip.Statement (.powerLevelUpdate) :=
  fun _ _ h => nomatch h

theorem RoundTrip.thermalTrip : RoundTrip.Statement (.thermalTrip) :=
  fun _ _ h => nomatch h

theorem RoundTrip.deliveredTick : RoundTrip.Statement (.deliveredTick) :=
  fun _ _ h => nomatch h

theorem RoundTrip.wallPeriod : RoundTrip.Statement (.wallPeriod) :=
  fun _ _ h => nomatch h

theorem RoundTrip.ringCycle : RoundTrip.Statement (.ringCycle) :=
  fun _ _ h => nomatch h

theorem RoundTrip.meshCycle : RoundTrip.Statement (.meshCycle) :=
  fun _ _ h => nomatch h

theorem RoundTrip.illegalWord : RoundTrip.Statement (.illegalWord) :=
  fun _ _ h => nomatch h

theorem RoundTrip.idle : RoundTrip.Statement (.idle) :=
  fun _ _ h => nomatch h

theorem RoundTrip.requestAcknowledgement : RoundTrip.Statement (.requestAcknowledgement) :=
  fun _ _ h => nomatch h

theorem RoundTrip.linkRetrainDone : RoundTrip.Statement (.linkRetrainDone) :=
  fun _ _ h => nomatch h

theorem RoundTrip.refreshWindowCalibration : RoundTrip.Statement (.refreshWindowCalibration) :=
  fun _ _ h => nomatch h

theorem RoundTrip.dieTemperatureRecovery : RoundTrip.Statement (.dieTemperatureRecovery) :=
  fun _ _ h => nomatch h

theorem RoundTrip.codeCacheFill : RoundTrip.Statement (.codeCacheFill) :=
  fun _ _ h => nomatch h

end Sys2Proof.Laws
end

