-- ==== Sys2Proof/Tests/Slice0.lean ====
section
/-! SUPPORT. Tests of the model: decoding of words written out from the encodings of spec/, the ill-formed terms that
WellFormed refuses, and, for the statements of Certificates/Slice0, concrete states and operands that meet their
hypotheses. Expected values come from spec/ or from hand calculation by its rules. -/

set_option Elab.async false

open Sys2Proof Sys2Proof.Machine

namespace Sys2Proof.Tests

/-! ## Decoding -/

/-- Every listed word sequence of the unit decodes to its instruction and uses all of its words. -/
def decodesTo (u : Agent) (l : List (List Nat × Instr)) : Bool :=
  l.all (fun x => decode u x.1 == some (x.2, x.1.length))

/-- Words composed from the masks and fields of spec/opcode_table.json, seq rows, part 1. -/
theorem test_decode_seq_1 : decodesTo .seq [
    ([0x04A98800], .add 5 9 17),
    ([0x04A98801], .sub 5 9 17),
    ([0x04A98802], .and 5 9 17),
    ([0x04A98803], .or 5 9 17),
    ([0x04A98804], .xor 5 9 17),
    ([0x04A98805], .andn 5 9 17),
    ([0x04A98806], .sll 5 9 17),
    ([0x04A98807], .srl 5 9 17),
    ([0x04A98808], .sra 5 9 17),
    ([0x04A98809], .slt 5 9 17),
    ([0x04A9880A], .sltn 5 9 17),
    ([0x04A9880B], .min 5 9 17),
    ([0x04A9880C], .max 5 9 17),
    ([0x04A9880D], .minn 5 9 17),
    ([0x04A9880E], .maxn 5 9 17),
    ([0x04A9880F], .mul 5 9 17),
    ([0x04A98810], .mulh 5 9 17),
    ([0x04A98811], .mulhn 5 9 17),
    ([0x04A98812], .div 5 9 17),
    ([0x04A98813], .divn 5 9 17),
    ([0x04A98814], .rem 5 9 17),
    ([0x04A98815], .remn 5 9 17),
    ([0x04A90016], .clz 5 9),
    ([0x04A90017], .ctz 5 9),
    ([0x04A90018], .popc 5 9),
    ([0x08A98421], .addi 5 9 0x8421),
    ([0x0CA98421], .andi 5 9 0x8421)] = true := by decide +kernel

/-- Words composed from the masks and fields of spec/opcode_table.json, seq rows, part 2. -/
theorem test_decode_seq_2 : decodesTo .seq [
    ([0x10A98421], .ori 5 9 0x8421),
    ([0x14A98421], .xori 5 9 0x8421),
    ([0x18A9002D], .slli 5 9 0x2d),
    ([0x18A9006D], .srli 5 9 0x2d),
    ([0x18A900AD], .srai 5 9 0x2d),
    ([0x1CA08421], .lui 5 0x8421),
    ([0x20A98421], .slti 5 9 0x8421),
    ([0x24A98421], .sltni 5 9 0x8421),
    ([0x28A98421], .ldB 5 9 0x8421),
    ([0x2CA98421], .ldH 5 9 0x8421),
    ([0x30A98421], .ldW 5 9 0x8421),
    ([0x34A98421], .ldD 5 9 0x8421),
    ([0x38A98421], .ldBn 5 9 0x8421),
    ([0x3CA98421], .ldHn 5 9 0x8421),
    ([0x40A98421], .ldWn 5 9 0x8421),
    ([0x44A98421], .stB 5 9 0x8421),
    ([0x48A98421], .stH 5 9 0x8421),
    ([0x4CA98421], .stW 5 9 0x8421),
    ([0x50A98421], .stD 5 9 0x8421),
    ([0x54A98421], .ldS 5 9 0x8421),
    ([0x58A00000], .chk 5),
    ([0x5CA98421], .beq 5 9 0x8421),
    ([0x60A98421], .bne 5 9 0x8421),
    ([0x64A98421], .blt 5 9 0x8421),
    ([0x68A98421], .bge 5 9 0x8421),
    ([0x6CA98421], .bltn 5 9 0x8421),
    ([0x70A98421], .bgen 5 9 0x8421)] = true := by decide +kernel

/-- Words composed from the masks and fields of spec/opcode_table.json, seq rows, part 3. -/
theorem test_decode_seq_3 : decodesTo .seq [
    ([0x74B00003], .jal 5 0x100003),
    ([0x78A98421], .jalr 5 9 0x8421),
    ([0x7CA98C00], .amoSwap .package 5 9 17),
    ([0x7CA98C01], .amoAdd .package 5 9 17),
    ([0x7CA98C02], .amoAnd .package 5 9 17),
    ([0x7CA98C03], .amoOr .package 5 9 17),
    ([0x7CA98C04], .amoXor .package 5 9 17),
    ([0x7CA98C05], .amoMax .package 5 9 17),
    ([0x7CA98C06], .amoMin .package 5 9 17),
    ([0x7CA98C07], .amoMaxn .package 5 9 17),
    ([0x7CA98C08], .amoMinn .package 5 9 17),
    ([0x80A98C00], .cas .package 5 9 17),
    ([0x84054C00], .redAdd .package 5 9),
    ([0x84054C01], .redFadd32 .package 5 9),
    ([0x84054C02], .redMax .package 5 9),
    ([0x84054C03], .redMin .package 5 9),
    ([0x88A90400], .lda .package 5 9),
    ([0x8C054C00], .stl .package 5 9),
    ([0x90000000], .fenceMem),
    ([0x90000001], .fenceEngines),
    ([0x90000002], .fenceBoth),
    ([0x94A98800], .barInit 5 9 17),
    ([0x94A98801], .barArr 5 9 17),
    ([0x94A98802], .barWait 5 9 17),
    ([0x94A98803], .barArrw 5 9 17),
    ([0x94A98804], .barQuery 5 9 17),
    ([0x98050000], .sev 5)] = true := by decide +kernel

/-- Words composed from the masks and fields of spec/opcode_table.json, seq rows, part 4. -/
theorem test_decode_seq_4 : decodesTo .seq [
    ([0x98000001], .wfe),
    ([0x98000002], .clrev),
    ([0x9CA98800], .spawn 5 9 17),
    ([0xA0A90000], .join 5 9),
    ([0xA4A98800], .send 5 9 17),
    ([0xA8A90003], .runV 5 9 3),
    ([0xA8A91003], .runM 5 9 3),
    ([0xA8A92003], .runX 5 9 3),
    ([0xA8A93003], .runW 5 9 3),
    ([0xAC00000A], .ewaitE 10),
    ([0xAC001081], .ewaitK 0x81),
    ([0xB0050000], .atTick 5),
    ([0xB4050004], .codePf 5 .wlk),
    ([0xB4051004], .codePin 5 .wlk),
    ([0xB4052004], .codeUnpin 5 .wlk),
    ([0xB80009A5], .safe 0x9a5),
    ([0xBCA009A5], .cfgr 5 0x9a5),
    ([0xBC0519A5], .cfgw 5 0x9a5),
    ([0xC00009A5], .syscall 0x9a5),
    ([0xC00019A5], .brk 0x9a5),
    ([0xC0002000], .eret),
    ([0xC0003000], .halt),
    ([0xC4A00003], .qdepth 5 3),
    ([0xC8A00025], .tstate 5 0x25)] = true := by decide +kernel

/-- Words composed from the masks and fields of spec/opcode_table.json, vector rows, part 1. -/
theorem test_decode_vector_1 : decodesTo (.eng .vector) [
    ([0xA0400400], .vshape 5 2),
    ([0xA0914401], .vld 5 .b16 true 5 2),
    ([0xA0D14401], .vst 5 .b16 true 5 2),
    ([0xA1114403], .vldacc 5 .b16 true true 5 2),
    ([0xA1514403], .vstacc 5 .b16 true true 5 2),
    ([0xA1915200], .vmov 5 .b16 5 9),
    ([0xA1D15202], .vsplat 5 .b16 .col 5 9),
    ([0xA2115313], .vadd 5 none .b16 .rdn 5 9 17),
    ([0xA2515313], .vsub 5 none .b16 .rdn 5 9 17),
    ([0xA2915313], .vmul 5 none .b16 .rdn 5 9 17),
    ([0xA2D15313], .vfma 5 none .b16 .rdn 5 9 17),
    ([0xA3115310], .vmax 5 none .b16 5 9 17),
    ([0xA3515310], .vmin 5 none .b16 5 9 17),
    ([0xA3915313], .vdiv 5 none .b16 .rdn 5 9 17),
    ([0xA3D15243], .vcvt 5 none .b16 .rdn 5 9 .i16),
    ([0xA4115310], .vand 5 .b16 5 9 17),
    ([0xA4515310], .vor 5 .b16 5 9 17),
    ([0xA4915310], .vxor 5 .b16 5 9 17),
    ([0xA4E15310], .vshl 5 .i16 5 9 17),
    ([0xA5215310], .vshrSrl 5 .i16 5 9 17),
    ([0xA5215311], .vshrSra 5 .i16 5 9 17),
    ([0xA5500A95], .vmpush 5 .b16 .ge 5 9),
    ([0xA5800000], .vminv 5),
    ([0xA5C00000], .vmpop 5),
    ([0xA604321B], .vskip 5 (.sg 3) 0x4321),
    ([0xA6515310], .vsel 5 .b16 5 9 17),
    ([0xA68544B3], .vloop 5 3 0x2AB 2)] = true := by decide +kernel

/-- Words composed from the masks and fields of spec/opcode_table.json, vector rows, part 2. -/
theorem test_decode_vector_2 : decodesTo (.eng .vector) [
    ([0xA6D15203], .vexp2 5 none .b16 .rdn 5 9),
    ([0xA7115203], .vlog2 5 none .b16 .rdn 5 9),
    ([0xA7515203], .vrcp 5 none .b16 .rdn 5 9),
    ([0xA7915203], .vrsqrt 5 none .b16 .rdn 5 9),
    ([0xA7D15203], .vtanh 5 none .b16 .rdn 5 9),
    ([0xA8115203], .vsig 5 none .b16 .rdn 5 9),
    ([0xA8515223], .vredsum 5 .b16 .rdn .col 5 9),
    ([0xA8915220], .vredmax 5 .b16 .col 5 9),
    ([0xA8D15220], .vredmin 5 .b16 .col 5 9),
    ([0xA911531A], .vtopk 5 .b16 true true 2 5 9 17),
    ([0xA959531A], .vtopm 5 .i32 true true 2 5 9 17),
    ([0xA9915311], .vperm 5 .b16 .lin 5 9 17),
    ([0xA9D14490], .vgath 5 .b16 .lin 5 2 9),
    ([0xAA114490], .vscat 5 .b16 .lin 5 2 9),
    ([0xAA514411], .vrand 5 .b16 .unif 5 2 1),
    ([0xAA914411], .vqrs 5 .b16 .unif 5 2 1),
    ([0xAAC00410], .vqdir 5 2 1),
    ([0xAB115312], .vpchk 5 .b16 2 5 9 17),
    ([0xAB50CA20], .vpush 5 .b16 3 5 2),
    ([0xAB914600], .vpop 5 .b16 5 3),
    ([0xABD15200], .vtrans 5 .b16 5 9),
    ([0xAC014001], .viota 5 .f32 .row 5),
    ([0xAC515200], .vclass 5 .b16 5 9),
    ([0xAC800000], .vexit 5)] = true := by decide +kernel

/-- Words composed from the masks and fields of spec/opcode_table.json, matrix rows, part 1. -/
theorem test_decode_matrix_1 : decodesTo (.eng .matrix) [
    ([0x086B0000], .mfmt 3 5 true),
    ([0x11400000], .mldb 5),
    ([0x29AB3C00], .mfeed true true 3 0x2b3 0),
    ([0x30000000], .mclose),
    ([0x382ACEA5], .mclr true 0x2b3 0x2a5),
    ([0x500002A5], .mtagb 0x2a5),
    ([0x5800000E], .msync true 6),
    ([0x6800001A], .mcharge true 10),
    ([0x70000000], .mexit)] = true := by decide +kernel

/-- Words composed from the masks and fields of spec/opcode_table.json, transfer rows, part 1. -/
theorem test_decode_transfer_1 : decodesTo (.eng .transfer) [
    ([0x59A04100], .xpub ⟨ 6, true, 0x81 ⟩),
    ([0x71A04100], .xwait ⟨ 6, true, 0x81 ⟩),
    ([0x80204000], .xexit 0x81)] = true := by decide +kernel

/-- Words composed from the masks and fields of spec/opcode_table.json, walker rows, part 1. -/
theorem test_decode_walker_1 : decodesTo (.eng .walker) [
    ([0x0A804321], .wli 5 0x4321),
    ([0x0A80C321], .wliHi 5 0x4321),
    ([0x0A810002], .wliVp 5 2),
    ([0x12CF4321], .wadd 5 9 14 0x4321),
    ([0x1ACF4321], .wsub 5 9 14 0x4321),
    ([0x22CF4321], .wmul 5 9 14 0x4321),
    ([0x2ACF4321], .wand 5 9 14 0x4321),
    ([0x32CF4321], .wor 5 9 14 0x4321),
    ([0x3ACF4321], .wshl 5 9 14 0x4321),
    ([0x42CF4321], .wshr 5 9 14 0x4321),
    ([0x4ACF4321], .wmin 5 9 14 0x4321),
    ([0x52C94321], .wld .w 5 9 0x4321),
    ([0x5ACF4321], .wbit 5 9 14 0x4321),
    ([0x60284321], .wloop 5 0x4321),
    ([0x6AC84321], .wnext 5 9 0x4321),
    ([0x722CC321], .wskip .ltn 5 9 0x4321),
    ([0x782C8001], .wpos .idx 5 9),
    ([0x802CC321], .wemitE 5 9 0x4321),
    ([0x80AC8000], .wemitL 5 9),
    ([0x812CC321], .wemitW 5 9 0x4321),
    ([0x88280000], .wtile 5),
    ([0x90284321], .wrow 5 0x4321),
    ([0x982801D5], .wgo 5 21 true 6),
    ([0xA2CF0002], .wmove .w 5 9 14),
    ([0xA800000E], .wexit true 6)] = true := by decide +kernel

/-- The worked encodings of spec/08_matrix_steps.md and of the programs of spec/15 and spec/17. -/
theorem test_decode_matrix_examples : decodesTo (.eng .matrix) [
    ([0x12E00000, 0x00040400], .mldbScaled 3 ⟨0x400, 2, 0, false⟩),
    ([0x1A040000, 0x00060000], .mrows false 16 0 ⟨0x0, 3, 0, false⟩ none),
    ([0x26400000, 0x00040000, 0x00040004, 0x00040100], .mbag false 4 ⟨0x0, 2, 0, false⟩ 4 4 ⟨0x100, 2, 0, false⟩),
    ([0x42000C00, 0x000A0000], .mdrain false false false 3 0 ⟨0x0, 5, 0, false⟩),
    ([0x6200001F, 0x000A0000], .mflags 0x1F ⟨0x0, 5, 0, false⟩),
    ([0x08440000], .mfmt 2 2 false),
    ([0x088B0000], .mfmt 4 5 true),
    ([0x30000000], .mclose),
    ([0x38000C00], .mclr false 3 0),
    ([0x5800000A], .msync true 2),
    ([0x68000013], .mcharge true 3),
    ([0x70000000], .mexit),
    ([0x26780000, 0x00020300, 0x00800080, 0x00020900], .mbag true 7 ⟨0x300, 1, 0, false⟩ 128 128 ⟨0x900, 1, 0, false⟩),
    ([0x1A004008, 0x00020C00], .mrows true 1 0 ⟨0xc00, 1, 0, false⟩ none)] = true := by decide +kernel

/-- Steps with parameter words, composed from the tables of R177 and R178. -/
theorem test_decode_matrix_params : decodesTo (.eng .matrix) [
    ([0x1D000050, 0x000E0010, 0x00012345], .mrows false 1024 5 ⟨0x10, 7, 0, false⟩ (some 0x12345)),
    ([0x42E00AA5, 0xCA000040], .mdrain true true true 2 0x2A5 ⟨0x40, 0, 37, true⟩),
    ([0x4A400C07, 0x00120080], .mfill true false 3 7 ⟨0x80, 9, 0, false⟩)] = true := by decide +kernel

/-- The worked encodings of spec/09_transfer_steps.md, R84 and the programs of spec/15, 18, 20 and 21. -/
theorem test_decode_transfer_examples : decodesTo (.eng .transfer) [
    ([0x4A000800, 0x00000000], .xslot ⟨0, false, 0⟩ 4 0 0),
    ([0x0C400900, 0x00060000, 0x00000000], .xcopyG2s ⟨1, true, 0⟩ false 4 ⟨0x0, 3, 0, false⟩ 0),
    ([0x3A808103, 0x00040400], .xtile ⟨2, true, 2⟩ 3 ⟨0x400, 2, 0, false⟩),
    ([0x7C000001, 0x000A0000, 0x00000004], .xbusySet ⟨0, false, 0⟩ ⟨0x0, 5, 0, false⟩ 4),
    ([0x58000000], .xpub ⟨0, false, 0⟩),
    ([0x80000000], .xexit 0),
    ([0x70014000], .xwait ⟨0, false, 5⟩),
    ([0x2D400F01, 0x00042580, 0x00000000], .xred ⟨5, true, 0⟩ .fadd 7 ⟨0x2580, 2, 0, false⟩ 0),
    ([0x0C800901, 0x00060000, 0x00000000], .xcopyS2g ⟨2, true, 0⟩ false false 4 ⟨0x0, 3, 0, false⟩ 0),
    ([0x36800B00, 0x00080600, 0x00000080, 0x00000006], .xcomp ⟨2, true, 0⟩ false 5 ⟨0x600, 4, 0, false⟩ 128 6),
    ([0x12000804, 0x00000005], .xcopy2 ⟨0, false, 0⟩ true 4 5),
    ([0x58C10100], .xpub ⟨3, true, 4⟩),
    ([0x2C800900, 0x00060100, 0x00000000], .xred ⟨2, true, 0⟩ .add 4 ⟨0x100, 3, 0, false⟩ 0),
    ([0x4A400901, 0x00000000], .xslot ⟨1, true, 0⟩ 4 1 0)] = true := by decide +kernel

/-- Steps with parameter words, composed from the tables of R197 and R178. -/
theorem test_decode_transfer_params : decodesTo (.eng .transfer) [
    ([0x0DA06B0E, 0xCA000040, 0x00120080], .xcopyS2s ⟨6, true, 0x81⟩ true true 21 ⟨0x40, 0, 37, true⟩ ⟨0x80, 9, 0, false⟩),
    ([0x1FA06B04, 0x000E0040, 0x00001000, 0x00120080], .xgath ⟨6, true, 0x81⟩ true 21 ⟨0x40, 7, 0, false⟩ 4096 ⟨0x80, 9, 0, false⟩),
    ([0x27A04103, 0x000E0100, 0x00000200, 0x002AAAAA], .xmcast ⟨6, true, 0x81⟩ 3 ⟨0x100, 7, 0, false⟩ 512 0x2AAAAA),
    ([0x45A04100, 0x000E0040, 0x00000040], .xscale ⟨6, true, 0x81⟩ ⟨0x40, 7, 0, false⟩ 64),
    ([0x53A06B02, 0xFFFFFFC0], .xslev ⟨6, true, 0x81⟩ 21 2 0xFFFFFFC0),
    ([0x65A04100, 0x000E0010, 0x000009A5], .xsend ⟨6, true, 0x81⟩ ⟨0x10, 7, 0, false⟩ 0x9A5),
    ([0x6DA04125, 0x000E0040, 0x00001ABC], .xfillDef ⟨6, true, 0x81⟩ 37 ⟨0x40, 7, 0, false⟩ 0x1ABC),
    ([0x6DA04165, 0x00000000, 0x00000000], .xfillRel ⟨6, true, 0x81⟩ 37),
    ([0x7DA04100, 0x000E0100, 0x00000200], .xbusyClr ⟨6, true, 0x81⟩ ⟨0x100, 7, 0, false⟩ 512),
    ([0x70204000], .xwait ⟨0, false, 0x81⟩)] = true := by decide +kernel

/-- The worked encodings of R84 and of the programs of spec/15, 17, 20 and 21. -/
theorem test_decode_vector_examples : decodesTo (.eng .vector) [
    ([0x32C10220, 0x0FABD480], .vfma 1 (some ⟨true, false, true, false, 0x3D, 9⟩) .f32 .dyn 4 1 2),
    ([0x0C800000], .vexit 0),
    ([0xAB094410], .vpchk 5 .f16 0 5 2 1),
    ([0x05780641], .vmpush 0 .n8 .ne 3 4),
    ([0xA841CC10], .vredsum 5 .f32 .dyn .row 7 6),
    ([0xC900C22A], .vtopk 6 .f32 true true 2 3 1 2),
    ([0xC900C208], .vtopk 6 .f32 true false 2 3 1 0),
    ([0x40984000], .vld 2 .i32 false 1 0),
    ([0xA8588200], .vredsum 5 .i32 .dyn .all 2 1),
    ([0x00400600], .vshape 0 3),
    ([0x00D88400], .vst 0 .i32 false 2 2)] = true := by decide +kernel

/-- The worked encodings of R84, of spec/04, spec/05 and of the programs. -/
theorem test_decode_seq_examples : decodesTo .seq [
    ([0x04611000], .add 3 1 2),
    ([0x18610084], .srai 3 1 4),
    ([0x34820010], .ldD 4 2 16),
    ([0x7CA73201], .amoAdd .die 5 7 6),
    ([0xA9410003], .runV 10 1 3),
    ([0x1C607FFF], .lui 3 0x7FFF),
    ([0x80A73400], .cas .package 5 7 6),
    ([0x84073401], .redFadd32 .package 7 6),
    ([0x88A70600], .lda .system 5 7),
    ([0x8C073000], .stl .core 7 6),
    ([0x90000002], .fenceBoth),
    ([0x94A80001], .barArr 5 8 0),
    ([0x98000001], .wfe),
    ([0x9D2A5800], .spawn 9 10 11),
    ([0xA0A90000], .join 5 9),
    ([0xAA8C2002], .runX 20 12 2),
    ([0xAC001005], .ewaitK 5),
    ([0xAC000004], .ewaitE 4),
    ([0xB0030000], .atTick 3),
    ([0xB4071001], .codePin 7 .vec),
    ([0xB8000007], .safe 7),
    ([0xC0000021], .syscall 0x21),
    ([0xC0003000], .halt),
    ([0xC4600005], .qdepth 3 5),
    ([0xC860000C], .tstate 3 12),
    ([0xBCA00000], .cfgr 5 0),
    ([0x96B40003], .barArrw 21 20 0)] = true := by decide +kernel

/-- The worked encodings of R84 and of the programs of spec/15, 17 and 20. -/
theorem test_decode_walker_examples : decodesTo (.eng .walker) [
    ([0xA8000000], .wexit false 0),
    ([0x80AC0000], .wemitL 5 8),
    ([0xA1DE0000], .wmove .b 3 11 12),
    ([0x78150001], .wpos .idx 2 10),
    ([0x80BC8000], .wemitL 7 9),
    ([0x98200148], .wgo 4 8 true 2),
    ([0xA3160000], .wmove .b 6 2 12)] = true := by decide +kernel

/-- Reserved words are refused (R64): an op without a row, a function code beyond its table, a field that must be 0. -/
theorem test_decode_reserved_seq : [0x00000000, 0xCC000000, 0x04000019, 0x04000816, 0x180000C0, 0x1C010000, 0x58010000,
    0x7C000009, 0x80000001, 0x84000004, 0x84200000, 0x90000003, 0x94000005, 0x98000003, 0x9C000001, 0xA8000005,
    0xABE00001 + 0x00000001, 0xA8004000, 0xAC002000, 0xB0000001, 0xB4000006, 0xB4003000, 0xB8001000, 0xBC002000, 0xC0004000,
    0xC0002001, 0xC4000008, 0xC8000040].all (fun w => (decode .seq [w]).isNone) = true := by decide +kernel

/-- The same of the engines' words (R71, R78, R79, R80, R132, R156, R177, R197, R221). -/
theorem test_decode_reserved_engines :
    ([0x00000000, 0x0CC00000, 0x00400001, 0x01180000, 0x02000005, 0x03000001, 0x04D00000, 0x05400008, 0x05480006 + 0x00100000,
      0x05800010, 0x06000002, 0x0840000F, 0x09080010, 0x10000000].all (fun w => (decode (.eng .vector) [w]).isNone)) = true ∧
    ([[0x00000000], [0x78000000], [0x08040000], [0x10200000], [0x28000000], [0x60000010], [0x68000001], [0x1A040000],
      [0x1A040000, 0x00200000], [0x1A040000, 0x80020000]].all (fun l => (decode (.eng .matrix) l).isNone)) = true ∧
    ([[0x00000000], [0x88000000], [0x58400000], [0x0C000003, 0, 0], [0x46000000, 0, 0], [0x80000001],
      [0x6C000080, 0, 0]].all (fun l => (decode (.eng .transfer) l).isNone)) = true ∧
    ([0x00000000, 0xB0000000, 0x08018000, 0x50020000, 0x70000000 + 0x03000000, 0x78000002, 0x81800000, 0x98000020,
      0xA8000001].all (fun w => (decode (.eng .walker) [w]).isNone)) = true := by
  decide +kernel

/-! ## Well-formedness -/

/-- An ill-formed term for each check of `Instr.wf`, which the check refuses. -/
theorem test_illformed : ([
    .runV 0 1 5, .runX 30 1 3,                                                  -- n beyond 4, registers beyond g31
    .vldacc 0 .i32 false false 1 0, .vpchk 0 .n8 0 1 2 3, .vclass 0 .i16 1 2,   -- float types only
    .vsplat 0 .f32 .vp 1 4,                                                     -- vp4
    .vadd 0 (some ⟨false, false, false, false, 0, 1⟩) .f32 .dyn 1 2 3,          -- c without vfma
    .vdiv 0 none .i32 .dyn 1 2 3, .vexp2 0 none .i8 .dyn 1 2,                   -- float types only
    .vshl 0 .f32 1 2 3, .vshrSra 0 .n32 1 2 3,                                  -- integer types, signed types
    .vmpush 0 .i32 .un 1 2, .vredsum 0 .i32 .rne .all 1 2,                      -- float conditions and roundings
    .vtopk 0 .f32 true false 0 1 2 3, .vtopm 0 .f16 true true 0 1 2 3,
    .vrand 0 .f32 .bits 1 0 0, .vqrs 0 .i32 .unif 1 0 0, .viota 0 .f16 .lin 1,
    .mfmt 3 6 false, .mldbScaled 0 ⟨0, 1, 0, true⟩, .mrows false 0 0 ⟨0, 0, 0, false⟩ none,
    .mrows false 1025 0 ⟨0, 0, 0, false⟩ none, .mbag false 0 ⟨0, 0, 0, false⟩ 4097 1 ⟨0, 0, 0, false⟩,
    .mfeed false true 0 1 1, .mcharge false 1,
    .xpub ⟨1, false, 0⟩, .xcopyS2g ⟨0, false, 0⟩ false true 0 ⟨0, 0, 0, false⟩ 0,
    .xmcast ⟨0, false, 0⟩ 0 ⟨0, 0, 0, true⟩ 1 0, .xmcast ⟨0, false, 0⟩ 0 ⟨0, 0, 0, false⟩ 513 0,
    .xscale ⟨0, false, 0⟩ ⟨0, 0, 0, false⟩ 65, .xfillDef ⟨0, false, 0⟩ 0 ⟨0, 0, 0, true⟩ 16,
    .xbusySet ⟨0, false, 0⟩ ⟨0, 0, 0, false⟩ 0,
    .wgo 0 0 false 1, .wexit false 1] : List Instr).all (fun i => !i.wf) = true := by decide +kernel

/-! ## Witnesses: states and operands that meet the hypotheses of the statements

`pkg` is a package at power-on in which core 0 of partition 0 runs one task in slot 0, at pc 0x1000, and holds one
translation: a 2 MiB page at virtual 0, readable, writable and executable, at physical 0. -/

/-- The page of `pkg`. -/
def page : TlbEntry :=
  { part := 0, asid := 0, base := 0, size := 21, pa := 0, r := true, w := true, x := true, pe := false, pch := 0 }

/-- The task of `pkg`, changed by `f`. -/
def pkg (f : Slot → Slot) (c : Core → Core) : State :=
  let t : Slot := f { Slot.launchState with occupied := true, pc := 0x1000 }
  { State.reset with cores := [(0, c ({ Core.reset with l1tlb := [page] }.setTask 0 t))] }

/-- A general register set before the word. -/
def withG (l : List (GReg × Word64)) (t : Slot) : Slot := { t with g := l.foldl (fun v x => vset v x.1 x.2) t.g }

/-- A check or a translation that passed. -/
def passed {α β : Type} (r : Nat × Except α β) : Bool :=
  match r.2 with
  | .ok _ => true
  | .error _ => false

/-- The cause with which a check failed. -/
def failedWith (r : Nat × Except (Nat × Nat) Trans) : Nat :=
  match r.2 with
  | .ok _ => 0
  | .error f => f.1

theorem witness_ArithmeticResult :
    arithResult (pkg (withG [(1, 7), (2, 5)]) id).g (.sub 3 2 1) = some (3, 0xFFFFFFFFFFFFFFFE, 1) ∧
    arithResult (pkg (withG [(1, 0x8000000000000000)]) id).g (.mulh 0 1 1) = some (0, 0x4000000000000000, 3) := by
  decide +kernel

theorem witness_DivisionNeverFaults :
    let s := pkg (withG [(1, 7)]) id
    let b := pkg (withG [(1, 7)]) (fun c => { c with divBusy := 20 })
    divideResult s.g (.div 3 1 0) = some (3, 0xFFFFFFFFFFFFFFFF) ∧ s.me.divBusy ≤ s.tick ∧
    divideResult b.g (.rem 3 1 0) = some (3, 7) ∧ b.tick < b.me.divBusy := by decide +kernel

theorem witness_BranchMovesPc :
    let s := pkg (withG [(1, 7), (2, 7), (3, 8)]) id
    branchTaken s.g (.beq 1 2 2) = some (s.g 1 = s.g 2, 2) ∧ s.g 1 = s.g 2 ∧
    branchTaken s.g (.beq 1 3 2) = some (s.g 1 = s.g 3, 2) ∧ s.g 1 ≠ s.g 3 := ⟨rfl, by decide +kernel, rfl, by decide +kernel⟩

theorem witness_JalrLinksOrFaults :
    let s := pkg (withG [(31, 0x2000), (30, 0x2002)]) id
    (s.g 31 + (0 : BitVec 16).signExtend 64).toNat % 4 = 0 ∧ (s.g 30 + (0 : BitVec 16).signExtend 64).toNat % 4 ≠ 0 := by
  decide +kernel

/-- Every address up to the last dword of the page passes; the first one beyond it is not present. -/
theorem witness_accesses :
    let s := pkg (withG [(1, 0x1FFFF8), (2, 0x200000), (3, 1)]) id
    (loadAsk s.g (.ldD 4 1 0)).isSome = true ∧ passed (s.check (s.g 1) 8 .read) = true ∧
    (storeAsk s.g (.stD 4 1 0)).isSome = true ∧ passed (s.check (s.g 1) 8 .write) = true ∧ s.storeWaits = false ∧
    (loadAsk s.g (.amoAdd .system 4 1 3)).isSome = true ∧ passed (s.check (s.g 1) 8 .readWrite) = true ∧
    failedWith (s.check (s.g 2) 8 .read) = 0x08 ∧ failedWith (s.check (s.g 3) 8 .read) = 0x07 ∧
    (storeAsk s.g (.stl .die 2 4)).isSome = true ∧ failedWith (s.check (s.g 2) 8 .write) = 0x08 := by decide +kernel

/-- A request of the task of `pkg`. -/
def ask (op : MemOp) (dst : GReg) (pa : Nat) : Access :=
  { op := op, scope := none, dst := dst, va := pa, pa := pa, a := 5, b := 0, slot := 0, due := 0, stamp := 0,
    value := none, phase := .sent, seq := 0, lease := 64, pad := 0, old := false }

theorem witness_AccessPerforms : region (ask .cas 4 0x200008).pa ≠ 1 ∧ region 0x20000000000 ≠ 1 := by decide +kernel

theorem witness_LoadReplyWrites :
    let x : Access := { ask (.load 8 false) 4 0x200008 with value := some 9, stamp := 3 }
    let s := { pkg (fun t => { t with accReq := some x, hold := .access }) id with ev := .loadReply ⟨0, 0⟩ }
    s.ev = .loadReply ⟨0, 0⟩ ∧ (s.taskOf ⟨0, 0⟩).accReq = some x ∧ x.value = some 9 := by decide +kernel

theorem witness_StoreStampedWrites :
    let x : Access := { ask (.store 4) 0 0x200008 with due := 1 }
    let s := { (pkg id (fun c => { c with storeQ := [x] })).setPart 0 { Part.reset with tick := 1 } with ev := .storeStamped ⟨0, 0⟩ }
    s.ev = .storeStamped ⟨0, 0⟩ ∧ (s.core 0).storeQ.find? (fun y => y.slot == 0) = some x ∧ x.due ≠ 0 ∧ x.due ≤ s.tickOf 0 ∧
    (s.line (lineOf x.pa)).pinnedAgainst 0 = false ∧ (s.line (lineOf x.pa)).resv = none ∧
    (s.line (lineOf x.pa)).owner = none ∧ region x.pa ≠ 1 ∧
    x.op.update (BitVec.ofNat 64 (leNat (Memory.load s.mem x.pa x.op.bytes))) x.a x.b = some 5 := by decide +kernel

theorem witness_SpeculativeLoads :
    let s := pkg (withG [(1, 0x1FFFF8), (2, 0x200000)]) id
    let e (v : Bool) : TabEntry := { v := v, reg := some 4, ea := 8, f := false, pa := 0x200008 }
    let q (v : Bool) := pkg (fun t => { t with tab := vset t.tab 4 (e v) }) id
    passed (s.check (s.g 1 + (0 : BitVec 16).signExtend 64) 8 .read) = true ∧
    failedWith (s.check (s.g 2 + (0 : BitVec 16).signExtend 64) 8 .read) = 0x08 ∧
    (vget s.task.tab (Fin.ofNat 8 4)).reg ≠ some (4 : GReg) ∧ (vget (q true).task.tab (Fin.ofNat 8 4)).reg = some (4 : GReg) ∧
    (vget (q true).task.tab (Fin.ofNat 8 4)).v = true ∧ (q true).storesPending = false ∧ (q false).storesPending = false ∧
    (pkg (fun t => { t with lastStore := 9 }) id).storesPending = true ∧
    (vget (q false).task.tab (Fin.ofNat 8 4)).v = false ∧
    passed ((q false).check (vget (q false).task.tab (Fin.ofNat 8 4)).ea 8 .read) = true := by decide +kernel

/-- A core whose transfer engine has a run in progress. -/
def busyXfr (c : Core) : Core := c.setRun .transfer { Run.idle with active := true }

theorem witness_FencesComplete :
    (pkg (fun t => { t with lastStore := 9 }) (fun c => { c with storeQ := [{ ask (.store 4) 0 0x200008 with due := 9 }] })).fenceOpen
      false = true ∧
    (pkg id busyXfr).fenceOpen true = true ∧ (pkg id busyXfr).fenceOpen false = false ∧ (pkg id id).fenceOpen true = false := by
  decide +kernel

theorem witness_WaitsComplete :
    let s := pkg (fun t => { t with tokens := 0x85, latch := true }) busyXfr
    (∀ e : Engine, (4 : BitVec 4).getLsbD e.idx.val = true → (pkg id id).me.idle e (pkg id id).tick = true) ∧
    (4 : BitVec 4).getLsbD Engine.transfer.idx.val = true ∧ s.me.idle .transfer s.tick = false ∧
    (∀ k, (0x81 : BitVec 8).getLsbD k = true → s.task.tokens.getLsbD k = true) ∧
    (0x83 : BitVec 8).getLsbD (1 : Fin 8).val = true ∧ s.task.tokens.getLsbD (1 : Fin 8).val = false ∧
    s.task.latch = true ∧ (pkg id id).task.latch = false := by
  refine ⟨?_, by decide +kernel, by decide +kernel, ?_, by decide +kernel, by decide +kernel, by decide +kernel, by decide +kernel⟩
  · intro e; cases e <;> decide +kernel
  · intro k h
    have hk : k < 8 := BitVec.lt_of_getLsbD h
    interval_cases k <;> revert h <;> decide +kernel

/-- `pkg` with two stores of its task queued, to lines 0x8000 and 0x7FFF, the first of them in state `l`. -/
def lined (l : Line) (f : Slot → Slot) : State :=
  ((pkg f (fun c => { c with storeQ := [ask (.store 4) 0 0x200008, ask (.store 4) 0 0x1FFFC0] })).setPart 0
    { Part.reset with d0 := 0x10000 }).setLine 0x8000 l |>.setLine 0x7FFF l

/-- A line that core 1 pins, and one that a step of core 1 has reserved. -/
def pinned1 : Line := { Line.fresh 0 with pins := [⟨1, 0⟩] }
def taken1 : Line := { Line.fresh 0 with resv := some (1, 4) }

/-- The lines of a task's stores free, pinned by another core and reserved (R112, R280): what a release, `spawn`, `join` and
`send` are told. -/
theorem witness_lines :
    let say (l : Line) : List LinesSay := let s := lined l id
      [s.wordSay s.meRef [], s.sevSay 1, s.barSay .arr, s.spawnSay 0 0, s.joinSay 0, s.headerSay 0 5]
    say (Line.fresh 0) = List.replicate 6 .free ∧ say pinned1 = List.replicate 6 .refused ∧
    say taken1 = List.replicate 6 .reserved ∧ (lined pinned1 id).barSay .init = .free := by decide +kernel

/-- `pkg` in a partition of the first two cores of die 0. -/
def duo (f : Slot → Slot) : State := (pkg f id).setPart 0 { Part.reset with d0 := 0x10000 }

theorem witness_SevSetsLatch :
    let s := pkg (withG [(1, 3)]) id
    let d := duo (withG [(1, 3 + 4 + 8)])
    (s.g 1).toNat = (3 : Fin 4).val ∧ s.me.run = .running ∧
    (d.g 1).toNat = (3 : Fin 4).val + 4 + 8 * (1 % 64) + 512 * (1 / 64 % 4) + 2048 * (1 / 256) ∧
    (d.part d.partNo).hasCore 1 = true ∧ (d.part d.partNo).hasCore 2 = false ∧ 1 ≠ d.cur.core ∧ d.cur.core < 2048 ∧
    s.wordSay s.meRef [] = .free ∧ d.sevSay 1 = .free ∧
    (let e := { s with ev := .sevArrival ⟨0, 0⟩ 5 }
     e.ev = .sevArrival ⟨0, 0⟩ 5 ∧ (e.core 0).run = .running ∧ (e.taskOf ⟨0, 0⟩).occupied = true) ∧
    (let e := { s with ev := .sevArrival ⟨0, 1⟩ 5 }
     e.ev = .sevArrival ⟨0, 1⟩ 5 ∧ (e.core 0).run = .running ∧ (e.taskOf ⟨0, 1⟩).occupied = false) := by decide +kernel

/-- The five barrier words of `d`, `a`, `b` with their functions. -/
def barPairs (d a b : GReg) : List (BarFn × Instr) :=
  [(BarFn.init, Instr.barInit d a b), (.arr, .barArr d a b), (.wait, .barWait d a b), (.arrw, .barArrw d a b),
   (.query, .barQuery d a b)]

/-- A barrier of three arrivals of which two have come. -/
def bar3 : Bar := { Bar.reset with val := true, cnt := 3, arr := 2 }

theorem witness_BarrierRequests_home :
    let s := pkg (withG [(1, 511), (2, 1), (3, 2), (4, 8191)]) (fun c => c.setBar 511 bar3)
    let z := pkg (withG [(1, 511), (4, 8191)]) id
    s.me.run = .running ∧ (s.g 1).toNat < 512 ∧ s.barSay .arr = .free ∧ s.barSay .init = .free ∧
    (∀ y ∈ s.timers, s.barDue s.partNo y = none) ∧ (BarFn.arr, Instr.barArr 5 1 2) ∈ barPairs 5 1 2 ∧
    barAfter (s.me.bar 511) .arr (s.g 2).toNat = some (3, 0, true) ∧          -- the last arrival completes the phase
    barAfter (s.me.bar 511) .arrw (s.g 2).toNat = some (3, 0, true) ∧
    barAfter (s.me.bar 511) .arr (s.g 3).toNat = none ∧                        -- one too many
    barAfter (s.me.bar 511) .init (s.g 4).toNat = none ∧                       -- initialised with arrivals in progress
    barAfter (z.me.bar 511) .init (z.g 4).toNat = some (8191, 0, false) ∧
    barAfter (z.me.bar 511) .wait 0 = none ∧ barAfter (z.me.bar 511) .query 0 = some (0, 0, false) ∧
    (s.me.bar 511).ph ≠ (s.g 2).getLsbD 0 ∧ (s.me.bar 511).ph = (s.g 3).getLsbD 0 ∧ (s.me.bar 511).waits = [] ∧
    barAfter { bar3 with arr := 0 } .arrw 1 = some (3, 1, false) := by decide +kernel

theorem witness_BarrierRequests_away :
    let w : Nat := 511 + 2 ^ 9 + 1 * 2 ^ 10
    let s := duo (withG [(1, BitVec.ofNat 64 w), (2, 2 ^ 21), (3, 512 * 2), (4, 2 ^ 9 + 2 * 2 ^ 10)])
    w < 2 ^ 21 ∧ w / 2 ^ 9 % 2 = 1 ∧ (s.part s.partNo).hasCore 1 = true ∧ 1 ≠ s.cur.core ∧ s.cur.core < 2048 ∧
    s.barSay .arr = .free ∧ 2 ^ 21 ≤ (s.g 2).toNat ∧ ((s.g 3).toNat / 2 ^ 9 % 2 = 0 ∧ 512 ≤ (s.g 3).toNat) ∧
    (s.g 4).toNat < 2 ^ 21 ∧ (s.g 4).toNat / 2 ^ 9 % 2 = 1 ∧ (s.part s.partNo).hasCore 2 = false ∧
    (let r : BarReq := { fn := .arr, who := ⟨0, 0⟩, home := 1, num := 511, arg := 1, dst := 5, stamp := 0 }
     let e := { (s.setCore 1 (Core.reset.setBar 511 bar3)) with ev := .barrierRequestArrival r }
     e.ev = .barrierRequestArrival r ∧ (e.core 1).run = .running ∧ r.home ≠ r.who.core ∧ r.home < 2048 ∧
     barAfter ((e.core 1).bar 511) .arr 1 = some (3, 0, true) ∧ barAfter ((e.core 1).bar 511) .arr 2 = none) ∧
    (let r : BarReq := { fn := .query, who := ⟨0, 0⟩, home := 1, num := 511, arg := 1, dst := 5, stamp := 0 }
     let e := { (duo (fun t => { t with hold := .barrier })) with ev := .barrierReply r (some 7) 4 }
     e.ev = .barrierReply r (some 7) 4 ∧ (e.taskOf r.who).hold = .barrier ∧ (e.core r.who.core).run = .running) := by
  decide +kernel

theorem witness_RunBegins :
    let s := pkg (withG [(1, 4 * 2 ^ 24), (2, 2 ^ 48), (3, 1)]) busyXfr
    let w := (s.g 1).toNat
    (Engine.vector, Instr.runV 10 1 4) ∈ [(Engine.vector, Instr.runV 10 1 4), (.matrix, .runM 10 1 4),
      (.transfer, .runX 10 1 4), (.walker, .runW 10 1 4)] ∧
    ¬ (2 ^ 48 ≤ w ∨ w / 2 ^ 24 % 2 ^ 24 < w % 2 ^ 24 ∨ s.sectionLen s.cur.core (.eng .vector) < w / 2 ^ 24 % 2 ^ 24) ∧
    (s.me.runOf .vector).active = false ∧ (s.me.runOf .transfer).active = true ∧ 2 ^ 48 ≤ (s.g 2).toNat ∧
    (s.g 3).toNat / 2 ^ 24 % 2 ^ 24 < (s.g 3).toNat % 2 ^ 24 := by decide +kernel

/-- Dwords in physical memory. -/
def withMem (l : List (Nat × Nat)) (s : State) : State :=
  { s with mem := l.foldl (fun m x => Memory.store m x.1 (leBytes 8 x.2)) s.mem }

/-- A launch descriptor at 0x100 of one child on the task's own core, and a record at 0x200. -/
theorem witness_SpawnLaunches :
    let s := withMem [(0x100, 0x2000), (0x108, 9)] (pkg (withG [(1, 0x100), (2, 1), (3, 0x200), (4, 0x101)]) id)
    s.task.occupied = true ∧ s.spawnSay 0 1 = .free ∧ s.spawnSay 3 1 = .free ∧ s.spawnSay 0 4 = .free ∧
    (s.flushStores s.meRef).spawnFault 0 1 2 = none ∧ (s.flushStores s.meRef).spawnFault 3 1 2 = none ∧
    (let u := s.flushStores s.meRef
     passed (((u.noteWalks (dwords 0x100 3 ++ [0x200])).taskReads (dwords 0x100 3)).1.translate s.cur.core 0x200 .readWrite false) = true) ∧
    (s.flushStores s.meRef).spawnFault 0 4 2 = some (0x07, 0, 0, 0x101) ∧ s.g 0 = 0 ∧ s.g 3 ≠ 0 ∧ 0 < (s.g 2).toNat := by
  decide +kernel

theorem witness_JoinReturns :
    let s := withMem [(0x200, 2 + 2 * 2 ^ 16), (0x220, 2 + 2 ^ 16), (0x240, 2 ^ 63)] (pkg (withG [(1, 0x200)]) id)
    let u := s.flushStores s.meRef
    s.joinFault 0x200 = none ∧ s.joinSay 0x200 = .free ∧ s.joinSay 0x220 = .free ∧ s.joinSay 0x240 = .free ∧ u.peek 0x200 / 2 ^ 16 % 2 ^ 16 + u.peek 0x200 / 2 ^ 32 % 2 ^ 16 = u.peek 0x200 % 2 ^ 16 ∧
    ¬ u.peek 0x200 / 2 ^ 63 % 2 = 1 ∧
    joinBad (u.peek 0x200) (u.peek 0x208) (u.peek 0x210) (u.peek 0x218) = false ∧
    u.peek 0x220 / 2 ^ 16 % 2 ^ 16 + u.peek 0x220 / 2 ^ 32 % 2 ^ 16 ≠ u.peek 0x220 % 2 ^ 16 ∧ s.joinFault 0x220 = none ∧
    u.peek 0x240 / 2 ^ 63 % 2 = 1 ∧ s.joinFault 0x240 = none ∧ s.joinFault 0x210 = some (0x07, 0, 0x210) := by
  decide +kernel

/-- The translation tables of partition 0: one block of 512 MiB at virtual and physical 0, readable, writable and
executable, which holds the page of `pkg`. -/
def mapped (s : State) : State :=
  withMem [(0x400000, 3 + 0x41 * 2 ^ 16), (0x410000, 0x1D)] (s.setPart 0 { s.part 0 with root := 0x400001 })

/-- Mailbox 5 of partition 0 with an area of 64 bytes at 0x1000 of the page. -/
def box5 : Mbox := { Mbox.reset with base := 0x1000, area := 64, st := 1 }

theorem witness_SendPutsPacket :
    let s := withMem [(0x100, 1 + 2 * 2 ^ 16), (0x108, 0)] ((mapped (pkg (withG [(1, 0x100), (2, 5)]) id)).setMbox 5 box5)
    let f := s.setMbox 5 { box5 with wo := 48 }
    let u := s.flushStores s.meRef
    let v := ((u.noteWalks [0x100]).unpinTask s.meRef).taskReads (packetDwords 0x100 2)
    s.headerSay 0x100 (s.g 2) = .free ∧ s.headerSay 0x100 4096 = .free ∧ f.headerSay 0x100 (f.g 2) = .free ∧
    u.packetSay 0x100 2 (s.mbox 5) = .free ∧ u.sendFault 0x100 (s.g 2) = none ∧ u.peek 0x100 / 2 ^ 16 % 64 = 2 ∧ (s.mbox 5).room 32 = true ∧
    (match v.1.packetCells (s.mbox 5) ((v.2.flatMap (leBytes 8)).take 32) with
     | .ok cells => !cells.isEmpty && cells.all (fun c => region c.1 != 1 && (cells.reverse.lookup c.1).isSome)
     | .error _ => false) = true ∧
    (f.flushStores f.meRef).sendFault 0x100 (f.g 2) = none ∧ (f.mbox 5).room 32 = false ∧
    u.sendFault 0x100 4096 = some (0x01, 0, 0, 0) := by decide +kernel

theorem witness_CodeCacheWords :
    let s := pkg (withG [(1, 0x1FFFC0), (2, 0x200000)]) id
    passed (s.translate s.cur.core (s.g 1).toNat CacheSel.seq.kind false) = true ∧
    passed (s.translate s.cur.core (s.g 1).toNat CacheSel.data.kind false) = true ∧
    passed (s.translate s.cur.core (s.g 2).toNat CacheSel.wlk.kind false) = false ∧
    CacheSel.xfr.agent = some (.eng .transfer) ∧ CacheSel.data.agent = none ∧
    s.codeSay 0 .seq 0x1FFFC0 0x1FFFC0 = .free ∧ s.codeSay 0 .data 0x1FFFC0 0x1FFFC0 = .free ∧
    (lined pinned1 id).codeSay 0 .data 0x1FFFC0 0x1FFFC0 = .refused ∧ (lined taken1 id).codeSay 0 .data 0x1FFFC0 0x1FFFC0 = .reserved := by decide +kernel

/-- A safe-map record: registers g1 and v2, one tile, one bank and one accumulator piece are live. -/
def safe7 : SafeRec :=
  { woff := 0, num := 7, span := 1, gmask := 2, vmask := 4, amask := 1, smask := 1, tmask := 1, bmask := 1, dir := true }

/-- An image with five sections of 16 words and one safe point. -/
def image7 : Loaded :=
  { sections := Vector.replicate 5 { base := 0x1000, len := 16, pas := [(0, 0)] }, safes := [safe7] }

theorem witness_SafePointClears :
    let s := (pkg id id).setPart 0 { Part.reset with image := some image7 }
    let w := (pkg id (fun c => { c with saveReq := some false })).setPart 0 { Part.reset with image := some image7 }
    s.safeRec 7 = some safe7 ∧ s.safeRec 8 = none ∧ s.me.pauseWanted = false ∧ w.safeRec 7 = some safe7 ∧
    w.me.pauseWanted = true := by decide +kernel

/-- The first and the last register of each range, the numbers beside them, and values at the edges of the fields. -/
theorem witness_ConfigRegisters :
    let s := pkg (withG [(1, 0x3F), (2, 0x40), (3, 10), (4, 11), (5, 0xFFFF), (6, 0x10000)]) id
    (∀ n ∈ [0x000, 0x003, 0x010, 0x013, 0x020, 0x023, 0x030, 0x037, 0x040, 0x043, 0x050, 0x05F, 0x060, 0x062],
      cfgValue s n ≠ none) ∧
    (∀ n ∈ [0x004, 0x00F, 0x014, 0x01F, 0x024, 0x02F, 0x038, 0x03F, 0x044, 0x04F, 0x063, 0xFFF], cfgValue s n = none) ∧
    cfgReadOnly 0x000 = true ∧ cfgReadOnly 0x043 = true ∧ cfgReadOnly 0x060 = true ∧ cfgReadOnly 0x010 = false ∧
    cfgReadOnly 0x061 = false ∧ cfgReadOnly 0x062 = false ∧
    cfgLegal 0x010 (s.g 1) = true ∧ cfgLegal 0x010 (s.g 2) = false ∧ cfgLegal 0x05F (s.g 3) = true ∧
    cfgLegal 0x05F (s.g 4) = false ∧ cfgLegal 0x020 (s.g 5) = true ∧ cfgLegal 0x020 (s.g 6) = false ∧
    cfgLegal 0x020 (s.g 0) = true := by decide +kernel

theorem witness_TaskFaultTaken :
    let s := pkg id id
    let full := (pkg id id).setPart 0 { Part.reset with records := [] }
    (s.taskOf ⟨0, 0⟩).ended = false ∧ s.wordSay ⟨0, 0⟩ (s.joinLines ⟨0, 0⟩) = .free ∧ (s.taskOf ⟨0, 0⟩).occupied = true ∧ (full.part (full.core 0).part).hasRoom 0 = true ∧
    (s.taskOf ⟨0, 0⟩).trapMode = false ∧
    (∀ f ∈ [FaultInfo.plain 0x20 0 0x1000, FaultInfo.plain 0x08 0 0x1000], f.cause = 0x20 ∨ f.cause = 0x21 ∨
      (f.cause = 0x08 ∧ f.unit = 0)) ∧
    (let f := FaultInfo.plain 0x08 3 0; f.cause = 0x08 ∧ f.unit ≠ 0 ∧ f.unit = 3) ∧
    (let f := FaultInfo.plain 0x0F 0 0x1000; f.cause ≠ 0x20 ∧ f.cause ≠ 0x21 ∧ f.cause ≠ 0x08) := by decide +kernel

theorem witness_SystemWords :
    let s := pkg id id
    let m := pkg (fun t => { t with trapMode := true, epc := 0x2000 }) id
    let e := { s with cur := { s.cur with unit := .eng .walker } }
    s.task.occupied = true ∧ s.task.ended = false ∧ s.wordSay s.meRef (s.joinLines s.meRef) = .free ∧
    (s.part s.partNo).hasRoom 0 = true ∧ s.task.trapMode = false ∧ m.task.trapMode = true ∧
    (pkg id busyXfr).fenceOpen true = true ∧ s.fenceOpen true = false ∧ s.cur.unit = .seq ∧ e.cur.unit = .eng .walker ∧
    (Engine.walker, 0x04) ∈ [(Engine.vector, 0x02), (.matrix, 0x03), (.transfer, 0x03), (.walker, 0x04)] := by decide +kernel

/-- The stream of the core of `pkg`. -/
def stream0 : Stream := { die := 0, station := 0, vc := 0 }

/-- `pkg` with a request that has been sent as number 0 and event `e`. -/
def sent (x : Access) (e : Ev) (f : StreamState → StreamState) : State :=
  { ((pkg (fun t => { t with accReq := some x, hold := .access }) id).setStream stream0
      (f { h := none, done := [], sent := [(0, ⟨0, 0⟩, 0)], kept := [], acked := 1, msgs := [] })) with ev := e }

theorem witness_RequestPerformed :
    let x := ask (.load 8 false) 4 0x1008
    let e := Ev.requestAtHome stream0 0
    let s := sent x e id
    let p := s.setLine (lineOf x.pa) { Line.fresh 0 with pins := [⟨1, 0⟩] }
    let o := sent x e (fun y => { y with h := some 256 })
    let k := sent x e (fun y => { y with h := some 0, kept := [(0, 9, 3)] })
    s.ev = e ∧ (s.stream stream0).sent.find? (fun z => z.1 == 0) = some (0, ⟨0, 0⟩, 0) ∧ (s.taskOf ⟨0, 0⟩).accReq = some x ∧
    x.seq = 0 ∧ (s.stream stream0).performed 0 = false ∧ (s.storesOf ⟨0, 0⟩).any (fun y => y.seq == 0) = false ∧
    (s.stream stream0).tooOld 0 = false ∧ s.sliceServes 0 x (s.taskOf ⟨0, 0⟩).ts = none ∧
    (s.line (lineOf x.pa)).pinnedAgainst 0 = false ∧ (s.line (lineOf x.pa)).resv = none ∧
    (s.line (lineOf x.pa)).owner = none ∧ (p.line (lineOf x.pa)).pinnedAgainst 0 = true ∧
    (p.stream stream0).performed 0 = false ∧ (o.stream stream0).tooOld 0 = true ∧ (o.stream stream0).performed 0 = false ∧
    (k.stream stream0).performed 0 = true ∧ (k.stream stream0).kept.find? (fun z => z.1 == 0) = some (0, 9, 3) ∧
    (s.part (s.core (s.coreOfStream stream0)).part).fl = false ∧ p.rides 0 x = true ∧
    p.rides 0 { x with scope := some .core } = false ∧
    (let q := { sent x e id with cores := [(0, { (sent x e id).core 0 with storeQ := [{ ask (.store 4) 0 0x200008 with seq := 0 }] })] }
     (q.stream stream0).performed 0 = false ∧ (q.storesOf ⟨0, 0⟩).any (fun y => y.seq == 0) = true) := by
  decide +kernel

theorem witness_RequestsRepeat :
    let x := ask (.load 8 false) 4 0x1008
    let r := sent { x with phase := .refused } (.requestRetry ⟨0, 0⟩) id
    let w := sent { x with phase := .waiting } (.requestRetry ⟨0, 0⟩) id
    let full := w.setTaskOf ⟨0, 0⟩ { w.taskOf ⟨0, 0⟩ with lastStore := 9 }
    let bad := sent { x with phase := .failed } (.requestRetry ⟨0, 0⟩) id
    let t (n : Nat) := sent x (.requestReplay stream0 0) (fun y => { y with sent := [(0, ⟨0, 0⟩, n)] })
    let a (n : Nat) := sent x (.requestAcknowledgement stream0 n) id
    (sent x (.retryResponse ⟨0, 0⟩) id).ev = .retryResponse ⟨0, 0⟩ ∧
    (∃ y, (r.taskOf ⟨0, 0⟩).accReq = some y ∧ y.phase = .refused) ∧
    (∃ y, (w.taskOf ⟨0, 0⟩).accReq = some y ∧ y.phase = .waiting) ∧
    (r.taskOf ⟨0, 0⟩).hold = .access ∧ (w.taskOf ⟨0, 0⟩).hold = .access ∧ w.accessWaits ⟨0, 0⟩ = false ∧
    ((full.taskOf ⟨0, 0⟩).accReq.map (fun y => y.phase)) = some .waiting ∧ full.accessWaits ⟨0, 0⟩ = true ∧
    ((bad.taskOf ⟨0, 0⟩).accReq.map (fun y => y.phase)) = some .failed ∧ bad.storesBy ⟨0, 0⟩ ≤ bad.tickOf 0 ∧
    ((t 7).stream stream0).sent.find? (fun z => z.1 == 0) = some (0, ⟨0, 0⟩, 7) ∧ ((t 7).taskOf ⟨0, 0⟩).accReq = some x ∧
    x.phase ≠ .refused ∧ x.op.replies = true ∧ x.seq = 0 ∧
    ((t 8).stream stream0).sent.find? (fun z => z.1 == 0) = some (0, ⟨0, 0⟩, 8) ∧
    (a 0).ev = .requestAcknowledgement stream0 0 ∧ 0 < ((a 0).stream stream0).acked ∧
    ((a 1).stream stream0).acked ≤ 1 ∧ ((a 1).stream stream0).acked < 65536 := by
  refine ⟨by decide +kernel, ⟨_, rfl, rfl⟩, ⟨_, rfl, rfl⟩, ?_⟩
  decide +kernel

theorem witness_CachesFilled :
    let s := pkg id id
    let g := mapped (pkg id (fun c => { c with l1tlb := [] }))
    (∃ e, s.lookup 0 0x1000 = (0, .ok e)) ∧ passed (g.lookup 0 0x1000) = true ∧ passed (s.lookup 0 0x200000) = false ∧
    0 < s.dieWays (s.core 0).part (dieOf 0) ∧ passed (s.translate 0 0x1000 .fetch false) = true ∧
    WalkFor.core ≠ WalkFor.frontEnd ∧ (Agent.seq : Agent) = .seq ∧
    (let w (f : Option TlbEntry) : Walk := { core := 0, part := 0, block := 0, till := 0, found := f, why := 1, for_ := .core }
     let k (f : Option TlbEntry) := { s.setDie 0 { Die.reset with walks := [w f] } with ev := .tableWalkComplete 0 0x1000 .core }
     let find (s : State) := (s.die 0).walks.find? (fun x =>
       x.core == 0 && x.for_ == .core && x.block == 0x1000 / 65536 && decide (x.till ≤ s.tickOf 0))
     find (k (some page)) = some (w (some page)) ∧ find (k none) = some (w none) ∧ find s = none) ∧
    (let c : SliceCopy := { data := 0, wts := 1, rts := 2, caches := [0], held := true }
     let p := { s.setSlice (sliceOn 0 64) { (s.slice (sliceOn 0 64)) with copies := [(64, c)] } with ev := .leasePush 0 64 (some 0) 7 3 9 }
     p.ev = .leasePush 0 64 (some 0) 7 3 9 ∧ Tbl.get? (p.slice (sliceOn 0 64)).copies 64 = some c ∧ c.held = true ∧ c.wts < 3) := by
  refine ⟨⟨_, rfl⟩, ?_⟩
  decide +kernel

theorem witness_DecodeOfEncode :
    (Instr.xcopyS2g ⟨7, true, 0xFF⟩ true true 31 ⟨0x1FFFF, 0, 63, true⟩ 0xFFFFFFFF).unit? = some (.eng .transfer) ∧
    (Instr.xcopyS2g ⟨7, true, 0xFF⟩ true true 31 ⟨0x1FFFF, 0, 63, true⟩ 0xFFFFFFFF).wf = true ∧
    (Instr.vfma 7 (some ⟨true, true, true, true, 63, 31⟩) .b16 .rup 31 31 31).unit? = some (.eng .vector) ∧
    (Instr.vfma 7 (some ⟨true, true, true, true, 63, 31⟩) .b16 .rup 31 31 31).wf = true := by decide +kernel

/-- A word placed where the next step fetches is fetched, and decodes; a reserved word is fetched and does not. -/
theorem witness_StepRunsDecoded :
    let s := State.reset.withFetchWord 32 0x9D2A5800
    let z := State.reset.withFetchWord 32 0x00000000
    (match s.agenda with
     | .issue who :: rest =>
       match { s with agenda := rest, cur := who }.fetch who with
       | .words ws => decode who.unit ws == some (.spawn 9 10 11, 1)
       | _ => false
     | _ => false) = true ∧
    (match z.agenda with
     | .issue who :: rest =>
       match { z with agenda := rest, cur := who }.fetch who with
       | .words ws => decode who.unit ws == none
       | _ => false
     | _ => false) = true ∧
    State.reset.agenda = [] ∧ State.reset.inputs = [] := by decide +kernel

theorem witness_StepKeepsMemoryForm :
    State.reset.memoryOk ∧ (match step State.reset with
      | .next _ => true
      | _ => false) = true := by
  refine ⟨⟨by decide +kernel, by decide +kernel⟩, by decide +kernel⟩

/-- A core whose engine `e` has a run in progress with range registers `vp`, the rest of it changed by `f`. -/
def running (e : Engine) (vp : List Word64) (f : Run → Run) (c : Core) : Core :=
  c.setRun e (f { Run.idle with active := true, endOff := 100,
                                vp := Vector.ofFn (fun i : Fin 4 => vp.getD i.val 0) })

/-- A vector unit with a shape. -/
def shaped (rows cols : Nat) (c : Core) : Core := { c with vec := { c.vec with rows := rows, cols := cols } }

/-- `pkg` with its vector engine at work on a shape. -/
def vpkg (rows cols : Nat) (vp : List Word64) (f : Run → Run) (g : Core → Core) : State :=
  pkg id (fun c => g (shaped rows cols (running .vector vp f c)))

/-- The result of a pending vector word in v1, due in tick `n`. -/
def due1 (n : Nat) : VWrite := { at_ := n, dst := some 1, val := 5, mask := 0xFFFFFFFF, flags := 1, slot := some 0 }

theorem witness_VectorElements :
    let s := vpkg 1 1 [] id id
    let big := vpkg 8 512 [] id id
    let chk := vpkg 1 1 [] (fun r => { r with cfg := { r.cfg with holdchk := true } })
      (fun c => { c with vec := { c.vec with pending := [due1 9] } })
    let ok (o : Option VWord) : Option Bool := o.map (fun x => x.ok)
    ok (vecWordOf s (.vadd 0 none .f32 .rne 3 1 2)) = some true ∧ ok (vecWordOf big (.vadd 0 none .f32 .rne 3 1 2)) = some false ∧
    ok (vecWordOf big (.vadd 0 none .i8 .rne 3 1 2)) = some true ∧ ok (vecWordOf s (.vredsum 0 .f32 .rne .all 3 1)) = some true ∧
    ok (vecWordOf s (.vtanh 0 none .f16 .rne 3 1)) = some true ∧ ok (vecWordOf s (.vrand 0 .n32 .bits 3 0 1)) = some true ∧
    (chk.run .vector).cfg.holdchk = true ∧
    chk.me.vec.undersized chk.tick 3 ([1, 2].map chk.me.vec.phys) (some (chk.me.vec.phys 3)) = true ∧
    (s.run .vector).cfg.holdchk = false ∧ (s.run .vector).cfg.trapen = 0 := by decide +kernel

/-- 1 / 0 with the division's trap enabled. -/
theorem witness_VectorElements_trap :
    let s := vpkg 1 1 [] (fun r => { r with cfg := { r.cfg with trapen := 0x3F } })
      (fun c => { c with vec := { c.vec with v := vset c.vec.v 1 0x3F800000 } })
    ((vecWordOf s (.vdiv 0 none .f32 .rne 3 1 2)).map (fun x => ((x.elem 0).map (fun p => p.2)).getD 0 &&& 0x3F)).getD 0 ≠ 0 := by
  decide +kernel

theorem witness_VectorWriteback :
    let s := { vpkg 1 1 [] id (fun c => { c with vec := { c.vec with pending := [due1 0] } }) with ev := .vectorWriteback }
    let z := { vpkg 1 1 [] id (fun c => { c with vec := { c.vec with pending := [due1 1] } }) with ev := .vectorWriteback }
    s.ev = .vectorWriteback ∧ s.me.vec.pending.find? (fun w => decide (w.at_ ≤ s.tick)) = some (due1 0) ∧
    z.me.vec.pending.find? (fun w => decide (w.at_ ≤ z.tick)) = none ∧ (due1 0).dst = some 1 ∧ (due1 0).slot = some 0 := by
  decide +kernel

theorem witness_VectorSelections :
    let s := vpkg 4 128 [128, 129, 0] id id
    let k (i : VpReg) := (s.vp .vector i).toNat % 2 ^ 16
    ¬ (k 0 < 1 ∨ s.me.vec.cols < k 0 ∨ 1024 < s.me.vec.rows * 2 * k 0) ∧ s.me.vec.cols < k 1 ∧ k 2 < 1 ∧
    shapeFits s .f32 = true ∧ shapeFits s .n32 = true ∧ (s.run .vector).cfg.holdchk = false ∧
    (s.run .vector).cfg.trapen = 0 := by decide +kernel

/-- A core with tile 1 at the start of bank 2, 4096 bytes long, in state `st`. -/
def withTile (st : TState) (c : Core) : Core :=
  { c with tt := vset c.tt 1 { TileEnt.reset with st := st, bank := 2, len := 255 } }

/-- The last word of bank 15, one byte and one element beyond it, and a tile in each state; for the accumulator the last
row, one row beyond it, and a nonzero field that must be 0. -/
theorem witness_VectorMemoryWords :
    let s := vpkg 1 1 [0x1FFFFC, 0x1FFFFD, 0x8100000000000000, 0x3FF, 0] id (withTile .ready)
    let w := vpkg 1 1 [0, 0, 0x8100000000000000] id (withTile .filling)
    let e := vpkg 1 1 [0, 0, 0x8100000000000000] id (withTile .empty)
    let b := vpkg 1 2 [0x1FFFFC, 0x400000000000, 0x3FF, 0x20000] id id
    let adm (s : State) (i : VpReg) := s.admitRows (s.vp .vector i) (s.vAcc (s.vp .vector i) .f32) .f32
    let el (s : State) (i : VpReg) := s.admitElems (s.vp .vector i) (s.vAcc (s.vp .vector i) .f32) .lin .f32
      s.me.vec.enabled (vElemOf s .n32 4)
    let bad (s : State) (i : VpReg) (ex : Bool) : Bool :=
      let w := s.vp .vector i
      !shapeFits s .f32 || decide (2 ^ 17 ≤ w.toNat ∨ 128 < w.toNat / 2 ^ 10 % 2 ^ 7 + s.me.vec.cols ∨
        (if ex then 256 else 1024) < w.toNat % 2 ^ 10 + s.me.vec.rows)
    adm s 0 = .go ∧ adm s 1 = .fault 0x07 ∧ adm s 2 = .go ∧ adm w 2 = .wait ∧ adm e 2 = .fault 0x0B ∧ adm b 0 = .fault 0x0A ∧
    adm b 1 = .fault 0x0A ∧ el s 0 = .go ∧ el s 1 = .fault 0x07 ∧ el w 2 = .wait ∧ el e 2 = .fault 0x0B ∧
    bad s 3 false = false ∧ bad s 3 true = true ∧ bad b 3 false = true ∧
    (s.run .vector).cfg.holdchk = false ∧ (s.run .vector).cfg.trapen = 0 := by decide +kernel

theorem witness_VectorControl :
    let s := vpkg 1 2 [0x3FFFFF, 0x400000, 3 + 1023 * 1024, 0x3FF] id id
    let m (n : Nat) (x : BitVec 4096) := vpkg 1 2 [] id (fun c => { c with vec := { c.vec with masks := List.replicate n x } })
    let l := vpkg 1 2 [2] (fun r => { r with upc := 9 }) (fun c => { c with vec := { c.vec with
      loop := some { n := 2, s := 2, l := 3, u := 9, p := 1 } } })
    let big := vpkg 8 512 [] id id
    let w (i : VpReg) := (s.vp .vector i).toNat
    2 ^ 22 ≤ w 1 ∧ 4096 < (w 0 % 2 ^ 10 + 1) * (w 0 / 2 ^ 10 % 2 ^ 12 + 1) ∧
    (w 2 < 2 ^ 22 ∧ (w 2 % 2 ^ 10 + 1) * (w 2 / 2 ^ 10 % 2 ^ 12 + 1) = 4096) ∧
    shapeFits big .f32 = false ∧ shapeFits s .f32 = true ∧ (m 8 0).me.vec.masks.length = 8 ∧ (m 7 0).me.vec.masks.length < 8 ∧
    (m 0 0).me.vec.masks = [] ∧ (m 1 3).me.vec.masks = 3 :: [] ∧
    (s.run .vector).endOff.toNat < (s.run .vector).upc.toNat + 1 + (100 : BitVec 15).toNat ∧
    (s.run .vector).upc.toNat + 1 + (99 : BitVec 15).toNat ≤ (s.run .vector).endOff.toNat ∧
    (m 1 0).me.vec.masks ≠ [] ∧ (∀ q, q < (m 1 0).me.vec.count → vOn (m 1 0) q = false) ∧
    (∀ q, q < s.me.vec.count → vOn s q = true) ∧ vOn (m 1 1) 1 = false ∧ vOn (m 1 1) 0 = true ∧
    l.me.vec.loop ≠ none ∧ s.me.vec.loop = none ∧ (s.vp .vector 1).toNat % 2 ^ 32 ≠ 0 ∧ (m 0 0).vp .vector 0 = 0 ∧
    1 + 1 < 2 + 2 - 1 + (0 : Nat) ∧ 2 + 2 - 1 ≤ 2 + 1 := by decide +kernel

/-- Queue 0 bound to operand queue 2 of the same core, and operand queue 2 to a peer. -/
def bound (c : Core) : Core := { c with qbind := vset (vset c.qbind 0 (1 + 2 * 2)) 2 0x10000 }

/-- A row of a queue that came in tick 0. -/
def row0 : QRow := { bytes := leBytes 4 7, tag := 3, carder := none, at_ := 0 }

theorem witness_VectorQueues :
    let s := vpkg 1 1 [] id bound
    let full := vpkg 1 1 [] id (fun c => { bound c with iq := vset c.iq 2 (List.replicate 64 row0) })
    let one := (vpkg 1 1 [] id (fun c => { bound c with iq := vset c.iq 2 [row0] })).setPart 0 { Part.reset with tick := 5 }
    let un := vpkg 1 1 [] id id
    let wide := vpkg 1 65 [] id bound
    let y : QTransit := { row := row0, core := 0, q := 2, due := 0 }
    let d := { vpkg 1 1 [] id (fun c => { bound c with oq := vset c.oq 0 [y] }) with ev := .queueRowDelivery 0 0 }
    (shapeFits s .f32 = true ∧ s.me.vec.cols * 4 ≤ 256 ∧ s.me.vec.rows ≤ 64) ∧ 256 < wide.me.vec.cols * 4 ∧
    (un.me.qbind[0]).getLsbD 0 = false ∧ (vget s.me.qbind 0).getLsbD 0 = true ∧ s.me.targetOf 0 = (0, 2) ∧
    (s.core 0).srcOf 2 = 1 ∧ s.queued 0 2 + s.me.vec.rows ≤ 64 ∧ 64 < full.queued 0 2 + full.me.vec.rows ∧
    un.me.srcOf 2 = 0 ∧ ((vget s.me.iq 2).filter (fun x => decide (x.at_ < s.tick))).length < s.me.vec.rows ∧
    one.me.vec.rows ≤ ((vget one.me.iq 2).filter (fun x => decide (x.at_ < one.tick))).length ∧
    d.ev = .queueRowDelivery 0 0 ∧ vget (d.core 0).oq 0 = [y] ∧ y.due ≤ d.tickOf 0 ∧ (d.core y.core).run = .running := by decide +kernel

/-- Direction loads: the last dimension, one beyond it, none, and a misaligned source; a coordinate of a loading dimension. -/
theorem witness_VectorDirections :
    let s := vpkg 1 1 [0x20000, 63 + 64, 64 + 64, 1] id id
    let v := vpkg 1 1 [63 * 2 ^ 32, 64 * 2 ^ 32] id (fun c => { c with vec := { c.vec with dirLoads := [(1, 63, List.replicate 32 4)] } })
    let sel (i : VpReg) := (s.vp .vector i).toNat
    let p (i : VpReg) := let w := s.vp .vector i
      s.me.place (w.getLsbD 63) (Fin.ofNat 64 (w.toNat / 2 ^ 56)) (w.toNat / 2 ^ 17 % 16) (w.toNat % 2 ^ 17)
    sel 1 % 64 + sel 1 / 64 % 128 = 64 ∧ sel 2 / 64 % 128 = 2 ∧ sel 3 / 64 % 128 = 0 ∧ sel 1 < 2 ^ 13 ∧
    (vpAddr? (s.vp .vector 0)).isNone = false ∧ (p 0).fits (p 0).off (128 * 1) = true ∧ (p 0).off % 4 = 0 ∧
    (p 3).off % 4 ≠ 0 ∧ s.admitTile (p 0) (p 0).off 128 = .go ∧
    63 + s.me.vec.cols ≤ 64 ∧ 64 < 64 + v.me.vec.cols ∧ (v.vp .vector 0).toNat < 2 ^ 39 ∧
    (∀ y ∈ s.me.vec.dirLoads, y.1 ≠ s.tick) ∧
    v.me.vec.dirLoads.filter (fun y => y.1 == 1) = [(1, 63, List.replicate 32 4)] ∧ v.me.vec.dirBusy v.tick 63 = true ∧ s.me.vec.dirBusy s.tick 63 = false ∧ shapeFits s .n32 = true := by decide +kernel


/-! ### Matrix engine -/

/-- `pkg` with its matrix engine at work. -/
def mpkg (m : MatUnit → MatUnit) (g : Core → Core) : State :=
  pkg id (fun c => g (running .matrix [] id { c with mat := m c.mat }))

/-- Bank 2, and the format of `af` at power-on. -/
def bank2 (c : Core) : Core := { c with bfmt := vset c.bfmt 2 2 }

/-- A place of bank 2. -/
def sp2 (off : BitVec 17) : SpadAddr := { off := off, bank := 2, tile := 0, tf := false }

/-- Tile 1 in its tile form. -/
def ti1 (off : BitVec 17) : SpadAddr := { off := off, bank := 0, tile := 1, tf := true }

/-- A pass of one zero for row `r`, landing in tick `n`. -/
def pass1 (n r : Nat) (v : RowVal) : Pass := { at_ := n, row := r, steer := true, bag := false, vals := [v], flags := 0 }

/-- An open bag of one entry. -/
def bag1 (f : BagFate) : Bag :=
  { entries := [{ idx := 0, mid := 0, tag := 0, scale := [], fate := f }], e := 1, base := 0, steer := false,
    report := sp2 0, slot := 0, asked := 1, stamp := 0, till := 0 }

/-- The scales of a tapered B: the last 512 bytes of a bank, and one byte more; a B of another format; a pass in its first
ticks; a bag that holds the engine. -/
theorem witness_MatrixSetup :
    let s := mpkg id id
    let t := mpkg (fun m => { m with af := 4, bf := 4, bfmt := 4 }) (fun c => { c with tdesc := vset c.tdesc 3 0x40000 })
    let busy := mpkg (fun m => { m with passes := [pass1 131 0 (.rounded 0)] }) id
    let held := mpkg (fun m => { m with bag := some (bag1 .waiting) }) id
    held.bagHolds = true ∧ s.bagHolds = false ∧
    (vget s.me.tdesc 3).toNat / 2 ^ 16 = s.me.mat.bf.toNat ∧ (vget t.me.tdesc 2).toNat / 2 ^ 16 ≠ t.me.mat.bf.toNat ∧
    (∃ p ∈ busy.me.mat.passes, busy.tick + 130 < p.at_) ∧ ¬ (∃ p ∈ s.me.mat.passes, s.tick + 130 < p.at_) ∧
    s.me.tileComing 3 = false ∧ s.me.mat.bf.toNat ≠ 4 ∧ s.me.mat.bf.toNat ≠ 5 ∧ t.me.mat.bf.toNat = 4 ∧
    (t.me.placeOf (sp2 0x1FE00)).fits 0x1FE00 512 = true ∧ (t.me.placeOf (sp2 0x1FE01)).fits 0x1FE01 512 = false ∧
    (vget t.me.tdesc 3).toNat / 2 ^ 16 = t.me.mat.bf.toNat ∧
    t.admitTile (t.me.placeOf (sp2 0x1FE00)) 0x1FE00 512 = .go ∧ t.bagHolds = false ∧
    ¬ (∃ p ∈ t.me.mat.passes, t.tick + 130 < p.at_) ∧ t.me.tileComing 3 = false := by decide +kernel

/-- Finite elements: 1.0 and -1.0, at two scales. -/
theorem witness_RowSumIsExact :
    ∀ x ∈ [(Exact.fin false 1 0 false, Exact.fin true 1 0 false, (3 : Int)), (Exact.fin false 1 0 true, Exact.fin false 1 0 true, -3)],
      x.1.finite = true ∧ x.2.1.finite = true := by decide

/-- `mrows` of one row from the last row of bank 2 to the last accumulator row, with each check failed once. -/
theorem witness_MatrixRows :
    let s := mpkg (fun m => { m with bk := 1, bn := 1 }) bank2
    let t := mpkg (fun m => { m with af := 4, bf := 4, bfmt := 4, bk := 1, bn := 1 }) id
    let held := mpkg (fun m => { m with bag := some (bag1 .waiting) }) bank2
    let empty := mpkg id (fun c => bank2 (withTile .empty c))
    let p (o : BitVec 17) := s.me.placeOf (sp2 o)
    (s.bagHolds = false ∧ s.me.mat.progress = 0) ∧ held.bagHolds = true ∧
    (s.me.bankFmt 2 = fmtOf s.me.mat.af ∧ s.me.mat.bfmt = s.me.mat.bf) ∧ s.me.bankFmt 3 ≠ fmtOf s.me.mat.af ∧
    s.me.mat.rowLen = 2 ∧ 0x1FFFE % 2 = 0 ∧ 0x1FFFD % 2 ≠ 0 ∧ (p 0x1FFFE).fits (p 0x1FFFE).off 2 = true ∧
    1023 + (1 : BitVec 11).toNat ≤ 1024 ∧ ¬ 1023 + (2 : BitVec 11).toNat ≤ 1024 ∧
    s.me.tileSay (p 0x1FFFE) = .go ∧ s.granulesBusy (p 0x1FFFE) 0x1FFFE 2 = false ∧
    s.me.rowScales = .taken [] ∧ t.me.rowScales = .missing ∧ t.granulesBusy (p 0) 0 1 = false ∧
    empty.me.tileSay (empty.me.placeOf (ti1 0)) = .fault ∧
    empty.me.bankFmt (empty.me.placeOf (ti1 0)).bank = fmtOf empty.me.mat.af ∧
    (empty.me.placeOf (ti1 0)).fits (empty.me.placeOf (ti1 0)).off empty.me.mat.rowLen = true := by decide +kernel

/-- `mfeed` from queue 2: unbound, bound and empty, and with a row that came before; to the last accumulator row. -/
theorem witness_MatrixRows_feed :
    let s := mpkg id bound
    let one := (mpkg id (fun c => { bound c with iq := vset c.iq 2 [row0] })).setPart 0 { Part.reset with tick := 5 }
    let other := mpkg (fun m => { m with bfmt := 3 }) bound
    (s.bagHolds = false ∧ s.me.mat.progress = 0) ∧ (vget s.me.qbind 3).toNat / 2 ^ 16 = 0 ∧
    (vget s.me.qbind 2).toNat / 2 ^ 16 ≠ 0 ∧ s.me.mat.bfmt = s.me.mat.bf ∧ other.me.mat.bfmt ≠ other.me.mat.bf ∧
    vget s.me.iq 2 = [] ∧ one.bagHolds = false ∧ one.me.mat.progress = 0 ∧ (vget one.me.qbind 2).toNat / 2 ^ 16 ≠ 0 ∧
    vget one.me.iq 2 = [row0] ∧ row0.at_ < one.tick ∧ one.me.rowScales = .taken [] ∧ row0.carder = none ∧
    (1023 : BitVec 10).toNat + one.me.mat.progress < 1024 ∧ one.me.mat.curTag.toNat + row0.tag.toNat < 1024 := by decide +kernel

theorem witness_MatrixRows_land :
    let s := { mpkg (fun m => { m with passes := [pass1 0 1023 (.rounded 0x3F800000)] }) id with ev := .rowPassLand 0 }
    let e := { mpkg (fun m => { m with ex := true, passes := [pass1 0 255 (.fin 3)] }) id with ev := .rowPassLand 0 }
    s.ev = .rowPassLand 0 ∧ e.ev = .rowPassLand 0 ∧
    (s.core 0).mat.passes.find? (fun p => decide (p.at_ ≤ s.tickOf 0)) = some (pass1 0 1023 (.rounded 0x3F800000)) ∧
    (e.core 0).mat.passes.find? (fun p => decide (p.at_ ≤ e.tickOf 0)) = some (pass1 0 255 (.fin 3)) := by decide +kernel

/-- A slot of rows of one FP16 element (R200). -/
def slot2 : BitVec 512 := BitVec.ofNat 512 (2 ^ 160 * 2 + 2 ^ 240 * 2)

/-- `mbag` with one entry at the last dword of bank 2 and a report of 48 bytes, with each check failed once. -/
theorem witness_MatrixBags_open :
    let s := mpkg (fun m => { m with bk := 1, bn := 1 }) (fun c => { bank2 c with sh := vset c.sh 5 slot2 })
    let open1 := mpkg (fun m => { m with bag := some { bag1 .repeated with asked := 1 } }) id
    let p := s.me.placeOf (sp2 0x1FFF8)
    let q := s.me.placeOf (sp2 0x1FFD0)
    let bs := Memory.load s.me.scratch (p.byte p.off) 8
    let sh := shapeOf (vget s.me.sh 5)
    s.bagHolds = false ∧ s.me.mat.progress = 0 ∧ s.me.slotBusy 5 = false ∧ s.me.mat.bag = none ∧
    open1.bagHolds = false ∧ open1.me.mat.progress = 0 ∧ open1.me.slotBusy 5 = false ∧ open1.me.mat.bag ≠ none ∧
    p.off % 8 = 0 ∧ q.off % 16 = 0 ∧ (0x1FFF9 : Nat) % 8 ≠ 0 ∧ p.fits p.off 8 = true ∧ q.fits q.off 48 = true ∧
    p.fits p.off 16 = false ∧ s.admitTile p p.off 8 = .go ∧ s.me.tileSay q = .go ∧ sh.fmt = fmtOf s.me.mat.af ∧
    s.me.mat.bfmt = s.me.mat.bf ∧ sh.rowbytes = s.me.mat.rowLen ∧ listBad bs 1 = false ∧
    (∀ x ∈ listEntries bs 1, s.me.mat.curTag.toNat + x.tag < 1024) := by decide +kernel

/-- An arriving row of an entry already accounted, of one still awaited, and of a member already multiplied. -/
theorem witness_MatrixBags_arrival :
    let at_ (b : Bag) (r : RowResult) := { mpkg (fun m => { m with bag := some b }) id with ev := .bagRowArrival 0 0 r }
    let two : Bag := { bag1 .waiting with entries := (bag1 .waiting).entries ++ (bag1 .multiplied).entries, asked := 2 }
    (at_ (bag1 .repeated) (.bytes [0])).ev = .bagRowArrival 0 0 (.bytes [0]) ∧
    ((at_ (bag1 .repeated) (.bytes [0])).core 0).mat.bag = some (bag1 .repeated) ∧
    (∃ e, (bag1 .repeated).entries[0]? = some e ∧ e.fate ≠ .waiting) ∧
    ((at_ two (.faulting 8 0 0)).core 0).mat.bag = some two ∧
    (∃ e, two.entries[0]? = some e ∧ e.fate = .waiting ∧ (∃ x ∈ two.entries, x.mid = e.mid ∧ x.fate = .multiplied)) ∧
    (∃ e, (bag1 .waiting).entries[0]? = some e ∧ e.fate = .waiting ∧
      (∀ x ∈ (bag1 .waiting).entries, x.mid = e.mid → x.fate ≠ .multiplied)) :=
  ⟨rfl, by decide +kernel, ⟨_, rfl, by decide⟩, by decide +kernel,
    ⟨_, rfl, rfl, ⟨{ idx := 0, mid := 0, tag := 0, scale := [], fate := .multiplied }, by decide, rfl, rfl⟩⟩,
    ⟨_, rfl, rfl, by decide⟩⟩

theorem witness_MatrixBags_close :
    let s := mpkg id id
    let done := mpkg (fun m => { m with bag := some (bag1 .multiplied) }) id
    let held := mpkg (fun m => { m with bag := some (bag1 .waiting) }) id
    let late := mpkg (fun m => { m with settled := 1 }) id
    held.me.mat.bagBusy held.tick = true ∧ late.matSettled = false ∧ s.me.mat.bagBusy s.tick = false ∧ s.matSettled = true ∧
    s.me.mat.bag = none ∧ done.me.mat.bagBusy done.tick = false ∧ done.matSettled = true ∧
    done.me.mat.bag = some (bag1 .multiplied) ∧ done.me.publishing done.tick (2 * 131072) 48 = false ∧ (bag1 .multiplied).e < 2 ^ 16 := by
  decide +kernel

/-- Accumulator rows: the last row of each view and one beyond it; a raw bank and one of another format; the last row of
bank 2 and one beyond it. -/
theorem witness_MatrixAccumulator :
    let s := mpkg id bank2
    let late := mpkg (fun m => { m with accFree := 1 }) id
    let trap := pkg id (fun c => running .matrix [] (fun r => { r with cfg := { r.cfg with trapen := 0x3F } }) c)
    let k255 := pkg (fun t => { t with pend := vset t.pend 0 0xFF }) (running .matrix [] id)
    let p (o : BitVec 17) := s.me.placeOf (sp2 o)
    let r0 := s.me.placeOf { sp2 0x1FE00 with bank := 3 }
    s.bagHolds = false ∧ s.me.mat.progress = 0 ∧ (255 : BitVec 10).toNat + (1 : BitVec 11).toNat ≤ 256 ∧
    1024 < (1023 : BitVec 10).toNat + (2 : BitVec 11).toNat ∧ s.accQuiet = true ∧ late.accQuiet = false ∧
    s.me.accFault (p 0x1FF00) true false 1 1023 = none ∧ s.me.accFault r0 false true 1 255 = none ∧
    s.me.accFault (p 0x1FF00) false false 1 0 = some 0x05 ∧ s.me.accFault (p 0x1FF01) true false 1 0 = some 0x07 ∧
    s.me.accFault (p 0x1FF02) true false 1 0 = some 0x0A ∧ s.me.accFault (p 0) true true 1 256 = some 0x0A ∧
    s.granulesBusy (p 0x1FF00) 0x1FF00 256 = false ∧ (p 0x1FF00).tile = none ∧
    s.admitTile (p 0x1FF00) 0x1FF00 256 = .go ∧ s.matSettled = true ∧
    matToFlags s.me.mat.flags &&& (s.run .matrix).cfg.trapen = 0 ∧
    matToFlags trap.me.mat.flags &&& (trap.run .matrix).cfg.trapen = 0 ∧
    vget (s.me.task 0).pend 0 ≠ 0xFF ∧ vget (s.me.task 0).pend 0 = 0 ∧ vget (k255.me.task 0).pend 0 = 0xFF ∧
    (p 0x1FFFC).off % 4 = 0 ∧ (p 0x1FFFC).fits 0x1FFFC 4 = true ∧ (0x1FFFD : Nat) % 4 ≠ 0 ∧
    (let ti := (withTile .ready s.me).placeOf (ti1 0x1000)
     ti.off % 4 = 0 ∧ ti.fits ti.off 4 = false) ∧
    s.admitTile (p 0x1FFFC) 0x1FFFC 4 = .go := by decide +kernel

/-! ### Transfer steps -/

/-- `pkg` with its transfer unit at work. -/
def xpkg (vp : List Word64) (f : Slot → Slot) (g : Core → Core) : State := pkg f (fun c => g (running .transfer vp id c))

/-- A slot whose rows lie at `base`: one row of `cols` elements of format code `f`, with row size `rb` and element stride
`es` (R200). -/
def slotOf (base es rb cols f : Nat) : BitVec 512 :=
  BitVec.ofNat 512 (base + 2 ^ 128 * es + 2 ^ 160 * rb + 2 ^ 192 * (cols - 1) + 2 ^ 240 * f)

/-- Slots 1 to 7 of a core: 2 FP16 elements at 0x1000; the same from a crooked base; T6 elements with a stride; 3 elements;
one I32; rows of no byte; FP32 elements whose shadow is 2 MiB and one row more. -/
def slots7 (c : Core) : Core :=
  { c with sh := Vector.ofFn (fun i : Fin 32 => [0, slotOf 0x1000 0 4 2 2, slotOf 0x1001 0 4 2 2, slotOf 0x1000 1 3 4 5,
    slotOf 0x1000 0 6 3 2, slotOf 0x1000 0 4 1 6, slotOf 0x1000 0 0 1 2,
    slotOf 0x1000 0 4 65536 1 + 2 ^ 208 * 8].getD i.val 0) }

/-- A transfer step header that names no token, that names token 7, and that waits for token 0. -/
def hdr : XHdr := { k := 0, kv := false, wm := 0 }
def hdr7 : XHdr := { k := 7, kv := true, wm := 0 }
def hdrW : XHdr := { k := 0, kv := false, wm := 1 }

/-- A step in flight. -/
def xstep (f : XStep → XStep) : XStep :=
  f { id := 4, instr := .xpub hdr, slot := 0, upc := 9, cfg := Run.idle.cfg, issued := 0, src := .none, dst := .none,
      sf := .raw, df := .raw, cols := 1, repack := none, sectors := 0, sector := 0, asked := 0, again := [], askAt := 0, missing := [], judged := [],
      fails := 0, waited := 0, srcPad := 0, dstPad := 0, seen := [], parts := [], targets := [], bad := [], stage := .working, done := 0,
      parkedAt := 0, stamp := 0, tok := none, dfr := false, dest := .nothing, claimed := false, source := none,
      drain := false, bytes := 0, flags := 0, landAt := 0, waiting := [], dropped := none, lines := [], old := false }

/-- A core with such a step in flight. -/
def inFlight (f : XStep → XStep) (c : Core) : Core := { c with xfr := { steps := [xstep f], nextId := 5 } }

/-- What a step header meets: it may issue; a token it waits for is clear, or was set in this tick; its token counts 255
steps; its shadow is the last that fits, and one byte more. -/
theorem witness_steps :
    let s := xpkg [] id id
    let w := xpkg [] (fun t => { t with tokens := 1 }) id
    let o := (xpkg [] (fun t => { t with tokens := 1 }) id).setPart 0 { Part.reset with tick := 5 }
    let f := xpkg [] (fun t => { t with pend := vset t.pend 7 255 }) id
    let b := xpkg [] id (inFlight (fun x => { x with dest := .spad 0 none, bytes := 4194303 }))
    tokensOpen s .transfer hdr.wm = true ∧ tokensOpen s .transfer hdrW.wm = false ∧ tokensOpen w .transfer hdrW.wm = false ∧
    tokensOpen o .transfer hdrW.wm = true ∧ stepFits s .transfer hdr.kv hdr.k 4194304 = true ∧
    stepFits f .transfer hdr7.kv hdr7.k 0 = false ∧ stepFits s .transfer hdr7.kv hdr7.k 0 = true ∧
    stepFits b .transfer hdr.kv hdr.k 1 = true ∧ stepFits b .transfer hdr.kv hdr.k 2 = false ∧
    b.me.xfr.steps.length < 16 ∧ b.me.shadowBytes ≤ 4194304 := by decide +kernel

/-- Copies: 2 elements end at the end of a bank, and begin one element later; a crooked source; a crooked base; a strided
T6; a shadow of 2 MiB, and more; a source tile in each state and a full queue of fills. -/
theorem witness_CopiesEnter :
    let s := xpkg [] id (fun c => slots7 (bank2 c))
    let v := xpkg [] id (inFlight (fun x => { x with dest := .shapeSlot 1 }))
    let e := xpkg [] id (withTile .empty)
    let r := xpkg [] id (withTile .ready)
    let fl := xpkg [] id (withTile .filling)
    let q := xpkg [] id (fun c => { c with tt := vset c.tt 1 { TileEnt.reset with st := .filling, fq := 15 } })
    let sh (n : ShReg) := shapeOf (vget s.me.sh n)
    let p (o : BitVec 17) := s.me.placeOf (sp2 o)
    s.me.slotBusy 1 = false ∧ v.me.slotBusy 1 = true ∧ (sh 1).fmt = .fp16 ∧ s.me.bankFmt 2 = .fp16 ∧
    shapeBytes (sh 1) (sizeFmt (sh 1).fmt .fp16) = 4 ∧
    ((sh 1).fmt == .t6 && (sh 1).estride != 0) = false ∧ ((sh 3).fmt == .t6 && (sh 3).estride != 0) = true ∧
    (sh 1).aligned .fp16 0 = true ∧ (sh 2).aligned .fp16 0 = false ∧ (sh 2).aligned .fp16 1 = true ∧
    rowCrooked (p 0x1FFFC) .fp16 = false ∧ rowCrooked (p 0x1FFFD) .fp16 = true ∧
    (p 0x1FFFC).fits (p 0x1FFFC).off 4 = true ∧ (p 0x1FFFE).fits (p 0x1FFFE).off 4 = false ∧
    ¬ 2097152 < shapeBytes (sh 1) .fp16 ∧ 2097152 < shapeBytes (sh 7) .fp32 ∧
    tileQueued s (p 0) = false ∧ tileQueued q (q.me.placeOf (ti1 0)) = true ∧ tileWaits s (p 0) true = false ∧
    tileFaults s (p 0) = false ∧ tileFaults e (e.me.placeOf (ti1 0)) = true ∧ tileWaits fl (fl.me.placeOf (ti1 0)) false = true ∧
    (r.me.placeOf (ti1 0)).tile = some 1 ∧ tileWaits r (r.me.placeOf (ti1 0)) true = false ∧
    (sh 1).count = (sh 1).count ∧ (sh 1).count ≠ (sh 4).count := by decide +kernel

/-- Gathers, reductions, tiles, scales, slots and packets: the entry beyond each check's limit and the one at it. -/
theorem witness_StepsEnter :
    let s := xpkg [0x1000, 0x1001] id (fun c => slots7 (bank2 c))
    let p (o : BitVec 17) := s.me.placeOf (sp2 o)
    let sh (n : ShReg) := shapeOf (vget s.me.sh n)
    let sc := xpkg [] id (fun c => { c with scaleQ := List.replicate 64 0 })
    let pk := xpkg [] id (fun c => { c with scratch := Memory.store c.scratch (2 * 131072) [0, 0, 33] })
    let n (x : State) := 16 * (leNat (Memory.load x.me.scratch ((p 0).byte 0) 16) / 2 ^ 16 % 64)
    let va (i : VpReg) := wrapAddr ((s.vp .transfer i).toNat + (0 : Word32).toInt)
    (gatherAsk s 1 (p 0x1FFFC) 1 (p 0x1FFFC)).bad.find? (fun b => b.1) = none ∧
    (gatherAsk s 1 (p 0x1FFFD) 1 (p 0)).bad.find? (fun b => b.1) = some (true, 0x07, 0) ∧
    (gatherAsk s 1 (p 0x1FFFC) 2 (p 0)).bad.find? (fun b => b.1) = some (true, 0x0A, 0) ∧
    (gatherAsk s 6 (p 0) 1 (p 0)).bad.find? (fun b => b.1) = some (true, 0x0A, 0) ∧
    (gatherAsk s 2 (p 0) 1 (p 0)).bad.find? (fun b => b.1) = some (true, 0x07, 0x1001) ∧
    (gatherAsk s 1 (p 0) 1 (p 0x1FFFE)).bad.find? (fun b => b.1) = some (true, 0x0A, 0) ∧
    (gatherAsk s 1 (p 0x1FFFC) 1 (p 0)).bytes = 4 ∧ lostRow (sh 1).base (sh 1).rpitch .fp16 [0] = none ∧
    ((sh 5).fmt = .i32 ∧ (s.me.bankFmt 3 = .raw)) ∧ (sh 1).fmt ≠ .fp32 ∧
    (p 0x1FFFF).fits (p 0x1FFFF).off 1 = true ∧ (p 0x1FFFF).fits (p 0x1FFFF).off 2 = false ∧
    sc.me.scaleQ.length + (0 : BitVec 7).toNat ≤ 64 ∧ 64 < sc.me.scaleQ.length + (1 : BitVec 7).toNat ∧
    va 0 % 64 = 0 ∧ va 1 % 64 ≠ 0 ∧ s.me.slotBusy 1 = false ∧ tokensOpen s .transfer hdr.wm = true ∧
    (0x1FFF0 : Nat) % 16 = 0 ∧ (p 0x1FFF0).fits (p 0x1FFF0).off 16 = true ∧ n s ≤ 512 ∧ 512 < n pk ∧
    (s.mbox 0).writable s.me.part = false ∧
    (p 0).fits (p 0).off (128 * rowBytes (sizeFmt .fp16 .fp16) 128) = true := by decide +kernel

/-- A mailbox that the sender's partition may write. -/
theorem witness_StepsEnter_box :
    let s := (xpkg [] id id).setMbox 5 box5
    (s.mbox 5).writable s.me.part = true := by decide +kernel

/-- A set of one core, the actor's; one whose last core is 64; a tile to define, at the end of a bank and beyond it; a tile
to release; granules at the end of a bank, beyond it, and from a crooked start. -/
theorem witness_StepsAtOnce :
    let s := xpkg [] id id
    let r := xpkg [] id (withTile .ready)
    let p (o : BitVec 17) := s.me.placeOf (sp2 o)
    let out := setCores (2 ^ 12 + 2 ^ 14)
    (p 0x1FF00).fits (p 0x1FF00).off (256 * 1) = true ∧ (p 0x1FF00).fits (p 0x1FF00).off (256 * 2) = false ∧
    setCores 0 = [0] ∧ ¬ 63 < 63 + 0 ∧ 63 < 63 + (1 : Nat) ∧
    tokensOpen s .transfer hdrW.wm = false ∧ tokensOpen s .transfer hdr.wm = true ∧
    stepFits s .transfer hdr.kv hdr.k 0 = true ∧ (vget s.me.tt 1).st = .empty ∧ (vget s.me.tt 1).fq = 0 ∧
    s.me.tileHeld 1 s.tick = false ∧ (vget r.me.tt 1).st = .ready ∧ r.me.tileHeld 1 r.tick = false ∧
    ¬ ((vget r.me.tt 1).st = .empty) ∧
    (p 0x1FFF0).off % 16 = 0 ∧ (p 0x1FFF0).fits (p 0x1FFF0).off 16 = true ∧ (p 0x1FFF0).fits (p 0x1FFF0).off 32 = false ∧
    (p 0x1FFF1).off % 16 ≠ 0 ∧ (p 0x1FF00).off % 256 = 0 ∧ (p 0x1FF10).off % 256 ≠ 0 ∧ (setCores 0).any (fun k => !(s.part s.me.part).hasCore k) = false ∧
    out = [64] ∧ out.any (fun k => !(s.part s.me.part).hasCore k) = true := by decide +kernel

/-- A multicast of 2 MiB, and of more. -/
theorem witness_StepsAtOnce_size :
    ¬ 2097152 < 256 * 512 * (setCores (15 * 64)).length ∧ 2097152 < 256 * 512 * (setCores (16 * 64)).length := by decide +kernel

/-- `xpkg` with step 4, changed by `f`, in flight, and an event of it. -/
def flight (e : Ev) (f : XStep → XStep) (g : Core → Core) : State :=
  { xpkg [] id (fun c => g (inFlight f c)) with ev := e }

/-- A step that is no `xpub`. -/
def copies (x : XStep) : XStep := { x with instr := .xcopy2 hdr false 1 1 }

/-- A copy of one byte toward physical address 0x1000. -/
def oneByte (x : XStep) : XStep :=
  { copies x with sf := .i8, df := .i8, dest := .global, sectors := 1, sector := 1, parts := [(0, [7])],
                  targets := [(0, [{ window := none, addr := 0x1000 }])], bytes := 1, lines := [0x40] }

theorem witness_StepsPublish :
    let fill (f : XStep → XStep) := flight (.shadowFilled 0 4) (fun x => f (copies x)) id
    let legal (b : List Byte) : Bool := slotLegal (BitVec.ofNat 512 (leNat b))
    let pub := flight (.scratchpadPublish 0 4) (fun x => { copies x with
      stage := .filled, dst := .spad 64, dest := .spad 0 (some 1), claimed := true, bytes := 1 }) (withTile .filling)
    let rsv := flight (.publishReserve 0 4) (fun x => { oneByte x with stage := .filled }) id
    let pin := rsv.setLine 0x40 { Line.fresh 0 with pins := [⟨1, 0⟩] }
    let com := flight (.publishCommit 0 4) (fun x => { oneByte x with stage := .reserving }) id
    let fin := flight (.stepComplete 0 4) (fun x => { copies x with stage := .committed, tok := some 3, source := some 1, drain := true })
      id
    (let land := { pub with cores := [(0, { pub.core 0 with mat := { (pub.core 0).mat with writes := [(2, 64, [0])] } })] }
     ((land.core 0).xstep? 4).map (land.core 0).landingIn = some true ∧ ((pub.core 0).xstep? 4).map (pub.core 0).landingIn = some false ∧
     ((pub.core 0).xstep? 4).map (fun x => (x.stage, x.dfr, x.claimed)) = some (.filled, false, true)) ∧
    ((rsv.core 0).xstep? 4).map (fun x => ((rsv.core 0).members x).all (fun y => !(rsv.core 0).landingIn y)) = some true ∧
    (∀ s ∈ [fill (fun x => { x with dest := .spad 0 none }), fill (fun x => { x with dest := .global }),
        fill (fun x => { x with dest := .tileReg 1 }), fill (fun x => { x with dest := .scaleQueue }), fill (fun x => { x with dest := .shapeSlot 1 })],
      (s.core 0).xstep? 4 ≠ none ∧ s.ev = .shadowFilled 0 4 ∧ (s.core 0).run = .running) ∧
    (copies (xstep id)).isPub = false ∧ legal (leBytes 64 slot2.toNat) = true ∧
    (pub.core 0).xstep? 4 ≠ none ∧ pub.ev = .scratchpadPublish 0 4 ∧
    ((rsv.core 0).xstep? 4).map (rsv.publishLines 0) = some [0x40] ∧
    ((rsv.core 0).xstep? 4).map (rsv.flitHome 0) = some none ∧
    ((rsv.line 0x40).pinnedAgainst 0 = false ∧ (rsv.line 0x40).resv = none) ∧
    ([0x40].any (fun l => (pin.line l).pinnedAgainst 0)) = true ∧
    ((com.core 0).xstep? 4).map (fun x => x.stage) = some .reserving ∧
    ((com.core 0).xstep? 4).map (fun x => ((com.core 0).members x).flatMap XStep.lineCells) = some [(0x1000, 7)] ∧
    ((com.core 0).xstep? 4).map (fun x => x.windowed) = some false ∧ region 0x1000 ≠ 1 ∧
    ((fin.core 0).xstep? 4).map (fun x => (x.tok, x.source, x.drain)) = some (some 3, some 1, true) ∧
    (fin.core 0).run = .running := by decide +kernel

/-- A reduction of one element, and a landing on one of two cores. -/
theorem witness_StepEvents_lines :
    let red := flight (.xredLineApply 0 4 0x40) (fun x => { copies x with
      sf := .i32, df := .i32, dest := .reduce .max true, sectors := 1, sector := 1, parts := [(0, leBytes 4 9)],
      targets := [(0, (List.range 4).map (fun i => { window := none, addr := 0x1000 + i }))], bytes := 4, lines := [0x40] }) id
    let mc := flight (.multicastLanding 0 4 1) (fun x => { copies x with src := .spad 0, dest := .cores, waiting := [0, 1] }) id
    ((red.core 0).xstep? 4).map (fun x => (x.dest, x.lines, x.redElems)) = some (.reduce .max true, [0x40], [(0x1000, 9)]) ∧
    (red.line 0x40).pinnedAgainst 0 = false ∧ (red.line 0x40).resv = none ∧ region (64 * 0x40) ≠ 1 ∧ lineOf 0x1000 = 0x40 ∧
    ((mc.core 0).xstep? 4).map (fun x => (x.src, x.waiting)) = some (.spad 0, [0, 1]) ∧ (mc.core 1).run = .running ∧
    ([0, 1] : List Nat) ≠ [1] ∧ ([0, 1] : List Nat).Nodup ∧ (mc.core 1).granuleUsed 0 = false := by decide +kernel

/-- A window acknowledged before and after its time, and refused. -/
theorem witness_StepEvents_windows :
    let wx (x : XStep) : XStep := { copies x with
      stage := .committed, targets := [(0, [{ window := some 1, addr := 0 }])] }
    let win (ok : Bool) (d : Nat) := flight (.portWindowCommit 0 4 ok) (fun x => { wx x with done := d }) id
    ((win true 0).core 0).xstep? 4 ≠ none ∧ (wx (xstep id)).windowed = true ∧ (wx (xstep id)).stage = .committed ∧
    0 ≤ (win true 0).tickOf 0 ∧ (win true 1).tickOf 0 < 1 ∧ (win false 1).ev = .portWindowCommit 0 4 false := by decide +kernel

/-- A page fault, a parked step, and a tile with a queued fill. -/
theorem witness_StepEvents_parked :
    let b : BadSector := { at_ := 0, walk := 0, sector := 0, cause := 0x08, why := 0, acc := 0, addr := 0x200000 }
    let pf := flight (.sectorPageFault 0 4) (fun x => { copies x with bad := [b] }) id
    let par := flight (.stepResume 0 4) (fun x => { copies x with stage := .parked }) id
    let claim := flight (.tileClaim 0 1) (fun x => { copies x with dest := .spad 2 (some 1) }) (withTile .empty)
    ((pf.core 0).xstep? 4).map (fun x => (x.stage, x.dueBad (pf.tickOf 0), x.isGather)) = some (.working, some b, false) ∧
    ((pf.core 0).task 0).ended = false ∧ ((pf.core 0).task 0).trapMode = false ∧ ((pf.core 0).task 0).occupied = true ∧
    (pf.part (pf.core 0).part).hasRoom 0 = true ∧
    ((par.core 0).xstep? 4).map (fun x => (x.stage, x.targets.length)) = some (.parked, 0) ∧
    (vget (claim.core 0).tt 1).st = .empty ∧ (claim.core 0).oldestFill 1 ≠ none := by decide +kernel

/-- A row for the open bag and one for a step. -/
theorem witness_StepEvents_rows :
    let row (n : Option Nat) : PickRow := { id := 4, core := 0, step := n, pos := 0, part := 0, due := 0, res := .bytes [1, 2], old := false, gone := false }
    let pick (n : Option Nat) := (flight (.pickerRowDelivery 0 4) copies id).setDie 0 { Die.reset with rows := [row n] }
    let gone := (flight (.pickerRowDelivery 0 4) copies id).setDie 0 { Die.reset with rows := [{ row none with gone := true }] }
    ((gone.die 0).rows.find? (fun r => r.id == 4)).map (fun r => r.gone) = some true ∧
    ((pick none).die 0).rows.find? (fun r => r.id == 4) = some (row none) ∧
    ((pick (some 4)).die 0).rows.find? (fun r => r.id == 4) = some (row (some 4)) ∧
    (pick none).ev = .pickerRowDelivery 0 4 ∧ ((pick (some 4)).core 0).xstep? 4 ≠ none := by decide +kernel

/-! ### The walker -/

/-- `pkg` with its walker at word `upc` of 100, registers w1 on as given. -/
def wpkg (upc : BitVec 24) (w : List Word64) (u : WalkUnit → WalkUnit) (g : Core → Core) : State :=
  pkg id (fun c => g (running .walker [5] (fun r => { r with upc := upc }) { c with wlk := u { c.wlk with
    w := Vector.ofFn (fun i : Fin 16 => (0 :: w).getD i.val 0) } }))

/-- The sources of a word are ready, or one is not. -/
theorem witness_WalkerResults_ready :
    let s := wpkg 9 [0, 1, 2] id id
    let late := wpkg 9 [] (fun u => { u with ready := vset u.ready 3 1 }) id
    walkResult s (.wmul 1 2 3 0) = some ([2, 3], 1, 2, 3) ∧ walkResult s (.wliVp 5 0) = some ([], 5, 5, 1) ∧
    (∀ r ∈ ([2, 3] : List WReg), vget s.me.wlk.ready r ≤ s.tick) ∧
    vget late.me.wlk.ready 3 > late.tick := by decide +kernel

/-- A branch to the ends of the run and one beyond each; a loop count of 0, 1 and 2; and both outcomes of a comparison. -/
theorem witness_WalkerResults :
    let s := wpkg 9 [0, 1, 2, 0xFFFFFFFFFFFFFFFF] id id
    let w := s.me.wlk.reg
    let goal (off : BitVec 15) : Int := (s.run .walker).upc.toNat + off.toInt
    goal (BitVec.ofInt 15 (-9)) = 0 ∧ goal (BitVec.ofInt 15 (-10)) = -1 ∧ goal 91 = 100 ∧ goal 92 = 101 ∧
    (s.run .walker).endOff = 100 ∧ w 1 = 0 ∧ w 2 = 1 ∧ 1 < uv (w 3) ∧
    uv (w 1 + 1) < uv (w 3) ∧ ¬ uv (w 3 + 1) < uv (w 3) ∧ sv (w 4) < sv (w 1) ∧ ¬ uv (w 4) < uv (w 1) := by decide +kernel

/-- Accesses: the last dword of a bank, one beyond it, a crooked one, an address word with a nonzero high half, the tile of
each state; a move of nothing, of a whole bank, and of more. -/
theorem witness_WalkerScratchpad :
    let s := wpkg 9 [0x5FFF8, 0x5FFFC, 1 <<< 32, 0x82000000, 0, 16384, 16385, 0x40000, 0x60000] id (withTile .ready)
    let w := s.me.wlk.reg
    let p (i : WReg) := (wAddr? (w i)).map s.me.placeOf
    walkCause s (w 1) 0 8 8 = none ∧ walkCause s (w 1) 8 8 8 = some 0x0A ∧ walkCause s (w 2) 0 8 8 = some 0x07 ∧
    walkCause s (w 3) 0 8 8 = some 0x0A ∧ walkCause s (w 4) 4088 8 8 = none ∧ walkCause s (w 4) 4096 8 8 = some 0x0A ∧
    walkCause s (w 4) (-8) 8 8 = some 0x0A ∧
    (p 1).map (fun p => (p.off, s.me.tileSay p, s.me.publishing s.tick (p.byte p.off) 8)) = some (0x1FFF8, .go, false) ∧
    (p 4).map (fun p => (p.off, s.me.tileSay p, s.me.publishing s.tick (p.byte p.off) 8)) = some (0, .go, false) ∧
    uv (w 5) * WSize.d.bytes = 0 ∧ uv (w 6) * WSize.d.bytes = 131072 ∧ 131072 < uv (w 7) * WSize.d.bytes ∧
    walkCause s (w 8) 0 8 131072 = none ∧ walkCause s (w 9) 0 8 131072 = none ∧ walkCause s (w 1) 0 8 131072 = some 0x0A ∧
    (∀ r ∈ [1, 2, 3], vget s.me.wlk.ready r ≤ s.tick) := by decide +kernel

/-- Frames of the first and the last legal format and beside them; the last column and one more; a bound and an unbound
queue, and a full one; lists of 0, 1, 4096 and 4097 entries, a full one and one to gather from. -/
theorem witness_WalkerEmits :
    let fr : Frame := { fmt := 2, cols := 2, q := 0 }
    let ls (k : ListKind) (n : Nat) : WList := { addr := sp2 0, cap := 1, cnt := n, kind := k }
    let own (c : Core) : Core := slots7 { bank2 c with qbind := vset c.qbind 0 0x20000 }
    let s := wpkg 9 [2, 5, 6, 1, 0x2000, 0, 4096, 4097, 0x40000] (fun u => { u with frame := some fr, list := some (ls .idx 0) }) own
    let un := wpkg 9 [] (fun u => { u with frame := some fr }) id
    let fu := wpkg 9 [] (fun u => { u with frame := some fr }) (fun c => { own c with iq := vset c.iq 0 (List.replicate 64 row0) })
    let go := wpkg 9 [0x40000] (fun u => { u with list := some (ls .idx 1) }) own
    let k255 := pkg (fun t => { t with pend := vset t.pend 0 0xFF }) (running .walker [] id)
    let w := s.me.wlk.reg
    let ok (i : WReg) : Prop := 2 ≤ (w i).toNat % 16 ∧ (w i).toNat % 16 ≤ 5 ∧ (w i).toNat < 2 ^ 13
    let p := go.me.placeOf (sp2 0)
    ok 1 ∧ ok 2 ∧ ¬ ok 3 ∧ ¬ ok 4 ∧ ¬ ok 5 ∧ s.me.wlk.frame = some fr ∧ uv (w 4) < fr.cols ∧ fr.cols ≤ uv (w 1) ∧
    (vget un.me.qbind 0).toNat / 2 ^ 16 % 4 ≠ 2 ∧ (vget s.me.qbind 0).toNat / 2 ^ 16 % 4 = 2 ∧
    s.queued s.cur.core 0 < 64 ∧ 64 ≤ fu.queued fu.cur.core 0 ∧
    uv (w 6) < 1 ∧ 1 ≤ uv (w 4) ∧ uv (w 7) ≤ 4096 ∧ 4096 < uv (w 8) ∧
    walkCause s (w 9) 0 ListKind.bag.size (4096 * ListKind.bag.size) = none ∧ wAddr? (w 9) ≠ none ∧
    walkCause s (w 4) 0 ListKind.bag.size ListKind.bag.size = some 0x07 ∧
    s.me.wlk.list = some (ls .idx 0) ∧ (ls .idx 0).cnt < (ls .idx 0).cap ∧ (ls .idx 1).cap ≤ (ls .idx 1).cnt ∧
    walkCause s (sp2 0).toWord 0 4 4 = none ∧
    s.me.tileSay (s.me.placeOf (sp2 0)) = .go ∧ (withTile .filling s.me).tileSay (s.me.placeOf (ti1 0)) = .wait ∧
    (withTile .empty s.me).tileSay (s.me.placeOf (ti1 0)) = .fault ∧ go.me.wlk.list = some (ls .idx 1) ∧ wAddr? (go.me.wlk.reg 1) = some (sp2 0) ∧ go.me.slotBusy 1 = false ∧
    tileWaits go p false = false ∧ tileQueued go p = false ∧ (gatherAsk go 1 p 1 p).bad.find? (fun b => b.1) = none ∧
    (gatherAsk go 6 p 1 p).bad.find? (fun b => b.1) ≠ none ∧ stepFits go .walker true 0 4 = true ∧
    vget (go.me.task 0).pend 0 ≠ 0xFF ∧ vget (k255.me.task 0).pend 0 = 0xFF := by decide +kernel

/-! ### Tasks, mailboxes and partitions -/

/-- The package with core 0 of die 0 as partition 0, in fixed-latency mode, and event `e` at hand. -/
def live (e : Ev) : State := { State.reset with parts := [(0, { Part.reset with d0 := 0x1400000 })], ev := e }

/-- The same at power-on: no partition is valid. -/
def bare (e : Ev) : State := { State.reset with ev := e }

/-- A launch at 0x1000. -/
def launch1 : Launch :=
  { pc := 0x1000, g := [], stamp := 0, stage := 0, mbox := 0, pkt := none, join := 0, arrive := 0, startAt := 0 }

/-- `pkg` with its task changed, and an event at hand. -/
def tpkg (e : Ev) (f : Slot → Slot) (c : Core → Core) : State := { pkg f c with ev := e }

/-- Mailbox 5 with unparsed bytes whose header is `h`. -/
def parse (h unparsed : Nat) : State :=
  { withMem [(0x1000, h)] ((mapped (bare .none)).setMbox 5 { box5 with wo := BitVec.ofNat 25 unparsed }) with
    ev := .packetParse 5 }

theorem witness_TasksScheduled_packets :
    let h (kind op len pad : Nat) : Nat := kind + op * 2 ^ 8 + len * 2 ^ 16 + pad * 2 ^ 24
    let rd (n : Nat) : Nat := leNat ((parse n 48).partRead 0 0x1000 8)
    let b := (parse 0 48).mbox 5
    (parse 0 48).ev = .packetParse 5 ∧ b.unparsed = 48 ∧ b.area = 64 ∧ b.targets = [0] ∧
    rd (h 1 0 1 0) = h 1 0 1 0 ∧ rd (h 1 0 3 15) = h 1 0 3 15 ∧        -- a legal one, and with the most padding
    rd (h 0 0 1 0) % 256 = 0 ∧ rd (h 3 0 1 0) % 256 = 3 ∧               -- kinds beside the legal ones
    ¬ (48 : Nat) < 3 * 16 ∧ (48 : Nat) < 4 * 16 ∧                       -- all of the unparsed bytes, and 16 more
    rd (h 2 1 1 0) / 2 ^ 8 % 256 = 1 ∧                                  -- an operation that a skip packet has not
    ((parse 0 48).setMbox 5 { b with ro := 32, wo := 64 }).mbox 5 ≠ b ∧ ¬ (64 : Nat) < 16 + 48 ∧ (64 : Nat) < 32 + 48 := by
  decide +kernel

theorem witness_TasksScheduled :
    let end_ := tpkg (.runEnd 0 .walker) id (running .walker [] (fun r => { r with ending := true }))
    let start := tpkg (.timedLaunchStart ⟨0, 0⟩) (fun t => { t with hold := .launch }) id
    let acc := tpkg (.launchQueueAccept 0) id (fun c => { c with launchQ := [launch1] })
    let bell (v : Word64) := { (bare (.doorbell 80 v)).setMbox 5 box5 with ev := .doorbell 80 v }
    let hold (c : Nat) (e : Ev) := tpkg e (fun t => { t with hold := .stopped c }) id
    let sev := tpkg (.heldDelivery 0 (.sev 0 9)) id id
    end_.ev = .runEnd 0 .walker ∧ (start.taskOf ⟨0, 0⟩).hold = .launch ∧
    (acc.core 0).run = .running ∧ (acc.core 0).launchQ = [launch1] ∧ ((acc.core 0).task 1).occupied = false ∧
    (∀ j : Fin 4, j < 1 → ((acc.core 0).task j).occupied = true) ∧
    (bell 63).doorbellDropped 80 63 = false ∧ (bell 64).doorbellDropped 80 64 = true ∧ (bell 63).endpoint.queue = [] ∧
    (hold 0x20 (.taskResume ⟨0, 0⟩ .next)).ev = .taskResume ⟨0, 0⟩ .next ∧
    (hold 0x08 (.taskResume ⟨0, 0⟩ .retry)).ev = .taskResume ⟨0, 0⟩ .retry ∧
    ((hold 0x20 (.taskEnd ⟨0, 0⟩)).taskOf ⟨0, 0⟩).hold = .stopped 0x20 ∧
    ((hold 0x20 (.taskEnd ⟨0, 0⟩)).taskOf ⟨0, 0⟩).pendRecs = [] ∧
    (∀ k ∈ ((bare (.faultRecordRemove 63)).part 63).cores, ∀ i : Fin 4,
      (((bare (.faultRecordRemove 63)).core k).task i).pendRecs = []) ∧
    ((bare (.faultRecordRemove 63)).part 63).waiting = [] ∧
    (hold 0x20 (.taskEnd ⟨0, 0⟩)).wordSay ⟨0, 0⟩ ((hold 0x20 (.taskEnd ⟨0, 0⟩)).joinLines ⟨0, 0⟩) = .free ∧
    (lined pinned1 (fun t => { t with hold := .stopped 0x20 })).wordSay ⟨0, 0⟩ [] ≠ .free ∧
    (bare (.doorbell 80 none)).endpoint.queue = [] ∧ sev.ev = .heldDelivery 0 (.sev 0 9) ∧ (sev.core 0).run = .running ∧ ((sev.core 0).task 0).occupied = true := by
  decide +kernel

/-- Partition faults of a valid partition, of one that is not valid, and of one whose reset is under way. -/
theorem witness_PartitionsManaged_faults :
    let d : Drain := { since := 0, cause := 0x41, mbox := 0, addr := 0 }
    let dr (e : Ev) := (live e).setPart 0 { (live e).part 0 with draining := some d }
    (∀ e ∈ [Ev.uncorrectableMemoryError 0 (.phys 0), .linkProtocolError 0, .watchdogExpiry 5, .thermalTrip 0, .thermalTrip 31,
      .ringTableError 0 1023 3 .uncorrectable, .partitionReset 0], (live e).ev = e) ∧
    ((live .none).part 0).valid = true ∧ ((live .none).part 0).draining = none ∧ ((bare .none).part 63).valid = false ∧
    ((live .none).part 0).hasDie 0 = true ∧ ((dr (.partitionReset 0)).part 0).draining ≠ none ∧
    ((dr (.partitionReopen 0)).part 0).draining = some d ∧ ((dr (.partitionReopen 0)).part 0).records.length < 256 ∧
    ((dr (.partitionReopen 0)).mbox 5).part.toNat = 0 := by decide +kernel

/-- A ring whose entry 1023, lane 3 belongs to the partition, and one that belongs to none. -/
theorem witness_PartitionsManaged_ring :
    let s := { live (.ringTableError 0 1023 3 .uncorrectable) with
      parts := [(0, { Part.reset with d0 := 0x1400000, d2 := BitVec.ofNat 64 (1023 + 2 ^ 10 + 8 * 2 ^ 21) })] }
    s.shareOwner 0 1023 3 = some 0 ∧ s.shareOwner 0 1022 3 = none := by decide +kernel

/-- A save that may begin and one that waits for a task; a partition that was saved, and one that was not; a time-sliced
core and its partner. -/
theorem witness_PartitionsManaged_swaps :
    let idle (e : Ev) := live e
    let pk := { pkg id id with ev := .coreSave 0 }
    let sw (x : Swap) (e : Ev) := (live e).setPart 0 { (live e).part 0 with swap := x }
    let img : HatSlot := { part := 0, core := 0, asid := 0, len := 262080, tick := 9, crc := 0, sound := true, back := false,
                           image := Core.reset, timers := [] }
    let hat := (live (.swapRestore 0 true)).setDie 0 { Die.reset with hat1 := [(0, img)] }
    let two := ((live (.timeSliceSwitch 0)).setDie 0 { Die.reset with remap := [(0, 0x4180)] }).setCore 1
      { Core.reset with run := .switchedOut }
    ((idle (.coreSave 0)).core 0).run = .running ∧ (idle (.coreSave 0)).allStand 0 = true ∧ pk.allStand 0 = false ∧
    ((idle (.swapSave 0 true)).part 0).swap.st ≠ 1 ∧ ((idle (.swapSave 0 true)).part 0).frozen = false ∧
    ((sw { op := 1, set := true, st := 1, cause := 0 } (.swapDone 0)).part 0).swap.st = 1 ∧
    ((sw { op := 2, set := true, st := 1, cause := 0 } (.swapDone 0)).part 0).swap.op ≠ 1 ∧
    ((idle (.swapDone 0)).part 0).swap.st ≠ 1 ∧ ((idle .none).part 0).core0 + ((idle .none).part 0).cntm1 ≤ 63 ∧
    (idle (.swapRestore 0 true)).partBusy 0 = false ∧ (idle (.swapRestore 0 true)).images 0 true = none ∧
    hat.images 0 true = some [(0, img)] ∧ two.partnerOf 0 = some 1 ∧ (two.core 0).run = .running ∧
    (two.core 1).run = .switchedOut ∧ two.allStand 0 = true ∧ two.slotFits 1 = true ∧ (two.part (two.core 0).part).fl = true ∧
    (two.setDie 0 { two.die 0 with hat0 := [(1, { img with sound := false })] }).slotFits 1 = false ∧
    (two.part (two.core 0).part).valid = true ∧ Tbl.get? ((hat.die 0).hat true) 0 = some img := by decide +kernel

/-- An image file with an even number of `.seq` words, one data doubleword, symbols for word 0 and the data, and one record
of type 2 at word `at_`, where there is one. -/
def imageFile (magic : Nat) (seq : List Nat) (at_ : List Nat) (safes : List Nat) : List Byte :=
  let rec_ (n : Nat) (ws : List Nat) : List Byte := ws.flatMap (leBytes n)
  let sec (type off size : Nat) : List Nat := [type + 3 * 2 ^ 16, off, size, size]
  let d := 32 + 4 * seq.length
  let r := 24 * at_.length
  let f := 8 * safes.length
  rec_ 8 [magic + 2 * 2 ^ 32, d + 72 + r + f + 6 * 2 ^ 32, 32768, 0] ++ rec_ 4 seq ++ rec_ 8 [0] ++
  rec_ 8 [2 ^ 32 + 2 ^ 48, 0, 2 ^ 33 + 2 ^ 56, 0] ++
  rec_ 8 (at_.flatMap (fun w => [4 * w + 2 ^ 32 + 2 * 2 ^ 48, 1, 0])) ++ rec_ 8 safes ++ rec_ 8 [0, 4096, 100000, 0] ++
  rec_ 8 (sec 1 32 (4 * seq.length) ++ sec 6 d 8 ++ sec 9 (d + 8) 32 ++ sec 11 (d + 40) r ++ sec 12 (d + 40 + r) f ++
    sec 13 (d + 40 + r + f) 32)

/-- Its `.seq` at 0x10000, its `.data` at 0x40000000, and package mailbox 5 with its area behind them. -/
def smallPlace : Placement :=
  { bases := [0x10000, 0x40000000, 0, 0, 0, 0], pages := [⟨1, 7, 0x80008⟩, ⟨0x4000, 9, 0x90000⟩], mboxes := [⟨0, 5, 0x40001000⟩] }

/-- A partition of one core with its bound at 32768. -/
def spaced (e : Ev) : State :=
  { State.reset with parts := [(0, { Part.reset with d0 := 0x1400000, d1 := BitVec.ofNat 64 (2 ^ 32 + 2 ^ 21 + 32768) })], ev := e }

/-- The words of `safe 7` and `halt`, and their safe-map record. -/
def haltFile (magic : Nat) (at_ : List Nat) : List Byte := imageFile magic [0xB8000007, 0xC0003000] at_ [0x0000001007000000, 0, 0, 0]

/-- A file that is accepted; one with a wrong magic number and one with a relocation of no `la` are not. -/
theorem witness_PartitionsManaged_load :
    let s := spaced (.imageLoad 0 (haltFile 0x01464F54 []) smallPlace)
    let code (m : Nat) (at_ : List Nat) : Option Nat := match s.readImage 0 (haltFile m at_) smallPlace with
      | .error c => some c
      | .ok _ => none
    (s.part 0).valid = true ∧ s.partBusy 0 = false ∧ code 0x01464F54 [] = none ∧ code 0x01464F55 [] = some 1 ∧
    code 0x01464F54 [0] = some 5 ∧ placementOk (haltFile 0x01464F54 []) smallPlace = true := by decide +kernel

/-- R253 on the small image's words of spec/11_assembly_object.md: with `.data` at 0x40000000 the loader writes 0x0000,
0x4000 and 0x0000 into words 2, 4 and 6. -/
theorem test_small_image_relocated :
    let f := imageFile 0x01464F54 [0x08A00000, 0x08C00000, 0x10E00000, 0x18E70010, 0x10E70000, 0x18E70010, 0x10E70000, 0xB8000001,
      0x08C60001, 0x04A53000, 0x64C1FFFD, 0x50A70000, 0xB8000002, 0xC0003000] [2] []
    relocsOk f = true ∧
    ((imageOf f smallPlace).seq.words.drop 2).take 5 = [0x10E00000, 0x18E70010, 0x10E74000, 0x18E70010, 0x10E70000] := by
  decide +kernel

/-! ### Tables of package management -/

theorem witness_TablesWritten_partitions :
    let q (sp x1 : Nat) : Part := { Part.reset with d0 := BitVec.ofNat 64 (0x1000000 + 2 ^ 14 * x1), d1 := BitVec.ofNat 64 (2 ^ 32 + 2 ^ 21 + sp) }
    let s := bare .none
    let at_ (p : Part) : Bool := descBad { s.part 5 with d0 := p.d0, d1 := p.d1, d2 := 0, d3 := 0 }
    at_ (q 4096 0) = false ∧ at_ (q 65536 0) = false ∧ at_ (q 4095 0) = true ∧ at_ (q 65537 0) = true ∧
    (s.part 5).valid = false ∧ (q 4096 0).valid = true ∧ s.descRefused 5 (q 4096 0) = false ∧
    (live .none).descRefused 5 (q 4096 0) = true := by decide +kernel

theorem witness_TablesWritten_remap :
    let s := live .none
    (∀ v ∈ [0, 71, 0x7FC7], (BitVec.ofNat 16 v).getLsbD 15 = false ∧ (BitVec.ofNat 16 v).toNat % 128 < 72) ∧
    (¬ (72 : BitVec 16).toNat % 128 < 72) ∧ (0x8000 : BitVec 16).getLsbD 15 = true ∧
    (∀ e ∈ s.parts, ¬ (e.2.valid = true ∧ e.2.hasCore (31 * 64 + 63) = true)) ∧
    ¬ (∀ e ∈ s.parts, ¬ (e.2.valid = true ∧ e.2.hasCore 0 = true)) := by decide +kernel

/-- Owners 94, 96 and 127 are legal where the die has such stations, 95 on an edge die only. -/
theorem witness_TablesWritten_rings :
    let owners (n d : Nat) : Bool := decide (n = 127 ∨ n ≤ 94 ∨ (n ≤ 96 ∧ (d < 4 ∨ 28 ≤ d)))
    let busy := { pkg id id with parts := [(0, { Part.reset with d0 := 0x1400000 })] }
    owners 94 5 = true ∧ owners 95 5 = false ∧ owners 96 3 = true ∧ owners 96 4 = false ∧ owners 96 28 = true ∧
    owners 97 0 = false ∧ owners 127 5 = true ∧ (bare .none).dieRuns 31 = false ∧ busy.dieRuns 0 = true ∧
    1023 ∉ shareEntries 0 ∧ 1023 ∈ shareEntries (BitVec.ofNat 64 (1023 + 2 ^ 10)) := by decide +kernel

theorem witness_TablesWritten_links :
    let ok (x : Nat) : Bool := decide (x % 16 ≠ 0 ∧ x / 2 ^ 4 % 16 ≠ 0 ∧ x / 2 ^ 8 % 16 ≠ 0 ∧ x / 2 ^ 12 % 16 ≠ 0 ∧ x / 2 ^ 16 % 2 ^ 10 ≠ 0)
    let c (w3 : Word64) : Channel := { w0 := 0, w1 := 0, w2 := 65536, w3 := w3 }
    ok 0x11111 = true ∧ ok 0x11110 = false ∧ ok 0x01111 = false ∧ channelBad (c 65536) = false ∧ channelBad (c 1) = true ∧
    ((0x400001 : Word64).toNat / 2 % 2 ^ 8 = 0 ∧ (0x400001 : Word64).toNat < 2 ^ 44) ∧
    (0x400003 : Word64).toNat / 2 % 2 ^ 8 ≠ 0 ∧ (bare .none).partBusy 63 = false ∧ ((bare .none).part 63).iop = 0 := by
  decide +kernel

/-- Values at the edges of a mailbox's fields. -/
theorem witness_TablesWritten_mailboxes :
    (512 % 512 = 0 ∧ 512 ≤ 16777216) ∧ (16777216 % 512 = 0) ∧ 16777216 < 16777728 ∧ 513 % 512 ≠ 0 ∧ (1 : Nat) ≤ 2 ^ 40 ∧
    (2 ^ 48 - 4) % 4 = 0 ∧ (4095 : Nat) < 4096 := by decide

theorem witness_TablesWritten_hatbox :
    let img : HatSlot := { part := 0, core := 0, asid := 0, len := 0, tick := 0, crc := 0, sound := true, back := false,
                           image := Core.reset, timers := [] }
    let out := (bare (.hatboxSlotCopy 31 true 63 (.out 7 true))).setDie 31 { Die.reset with hat1 := [(63, img)] }
    let in_ := (bare (.hatboxSlotCopy 31 true 63 (.back 7 false))).setDie 31 { Die.reset with hatOut := [(1023, img)] }
    Tbl.get? ((out.die 31).hat true) 63 = some img ∧ (out.die 31).bankHolds 31 = true ∧ (out.die 31).bankHolds 15 = false ∧
    Tbl.get? (in_.die 31).hatOut (7 * 128 + 64 + 63) = some img ∧ (bare .none).boot.failed = false ∧ (35 : BitVec 6).toNat < 36 ∧ 36 ≤ (36 : BitVec 6).toNat := by decide +kernel

theorem witness_TablesWritten_platform :
    let b (n : Nat) : State := { bare .none with boot := { State.reset.boot with stage := n } }
    let r (w : Nat) : PowerReading := { package := w, dieWatts := [(0, 240)], dieDeg := [(0, 95)], partWatts := [(0, 0, 9), (1, 0, 1)] }
    let sp := (bare .none).setDie 0 { Die.reset with rowSpares := [(3, List.range 32)] }
    (bare .none).boot.stage = 0 ∧ (bare .none).boot.failed = false ∧ (b 1).boot.stage = 1 ∧ (b 2).boot.stage = 2 ∧
    (b 3).boot.stage = 3 ∧ (∀ e ∈ [((31 : Nat), List.range 64)], e.1 < 32 ∧ ∀ c ∈ e.2, c < 72) ∧
    7600 < (r 7601).package ∧ ¬ 7600 < (r 7600).package ∧ (∀ d, d < 32 → (r 7601).dieOver d = false) ∧
    ((live .none).part 0).valid = true ∧
    (∀ e ∈ (live .none).parts, e.2.valid = true → e.1 ≠ 0 → (r 7601).watts none e.1 < (r 7601).watts none 0) ∧ (r 7601).watts none 0 = 10 ∧
    (bare .none).wall.toNat % 65536 = 0 ∧ ({ bare .none with wall := 65537 } : State).wall.toNat % 65536 ≠ 0 ∧
    (Tbl.getD ((bare .none).slice 511).spare 4095 0).getLsbD 4 = false ∧
    (Tbl.getD ((bare .none).die 31).rowSpares 3 []).length < 32 ∧ ¬ (Tbl.getD (sp.die 0).rowSpares 3 []).length < 32 ∧
    (let rw := (bare .none).setDie 0 { Die.reset with rowErrs := [(3, List.replicate 7 9)] }
     (Tbl.getD (rw.die 0).rowErrs 3 []).count 9 = 7) ∧
    (let w := (bare .none).setSlice 0 { (bare .none).slice 0 with sets := [(2, [0x80])], errs := [(2 * 16 + 5, 3)] }
     let f := 4 + (w.die 0).rw
     w.wayLine 0 2 f = some 0x80 ∧ w.wayLine 0 2 (f + 1) = none ∧ w.wayLine 0 2 0 = none ∧ (w.line 0x80).resv = none ∧
     Tbl.getD (w.slice 0).errs (2 * 16 + 5) 0 = 3 ∧ Tbl.getD (w.slice 0).errs (2 * 16 + 6) 0 ≠ 3) := by
  decide +kernel

/-- A boot image of the published P-256 example of RFC 6979, A.2.5: its message, digest and signature. -/
def image0 : BootImage :=
  { bytes := [0x73, 0x61, 0x6D, 0x70, 0x6C, 0x65], digest := 0xAF2BDBE1AA9B6EC1E2ADE1D694F41FC71A831D0268E9891562113D8A62ADD1BF,
    sig := { r := 0xEFD48B2AACB6A8FD1140DD9CD45E81D69D2C877B56AAF991C34D0EA84EAF3716,
             s := 0xF7CB1C942D657C41D436C7A1B6E29F65F3E900DBB9AFF4064DC4AB2F843ACDA8 }, version := 0 }

/-- The digest of that example's public key. -/
def key0 : Nat := 0xB18B86CE1389E46DE87AA4A5131CE83C1160FA33C087AB15B863574D31D8FF3C

/-- A list of the one key digest 1, signed by hand calculation with that example's private key. -/
def sigOne : EcSig :=
  { r := 0x74DAA59B8B43BFE0D20031CF705A0B98D5B9746A67B4FD495D3ECCBF71A86C25,
    s := 0xB24FF7C553681B9DFD784D68294072A67DD2BB759BF7B2D0F98A921666A6C21D }

/-- Whatever key is fused: where it is the example's, its image and its list pass; an image of another digest, a signature of 0
and a list of 65 keys pass nowhere. -/
theorem witness_TablesWritten_boot :
    (Config.fusedKey = key0 → (sha256 image0.bytes).toNat = image0.digest ∧
      ecdsaOk Config.fusedKey image0.digest image0.sig.r image0.sig.s = true ∧ State.reset.boot.counter ≤ image0.version ∧
      ecdsaOk Config.fusedKey (sha256 ([1].flatMap (beBytes 32))).toNat sigOne.r sigOne.s = true) ∧
    (sha256 image0.bytes).toNat ≠ image0.digest + 1 ∧ ecdsaOk Config.fusedKey 1 0 1 = false ∧
    ¬ (List.replicate 65 1).length ≤ 64 ∧ State.reset.boot.stage = 0 ∧
    bootReportOk { cores := [(31, List.range 64)], ways := [], ringLanes := [], links := [.mesh 0 .west], dataLanes := [],
                   banks := [], rings := [], mesh := [(31, 0x11111)],
                   reserves := (List.range 32).map (fun d => (d, d * 2 ^ 35)) } = true := by
  refine ⟨fun h => ?_, ?_⟩
  · rw [h]; decide +kernel
  · decide +kernel

/-- Bindings that the system cores may write, and may not: bits 15:14, a peer outside the partition, source 3. -/
theorem witness_TablesWritten_bindings :
    let q := (duo id).part 0
    let peer (v : Nat) : Nat := 64 * (v / 2 ^ 3 % 4 + 4 * (v / 2 ^ 5 % 8)) + v / 2 ^ 8 % 64
    let v1 : Nat := 1 + 2 ^ 8 + 2 ^ 16
    v1 < 2 ^ 18 ∧ v1 / 2 ^ 14 % 4 = 0 ∧ v1 / 2 ^ 16 % 4 ≠ 3 ∧ ¬ q.hasCore (peer (v1 + 2 ^ 8)) = true ∧ q.hasCore (peer v1) = true ∧
    (live .none).part 0 ≠ Part.reset ∧ ((live .none).part 0).valid = true ∧ ((live .none).part 0).hasCore 0 = true ∧
    ((bare .none).part 0).valid = false ∧ ((bare .none).setPart 0 { Part.reset with iop := 1 } |>.part 0).iop ≠ 0 := by decide +kernel

/-! ### Clocks, mesh, ring and links -/

theorem witness_FabricEvents_clocks :
    let s := { live (.deliveredTick 0) with timers := [⟨none, 1, ⟨0, 0, .seq⟩, .linkProtocolError 0⟩, ⟨some 0, 1, ⟨0, 0, .seq⟩, .none⟩] }
    (∃ x ∈ s.timers, x.clock = none ∧ x.due ≤ (s.wall + 1).toNat) ∧
    (∃ x ∈ s.timers, x.clock = some 0 ∧ x.due ≤ (s.part 0).tick + 1) ∧
    (∃ e ∈ s.parts, e.2.valid = true ∧ e.2.draining = none ∧ e.2.frozen = false ∧ (s.wall + 1).toNat % 16 < 16 - (if (s.wall + 1).toNat % 16 = 0 then e.2.levelNext else e.2.level)) ∧
    (∀ x ∈ s.timers, x.isBar = false) ∧
    (∀ d, d < 32 → (s.die d).clockOff = false) ∧ (s.part 0).core0 + (s.part 0).cntm1 ≤ 63 ∧ (∀ e ∈ s.mboxes, e.2.pkts = []) ∧
    (∀ e ∈ s.dies, e.2.slots = [] ∧ e.2.queues = []) ∧ (∀ e ∈ s.dies, e.2.flits = []) := by decide +kernel

theorem witness_FabricEvents_mesh :
    let f (vc : Fin 4) : Flit :=
      { die := 0, inp := .loc, vc := vc, head := 0, age := 256, promoted := false, goal := 31, kind := .reply ⟨0, 0⟩, part := 0, num := none }
    let x (vc : Fin 4) : Die := { Die.reset with flits := [f vc] }
    let s (vc : Fin 4) : State := { bare (.flitPromotion 0 .east 1) with dies := [(0, x vc)] }
    (s 1).dies = [(0, x 1)] ∧ (x 1).flits = [f 1] ∧ (x 1).linksOff = [] ∧ (x 1).linkBack = [] ∧ (f 1).head ≤ (s 1).meshCyc ∧
    route (f 1).vc 0 (f 1).goal = .east ∧ route (f 2).vc 0 (f 2).goal = .north ∧ f 1 ∈ headFlits ((s 1).die 0).flits (s 1).meshCyc ∧
    ((s 1).die 0).meshcfg.toNat / 2 ^ 16 % 2 ^ 10 ≤ (f 1).age := by decide +kernel

/-- A flit that gives a credit back. -/
def flit0 (seq ackn : Nat) : ChegenFlit :=
  { type := 0, vc := 0, seq := seq, ackn := ackn, cred := 1, resv := 0, payload := List.replicate 256 0, check := 0 }

/-- The same with a check word that matches, or one more. -/
def flitOf (good : Bool) (seq ackn : Nat) : ChegenFlit :=
  { flit0 seq ackn with check := (flit0 seq ackn).word + (if good then 0 else 1) }

theorem witness_FabricEvents_checks (seq ackn : Nat) : (flitOf true seq ackn).good = true ∧ (flitOf false seq ackn).good = false := by
  have good (f : ChegenFlit) (c : BitVec 64) : ({ f with check := f.word + c } : ChegenFlit).good = (f.word + c == f.word) := rfl
  have next (w : BitVec 64) : w + 1 ≠ w := by bv_omega
  generalize hf : flit0 seq ackn = f
  simp only [flitOf, hf, good]
  exact ⟨by simp, by simpa using next f.word⟩

theorem witness_FabricEvents_links :
    let f (good : Bool) (seq ackn : Nat) : ChegenFlit := flitOf good seq ackn
    let s := bare (.data 15 (f true 0 4095))
    (s.link 15).off = false ∧ (s.link 15).back = none ∧ (f true 0 4095).broken = false ∧ (f true 0 4095).seq = (s.link 15).rxSeq.toNat ∧
    (f true 1 4095).seq ≠ (s.link 15).rxSeq.toNat ∧ (s.link 15).unsent = [] ∧
    ((f true 0 4095).ackn + 4096 - (s.link 15).peerAck.toNat) % 4096 ≤ (s.link 15).outbox.length ∧
    (s.link 15).outbox.length < ((f true 0 0).ackn + 4096 - (s.link 15).peerAck.toNat) % 4096 ∧
    ((s.setLink 15 { Link.reset with back := some 1024 }).link 15).back ≠ none ∧
    ((bare .none).setLink 15 { Link.reset with outbox := [(f true 0 0, 0)] }).link 15 ≠ Link.reset := by decide +kernel

theorem witness_FabricEvents_lanes :
    let s := bare .none
    let one := s.setDie 31 { Die.reset with spl := 2 }
    let both := s.setDie 31 { Die.reset with spl := 2, bad := true }
    let sp := s.setDie 31 { Die.reset with spares := [(1, true)] }
    (s.die 31).spl = 7 ∧ (one.die 31).spl ≠ 7 ∧ (one.die 31).bad = false ∧ (both.die 31).bad = true ∧
    Port.south.leads 31 = true ∧ Port.south ∉ (s.die 31).linksOff ∧ Tbl.getD (s.die 31).spares Port.east.idx.val false = false ∧
    Tbl.getD (sp.die 31).spares Port.east.idx.val false = true ∧ (s.link 15).off = false ∧ (s.link 15).spare = false ∧
    ((s.setLink 15 { Link.reset with spare := true }).link 15).spare = true := by decide +kernel

/-- The last byte of the pages that the host may use, one beyond it, and a line with a reservation. -/
theorem witness_FabricEvents_host :
    let s := { bare .none with endpoint := { State.reset.endpoint with pages := [0xFFFFFF] } }
    let opened (q n : Nat) : Bool := decide (q + n ≤ 2 ^ 40) && (List.range n).all (fun i => s.endpoint.pages.contains ((q + i) / 65536))
    opened (2 ^ 40 - 1) 1 = true ∧ opened (2 ^ 40 - 1) 2 = false ∧ opened (0xFFFFFF * 65536 - 1) 1 = false ∧
    (s.line (2 ^ 34 - 1)).pins = [] ∧ (s.line (2 ^ 34 - 1)).resv = none ∧ s.endpoint.queue = [] := by decide +kernel

/-! ### Witnesses of the clauses about waits, ways, rings and held deliveries -/

/-- `pkg` with a store of its task queued. -/
def stored (f : Slot → Slot) : State := pkg (fun t => f { t with lastStore := 9 }) (fun c => { c with storeQ := [{ ask (.store 4) 0 0x200008 with due := 9 }] })

/-- `ld.s` that fails while a store is open, and without one. -/
theorem witness_SpeculativeLoads_waits :
    (stored id).storesPending = true ∧ failedWith ((stored id).check 0x200000 8 .read) = 0x08 ∧
    (pkg id id).storesPending = false ∧ failedWith ((pkg id id).check 0x200000 8 .read) = 0x08 := by decide +kernel

/-- A line of each cache kind that no way can take, and one that a way can; a partition of each mode. -/
theorem witness_CodeCacheWords_ways :
    let full (c : Core) : Core :=
      { c with icaches := vset c.icaches 0 ((List.range 8).map (fun i => ⟨1024 * (i + 1), 0, true⟩))
               dcache := (List.range 8).map (fun i => ⟨64 * (i + 1), 0, 0, 0, true⟩) }
    let s := pkg (withG [(1, 0)]) full
    let f := s.setPart 0 { s.part 0 with d0 := 0x400000 }
    (s.part s.partNo).fl = false ∧ (f.part f.partNo).fl = true ∧
    s.me.setPinned .data 0 0 = true ∧ s.me.setPinned .data 64 64 = false ∧
    s.me.setPinned .seq 0 0 = true ∧ s.me.setPinned .seq 64 64 = false ∧
    s.me.cacheHolds .data 4096 4096 = true ∧ s.me.cacheHolds .data 0 0 = false ∧ s.me.cacheHolds .seq 65536 65536 = true ∧
    s.cur.core < 2048 ∧ region 0 ≠ 1 ∧ f.codeSay 0 .data 64 64 = .free ∧ s.codeSay 0 .seq 64 64 = .free ∧
    passed (s.translate 0 (s.g 1).toNat CacheSel.data.kind false) = true := by decide +kernel

/-- A refused request to the host region, whose answer starts at the I/O die. -/
theorem witness_RequestPerformed_host :
    let x := ask (.load 8 false) 4 (2 ^ 40)
    let s := sent x (.requestAtHome stream0 0) id
    let p := s.setLine (lineOf x.pa) { Line.fresh 0 with pins := [⟨1, 0⟩] }
    let y := ask (.load 8 false) 4 0x1008
    let q := (sent y (.requestAtHome stream0 0) id).setLine (lineOf y.pa) { Line.fresh 0 with pins := [⟨1, 0⟩] }
    p.rides 0 x = true ∧ p.performDie 0 x 0 = 32 ∧ (p.line (lineOf x.pa)).pinnedAgainst 0 = true ∧
    q.rides 0 y = true ∧ q.performDie 0 y 0 ≠ 32 ∧ (q.line (lineOf y.pa)).pinnedAgainst 0 = true := by decide +kernel

/-- CODE_CACHE_FILL of a data line that has come, and of one that another core has reserved. -/
theorem witness_CachesFilled_words :
    let s := { pkg (fun t => { t with hold := .fetch }) id with ev := .codeCacheFill 0 .data 0x1FFFC0 (some true) }
    let r := (lined taken1 id)
    passed (s.translate 0 0x1FFFC0 CacheSel.data.kind false) = true ∧ s.codeSay 0 .data 0x1FFFC0 0x1FFFC0 = .free ∧
    (s.core 0).setPinned .data 0x1FFFC0 0x1FFFC0 = false ∧ (s.taskOf ⟨0, 0⟩).hold = .fetch ∧
    passed (r.translate 0 0x1FFFC0 CacheSel.data.kind false) = true ∧ r.codeSay 0 .data 0x1FFFC0 0x1FFFC0 ≠ .free := by
  decide +kernel

/-- A packet that a step puts: the mailbox of the partition, and of another one; with room, and without. -/
theorem witness_StepsPublish_mailbox :
    let s := flight (.shadowFilled 0 4) (fun x => { copies x with dest := .mailbox 5, parts := [(0, zeroBytes 32)], bytes := 32 }) id
    let m := (mapped s).setMbox 5 box5
    let full := (mapped s).setMbox 5 { box5 with wo := 48 }
    let other := (mapped s).setMbox 5 { box5 with part := 1 }
    (m.mbox 5).writable (m.core 0).part = true ∧ (m.mbox 5).room 32 = true ∧
    (match m.packetCells (m.mbox 5) (zeroBytes 32) with
     | .ok cells => decide (m.linesSay 0 (some 4) (linesOf cells) = .free) &&
         cells.all (fun c => region c.1 != 1 && (cells.reverse.lookup c.1).isSome) && !cells.isEmpty
     | .error _ => false) = true ∧
    (full.mbox 5).writable (full.core 0).part = true ∧ (full.mbox 5).room 32 = false ∧
    (other.mbox 5).writable (other.core 0).part = false := by decide +kernel

/-- A publish of two lines, the second pinned, and reserved by another step; and a step with a failed sector. -/
theorem witness_StepsPublish_lines :
    let two (x : XStep) : XStep := { oneByte x with
      stage := .filled, parts := [(0, [7, 8])], sf := .i8, df := .i8, bytes := 2, lines := [0x40, 0x41]
      targets := [(0, [{ window := none, addr := 0x103F }, { window := none, addr := 0x1040 }])] }
    let s := flight (.publishReserve 0 4) two id
    let pin := s.setLine 0x41 { Line.fresh 0 with pins := [⟨1, 0⟩] }
    let res := s.setLine 0x41 { Line.fresh 0 with resv := some (1, 4) }
    let b : BadSector := { at_ := 0, walk := 0, sector := 0, cause := 0x08, why := 0, acc := 0, addr := 0 }
    let bad := flight (.publishReserve 0 4) (fun x => { two x with bad := [b] }) id
    ((pin.core 0).xstep? 4).map (pin.publishLines 0) = some ([0x40] ++ 0x41 :: []) ∧ (pin.line 0x41).pinnedAgainst 0 = true ∧
    (pin.line 0x40).pinnedAgainst 0 = false ∧ (pin.line 0x40).resv = none ∧
    (res.line 0x41).pinnedAgainst 0 = false ∧ (res.line 0x41).resv = some (1, 4) ∧
    ((bad.core 0).xstep? 4).map (fun x => x.bad) = some [b] := by decide +kernel

/-- The last landing of a multicast, with its granule free, in use, and with a row of the matrix engine still to come. -/
theorem witness_StepEvents_landing :
    let mc (g : Core → Core) := flight (.multicastLanding 0 4 0) (fun x => { copies x with
      src := .spad 0, dest := .cores, waiting := [0], parts := [(0, zeroBytes 256)] }) g
    let used := mc (fun c => { c with inUse := 1 })
    let wr := mc (fun c => { c with mat := { c.mat with writes := [(2, 64, [0])] } })
    ((mc id).core 0).writesIn 0 256 = false ∧ ((mc id).core 0).granuleUsed 0 = false ∧ (used.core 0).granuleUsed 0 = true ∧
    (used.core 0).writesIn 0 256 = false ∧ (wr.core 0).writesIn 0 256 = true ∧ ((mc id).core 0).run = .running ∧
    (((mc id).core 0).xstep? 4).map (fun x => (x.src, x.waiting, x.dropped, x.got.length)) = some (XSide.spad 0, [0], none, 256) := by
  decide +kernel

/-- Deliveries that a core held: a launch with a free slot, with room in the queue, and without; a barrier request that its
barrier takes, and one that it does not; a landing; a row. -/
theorem witness_TasksScheduled_held :
    let s (e : Delivery) (g : Core → Core) := tpkg (.heldDelivery 0 e) id g
    let full (n : Nat) (c : Core) : Core :=
      { c with tasks := c.tasks.map (fun t => { t with occupied := true }), launchQ := List.replicate n launch1 }
    let br (fn : BarFn) : BarReq := { fn := fn, who := ⟨1, 0⟩, home := 0, num := 511, arg := 1, dst := 3, stamp := 0 }
    let b := s (.barrier (br .init)) id
    let row : QTransit := { core := 0, q := 2, row := row0, due := 0 }
    let q := s (.row 1 1) id |>.setCore 1 { Core.reset with oq := vset Core.reset.oq 1 [row] }
    ((s (.launch launch1) id).core 0).run = .running ∧ (((s (.launch launch1) id).core 0).task 1).occupied = false ∧
    (∀ j : Fin 4, j < 1 → (((s (.launch launch1) id).core 0).task j).occupied = true) ∧
    (∀ i : Fin 4, (((s (.launch launch1) (full 15)).core 0).task i).occupied = true) ∧
    ((s (.launch launch1) (full 15)).core 0).launchQ.length < 16 ∧ 16 ≤ ((s (.launch launch1) (full 16)).core 0).launchQ.length ∧
    (b.core 0).run = .running ∧ barAfter ((b.core 0).bar 511) .init 1 ≠ none ∧ barAfter ((b.core 0).bar 511) .arr 1 = none ∧
    (vget (q.core 1).oq 1).find? (fun y => y.core == 0) = some row := by decide +kernel

/-- A save with a queued store, and while one rides the mesh. -/
theorem witness_PartitionsManaged_riding :
    ((stored id).core 0).riding = false ∧
    ((pkg id (fun c => { c with storeQ := [{ ask (.store 4) 0 0x200008 with due := 0 }] })).core 0).riding = true := by
  decide +kernel

/-- The ways of one set: none has failed, one moves to its spare, one and two have failed. -/
theorem witness_TablesWritten_ways :
    let sl (f : Slice → Slice) := (bare .none).setSlice 0 (f { (bare .none).slice 0 with sets := [(2, [0x80])] })
    let e (s : State) := Tbl.getD (s.slice 0).spare 2 0
    let none_ := sl id
    let moving := sl (fun x => { x with moving := [(2, (5, some 0x80))] })
    let once := sl (fun x => { x with spare := [(2, BitVec.ofNat 8 (16 + 5))] })
    let twice := sl (fun x => { x with spare := [(2, BitVec.ofNat 8 (48 + 5))] })
    Tbl.get? (none_.slice 0).moving 2 = none ∧ (e none_).getLsbD 4 = false ∧
    Tbl.get? (moving.slice 0).moving 2 = some (5, some 0x80) ∧
    (e once).getLsbD 4 = true ∧ (e once).getLsbD 5 = false ∧ (e once).toNat % 16 ≠ 6 ∧ (once.die 0).rw + 4 ≤ 6 ∧
    (e twice).getLsbD 5 = true ∧ (3 : Nat) < (twice.die 0).rw + 4 := by decide +kernel

/-- A reading at a look that has not been, and after it; a swap under way and one that is over. -/
theorem witness_TablesWritten_looks :
    let at_ (w looked : Nat) : State := { bare .none with wall := BitVec.ofNat 64 w, boot := { State.reset.boot with looked := looked } }
    let sw (st : BitVec 2) := (bare .none).setPart 5 { Part.reset with swap := { Part.reset.swap with st := st } }
    (at_ 65536 0).boot.looked ≠ (at_ 65536 0).wall.toNat ∧ (at_ 65536 65536).boot.looked = (at_ 65536 65536).wall.toNat ∧
    ((sw 1).part 5).swap.st = 1 ∧ ((sw 3).part 5).swap.st ≠ 1 := by decide +kernel

/-- A ring with a packet on its way and with one at its end; a packet that waits for a slot that its station owns, for an open
one, and for one that nobody gives it. -/
theorem witness_FabricEvents_ring :
    let y : RingPkt := { src := 3, dst := 9, part := 0, bytes := 64, again := false, ready := 0, flit := none, next := [] }
    let x (tab : Nat) : Die := { Die.reset with queues := [y], ringTab := [(1021, BitVec.ofNat 32 tab)] }
    let owner (tab l : Nat) : Nat := ((x tab).ringEntry ((0 + 1024 - y.src) % 1024)).toNat / 2 ^ (8 * l) % 128
    let s : State := { bare .none with dies := [(31, x 0x7F7F7F03)] }
    let q := s.part 0
    s.dies = [(31, x 0x7F7F7F03)] ∧ (x 0).clockOff = false ∧ (x 0).queues = [y] ∧ (x 0).slots = [] ∧
    owner 0x7F7F7F03 0 = y.src ∧ owner 0x7F030505 2 = y.src ∧ owner 0x7F030505 1 ≠ y.src ∧ owner 0x05050505 3 ≠ 127 ∧
    owner 0x7F050505 3 = 127 ∧ q.fl = false ∧
    ¬ 16 - (if s.wall.toNat % 16 = 0 then q.levelWas else q.level) ≤ (s.wall.toNat + 2 ^ 64 - 1) % 16 ∧
    ((9 : Nat) + 0) % 128 = y.dst ∧ ((8 : Nat) + 0) % 128 ≠ y.dst := by decide +kernel

/-- The signature of RFC 6979, A.2.5, of the message of `image0`, with that example's private key and k. -/
theorem test_signature_of_the_published_example :
    ecdsaSign 0xC9AFA9D845BA75166B5C215767B1D6934E50C3DB36E89B127B8A622B120F6721
      0xAF2BDBE1AA9B6EC1E2ADE1D694F41FC71A831D0268E9891562113D8A62ADD1BF
      (0xA6E3C57DD01ABE90086538398355DD4C3B17AA873382B0F24D6129493D8AAD60 - 1) =
    (0xEFD48B2AACB6A8FD1140DD9CD45E81D69D2C877B56AAF991C34D0EA84EAF3716,
     0xF7CB1C942D657C41D436C7A1B6E29F65F3E900DBB9AFF4064DC4AB2F843ACDA8) := by decide +kernel

/-- A ranking of two candidates, and a queued row of another format. -/
theorem witness_VectorSelections_rank :
    let cs := [(candOf .f32 0x3F800000 7).1, (candOf .f32 0x40000000 3).1].filterMap id
    cs.length = 2 ∧ ∀ c ∈ cs, c.val.isNan = false := by decide +kernel

theorem witness_MatrixRows_format :
    let x : QRow := { row0 with carder := some (3, 1, 1) }
    let one := (mpkg id (fun c => { bound c with iq := vset c.iq 2 [x] })).setPart 0 { Part.reset with tick := 5 }
    one.bagHolds = false ∧ one.me.mat.progress = 0 ∧ (vget one.me.qbind 2).toNat / 2 ^ 16 ≠ 0 ∧
    one.me.mat.bfmt = one.me.mat.bf ∧ vget one.me.iq 2 = [x] ∧ x.at_ < one.tick ∧
    x.carder.map (fun y => decide (y.1 = one.me.mat.af)) = some false := by decide +kernel

/-- `mbag` with rows of another format, of another length, with a bit beyond an entry, and with a row beyond the accumulator. -/
theorem witness_MatrixBags_checks :
    let s (slot : BitVec 512) (b7 : Byte) (f : MatUnit → MatUnit) := mpkg (fun m => f { m with bk := 1, bn := 1 }) (fun c =>
      { bank2 c with sh := vset c.sh 5 slot, scratch := Memory.store c.scratch (2 * 131072) [0, 0, 0, 0, 0, 0, 1, b7] })
    let sh (t : State) := shapeOf (vget t.me.sh 5)
    let entry (t : State) : Nat := leNat (Memory.load t.me.scratch ((t.me.placeOf (sp2 0)).byte 0) 8)
    let good := s slot2 0 id
    let fmt := s (slotOf 0 0 4 1 6) 0 id
    let len := s (slotOf 0 0 4 2 2) 0 id
    let bit := s slot2 4 id
    let far := s slot2 0 (fun m => { m with curTag := 1023 })
    let rep := good.me.placeOf (sp2 0x1FFD0)
    good.bagHolds = false ∧ good.me.mat.bag = none ∧ (sh good).fmt = fmtOf good.me.mat.af ∧ (sh fmt).fmt ≠ fmtOf fmt.me.mat.af ∧
    (sh good).rowbytes = good.me.mat.rowLen ∧ (sh len).rowbytes ≠ len.me.mat.rowLen ∧ (sh len).fmt = fmtOf len.me.mat.af ∧
    entry good < 2 ^ 58 ∧ ¬ entry bit < 2 ^ 58 ∧ good.me.mat.curTag.toNat + entry good / 2 ^ 48 % 2 ^ 10 < 1024 ∧
    ¬ far.me.mat.curTag.toNat + entry far / 2 ^ 48 % 2 ^ 10 < 1024 ∧
    good.admitTile (good.me.placeOf (sp2 0)) 0 8 = .go ∧ good.me.tileSay rep = .go := by decide +kernel

end Sys2Proof.Tests
end

section
/-! Machine state: what a word's end leaves alone, the configuration registers (R27 to R29), vector writeback (R31, R75, R264), and
the values of a launch and of reset. -/

namespace Sys2Proof.Machine

/-! ## What a replaced core or slot leaves alone -/

theorem onlyCore_setMe (s : State) (c : Core) : OnlyCore s.cur.core s (s.setMe c) where
  outside := rfl
  bytes := fun _ => rfl
  others := fun j hj => State.core_setCore_ne s _ j c hj

theorem onlyTask_setTask (s : State) (u : Slot) : OnlyTask s.meRef s (s.setTask u) where
  core := onlyCore_setMe s _
  slot := by
    change (s.setTask u).me = s.me.setTask s.cur.slot (s.setTask u).task
    simp

/-- A word that ends with a register write does that alone (R85, R86). -/
theorem wordDone_finishReg (s : State) (d : GReg) (v : Word64) (n : Nat) : WordDone s (s.finishReg d v n) d v n where
  only := onlyTask_setTask s _
  slot := by
    rw [State.finishReg, State.task_setTask, Slot.setReg_eq]
    rfl
  regs := fun r => by
    simp only [State.g, State.finishReg, State.task_setTask, Slot.advance_reg, Slot.reg_setReg]

/-! ## Configuration registers: their numbers (R28) -/

/-- The number of a configuration register. -/
def CfgReg.num : CfgReg → Nat
  | .tick => 0x000 | .wall => 0x001 | .coord => 0x002 | .mode => 0x003 | .fflags => 0x010 | .frm => 0x011
  | .trapen => 0x012 | .holdchk => 0x013 | .leaselen => 0x020 | .clamplo => 0x021 | .clamphi => 0x022 | .tagbase => 0x023
  | .tdesc i => 0x030 + i.val | .qbind i => 0x040 + i.val | .bfmt i => 0x050 + i.val | .budget => 0x060
  | .pinbypass => 0x061 | .faultinfo => 0x062

theorem cfgReg?_num (r : CfgReg) : cfgReg? r.num = some r := by
  cases r with
  | tdesc i => fin_cases i <;> rfl
  | qbind i => fin_cases i <;> rfl
  | bfmt i => fin_cases i <;> rfl
  | _ => rfl

/-- No register has a number above 0x062. -/
theorem cfgReg?_beyond {n : Nat} (h : 0x063 ≤ n) : cfgReg? n = none := by
  simp (disch := omega) only [cfgReg?, if_neg]

theorem num_of_cfgReg? {n : Nat} {r : CfgReg} (h : cfgReg? n = some r) : n = r.num := by
  have hn : n < 0x063 := by
    by_contra hn
    rw [cfgReg?_beyond (by omega)] at h
    cases h
  have table : ∀ m < 0x063, ((cfgReg? m).map CfgReg.num).getD m = m := by decide
  simpa [h] using (table n hn).symm

theorem CfgReg.num_injective {q r : CfgReg} (h : q.num = r.num) : q = r := by
  have hq := cfgReg?_num q
  rw [h, cfgReg?_num] at hq
  exact (Option.some.inj hq).symm

theorem cfgValue_num (s : State) (r : CfgReg) : cfgValue s r.num = some (s.cfgRead r) := by
  cases r with
  | tdesc i => fin_cases i <;> rfl
  | qbind i => fin_cases i <;> rfl
  | bfmt i => fin_cases i <;> rfl
  | _ => rfl

theorem cfgValue_isSome (s : State) (n : Nat) : (cfgValue s n).isSome = (cfgReg? n).isSome := by
  by_cases hn : 0x063 ≤ n
  · rw [cfgReg?_beyond hn]
    simp (disch := omega) only [cfgValue, if_neg, Option.isSome_none]
  · interval_cases n <;> rfl

/-- R28 assigns a value to the numbers of registers alone. -/
theorem cfgValue_eq (s : State) (n : Nat) : cfgValue s n = (cfgReg? n).map s.cfgRead := by
  cases h : cfgReg? n with
  | some r => rw [num_of_cfgReg? h]; exact cfgValue_num s r
  | none => simpa [h] using cfgValue_isSome s n

theorem cfgReadOnly_num (r : CfgReg) : cfgReadOnly r.num = !r.writable := by
  cases r with
  | tdesc i => fin_cases i <;> rfl
  | qbind i => fin_cases i <;> rfl
  | bfmt i => fin_cases i <;> rfl
  | _ => rfl

/-- R27: the format codes 2 to 5 above a 16-bit field, as bounds on the number. -/
theorem legal_tdesc (i : TileReg) (v : Word64) :
    CfgReg.legal (.tdesc i) v = true ↔ 2 ^ 17 ≤ v.toNat ∧ v.toNat < 6 * 2 ^ 16 := by
  simp only [CfgReg.legal, Bool.and_eq_true, decide_eq_true_eq]
  simp only [CfgReg.width, bitsOf, fld]
  omega

theorem legal_bfmt (i : Fin 16) (v : Word64) : CfgReg.legal (.bfmt i) v = true ↔ v.toNat < 11 := by
  simp only [CfgReg.legal, Bool.and_eq_true, decide_eq_true_eq]
  simp only [CfgReg.width]
  omega

theorem cfgLegal_num (r : CfgReg) (v : Word64) (h : r.writable = true) : cfgLegal r.num v = r.legal v := by
  rw [Bool.eq_iff_iff]
  cases r with
  | tdesc i =>
    obtain ⟨i, hi⟩ := i
    rw [legal_tdesc]
    simp (disch := omega) [cfgLegal, CfgReg.num, if_neg, if_pos]
  | bfmt i =>
    obtain ⟨i, hi⟩ := i
    rw [legal_bfmt]
    simp (disch := omega) [cfgLegal, CfgReg.num, if_neg, if_pos]
  | fflags | frm | trapen | holdchk | leaselen | tagbase | pinbypass | faultinfo =>
    simp only [CfgReg.legal, Bool.and_eq_true, decide_eq_true_eq]
    simp [cfgLegal, CfgReg.num, CfgReg.width]
  | clamplo | clamphi => simp [cfgLegal, CfgReg.num, CfgReg.legal, CfgReg.width, v.isLt]
  | tick | wall | coord | mode | qbind | budget => cases h

/-! ## Configuration registers: what a write changes (R27, R29) -/

/-- The registers that a task slot holds. -/
def Slot.cfgField (t : Slot) : CfgReg → Option Word64
  | .fflags => some (zx64 t.fflags)
  | .frm => some (zx64 t.frm)
  | .trapen => some (zx64 t.trapen)
  | .holdchk => some (flag64 t.holdchk)
  | .leaselen => some (zx64 t.leaselen)
  | .clamplo => some t.clamplo
  | .clamphi => some t.clamphi
  | .tagbase => some (zx64 t.tagbase)
  | .faultinfo => some t.faultinfo
  | _ => none

/-- The registers that a core holds beside its slots. -/
def Core.cfgField (c : Core) : CfgReg → Option Word64
  | .tdesc n => some (zx64 (vget c.tdesc n))
  | .qbind n => some (zx64 (vget c.qbind n))
  | .bfmt n => some (zx64 (vget c.bfmt n))
  | .budget => some c.budget.word
  | .pinbypass => some (zx64 c.pinbypass)
  | _ => none

/-- The registers that a core holds, for its slot `i`; none for those that its surroundings give. -/
def Core.cfgHeld (c : Core) (i : Fin 4) (q : CfgReg) : Option Word64 := ((c.task i).cfgField q).or (c.cfgField q)

/-- After a core that stays in its partition, with the stage of its task, is replaced: its own registers are read from it. -/
theorem cfgRead_setMe (s : State) (c : Core) (hp : c.part = s.me.part) (ht : (c.task s.cur.slot).stage = s.task.stage)
    (q : CfgReg) : (s.setMe c).cfgRead q = (c.cfgHeld s.cur.slot q).getD (s.cfgRead q) := by
  have hc : (s.setMe c).core s.cur.core = c := State.me_setMe s c
  have hs : (s.setMe c).task = c.task s.cur.slot := by rw [State.task, State.me_setMe]; rfl
  cases q with
  | tick => simp only [State.cfgRead, State.tick, State.partNo, State.me_setMe, hp]; rfl
  | wall => rfl
  | coord =>
    change zx64 ((s.setMe c).coordOf s.meRef) = zx64 (s.coordOf s.meRef)
    simp only [State.coordOf, State.taskOf, State.meRef, hc, hp, ht]
    rfl
  | mode =>
    change (s.setMe c).modeWord s.cur.core = s.modeWord s.cur.core
    simp only [State.modeWord, hc, hp]
    rfl
  | fflags | frm | trapen | holdchk | leaselen | clamplo | clamphi | tagbase | faultinfo =>
    simp only [State.cfgRead, hs]; rfl
  | tdesc n | qbind n | bfmt n | budget | pinbypass => simp only [State.cfgRead, State.me_setMe]; rfl

/-- What a register reads after a legal value is written (R27, R29). -/
def State.cfgStored (s : State) (r : CfgReg) (v : Word64) : Word64 :=
  match r with
  | .fflags => v ||| (if s.task.merged.1 = s.tick then s.task.merged.2.zeroExtend 64 else 0)
  | .leaselen => if v = 0 then 1 else v
  | .pinbypass | .faultinfo => 0
  | _ => v

/-- All but four registers store what is written. -/
theorem cfgStored_plain (s : State) (r : CfgReg) (v : Word64)
    (h : r.num ≠ 0x010 ∧ r.num ≠ 0x020 ∧ r.num ≠ 0x061 ∧ r.num ≠ 0x062) : s.cfgStored r v = v := by
  obtain ⟨h1, h2, h3, h4⟩ := h
  cases r <;> trivial

/-- A core in which register `r` of slot `i` holds `v`, and of which nothing else that a register reads or a task needs has
changed. -/
structure CfgHolds (c : Core) (i : Fin 4) (r : CfgReg) (v : Word64) (c' : Core) : Prop where
  part   : c'.part = c.part
  stage  : (c'.task i).stage = (c.task i).stage
  g      : (c'.task i).g = (c.task i).g
  pc     : (c'.task i).pc = (c.task i).pc
  slots  : ∀ j, j ≠ i → c'.task j = c.task j
  value  : c'.cfgHeld i r = some v
  others : ∀ q, q ≠ r → c'.cfgHeld i q = c.cfgHeld i q

/-- A replaced slot holds `r` as `v` where no register of it but `r` differs. -/
theorem cfgHolds_setTask {c : Core} {i : Fin 4} {r : CfgReg} {v : Word64} {u : Slot} (stage : u.stage = (c.task i).stage)
    (g : u.g = (c.task i).g) (pc : u.pc = (c.task i).pc) (value : u.cfgField r = some v)
    (others : ∀ q, q ≠ r → u.cfgField q = (c.task i).cfgField q) : CfgHolds c i r v (c.setTask i u) where
  part := rfl
  stage := by rw [Core.task_setTask, stage]
  g := by rw [Core.task_setTask, g]
  pc := by rw [Core.task_setTask, pc]
  slots := fun j hj => Core.task_setTask_ne c i j u hj
  value := by rw [Core.cfgHeld, Core.task_setTask, value, Option.some_or]
  others := fun q hq => by rw [Core.cfgHeld, Core.task_setTask, others q hq]; rfl

/-- A core with its slots kept holds `r` as `v` where no register of it but `r` differs. -/
theorem cfgHolds_core {c c' : Core} {i : Fin 4} {r : CfgReg} {v : Word64} (part : c'.part = c.part) (tasks : c'.tasks = c.tasks)
    (free : (c.task i).cfgField r = none) (value : c'.cfgField r = some v)
    (others : ∀ q, q ≠ r → c'.cfgField q = c.cfgField q) : CfgHolds c i r v c' where
  part := part
  stage := by rw [Core.task, tasks]
  g := by rw [Core.task, tasks]
  pc := by rw [Core.task, tasks]
  slots := fun j _ => by rw [Core.task, tasks]
  value := by rw [Core.cfgHeld, Core.task, tasks, free, Option.none_or, value]
  others := fun q hq => by rw [Core.cfgHeld, Core.task, tasks, others q hq]; rfl

theorem zx64_truncate {v : Word64} {k : Nat} (h : v.toNat < 2 ^ k) : zx64 (v.truncate k) = v := by
  apply BitVec.eq_of_toNat_eq
  simp [zx64, Nat.mod_eq_of_lt h, v.isLt]

theorem flag64_bit0 {v : Word64} (h : v.toNat < 2) : flag64 (v.getLsbD 0) = v := by
  obtain rfl | rfl : v = 0 ∨ v = 1 := by bv_omega
  · rfl
  · rfl

theorem legal_lt {r : CfgReg} {v : Word64} (h : r.legal v = true) : v.toNat < 2 ^ r.width := by
  simp only [CfgReg.legal, Bool.and_eq_true, decide_eq_true_eq] at h
  exact h.1

theorem cfgWrite_holds (s : State) (r : CfgReg) (v : Word64) (hw : r.writable = true) (hl : r.legal v = true) :
    ∃ c, s.cfgWrite r v = s.setMe c ∧ CfgHolds s.me s.cur.slot r (s.cfgStored r v) c := by
  have hv := legal_lt hl
  cases r with
  | tick | wall | coord | mode | qbind | budget => cases hw
  | tdesc n =>
    refine ⟨_, rfl, cfgHolds_core rfl rfl rfl (congrArg some ?_) ?_⟩
    · rw [vget_vset]; exact zx64_truncate hv
    · intro q hq
      cases q with
      | tdesc m => exact congrArg (fun x => some (zx64 x)) (vget_vset_ne _ _ _ _ (fun e => hq (e ▸ rfl)))
      | _ => rfl
  | bfmt n =>
    refine ⟨_, rfl, cfgHolds_core rfl rfl rfl (congrArg some ?_) ?_⟩
    · rw [vget_vset]; exact zx64_truncate hv
    · intro q hq
      cases q with
      | bfmt m => exact congrArg (fun x => some (zx64 x)) (vget_vset_ne _ _ _ _ (fun e => hq (e ▸ rfl)))
      | _ => rfl
  | pinbypass => exact ⟨_, rfl, cfgHolds_core rfl rfl rfl rfl (fun q hq => by cases q <;> trivial)⟩
  | frm | trapen | tagbase =>
    exact ⟨_, rfl, cfgHolds_setTask rfl rfl rfl (congrArg some (zx64_truncate hv)) (fun q hq => by cases q <;> trivial)⟩
  | clamplo | clamphi | faultinfo =>
    exact ⟨_, rfl, cfgHolds_setTask rfl rfl rfl rfl (fun q hq => by cases q <;> trivial)⟩
  | holdchk =>
    exact ⟨_, rfl, cfgHolds_setTask rfl rfl rfl (congrArg some (flag64_bit0 hv)) (fun q hq => by cases q <;> trivial)⟩
  | leaselen =>
    refine ⟨_, rfl, cfgHolds_setTask rfl rfl rfl (congrArg some ?_) (fun q hq => by cases q <;> trivial)⟩
    simp only [State.cfgStored]
    split
    · rfl
    · exact zx64_truncate hv
  | fflags =>
    refine ⟨_, rfl, cfgHolds_setTask rfl rfl rfl (congrArg some ?_) (fun q hq => by cases q <;> trivial)⟩
    simp only [State.cfgStored, zx64, BitVec.zeroExtend, BitVec.setWidth_or, apply_ite (BitVec.setWidth 64)]
    exact congrArg (· ||| _) (zx64_truncate hv)

/-- A legal write and the end of its word: the register reads as stored, and nothing else of the core is read or needed anew. -/
theorem cfgWrite_finish (s : State) (r : CfgReg) (v : Word64) (hw : r.writable = true) (hl : r.legal v = true) :
    ∃ c, (s.cfgWrite r v).finish 1 = s.setMe (c.setTask s.cur.slot ((c.task s.cur.slot).advance s.tick 1)) ∧
      CfgHolds s.me s.cur.slot r (s.cfgStored r v) c := by
  obtain ⟨c, hc, h⟩ := cfgWrite_holds s r v hw hl
  refine ⟨c, ?_, h⟩
  rw [hc, State.finish, State.setTask, State.task, State.tick, State.partNo, State.me_setMe, h.part]
  exact State.setMe_setMe s _ _

/-- What a core reads as its registers after the end of a word. -/
theorem cfgHeld_advance (c : Core) (i : Fin 4) (tick n : Nat) (q : CfgReg) :
    (c.setTask i ((c.task i).advance tick n)).cfgHeld i q = c.cfgHeld i q := by
  rw [Core.cfgHeld, Core.task_setTask]
  cases q <;> rfl

/-- The registers that the acting core holds read as it holds them. -/
theorem cfgHeld_me (s : State) (q : CfgReg) : (s.me.cfgHeld s.cur.slot q).getD (s.cfgRead q) = s.cfgRead q := by
  cases q <;> rfl

/-- `cfgw` of a legal value to a writable register (R27, R29, R129). -/
theorem cfgw_spec (s : State) (r : CfgReg) (v : Word64) (hw : r.writable = true) (hl : r.legal v = true) :
    let t := (s.cfgWrite r v).finish 1
    OnlyCore s.cur.core s t ∧ (∀ j, j ≠ s.cur.slot → t.me.task j = s.me.task j) ∧ t.task.g = s.task.g ∧
      t.task.pc = s.task.pc + 4 ∧ t.task.readyAt = s.tick + 1 ∧ t.task.hold = .none ∧
      t.cfgRead r = s.cfgStored r v ∧ ∀ q, q ≠ r → t.cfgRead q = s.cfgRead q := by
  obtain ⟨c, ht, h⟩ := cfgWrite_finish s r v hw hl
  have htask : ((s.cfgWrite r v).finish 1).task = (c.task s.cur.slot).advance s.tick 1 := by
    rw [ht, State.task, State.me_setMe]; exact Core.task_setTask ..
  have hread := cfgRead_setMe s (c.setTask s.cur.slot ((c.task s.cur.slot).advance s.tick 1)) h.part
    (by rw [Core.task_setTask]; exact h.stage)
  rw [← ht] at hread
  refine ⟨ht ▸ onlyCore_setMe s _, fun j hj => ?_, htask ▸ h.g, ?_, htask ▸ rfl, htask ▸ rfl, ?_, fun q hq => ?_⟩
  · rw [ht, State.me_setMe, Core.task_setTask_ne _ _ _ _ hj, h.slots j hj]
  · rw [htask, Slot.advance_pc, h.pc]; rfl
  · rw [hread, cfgHeld_advance, h.value, Option.getD_some]
  · rw [hread, cfgHeld_advance, h.others q hq, cfgHeld_me]

/-- `cfgw` of a register, with the checks of R27. -/
theorem exec_cfgw (s : State) (a : GReg) (num : BitVec 12) (r : CfgReg) (h : num.toNat = r.num) :
    exec (.cfgw a num) s = if !r.writable then .next (s.seqFault 0x09 0 0 0 0)
      else if !r.legal (s.g a) then .next (s.seqFault 0x01 0 0 0 0) else .next ((s.cfgWrite r (s.g a)).finish 1) := by
  change execCfgw a num s = _
  rw [execCfgw, h, cfgReg?_num]

/-- Settles O24: the numbers of R28 are those of the registers, and the word ends with its register write alone. -/
theorem configRegisterRead : Obligations.ConfigRegisterRead := by
  intro s d num
  change (∀ v, _ → ∃ t, execCfgr d num s = .next t ∧ _) ∧ (_ → execCfgr d num s = _)
  rw [cfgValue_eq, execCfgr]
  cases cfgReg? num.toNat with
  | none => exact ⟨fun v h => absurd h (by simp), fun _ => rfl⟩
  | some r =>
    refine ⟨fun v h => ⟨_, rfl, ?_⟩, fun h => absurd h (by simp)⟩
    rw [← Option.some.inj h]
    exact wordDone_finishReg ..

/-- Settles O25: the checks of R27 by the register's number, then what a legal write leaves and what it stores. -/
theorem configRegisterWrite : Obligations.ConfigRegisterWrite := by
  intro s a num
  cases hn : cfgReg? num.toNat with
  | none =>
    have hv : cfgValue s num.toNat = none := by rw [cfgValue_eq, hn]; rfl
    refine ⟨fun _ => ?_, fun h => absurd hv h, fun h => absurd hv h, fun h => absurd hv h⟩
    change execCfgw a num s = _
    rw [execCfgw, hn]
  | some r =>
    have hnum := num_of_cfgReg? hn
    simp only [hnum, cfgValue_num, cfgReadOnly_num, exec_cfgw s a num r hnum]
    refine ⟨fun h => absurd h (by simp), fun _ h => ?_, fun _ h1 h2 => ?_, fun _ h1 h2 => ?_⟩
    · rw [if_pos h]
    · have hw : r.writable = true := by simpa using h1
      rw [cfgLegal_num r _ hw] at h2
      simp [hw, h2]
    · have hw : r.writable = true := by simpa using h1
      rw [cfgLegal_num r _ hw] at h2
      obtain ⟨only, slots, g, pc, ready, hold, own, others⟩ := cfgw_spec s r (s.g a) hw h2
      refine ⟨_, by simp [hw, h2], only, slots, g, pc, ready, hold, fun m hm => ?_, fun h => ?_, fun h => ?_, fun h => ?_, fun h => ?_⟩
      · rw [cfgValue_eq, cfgValue_eq]
        cases hq : cfgReg? m with
        | none => rfl
        | some q => exact congrArg some (others q (fun e => hm (by rw [num_of_cfgReg? hq, e])))
      · rw [own, cfgStored_plain s r _ h]
      · rw [own, CfgReg.num_injective (q := r) (r := .fflags) h]; rfl
      · rw [own, CfgReg.num_injective (q := r) (r := .leaselen) h]; rfl
      · rw [own]
        obtain h | h := h
        · rw [CfgReg.num_injective (q := r) (r := .pinbypass) h]; rfl
        · rw [CfgReg.num_injective (q := r) (r := .faultinfo) h]; rfl

end Sys2Proof.Machine
end

section
namespace Sys2Proof.Machine

/-! ## Vector writeback (R31, R75, R264) -/

/-- A register after a masked write: the masked bits are the new ones, the others as before. -/
theorem getLsbD_masked {w : Nat} (old val mask : BitVec w) (j : Nat) :
    ((old &&& ~~~mask) ||| (val &&& mask)).getLsbD j = if mask.getLsbD j then val.getLsbD j else old.getLsbD j := by
  by_cases hj : j < w
  · cases hm : mask[j] <;> simp [hm, hj]
  · have (x : BitVec w) : x.getLsbD j = false := BitVec.getLsbD_of_ge x j (by omega)
    simp [this]

/-- The vector unit after the result `w` has been written. -/
def VecUnit.written (u : VecUnit) (w : VWrite) : VecUnit :=
  { u with
    v := match w.dst with
      | none => u.v
      | some r => vset u.v r ((vget u.v r &&& ~~~w.mask) ||| (w.val &&& w.mask))
    pending := u.pending.erase w }

theorem VecUnit.written_other (u : VecUnit) (w : VWrite) (r : Fin 32) (h : w.dst ≠ some r) :
    vget (u.written w).v r = vget u.v r := by
  simp only [VecUnit.written]
  split
  · rfl
  next q hq => exact vget_vset_ne _ _ _ _ (fun e => h (by rw [hq, e]))

theorem VecUnit.written_dst (u : VecUnit) (w : VWrite) (r : Fin 32) (j : Nat) (h : w.dst = some r) :
    (vget (u.written w).v r).getLsbD j = if w.mask.getLsbD j then w.val.getLsbD j else (vget u.v r).getLsbD j := by
  simp only [VecUnit.written, h, vget_vset]
  exact getLsbD_masked ..

/-- The core after the result `w` has been written in a tick. -/
def Core.written (c : Core) (w : VWrite) (tick : Nat) : Core :=
  let c1 := { c with vec := c.vec.written w }
  match w.slot with
  | none => c1
  | some i => c1.setTask i ((c1.task i).mergeFlags tick w.flags)

/-- Without a result that is due nothing is written. -/
theorem vectorWriteback_none {s : State} (h : s.me.vec.pending.find? (fun w => decide (w.at_ ≤ s.tick)) = none) :
    s.vectorWriteback = s := by
  simp only [State.vectorWriteback, h]

/-- The oldest result that is due is written into the core. -/
theorem vectorWriteback_some {s : State} {w : VWrite}
    (h : s.me.vec.pending.find? (fun w => decide (w.at_ ≤ s.tick)) = some w) :
    s.vectorWriteback = s.setMe (s.me.written w s.tick) := by
  simp only [State.vectorWriteback, h, Core.written]
  cases w.slot with
  | none => rfl
  | some i => rfl

theorem Core.written_eq (c : Core) (w : VWrite) (tick : Nat) :
    c.written w tick = { c with tasks := (c.written w tick).tasks, vec := c.vec.written w } := by
  simp only [Core.written]
  split <;> rfl

theorem Core.written_other (c : Core) (w : VWrite) (tick : Nat) (i : Fin 4) (h : w.slot ≠ some i) :
    (c.written w tick).task i = c.task i := by
  simp only [Core.written]
  split
  · rfl
  next q hq => exact Core.task_setTask_ne _ _ _ _ (fun e => h (by rw [hq, e]))

theorem Core.written_slot (c : Core) (w : VWrite) (tick : Nat) (i : Fin 4) (h : w.slot = some i) :
    (c.written w tick).task i = (c.task i).mergeFlags tick w.flags := by
  simp only [Core.written, h]
  exact Core.task_setTask ..

/-- Settles O39: the bits, the flags and the frame of the one result that is written. -/
theorem vectorWriteback : Obligations.VectorWriteback := by
  intro s w hev
  have hx : exec .vectorWriteback s = .next s.vectorWriteback := by
    change execVectorWriteback s = _
    rw [execVectorWriteback, hev]
  rw [hx]
  refine ⟨fun h => by rw [vectorWriteback_none h], fun h => ?_⟩
  rw [vectorWriteback_some h]
  have hvec : (s.me.written w s.tick).vec = s.me.vec.written w := by rw [Core.written_eq]
  refine ⟨_, rfl, onlyCore_setMe s _, ?_⟩
  simp only [State.me_setMe, hvec]
  exact ⟨Core.written_eq .., rfl, s.me.vec.written_other w, s.me.vec.written_dst w, s.me.written_other w s.tick,
    fun i hi => by rw [Core.written_slot _ _ _ _ hi]; rfl⟩

/-! ## Values at launch and at reset -/

theorem vget_replicate {α : Type} {n : Nat} (x : α) (i : Fin n) : vget (Vector.replicate n x) i = x := by
  simp [vget]

/-- Settles O19: the slot of a launch, register by register. -/
theorem launchValues : Obligations.LaunchValues := by
  intro l tick
  have regs (r : GReg) (h : r ≠ 0) : (launchSlot l tick).reg r = l.g.getD r.val 0 := by
    simp [Slot.reg, h, launchSlot, vget]
  exact ⟨rfl, rfl, Slot.reg_zero _, regs, rfl, rfl, rfl, rfl, rfl, rfl, rfl, rfl, rfl, rfl, rfl, rfl, rfl, rfl, rfl,
    vget_replicate _, rfl, rfl, Nat.le_max_left .., Nat.le_max_right ..⟩

/-- Settles O37: an untouched object reads as its table's default. -/
theorem resetValues : Obligations.ResetValues := by
  refine ⟨⟨rfl, rfl⟩, fun _ => rfl, rfl, rfl, rfl, rfl, rfl, rfl, rfl, rfl, vget_replicate _, rfl, rfl, rfl, rfl, vget_replicate _,
    vget_replicate _, vget_replicate _, vget_replicate _, vget_replicate _, rfl, rfl, rfl, fun _ => rfl, vget_replicate _, rfl, rfl,
    by decide, by decide, by decide, rfl, rfl, rfl, rfl⟩

end Sys2Proof.Machine
end

section
/-! The clocks (R24, R25, R306, R307): the wall period and the delivered tick. -/

namespace Sys2Proof.Machine

/-! ## The wall period -/

/-- The state once `wall` has counted and, at the start of a group, the new levels are in force (R25, R307). -/
def State.newPeriod (s : State) : State :=
  let s1 := { s with wall := s.wall + 1 }
  if (s.wall + 1).toNat % 16 = 0 then
    { s1 with parts := s1.parts.map (fun e => (e.1, { e.2 with level := e.2.levelNext, levelWas := e.2.level })) }
  else s1

theorem wallPeriod_eq (s : State) :
    s.wallPeriod = (s.newPeriod.dropTimers none (s.wall + 1).toNat).soon
      ([.event s.cur .meshCycle, .event s.cur .meshCycle, .event s.cur .ringCycle, .event s.cur .ringCycle] ++
        (s.newPeriod.dueTimers none (s.wall + 1).toNat).map Timer.job ++
        (s.newPeriod.parts.filter (fun e => s.newPeriod.delivers e.2)).map (fun e => .event s.cur (.deliveredTick e.1)) ++
        [.frontEnds]) := rfl

theorem newPeriod_eq (s : State) : s.newPeriod = { s with wall := s.wall + 1, parts := s.newPeriod.parts } := by
  simp only [State.newPeriod]
  split <;> rfl

/-- The part of a table's entry in the new period. -/
theorem newPeriod_part {s : State} {e : Nat × Part} (h : e ∈ s.parts) :
    ∃ q ∈ s.newPeriod.parts, q.1 = e.1 ∧ q.2 = { e.2 with
      level := if (s.wall + 1).toNat % 16 = 0 then e.2.levelNext else e.2.level, levelWas := q.2.levelWas } := by
  simp only [State.newPeriod]
  split
  · exact ⟨_, List.mem_map_of_mem h, rfl, rfl⟩
  · exact ⟨e, h, rfl, rfl⟩

theorem clockStopped_false {s : State} {p : Part} (h : ∀ d, d < 32 → p.hasDie d = true → (s.die d).clockOff = false) :
    s.clockStopped p = false := by
  simp only [State.clockStopped, Part.dies, List.any_eq_false, List.mem_filter, List.mem_range, Bool.not_eq_true]
  exact fun d hd => h d hd.1 hd.2

/-- A due timer that is no barrier request is on the list of those that are due. -/
theorem mem_dueTimers {s : State} {x : Timer} {clock : Option Nat} {now_ : Nat} (h : x ∈ s.timers) (hc : x.clock = clock)
    (hd : x.due ≤ now_) (hb : ∀ r, x.ev ≠ .barrierRequestArrival r) : x ∈ s.dueTimers clock now_ := by
  have hbar : x.isBar = false := by
    unfold Timer.isBar
    split
    next r hr => exact absurd hr (hb r)
    next => rfl
  simp [State.dueTimers, h, hc, hd, hbar]

/-- R25 and R307, with the period's jobs in their order. -/
theorem wallPeriod_spec (s : State) :
    ∃ t, exec .wallPeriod s = .next t ∧ t.wall = s.wall + 1 ∧ SameMems s t ∧
      (∃ rest, t.agenda = [.event s.cur .meshCycle, .event s.cur .meshCycle, .event s.cur .ringCycle,
        .event s.cur .ringCycle] ++ rest) ∧
      (∀ x ∈ s.timers, x.clock = none → x.due ≤ (s.wall + 1).toNat → (∀ r, x.ev ≠ .barrierRequestArrival r) →
        .event x.who x.ev ∈ t.agenda) ∧
      ∀ e ∈ s.parts, e.2.valid = true → e.2.draining = none → e.2.frozen = false →
        (∀ d, d < 32 → e.2.hasDie d = true → (s.die d).clockOff = false) →
        (s.wall + 1).toNat % 16 < 16 - (if (s.wall + 1).toNat % 16 = 0 then e.2.levelNext else e.2.level) →
        .event s.cur (.deliveredTick e.1) ∈ t.agenda := by
  refine ⟨s.wallPeriod, rfl, ?_, State.wallPeriod_mems s, ?_, fun x hx hc hd hb => ?_, fun e he hv hdr hf hcl hl => ?_⟩
  · rw [wallPeriod_eq, newPeriod_eq]; rfl
  · rw [wallPeriod_eq]
    simp only [State.soon, List.append_assoc]
    exact ⟨_, rfl⟩
  · have hx' : x ∈ s.newPeriod.dueTimers none (s.wall + 1).toNat := by
      rw [newPeriod_eq]; exact mem_dueTimers hx hc hd hb
    have hjob : Job.event x.who x.ev ∈ (s.newPeriod.dueTimers none (s.wall + 1).toNat).map Timer.job :=
      List.mem_map_of_mem (f := Timer.job) hx'
    rw [wallPeriod_eq]
    simp only [State.soon, List.mem_append, hjob, true_or, or_true]
  · obtain ⟨q, hq, hq1, hq2⟩ := newPeriod_part he
    have hdel : s.newPeriod.delivers q.2 = true := by
      have hstop : s.newPeriod.clockStopped q.2 = false := by
        rw [newPeriod_eq, hq2]; exact clockStopped_false hcl
      have hwall : s.newPeriod.wall = s.wall + 1 := by rw [newPeriod_eq]
      have hval : q.2.valid = true := by rw [hq2]; exact hv
      have hlev : swallowed q.2.level (s.wall + 1).toNat = false := by
        rw [hq2]
        simp only [swallowed, decide_eq_false_iff_not, Nat.not_le]
        exact hl
      have hd2 : q.2.draining = none := by rw [hq2]; exact hdr
      have hf2 : q.2.frozen = false := by rw [hq2]; exact hf
      simp only [State.delivers, hstop, hwall, hval, hlev, hd2, hf2, Option.isNone_none, Bool.not_false, Bool.and_self]
    have hjob : Job.event s.cur (.deliveredTick e.1) ∈ (s.newPeriod.parts.filter (fun e => s.newPeriod.delivers e.2)).map
        (fun e => Job.event s.cur (.deliveredTick e.1)) :=
      List.mem_map.mpr ⟨q, List.mem_filter.mpr ⟨hq, hdel⟩, by rw [hq1]⟩
    rw [wallPeriod_eq]
    simp only [State.soon, List.mem_append, hjob, true_or, or_true]

/-! ## The delivered tick -/

/-- Matrix writes that are due change the buffer of the tick alone. -/
theorem spWrites_eq (ws : List (Nat × Nat × List Byte)) (c : Core) :
    ws.foldl (fun c w => c.spWrite .matrix w.2.1 w.2.2) c =
      { c with spBuf := (ws.foldl (fun c w => c.spWrite .matrix w.2.1 w.2.2) c).spBuf } := by
  induction ws generalizing c with
  | nil => rfl
  | cons w ws ih => rw [List.foldl_cons, ih]; rfl

/-- The start of a tick settles the last tick's writes, leaves the tasks, and fills the budget of a core that runs. -/
theorem startTick_spec (c : Core) (tick : Nat) :
    (c.startTick tick).scratch = applyBuf c.scratch c.spBuf ∧ (c.startTick tick).acc = applyBuf c.acc c.accBuf ∧
      (c.startTick tick).tasks = c.tasks ∧
      (c.startTick tick).budget = if c.run = .running then c.budget.fill else c.budget := by
  simp only [Core.startTick, Core.snapDepths]
  rw [spWrites_eq]
  exact ⟨rfl, rfl, rfl, rfl⟩

theorem fill_level (b : Budget) : b.fill.level.toNat = Nat.min (b.level.toNat + b.refill.toNat) b.cap.toNat := by
  have h : Nat.min (b.level.toNat + b.refill.toNat) b.cap.toNat < 2 ^ 16 := lt_of_le_of_lt (Nat.min_le_right ..) b.cap.isLt
  simp only [Budget.fill, BitVec.toNat_ofNat, Nat.mod_eq_of_lt h]

/-- The cores of a list, each once, replaced by what they become. -/
theorem core_foldl_setCore (f : Core → Core) (ks : List Nat) (s : State) (h : ks.Nodup) (k : Nat) :
    (ks.foldl (fun s k => s.setCore k (f (s.core k))) s).core k = if k ∈ ks then f (s.core k) else s.core k := by
  induction ks generalizing s with
  | nil => simp
  | cons j ks ih =>
    obtain ⟨hj, hks⟩ := List.nodup_cons.mp h
    rw [List.foldl_cons, ih _ hks]
    by_cases e : k = j
    · subst e; simp [hj]
    · simp [State.core_setCore_ne _ _ _ _ e, e]

theorem foldl_setCore_eq (f : State → Nat → Core) (ks : List Nat) (s : State) :
    ks.foldl (fun s k => s.setCore k (f s k)) s =
      { s with cores := (ks.foldl (fun s k => s.setCore k (f s k)) s).cores } := by
  induction ks generalizing s with
  | nil => rfl
  | cons k ks ih => rw [List.foldl_cons, ih]; rfl

/-- A partition whose cores fit the dies has each once. -/
theorem Part.cores_nodup (p : Part) (h : p.core0 + p.cntm1 ≤ 63) : p.cores.Nodup := by
  rw [Part.cores, List.nodup_flatMap]
  refine ⟨fun d _ => ?_, ?_⟩
  · exact List.nodup_range.map (fun a b e => by simpa using e)
  · refine (List.nodup_range.filter _).imp (fun {a b} hab => ?_)
    simp only [Function.onFun, List.disjoint_left, List.mem_map, List.mem_range, not_exists, not_and]
    rintro _ ⟨i, hi, rfl⟩ j hj e
    omega

/-- The state of a delivered tick before its jobs: the tick has counted and its partition's cores have begun it. -/
def State.ticked (s : State) (p : Nat) : State :=
  let tick := (s.part p).tick + 1
  (s.part p).cores.foldl (fun s k => s.setCore k ((s.core k).startTick tick)) (s.setPart p { s.part p with tick := tick })

theorem ticked_eq (s : State) (p : Nat) :
    s.ticked p = { s.setPart p { s.part p with tick := (s.part p).tick + 1 } with cores := (s.ticked p).cores } :=
  foldl_setCore_eq _ _ _

theorem ticked_core (s : State) (p k : Nat) (h : (s.part p).core0 + (s.part p).cntm1 ≤ 63) (hk : k ∈ (s.part p).cores) :
    (s.ticked p).core k = (s.core k).startTick ((s.part p).tick + 1) := by
  rw [State.ticked, core_foldl_setCore (fun c => c.startTick ((s.part p).tick + 1)) _ _ (Part.cores_nodup _ h), if_pos hk]
  rfl

/-- A watchdog's expiry is the only thing to do in its tick. -/
theorem deliveredTick_expired {s : State} {p m : Nat} (h : (s.ticked p).watchdogDue p = some m) :
    s.deliveredTick p = (s.ticked p).now (s.ticked p).cur (.watchdogExpiry m) := by
  unfold State.ticked at h ⊢
  simp only [State.deliveredTick, h]

/-- Without one, what is due is put on the agenda first. -/
theorem deliveredTick_due {s : State} {p : Nat} (h : (s.ticked p).watchdogDue p = none) :
    ∃ js, s.deliveredTick p = ((s.ticked p).dropTimers (some p) ((s.part p).tick + 1)).soon
      (((s.ticked p).dueTimers (some p) ((s.part p).tick + 1)).map Timer.job ++ js) := by
  unfold State.ticked at h ⊢
  simp only [State.deliveredTick, h, List.append_assoc]
  exact ⟨_, rfl⟩

theorem deliveredTick_cores (s : State) (p : Nat) : (s.deliveredTick p).cores = (s.ticked p).cores := by
  cases h : (s.ticked p).watchdogDue p with
  | some m => rw [deliveredTick_expired h]; rfl
  | none => obtain ⟨js, hjs⟩ := deliveredTick_due h; rw [hjs]; rfl

theorem deliveredTick_parts (s : State) (p : Nat) : (s.deliveredTick p).parts = (s.ticked p).parts := by
  cases h : (s.ticked p).watchdogDue p with
  | some m => rw [deliveredTick_expired h]; rfl
  | none => obtain ⟨js, hjs⟩ := deliveredTick_due h; rw [hjs]; rfl

/-- Without a packet no watchdog expires. -/
theorem watchdogDue_none {s : State} (h : ∀ e ∈ s.mboxes, e.2.pkts = []) (p : Nat) : s.watchdogDue p = none := by
  simp only [State.watchdogDue, Option.map_eq_none_iff, List.find?_eq_none]
  intro e he
  simp [Mbox.expired, h e he]

/-- R24 and R306, with the tick's jobs. -/
theorem deliveredTick_spec (s : State) (p : Nat) (hev : s.ev = .deliveredTick p) (h : (s.part p).core0 + (s.part p).cntm1 ≤ 63) :
    ∃ t, exec .deliveredTick s = .next t ∧ SameMems s t ∧ (t.part p).tick = (s.part p).tick + 1 ∧
      (∀ k ∈ (s.part p).cores, (t.core k).scratch = applyBuf (s.core k).scratch (s.core k).spBuf ∧
        (t.core k).acc = applyBuf (s.core k).acc (s.core k).accBuf ∧ (t.core k).tasks = (s.core k).tasks ∧
        (t.core k).budget.level.toNat = (if (s.core k).run = .running then
          Nat.min ((s.core k).budget.level.toNat + (s.core k).budget.refill.toNat) (s.core k).budget.cap.toNat
          else (s.core k).budget.level.toNat)) ∧
      ((∀ e ∈ s.mboxes, e.2.pkts = []) → ∀ x ∈ s.timers, x.clock = some p → x.due ≤ (s.part p).tick + 1 →
        (∀ r, x.ev ≠ .barrierRequestArrival r) → .event x.who x.ev ∈ t.agenda) := by
  have hx : exec .deliveredTick s = .next (s.deliveredTick p) := by
    change execDeliveredTick s = _
    rw [execDeliveredTick, hev]
  refine ⟨_, hx, State.deliveredTick_mems s p, ?_, fun k hk => ?_, fun hm x hx hc hd hb => ?_⟩
  · rw [State.part, deliveredTick_parts, ticked_eq]
    exact congrArg Part.tick (State.part_setPart ..)
  · have hcore : (s.deliveredTick p).core k = (s.core k).startTick ((s.part p).tick + 1) := by
      rw [State.core, deliveredTick_cores]; exact ticked_core s p k h hk
    obtain ⟨scratch, acc, tasks, budget⟩ := startTick_spec (s.core k) ((s.part p).tick + 1)
    rw [hcore, scratch, acc, tasks, budget]
    refine ⟨rfl, rfl, rfl, ?_⟩
    split
    · exact fill_level _
    · rfl
  · have hnone : (s.ticked p).watchdogDue p = none := watchdogDue_none (by rw [ticked_eq]; exact hm) p
    obtain ⟨js, hjs⟩ := deliveredTick_due hnone
    have hdue : x ∈ (s.ticked p).dueTimers (some p) ((s.part p).tick + 1) := by
      rw [ticked_eq]; exact mem_dueTimers hx hc hd hb
    have hjob : Job.event x.who x.ev ∈ ((s.ticked p).dueTimers (some p) ((s.part p).tick + 1)).map Timer.job :=
      List.mem_map_of_mem (f := Timer.job) hdue
    rw [hjs]
    simp only [State.soon, List.mem_append, hjob, true_or]

end Sys2Proof.Machine
end

section
/-! The rings (R311 to R313, R363): what a ring cycle moves, and the failure of a lane. -/

namespace Sys2Proof.Machine

/-! ## Steps that change only dies and remove nothing from a ring slot -/

/-- Only the dies change, and every occupied ring slot stays as it is. -/
structure RingKeeps (s t : State) : Prop where
  outside : t = { s with dies := t.dies }
  slots   : ∀ d, ∀ e ∈ (s.die d).slots, e ∈ (t.die d).slots

theorem RingKeeps.refl (s : State) : RingKeeps s s := ⟨rfl, fun _ _ h => h⟩

theorem RingKeeps.trans {s t u : State} (h : RingKeeps s t) (h' : RingKeeps t u) : RingKeeps s u where
  outside := h'.outside.trans (by rw [h.outside])
  slots := fun d e he => h'.slots d e (h.slots d e he)

theorem RingKeeps.setDie {s : State} {d : Nat} {x : Die} (h : ∀ e ∈ (s.die d).slots, e ∈ x.slots) :
    RingKeeps s (s.setDie d x) where
  outside := rfl
  slots := fun k e he => by
    by_cases hk : k = d
    · subst hk; rw [State.die_setDie]; exact h e he
    · rw [State.die_setDie_ne _ _ _ _ hk]; exact he

theorem ringNext_keeps (s : State) (x : RingPkt) : RingKeeps s (s.ringNext x) := by
  unfold State.ringNext State.ringWays
  split
  · exact RingKeeps.refl s
  · exact RingKeeps.setDie (fun e he => he)

theorem ringLeaves_keeps (s : State) (d : Nat) (x : RingPkt) : RingKeeps s (s.ringLeaves d x) := by
  rw [State.ringLeaves]
  split
  · exact RingKeeps.refl s
  · exact RingKeeps.setDie (fun e he => he)

/-- An entry of another key stays when a free key is set. -/
theorem Tbl.mem_set {α : Type} {t : Tbl α} {k : Nat} {v : α} (h : Tbl.get? t k = none) {e : Nat × α} (he : e ∈ t) :
    e ∈ Tbl.set t k v := by
  induction t with
  | nil => cases he
  | cons a t ih =>
    obtain ⟨j, w⟩ := a
    by_cases hj : j = k
    · simp [Tbl.get?, hj] at h
    · rw [Tbl.get?, if_neg hj] at h
      simp only [Tbl.set, if_neg (Ne.symm hj)]
      split
      · exact List.mem_cons_of_mem _ he
      · rcases List.mem_cons.mp he with rfl | he
        · exact List.mem_cons_self ..
        · exact List.mem_cons_of_mem _ (ih h he)

/-- A slot that admits a packet is empty. -/
theorem slot_free_of_ringAdmits {s : State} {d : Nat} {takes : List RingTake} {l : Nat} {x : RingPkt}
    (h : s.ringAdmits d takes l x = true) : Tbl.get? (s.die d).slots (slotKey s.ringCyc l x.src) = none := by
  simp only [State.ringAdmits, Bool.and_eq_true, Option.isNone_iff_eq_none] at h
  exact h.1.1.1

theorem ringPlace_keeps (d : Nat) (takes : List RingTake) (l : Nat) (ps : List RingPkt) (seen : List Nat) (s : State) :
    RingKeeps s (s.ringPlace d takes l seen ps) := by
  induction ps generalizing s seen with
  | nil => exact RingKeeps.refl s
  | cons x ps ih =>
    rw [State.ringPlace]
    split
    next h =>
      have hfree := slot_free_of_ringAdmits (Bool.and_eq_true_iff.mp h).2
      exact ((RingKeeps.setDie (fun e he => Tbl.mem_set hfree he)).trans (ringLeaves_keeps ..)).trans (ih ..)
    next => exact ih ..

theorem ringPlaces_keeps (s : State) (d : Nat) (takes : List RingTake) (ls : List Nat) :
    RingKeeps s (ls.foldl (fun s l => s.ringPlace d takes l [] (s.die d).queues) s) :=
  foldl_keeps (RingKeeps s) _ ls s (RingKeeps.refl s) (fun _ _ h => h.trans (ringPlace_keeps ..))

/-! ## A ring cycle of one die -/

/-- The packet in a slot leaves it in cycle `c`: it is at its destination, whose input buffer is not full (R313). -/
def leavesRing (d c : Nat) (e : Nat × RingPkt) : Bool := slotPos c e.1 == e.2.dst && !Config.ringFull d (e.1 / 128) c

theorem leavesRing_iff (d c : Nat) (e : Nat × RingPkt) :
    leavesRing d c e = true ↔ (e.1 + c) % 128 = e.2.dst ∧ Config.ringFull d (e.1 / 128) c = false := by
  simp [leavesRing, slotPos]

/-- A die once its stations have taken what is addressed to them. -/
def Die.ringTaken (x : Die) (d c : Nat) : Die :=
  { x with
    slots := x.slots.filter (fun e => !leavesRing d c e)
    taken := x.taken + (x.slots.filter (leavesRing d c)).length }

theorem ringDie_eq (s : State) (d : Nat) : ∃ takes, s.ringDie d =
    (List.range 4).foldl (fun s l => s.ringPlace d takes l [] (s.die d).queues)
      (((s.die d).slots.filter (leavesRing d s.ringCyc)).foldl (fun s e => s.ringNext e.2)
        (s.setDie d ((s.die d).ringTaken d s.ringCyc))) ∧
      ((s.die d).slots.filter (leavesRing d s.ringCyc) = [] → takes = []) :=
  ⟨_, rfl, fun h => by rw [List.map_eq_nil_iff]; exact h⟩

theorem ringDie_keeps (s : State) (d : Nat) : RingKeeps (s.setDie d ((s.die d).ringTaken d s.ringCyc)) (s.ringDie d) := by
  obtain ⟨takes, h, -⟩ := ringDie_eq s d
  rw [h]
  exact (foldl_keeps (RingKeeps _) _ _ _ (RingKeeps.refl _) (fun _ _ h => h.trans (ringNext_keeps ..))).trans
    (ringPlaces_keeps ..)

theorem ringDie_outside (s : State) (d : Nat) : s.ringDie d = { s with dies := (s.ringDie d).dies } := (ringDie_keeps s d).outside

/-- Stations without a packet place none. -/
theorem ringPlaces_nil {s : State} {d : Nat} (takes : List RingTake) (ls : List Nat) (h : (s.die d).queues = []) :
    ls.foldl (fun s l => s.ringPlace d takes l [] (s.die d).queues) s = s := by
  induction ls with
  | nil => rfl
  | cons l ls ih => rw [List.foldl_cons, h]; exact ih

/-- A die's stations take the one packet that leaves its ring; nothing follows it. -/
theorem ringDie_take {s : State} {d : Nat} {e : Nat × RingPkt} (hs : (s.die d).slots = [e]) (hq : (s.die d).queues = [])
    (hn : e.2.next = []) (hl : leavesRing d s.ringCyc e = true) :
    s.ringDie d = s.setDie d { s.die d with slots := [], taken := (s.die d).taken + 1 } := by
  obtain ⟨takes, h, -⟩ := ringDie_eq s d
  have hx : (s.die d).ringTaken d s.ringCyc = { s.die d with slots := [], taken := (s.die d).taken + 1 } := by
    simp [Die.ringTaken, hs, hl]
  have hw (t : State) : t.ringNext e.2 = t := by rw [State.ringNext, hn]; rfl
  rw [h, hx, hs, List.filter_cons_of_pos hl, List.filter_nil, List.foldl_cons, List.foldl_nil, hw]
  exact ringPlaces_nil _ _ (by rw [State.die_setDie]; exact hq)

/-! ## One packet that waits at its station -/

section
variable {s : State} {d : Nat} {y : RingPkt}

/-- The clocks of a packet's partition are swallowed in the period before this tick (R307). -/
def State.swallowedFor (s : State) (y : RingPkt) : Prop :=
  16 - (if s.wall.toNat % 16 = 0 then (s.part y.part).levelWas else (s.part y.part).level) ≤
    (s.wall.toNat + 2 ^ 64 - 1) % 16

/-- The owner on lane `l` of the entry of the slot that passes a packet's station (R312). -/
def Die.ownerFor (x : Die) (c : Nat) (y : RingPkt) (l : Nat) : Nat :=
  (x.ringEntry ((c + 1024 - y.src) % 1024)).toNat / 2 ^ (8 * l) % 128

/-- The station owns the slot, or it is open and the packet's partition elastic (R313). -/
def State.ownsSlot (s : State) (d : Nat) (y : RingPkt) (l : Nat) : Prop :=
  (s.die d).ownerFor s.ringCyc y l = y.src ∨ ((s.die d).ownerFor s.ringCyc y l = 127 ∧ (s.part y.part).fl = false)

/-- A die that has one packet, in no slot, which waits at its station and is no flit. -/
structure WaitsAlone (s : State) (d : Nat) (y : RingPkt) : Prop where
  slots : (s.die d).slots = []
  queue : (s.die d).queues = [y]
  flit  : y.flit = none
  first : y.again = false

/-- The test that the model makes for a swallowed period. -/
theorem swallowed_iff (s : State) (y : RingPkt) :
    swallowed (if s.wall.toNat % 16 = 0 then (s.part y.part).levelWas else (s.part y.part).level)
      ((s.wall.toNat + 2 ^ 64 - 1) % 16) = true ↔ s.swallowedFor y := by
  rw [swallowed, Nat.mod_mod, decide_eq_true_iff]
  rfl

theorem ringAdmits_iff (h : WaitsAlone s d y) (l : Nat) :
    s.ringAdmits d [] l y = true ↔ y.ready ≤ s.ringCyc ∧ ¬ s.swallowedFor y ∧ s.ownsSlot d y l := by
  have hown : ringOwner ((s.die d).ringEntry (slotId s.ringCyc y.src)) l = (s.die d).ownerFor s.ringCyc y l := rfl
  have hnum : s.mayNumber y = true := by rw [State.mayNumber, h.flit]
  rw [← swallowed_iff, State.ownsSlot]
  generalize hsw : swallowed _ _ = sw
  simp only [State.ringAdmits, hown, hnum, hsw, h.slots, h.queue, h.first, Tbl.get?, Option.isNone_none, List.any_nil,
    List.any_cons, Bool.or_self, Bool.and_false, Bool.not_false, Bool.true_and, Bool.and_true, Bool.or_false, Bool.false_eq_true,
    if_false, Bool.and_eq_true, Bool.or_eq_true, decide_eq_true_eq, beq_iff_eq, Bool.not_eq_true', Bool.not_eq_true]

/-- No slot is the packet's: it goes on waiting. -/
theorem ringPlaces_wait (h : WaitsAlone s d y) (ls : List Nat) (hl : ∀ l ∈ ls, s.ringAdmits d [] l y = false) :
    ls.foldl (fun s l => s.ringPlace d [] l [] (s.die d).queues) s = s := by
  induction ls with
  | nil => rfl
  | cons l ls ih =>
    have hno := hl l (List.mem_cons_self ..)
    have hstep : s.ringPlace d [] l [] (s.die d).queues = s := by
      rw [h.queue, State.ringPlace, hno]
      simp [State.ringPlace]
    rw [List.foldl_cons, hstep]
    exact ih (fun j hj => hl j (List.mem_cons_of_mem _ hj))

/-- The first lane whose slot admits the packet takes it. -/
theorem ringPlaces_placed (h : WaitsAlone s d y) (ls : List Nat) (hord : ls.Pairwise (· < ·)) (l : Nat) (hl : l ∈ ls)
    (hyes : s.ringAdmits d [] l y = true) (hno : ∀ j, j < l → s.ringAdmits d [] j y = false) :
    ls.foldl (fun s l => s.ringPlace d [] l [] (s.die d).queues) s =
      s.setDie d { s.die d with slots := [(slotKey s.ringCyc l y.src, y)], queues := [] } := by
  obtain ⟨l1, l2, rfl⟩ := List.append_of_mem hl
  have hlt : ∀ j ∈ l1, j < l := fun j hj => (List.pairwise_append.mp hord).2.2 j hj l (List.mem_cons_self ..)
  have hstep : s.ringPlace d [] l [] (s.die d).queues =
      s.setDie d { s.die d with slots := [(slotKey s.ringCyc l y.src, y)], queues := [] } := by
    have hy : { y with again := false, flit := none } = y := by rw [← h.first, ← h.flit]
    rw [h.queue, State.ringPlace, hyes]
    simp [State.ringPlace, State.ringLeaves, h.flit, h.slots, h.queue, hy, Tbl.set]
  rw [List.foldl_append, ringPlaces_wait h l1 (fun j hj => hno j (hlt j hj)), List.foldl_cons, hstep]
  exact ringPlaces_nil _ _ (by rw [State.die_setDie])

end

/-! ## The cycle of all rings, and the failure of a lane -/

/-- The dies whose rings have something to do (R370). -/
def State.ringDies (s : State) : List Nat :=
  (s.dies.filter (fun e => !e.2.clockOff && (!e.2.slots.isEmpty || !e.2.queues.isEmpty))).map (fun e => e.1)

/-- A ring cycle has passed. -/
def State.countRing (s : State) : State := { s with ringCyc := s.ringCyc + 1 }

theorem ringCycle_eq (s : State) : s.ringCycle = (s.ringDies.foldl (fun s d => s.ringDie d) s).countRing := rfl

theorem ringCycle_outside (s : State) : ∃ ds, s.ringCycle = { s with ringCyc := s.ringCyc + 1, dies := ds } := by
  have h : ∃ ds, s.ringDies.foldl (fun s d => s.ringDie d) s = { s with dies := ds } :=
    foldl_keeps (fun t => ∃ ds, t = { s with dies := ds }) _ _ s ⟨_, rfl⟩ (fun t d ⟨ds, ht⟩ => by
      subst ht
      exact ⟨_, ringDie_outside _ d⟩)
  obtain ⟨ds, h⟩ := h
  exact ⟨ds, by rw [ringCycle_eq, h, State.countRing]⟩

/-- Rings without a packet only count their cycles. -/
theorem ringCycle_empty {s : State} (h : ∀ e ∈ s.dies, e.2.slots = [] ∧ e.2.queues = []) : s.ringCycle = s.countRing := by
  have hds : s.ringDies = [] := by
    rw [State.ringDies, List.map_eq_nil_iff, List.filter_eq_nil_iff]
    intro e he
    simp [h e he]
  rw [ringCycle_eq, hds, List.foldl_nil]

/-- The only die with a packet, its clocks running. -/
theorem ringCycle_one {s : State} {d : Nat} {x : Die} (hd : s.dies = [(d, x)]) (hc : x.clockOff = false)
    (hne : x.slots ≠ [] ∨ x.queues ≠ []) : s.ringCycle = (s.ringDie d).countRing := by
  have hds : s.ringDies = [d] := by
    rw [State.ringDies, hd, List.filter_cons_of_pos, List.filter_nil, List.map_cons, List.map_nil]
    simpa [hc] using hne
  rw [ringCycle_eq, hds, List.foldl_cons, List.foldl_nil]

@[simp] theorem State.countRing_die (s : State) (d : Nat) : s.countRing.die d = s.die d := rfl

theorem die_one {s : State} {d : Nat} {x : Die} (hd : s.dies = [(d, x)]) : s.die d = x := by
  simp [State.die, hd, Tbl.getD, Tbl.get?]

theorem setDie_one {s : State} {d : Nat} {x : Die} (hd : s.dies = [(d, x)]) : s.setDie d x = s := by
  rw [State.setDie, hd]
  simp [Tbl.set, ← hd]

/-- A slot whose packet does not leave moves on with it (R313). -/
theorem ringCycle_stays {s : State} {d : Nat} {x : Die} (hd : s.dies = [(d, x)]) (hc : x.clockOff = false) {e : Nat × RingPkt}
    (he : e ∈ x.slots) (hl : leavesRing d s.ringCyc e = false) : e ∈ (s.ringCycle.die d).slots := by
  rw [ringCycle_one hd hc (.inl (List.ne_nil_of_mem he))]
  rw [State.countRing_die]
  refine (ringDie_keeps s d).slots d e ?_
  rw [State.die_setDie, die_one hd]
  exact List.mem_filter.mpr ⟨he, by rw [hl]; rfl⟩

/-- The one packet that leaves is taken (R313). -/
theorem ringCycle_take {s : State} {d : Nat} {x : Die} (hd : s.dies = [(d, x)]) (hc : x.clockOff = false) {e : Nat × RingPkt}
    (hs : x.slots = [e]) (hq : x.queues = []) (hn : e.2.next = []) (hl : leavesRing d s.ringCyc e = true) :
    (s.ringCycle.die d).slots = [] ∧ (s.ringCycle.die d).taken = x.taken + 1 := by
  have hx := die_one hd
  have ht : s.ringCycle.die d = { x with slots := [], taken := x.taken + 1 } := by
    rw [ringCycle_one hd hc (.inl (by simp [hs])), ringDie_take (by rw [hx, hs]) (by rw [hx, hq]) hn hl, hx,
      State.countRing_die, State.die_setDie]
  rw [ht]
  exact ⟨rfl, rfl⟩

theorem ringTaken_empty {x : Die} (d c : Nat) (h : x.slots = []) : x.ringTaken d c = x := by
  cases x
  simp_all [Die.ringTaken]

/-- The cycle of a die with one packet, which waits: only the four lanes' slots at its station matter. -/
theorem ringCycle_alone {s : State} {d : Nat} {x : Die} (hd : s.dies = [(d, x)]) (hc : x.clockOff = false) {y : RingPkt}
    (h : WaitsAlone s d y) : s.ringCycle =
      ((List.range 4).foldl (fun s l => s.ringPlace d [] l [] (s.die d).queues) s).countRing := by
  have hx := die_one hd
  have hslots : x.slots = [] := by rw [← hx, h.slots]
  have htaken := ringTaken_empty d s.ringCyc hslots
  obtain ⟨takes, he, hnil⟩ := ringDie_eq s d
  rw [hx, hslots, htaken, setDie_one hd, hnil (by rw [hx, hslots]; rfl), List.filter_nil,
    List.foldl_nil] at he
  rw [ringCycle_one hd hc (.inr (by rw [← hx, h.queue]; simp)), he]

/-- The packet waits on while its slots are not its own, its partition's clocks are swallowed, or it is not ready. -/
theorem ringCycle_wait {s : State} {d : Nat} {x : Die} (hd : s.dies = [(d, x)]) (hc : x.clockOff = false) {y : RingPkt}
    (h : WaitsAlone s d y) (hno : ∀ l, l < 4 → ¬(y.ready ≤ s.ringCyc ∧ ¬ s.swallowedFor y ∧ s.ownsSlot d y l)) :
    s.ringCycle = s.countRing := by
  rw [ringCycle_alone hd hc h, ringPlaces_wait h]
  intro l hl
  rw [Bool.eq_false_iff, ne_eq, ringAdmits_iff h]
  exact hno l (List.mem_range.mp hl)

/-- It enters the first slot that its station owns or that is open to it (R313). -/
theorem ringCycle_place {s : State} {d : Nat} {x : Die} (hd : s.dies = [(d, x)]) (hc : x.clockOff = false) {y : RingPkt}
    (h : WaitsAlone s d y) (hr : y.ready ≤ s.ringCyc) (hs : ¬ s.swallowedFor y) {l : Nat} (hl : l < 4) (ho : s.ownsSlot d y l)
    (hno : ∀ j, j < l → ¬ s.ownsSlot d y j) :
    (s.ringCycle.die d).queues = [] ∧ (s.ringCycle.die d).slots = [(slotKey s.ringCyc l y.src, y)] := by
  rw [ringCycle_alone hd hc h, ringPlaces_placed h _ List.pairwise_lt_range l (List.mem_range.mpr hl)
    ((ringAdmits_iff h l).mpr ⟨hr, hs, ho⟩)]
  · rw [State.countRing_die, State.die_setDie]
    exact ⟨rfl, rfl⟩
  · intro j hj
    rw [Bool.eq_false_iff, ne_eq, ringAdmits_iff h]
    exact fun ⟨_, _, hown⟩ => hno j hj hown

theorem not_ownsSlot {s : State} {d : Nat} {y : RingPkt} {l : Nat} (h1 : (s.die d).ownerFor s.ringCyc y l ≠ y.src)
    (h2 : (s.die d).ownerFor s.ringCyc y l = 127 → (s.part y.part).fl = true) : ¬ s.ownsSlot d y l := by
  rintro (h | ⟨h, hf⟩)
  · exact h1 h
  · exact absurd (h2 h) (by rw [hf]; simp)

/-- R311 to R313, of a die that is the only one with a packet. -/
theorem ringCycle_spec (s : State) :
    ∃ t, exec .ringCycle s = .next t ∧ t.ringCyc = s.ringCyc + 1 ∧ SameMems s t ∧ t.cores = s.cores ∧
      ((∀ e ∈ s.dies, e.2.slots = [] ∧ e.2.queues = []) → t = { s with ringCyc := s.ringCyc + 1 }) ∧
      ∀ (d : Nat) (x : Die), d < 32 → s.dies = [(d, x)] → x.clockOff = false →
        let c := s.ringCyc
        let leaves (e : Nat × RingPkt) : Prop := (e.1 + c) % 128 = e.2.dst ∧ Config.ringFull d (e.1 / 128) c = false
        (∀ e ∈ x.slots, ¬ leaves e → e ∈ (t.die d).slots) ∧
        (∀ e, x.slots = [e] → x.queues = [] → e.2.next = [] → leaves e → (t.die d).slots = [] ∧ (t.die d).taken = x.taken + 1) ∧
        (∀ y, x.slots = [] → x.queues = [y] → y.flit = none → y.again = false → y.src < 128 →
          let owner (l : Nat) : Nat := (x.ringEntry ((c + 1024 - y.src) % 1024)).toNat / 2 ^ (8 * l) % 128
          let q := s.part y.part
          let steals := 16 - (if s.wall.toNat % 16 = 0 then q.levelWas else q.level) ≤ (s.wall.toNat + 2 ^ 64 - 1) % 16
          (c < y.ready ∨ steals ∨ (∀ l, l < 4 → owner l ≠ y.src ∧ (owner l = 127 → q.fl = true)) →
            t = { s with ringCyc := c + 1 }) ∧
          (y.ready ≤ c → ¬ steals → ∀ l, l < 4 → owner l = y.src ∨ (owner l = 127 ∧ q.fl = false) →
            (∀ j, j < l → owner j ≠ y.src ∧ (owner j = 127 → q.fl = true)) →
            (t.die d).queues = [] ∧ (t.die d).slots = [(l * 128 + (y.src + 128 - c % 128) % 128, y)])) := by
  obtain ⟨ds, ht⟩ := ringCycle_outside s
  refine ⟨s.ringCycle, rfl, by rw [ht], State.ringCycle_mems s, by rw [ht], ringCycle_empty, ?_⟩
  intro d x _ hd hc c leaves
  have hx := die_one hd
  refine ⟨fun e he hl => ?_, fun e hs hq hn hl => ?_, ?_⟩
  · exact ringCycle_stays hd hc he (Bool.eq_false_iff.mpr (fun h => hl ((leavesRing_iff ..).mp h)))
  · exact ringCycle_take hd hc hs hq hn ((leavesRing_iff ..).mpr hl)
  · intro y hs hq hf ha _ owner q steals
    have h : WaitsAlone s d y := ⟨by rw [hx, hs], by rw [hx, hq], hf, ha⟩
    have howner (l : Nat) : (s.die d).ownerFor s.ringCyc y l = owner l := by rw [hx]; rfl
    have hnot (l : Nat) (hl : owner l ≠ y.src ∧ (owner l = 127 → q.fl = true)) : ¬ s.ownsSlot d y l :=
      not_ownsSlot (by rw [howner]; exact hl.1) (by rw [howner]; exact hl.2)
    refine ⟨fun hw => ringCycle_wait hd hc h ?_, fun hr hst l hl ho hno => ?_⟩
    · rintro l hl ⟨hr, hst, ho⟩
      rcases hw with hw | hw | hw
      · exact absurd hr (Nat.not_le.mpr hw)
      · exact hst hw
      · exact hnot l (hw l hl) ho
    · exact ringCycle_place hd hc h hr hst hl (by rw [State.ownsSlot, howner]; exact ho) (fun j hj => hnot j (hno j hj))

/-- A lane fails (R363): the spare takes over, or `bad` is set, or the failure is a ring table error. -/
theorem ringLaneFailure_spec (s : State) (d : Nat) (l : Fin 4) (hev : s.ev = .ringLaneFailure d l) (hd : d < 32) :
    ∃ t, exec .ringLaneFailure s = .next t ∧ SameMems s t ∧
      ((s.die d).bad = false → (s.die d).spl = 7 → (t.die d).spl.toNat = l.val ∧ (∀ e ∈ (t.die d).slots, e.1 / 128 ≠ l.val) ∧
        ∀ e ∈ (s.die d).slots, e.1 / 128 = l.val → { e.2 with again := true } ∈ (t.die d).queues) ∧
      ((s.die d).bad = false → (s.die d).spl ≠ 7 → t = s.setDie d { s.die d with bad := true }) ∧
      ((s.die d).bad = true →
        t = { s with agenda := .event s.cur (.ringTableError d 0 l .laneFailure) :: s.agenda }) := by
  have hx : exec .ringLaneFailure s = .next (s.ringLaneFails d l) := by
    change execRingLaneFailure s = _
    rw [execRingLaneFailure, hev]
    exact if_neg (by omega)
  refine ⟨_, hx, State.ringLaneFails_mems s d l, fun hb hs => ?_, fun hb hs => ?_, fun hb => ?_⟩
  · simp only [State.ringLaneFails, hb, hs, Bool.false_eq_true, if_false, if_true, State.die_setDie]
    refine ⟨?_, fun e he => by simpa using (List.mem_filter.mp he).2, fun e he hl => ?_⟩
    · rw [BitVec.toNat_ofNat]; omega
    · exact List.mem_append_left _ (List.mem_map.mpr ⟨e, List.mem_filter.mpr ⟨he, by simpa using hl⟩, rfl⟩)
  · simp only [State.ringLaneFails, hb, Bool.false_eq_true, if_false, if_neg hs]
  · simp [State.ringLaneFails, hb, State.now]

end Sys2Proof.Machine
end

section
/-! The mesh (R311, R322 to R324, R360): what a mesh cycle moves, promotion, and the failure of a link's lane. -/

namespace Sys2Proof.Machine

/-! ## Routes and head flits -/

/-- A flit goes south only from a row that has one below it. -/
theorem four_le_of_route_south {vc : Fin 4} {d goal : Nat} (h : route vc d goal = .south) : 4 ≤ d := by
  have hy : ∀ g, g / 4 < d / 4 → 4 ≤ d := fun g hg => by omega
  by_contra hd
  have hlt (g : Nat) : ¬ g / 4 < d / 4 := fun hg => hd (hy g hg)
  simp only [route, hlt, if_false] at h
  split at h <;> (repeat' split at h) <;> simp at h

/-- An output that stays in the mesh leads to another die. -/
theorem nextDie_ne {vc : Fin 4} {d goal : Nat} (h : (route vc d goal).leaves d = false) :
    (route vc d goal).nextDie d ≠ d := by
  cases hr : route vc d goal with
  | west =>
    have hd : d % 4 ≠ 0 := by simpa [hr, Port.leaves] using h
    simp only [Port.nextDie]; omega
  | east => simp [Port.nextDie]
  | south =>
    have := four_le_of_route_south hr
    simp only [Port.nextDie]; omega
  | north => simp [Port.nextDie]
  | loc => simp [hr, Port.leaves] at h

/-- A head flit is one of the router's flits. -/
theorem headFlit_mem {fs : List Flit} {g : Nat} {inp : Port} {vc : Fin 4} {f : Flit} (h : headFlit fs g inp vc = some f) : f ∈ fs := by
  refine List.foldlRecOn (motive := fun best => ∀ b, best = some b → b ∈ fs) fs _ (by simp) (fun best hb x hx b h => ?_) f h
  split at h
  · cases best with
    | none => rwa [← Option.some.inj h]
    | some y =>
      dsimp only at h
      split at h
      · rwa [← Option.some.inj h]
      · exact hb b h
  · exact hb b h

theorem headFlits_mem {fs : List Flit} {g : Nat} {f : Flit} (h : f ∈ headFlits fs g) : f ∈ fs := by
  simp only [headFlits, List.mem_flatMap, List.mem_filterMap] at h
  obtain ⟨i, -, vc, -, hf⟩ := h
  exact headFlit_mem hf

/-- The only flit of a router is its head once it may be. -/
theorem headFlits_one {f : Flit} {g : Nat} (h : f.head ≤ g) : headFlits [f] g = [f] := by
  have table : ∀ (i : Port) (v : Fin 4), Port.all.flatMap (fun i' => (List.finRange 4).filterMap (fun v' =>
      if i = i' ∧ v = v' then some f else none)) = [f] := by
    intro i v
    cases i <;> fin_cases v <;> rfl
  simpa [headFlits, headFlit, h] using table f.inp f.vc

/-! ## Heads changed in place (R324) -/

/-- Of the flits those that are named change. -/
theorem mem_onHeads {h : Flit → Flit} {f : Flit} {fs : List Flit} {hs : List Flit} (hf : f ∈ hs) (hm : f ∈ fs) :
    h f ∈ onHeads h hs fs := by
  induction fs generalizing hs with
  | nil => cases hm
  | cons x fs ih =>
    by_cases hx : x = f
    · subst hx
      simp [onHeads, hf]
    · have hm' : f ∈ fs := (List.mem_cons.mp hm).resolve_left (Ne.symm hx)
      rw [onHeads]
      split
      · exact List.mem_cons_of_mem _ (ih ((List.mem_erase_of_ne (Ne.symm hx)).mpr hf) hm')
      · exact List.mem_cons_of_mem _ (ih hf hm')

/-- What a change of heads does not touch is as before, flit by flit. -/
theorem map_onHeads {α : Type} {h : Flit → Flit} {k : Flit → α} (hk : ∀ f, k (h f) = k f) (fs : List Flit) (hs : List Flit) :
    (onHeads h hs fs).map k = fs.map k := by
  induction fs generalizing hs with
  | nil => rfl
  | cons x fs ih =>
    rw [onHeads]
    split
    · rw [List.map_cons, List.map_cons, hk, ih]
    · rw [List.map_cons, List.map_cons, ih]

/-- R324: the heads of a channel that want an output and have reached the threshold are promoted, and nothing else changes. -/
theorem flitPromotion_spec (s : State) (d : Nat) (out : Port) (vc : Nat) (hev : s.ev = .flitPromotion d out vc) (hd : d < 32) :
    ∃ t, exec .flitPromotion s = .next t ∧ t = { s with dies := t.dies } ∧ (∀ e, e ≠ d → t.die e = s.die e) ∧
      (∀ f ∈ headFlits (s.die d).flits s.meshCyc, f.vc.val = vc → route f.vc f.die f.goal = out →
        (s.die d).meshcfg.toNat / 2 ^ 16 % 2 ^ 10 ≤ f.age → { f with promoted := true } ∈ (t.die d).flits) ∧
      (t.die d).flits.map (fun f => { f with promoted := false }) =
        (s.die d).flits.map (fun f => { f with promoted := false }) := by
  have hx : exec .flitPromotion s = .next (s.setDie d { s.die d with
      flits := onHeads (fun f => { f with promoted := true }) ((headFlits (s.die d).flits s.meshCyc).filter (fun f =>
        f.vc.val == vc && route f.vc f.die f.goal == out && decide ((s.die d).threshold ≤ f.age))) (s.die d).flits }) := by
    change execFlitPromotion s = _
    rw [execFlitPromotion, hev]
    exact if_neg (by omega)
  refine ⟨_, hx, rfl, fun e he => State.die_setDie_ne _ _ _ _ he, fun f hf hv hr ht => ?_, ?_⟩
  · rw [State.die_setDie]
    refine mem_onHeads (h := fun f => { f with promoted := true }) (List.mem_filter.mpr ⟨hf, ?_⟩) (headFlits_mem hf)
    have ht' : (s.die d).threshold ≤ f.age := ht
    simp [hv, hr, ht']
  · rw [State.die_setDie]
    exact map_onHeads (h := fun f => { f with promoted := true }) (fun _ => rfl) _ _

/-! ## Arbitration over one flit (R323) -/

theorem mem_turnOrder (last i : Fin 5) : i ∈ turnOrder last := by
  revert last i
  decide

/-- A search that finds nothing but `a`, and finds it at a place that it visits, gives `a`. -/
theorem findSome?_unique {α β : Type} {f : α → Option β} {l : List α} {x : α} {a : β} (hx : x ∈ l) (hfx : f x = some a)
    (h : ∀ y b, f y = some b → b = a) : l.findSome? f = some a := by
  cases hr : l.findSome? f with
  | none => rw [List.findSome?_eq_none_iff.mp hr x hx] at hfx; cases hfx
  | some b =>
    obtain ⟨y, -, hy⟩ := List.exists_of_findSome?_eq_some hr
    rw [h y b hy]

theorem byTurn_one (f : Flit) (last : Fin 5) : byTurn [f] last = some f :=
  findSome?_unique (mem_turnOrder last f.inp.idx) (by simp) (fun _ _ h => by simpa using (List.mem_of_find?_eq_some h))

theorem filter_vc_one (f : Flit) (v : Fin 4) : [f].filter (fun f => f.vc == v) = if f.vc = v then [f] else [] := by
  simp [List.filter_cons]

/-- An arbiter with one candidate grants it. -/
theorem grant_one (d : Die) (f : Flit) (o : OutState) : ∃ o', grant d [f] o = some (f, o') := by
  have hvc (last : Fin 4 → Fin 5) : (List.finRange 4).findSome? (fun v => byTurn ([f].filter (fun f => f.vc == v)) (last v)) =
      some f :=
    findSome?_unique (List.mem_finRange f.vc) (by rw [filter_vc_one, if_pos rfl, byTurn_one]) (fun v b h => by
      rw [filter_vc_one] at h
      split at h
      · rw [byTurn_one] at h; exact (Option.some.inj h).symm
      · simp [byTurn, turnOrder] at h)
  have hne (v : Fin 4) : [f].filter (fun f => f.vc == v) ≠ [] ↔ f.vc = v := by
    rw [filter_vc_one]
    split <;> simp [*]
  have hcur : [o.cur + 1, o.cur + 2, o.cur + 3, o.cur].find? (fun v => [f].filter (fun f => f.vc == v) != []) = some f.vc := by
    have hmem : ∀ a v : Fin 4, v ∈ [a + 1, a + 2, a + 3, a] := by decide
    cases h : [o.cur + 1, o.cur + 2, o.cur + 3, o.cur].find? (fun v => [f].filter (fun f => f.vc == v) != []) with
    | none => exact absurd (bne_iff_ne.mpr ((hne f.vc).mpr rfl)) (List.find?_eq_none.mp h _ (hmem o.cur f.vc))
    | some v => rw [(hne v).mp (bne_iff_ne.mp (List.find?_some (p := fun v => [f].filter (fun f => f.vc == v) != []) h))]
  have hown : [f].filter (fun g => g.vc == f.vc) = [f] := by rw [filter_vc_one, if_pos rfl]
  simp only [grant]
  by_cases hp : d.promotes f = true
  · have hold : [f].filter (fun g => g.age == [f].foldl (fun n g => Nat.max n g.age) 0) = [f] := by simp
    rw [List.filter_cons_of_pos hp, List.filter_nil, if_pos (by simp), hold, hvc]
    exact ⟨_, rfl⟩
  · rw [List.filter_cons_of_neg hp, List.filter_nil, if_neg (by simp)]
    split
    next hc =>
      rw [filter_vc_one, if_pos ((hne o.cur).mp hc.1), byTurn_one]
      exact ⟨_, rfl⟩
    next =>
      rw [hcur]
      simp only [hown, byTurn_one]
      exact ⟨_, rfl⟩

theorem grant_nil (d : Die) (o : OutState) : grant d [] o = none := by
  simp [grant]

/-! ## A mesh cycle of one flit -/

/-- The dies whose routers have something to do (R370). -/
def State.meshDies (s : State) : List Nat := (s.dies.filter (fun e => !e.2.clockOff && !e.2.flits.isEmpty)).map (fun e => e.1)

/-- One grant at each output of the named routers. -/
def State.meshPass (s : State) (g : Nat) (ds : List Nat) : State :=
  ds.foldl (fun s d => Port.all.foldl (fun s out => s.meshGrant g d out) s) s

/-- The state of a mesh cycle once the heads that are left have waited. -/
def State.meshAged (s : State) : State :=
  s.meshDies.foldl (fun t d => t.setDie d ((t.die d).ageHeads s.meshCyc))
    ((List.range 4).foldl (fun t _ => t.meshPass s.meshCyc s.meshDies) s)

theorem meshCycle_eq (s : State) : s.meshCycle = ({ s.meshAged with meshCyc := s.meshCyc + 1 } : State).soon
    (s.meshDies.flatMap (fun d => (s.meshAged.die d).promotions d s.meshCyc)) := rfl

/-- A router without a flit grants nothing. -/
theorem meshGrant_nil {s : State} {d : Nat} (g : Nat) (out : Port) (h : (s.die d).flits = []) : s.meshGrant g d out = s := by
  have he : s.eligible d g out = [] := by
    simp [State.eligible, h, headFlits, headFlit]
  simp only [State.meshGrant, he, grant_nil]

/-- The fields that a flit's router needs: it is alone there, may be head, and no link of the die is off or retrains. -/
structure FlitAlone (s : State) (d : Nat) (f : Flit) : Prop where
  flits : (s.die d).flits = [f]
  off   : (s.die d).linksOff = []
  back  : (s.die d).linkBack = []
  die   : f.die = d
  head  : f.head ≤ s.meshCyc

theorem eligible_one {s : State} {d : Nat} {f : Flit} (h : FlitAlone s d f)
    (hc : s.credit d (route f.vc d f.goal) f.vc = true) (out : Port) :
    s.eligible d s.meshCyc out = if out = route f.vc d f.goal then [f] else [] := by
  simp only [State.eligible, h.off, h.back, h.flits, headFlits_one h.head]
  by_cases ho : out = route f.vc d f.goal
  · subst ho
    simp [Tbl.get?, h.die, hc]
  · simp [Tbl.get?, h.die, ho, Ne.symm ho]

/-- A granted flit as it stands at the next router. -/
def Flit.sent (f : Flit) (d g : Nat) (out : Port) : Flit :=
  { f with die := out.nextDie d, inp := out.facing, head := g + 6, age := 0, promoted := false }

/-- The grant of the flit that is alone takes it to the next router. -/
theorem meshGrant_one {s : State} {d : Nat} {f : Flit} (h : FlitAlone s d f) (hl : (route f.vc d f.goal).leaves d = false)
    (hc : s.credit d (route f.vc d f.goal) f.vc = true) : let out := route f.vc d f.goal
    let t := s.meshGrant s.meshCyc d out
    (t.die d).flits = [] ∧ (t.die (out.nextDie d)).flits = (s.die (out.nextDie d)).flits ++ [f.sent d s.meshCyc out] := by
  intro out t
  have hn : out.nextDie d ≠ d := nextDie_ne hl
  obtain ⟨o, ho⟩ := grant_one (s.die d) f (Tbl.getD (s.die d).outs out.idx.val OutState.reset)
  have ht : t = (s.setDie d { s.die d with outs := Tbl.set (s.die d).outs out.idx.val o }).forward s.meshCyc f out := by
    simp only [t, State.meshGrant]
    rw [eligible_one h hc, if_pos rfl, ho]
  rw [ht, State.forward, h.die, hl]
  simp only [Bool.false_eq_true, if_false, State.die_setDie]
  constructor
  · rw [State.die_setDie_ne _ _ _ _ (Ne.symm hn), State.die_setDie, h.flits]
    simp
  · rw [State.die_setDie_ne _ _ _ _ hn, State.die_setDie_ne _ _ _ _ hn]
    rfl

/-- A fold whose only effective step comes up once and is done for good. -/
theorem foldl_once {α β : Type} [DecidableEq α] {f : β → α → β} {a : α} {b b' : β} (hb : ∀ x, f b x = if x = a then b' else b)
    (hb' : ∀ x, f b' x = b') (l : List α) : l.foldl f b = if a ∈ l then b' else b := by
  have hdone : ∀ l : List α, l.foldl f b' = b' := fun l => foldl_keeps (· = b') f l b' rfl (fun x y h => by rw [h, hb'])
  induction l with
  | nil => rfl
  | cons x l ih =>
    rw [List.foldl_cons, hb]
    by_cases hx : x = a
    · simp [hx, hdone]
    · simp [hx, ih, Ne.symm hx]

theorem meshPass_one {s : State} {d : Nat} {f : Flit} (h : FlitAlone s d f) (hl : (route f.vc d f.goal).leaves d = false)
    (hc : s.credit d (route f.vc d f.goal) f.vc = true) :
    s.meshPass s.meshCyc [d] = s.meshGrant s.meshCyc d (route f.vc d f.goal) := by
  have hother (out : Port) (ho : out ≠ route f.vc d f.goal) : s.meshGrant s.meshCyc d out = s := by
    simp only [State.meshGrant, eligible_one h hc, if_neg ho, grant_nil]
  have hall : route f.vc d f.goal ∈ Port.all := by cases route f.vc d f.goal <;> decide
  rw [State.meshPass, List.foldl_cons, List.foldl_nil, foldl_once (a := route f.vc d f.goal)
    (b' := s.meshGrant s.meshCyc d (route f.vc d f.goal)) (fun out => ?_)
    (fun out => meshGrant_nil _ _ (meshGrant_one h hl hc).1), if_pos hall]
  split
  next ho => rw [ho]
  next ho => exact hother out ho

/-- Passes over a router that has no flit do nothing. -/
theorem meshPass_nil {s : State} {d : Nat} (g : Nat) (h : (s.die d).flits = []) : s.meshPass g [d] = s := by
  have hall : ∀ ps : List Port, ps.foldl (fun s out => s.meshGrant g d out) s = s := fun ps =>
    foldl_keeps (· = s) _ ps s rfl (fun t out ht => by rw [ht, meshGrant_nil g out h])
  rw [State.meshPass, List.foldl_cons, List.foldl_nil]
  exact hall _

/-- The cycle of the only die with a flit, its clocks running (R322). -/
theorem meshAged_one {s : State} {d : Nat} {f : Flit} (hds : s.meshDies = [d]) (h : FlitAlone s d f)
    (hl : (route f.vc d f.goal).leaves d = false) (hc : s.credit d (route f.vc d f.goal) f.vc = true) :
    let out := route f.vc d f.goal
    (s.meshAged.die d).flits = [] ∧
      (s.meshAged.die (out.nextDie d)).flits = (s.die (out.nextDie d)).flits ++ [f.sent d s.meshCyc out] := by
  intro out
  obtain ⟨hgone, hsent⟩ := meshGrant_one h hl hc
  have hpasses : (List.range 4).foldl (fun t _ => t.meshPass s.meshCyc [d]) s = s.meshGrant s.meshCyc d out := by
    rw [show List.range 4 = [0, 1, 2, 3] from rfl, List.foldl_cons, meshPass_one h hl hc]
    exact foldl_keeps (· = s.meshGrant s.meshCyc d out) _ _ _ rfl (fun t _ ht => by rw [ht, meshPass_nil _ hgone])
  rw [State.meshAged, hds, hpasses, List.foldl_cons, List.foldl_nil]
  constructor
  · rw [State.die_setDie, Die.ageHeads, hgone]; rfl
  · rw [State.die_setDie_ne _ _ _ _ (nextDie_ne hl)]; exact hsent

theorem die_one_ne {s : State} {d e : Nat} {x : Die} (hd : s.dies = [(d, x)]) (h : e ≠ d) : s.die e = Die.reset := by
  simp [State.die, hd, Tbl.getD, Tbl.get?, Ne.symm h]

/-- Routers without a flit only count their cycles. -/
theorem meshCycle_empty {s : State} (h : ∀ e ∈ s.dies, e.2.flits = []) : s.meshCycle = { s with meshCyc := s.meshCyc + 1 } := by
  have hds : s.meshDies = [] := by
    rw [State.meshDies, List.map_eq_nil_iff, List.filter_eq_nil_iff]
    intro e he
    simp [h e he]
  have haged : s.meshAged = s := by
    rw [State.meshAged, hds, List.foldl_nil]
    exact foldl_keeps (· = s) _ _ s rfl (fun t _ ht => ht)
  rw [meshCycle_eq, hds, haged]
  rfl

/-- R322 to R324, of a flit that is alone in the mesh. -/
theorem meshCycle_spec (s : State) :
    ∃ t, exec .meshCycle s = .next t ∧ t.meshCyc = s.meshCyc + 1 ∧ SameMems s t ∧
      ((∀ e ∈ s.dies, e.2.flits = []) → t = { s with meshCyc := s.meshCyc + 1 }) ∧
      ∀ (d : Nat) (x : Die) (f : Flit), s.dies = [(d, x)] → x.flits = [f] → x.linksOff = [] → x.linkBack = [] →
        x.clockOff = false → f.die = d → f.head ≤ s.meshCyc → let out := route f.vc d f.goal
        out.leaves d = false → (t.die d).flits = [] ∧ (t.die (out.nextDie d)).flits = [{ f with
          die := out.nextDie d, inp := out.facing, head := s.meshCyc + 6, age := 0, promoted := false }] := by
  refine ⟨s.meshCycle, rfl, by rw [meshCycle_eq]; rfl, State.meshCycle_mems s, meshCycle_empty, ?_⟩
  intro d x f hd hf hoff hback hclock hdie hhead out hl
  have hx := die_one hd
  have hnext : (s.die (out.nextDie d)).flits = [] := by rw [die_one_ne hd (nextDie_ne hl)]; rfl
  have hcredit : s.credit d out f.vc = true := by
    rw [State.credit, hl, hnext]
    simp [bufferDepth]
  have hds : s.meshDies = [d] := by
    rw [State.meshDies, hd, List.filter_cons_of_pos, List.filter_nil, List.map_cons, List.map_nil]
    simp [hclock, hf]
  have h : FlitAlone s d f := ⟨by rw [hx, hf], by rw [hx, hoff], by rw [hx, hback], hdie, hhead⟩
  obtain ⟨hgone, hsent⟩ := meshAged_one hds h hl hcredit
  rw [hnext] at hsent
  rw [meshCycle_eq]
  exact ⟨hgone, hsent⟩

/-! ## The failure of a mesh link's lane (R360) -/

theorem holdLink_die (s : State) (d : Nat) (out : Port) (head e : Nat) :
    (s.holdLink d out head).die e = { s.die e with flits := ((s.holdLink d out head).die e).flits } := by
  rw [State.holdLink]
  split
  · rfl
  · by_cases he : e = out.nextDie d
    · rw [he, State.die_setDie]
    · rw [State.die_setDie_ne _ _ _ _ he]

/-- The spare is brought in, or, with the spare in use, the link is disabled. -/
theorem meshLaneFailure_mesh (s : State) (d : Nat) (out : Port) (hev : s.ev = .meshLaneFailure (.mesh d out)) (hd : d < 32)
    (hl : out.leads d = true) (hoff : out ∉ (s.die d).linksOff) :
    ∃ t, exec .meshLaneFailure s = .next t ∧ SameMems s t ∧
      (Tbl.getD (s.die d).spares out.idx.val false = false → Tbl.getD (t.die d).spares out.idx.val false = true ∧
        out ∉ (t.die d).linksOff) ∧
      (Tbl.getD (s.die d).spares out.idx.val false = true → out ∈ (t.die d).linksOff) := by
  have hx : exec .meshLaneFailure s = .next (s.meshLaneFails d out) := by
    change execMeshLaneFailure s = _
    rw [execMeshLaneFailure, hev]
    simp [LinkRef.present, hd, hl]
  have hcont : (s.die d).linksOff.contains out = false := by simpa using hoff
  refine ⟨_, hx, State.meshLaneFails_mems s d out, fun hs => ?_, fun hs => ?_⟩
  · simp only [State.meshLaneFails, hcont, hs, Bool.false_eq_true, if_false]
    change Tbl.getD ((State.holdLink _ d out _).die d).spares _ _ = _ ∧ out ∉ ((State.holdLink _ d out _).die d).linksOff
    rw [holdLink_die, State.die_setDie]
    exact ⟨Tbl.getD_set_self .., hoff⟩
  · simp only [State.meshLaneFails, hcont, hs, Bool.false_eq_true, if_false, if_true, State.meshLinkOff]
    change out ∈ ((State.setDie _ d _).die d).linksOff
    rw [State.die_setDie]
    exact List.mem_append_right _ (List.mem_singleton.mpr rfl)

end Sys2Proof.Machine
end

section
/-! Port links (R326, R360): what a received flit does, retraining, and the failure of a lane. -/

namespace Sys2Proof.Machine

/-! ## One link replaced -/

theorem State.link_setLink_ne (s : State) (p q : Nat) (x : Link) (h : q ≠ p) : (s.setLink p x).link q = s.link q := by
  simp [State.link, State.setLink, Tbl.getD_set_ne _ _ _ _ _ h]

theorem onlyLink_setLink (s : State) (p : Nat) (x : Link) : OnlyLink p s (s.setLink p x) :=
  ⟨rfl, fun q hq => State.link_setLink_ne s p q x hq⟩

/-! ## What a received flit carries for the link (R326) -/

/-- Sending leaves what the link has received as it is. -/
theorem Link.drain_received (ps : List (List Byte)) (l : Link) :
    (l.drain ps).rxSeq = l.rxSeq ∧ (l.drain ps).output = l.output := by
  induction ps generalizing l with
  | nil => exact ⟨rfl, rfl⟩
  | cons p ps ih =>
    rw [Link.drain]
    split
    · exact ih (l.sendData p)
    · exact ⟨rfl, rfl⟩

/-- The link once a good flit's acknowledgement and credits are taken and the payloads that wait are sent. -/
def Link.took (l : Link) (f : ChegenFlit) : Link := (l.take f).drain (l.take f).unsent

theorem Link.took_rxSeq (l : Link) (f : ChegenFlit) : (l.took f).rxSeq = l.rxSeq := (Link.drain_received _ _).1

theorem Link.took_output (l : Link) (f : ChegenFlit) : (l.took f).output = l.output := (Link.drain_received _ _).2

/-- With no payload waiting, only the acknowledgement and credits are taken. -/
theorem Link.took_of_unsent {l : Link} (h : l.unsent = []) (f : ChegenFlit) : l.took f = l.take f := by
  have ht : (l.take f).unsent = [] := h
  rw [Link.took, ht, Link.drain, ← ht]

theorem linkTook_take (l : Link) (f : ChegenFlit) : linkTook l f (l.take f) := by
  have hn : seqAfter f.ackn l.peerAck.toNat = (f.ackn + 4096 - l.peerAck.toNat) % 4096 := by
    rw [seqAfter, Nat.mod_eq_of_lt l.peerAck.isLt]
  rw [linkTook, ← hn]
  refine ⟨fun h => ?_, fun h => ?_, ?_⟩
  · simp [Link.take, h, List.map_drop]
  · simp [Link.take, Nat.not_le.mpr h]
  · simp only [Link.take]
    split
    next hc => rw [hc, Nat.add_zero]
    next => exact Tbl.getD_set_self ..

theorem linkTook_took {l : Link} (h : l.unsent = []) (f : ChegenFlit) : linkTook l f (l.took f) := by
  rw [Link.took_of_unsent h]
  exact linkTook_take l f

theorem Link.took_wire {l : Link} (h : l.unsent = []) (f : ChegenFlit) : (l.took f).wire = l.wire := by
  rw [Link.took_of_unsent h]
  rfl

/-- What the link took is read off from its acknowledgement, its flits and its credits alone. -/
theorem linkTook_congr {l a b : Link} {f : ChegenFlit} (h : linkTook l f a) (hack : b.peerAck = a.peerAck)
    (hbox : b.outbox.map (fun x => x.1) = a.outbox.map (fun x => x.1)) (hcred : b.credits = a.credits) : linkTook l f b := by
  simpa only [linkTook, hack, hbox, hcred] using h

/-- A good flit is handed on with the link as it took it. -/
theorem receive_good {s : State} {port : Nat} {f : ChegenFlit} (hoff : (s.link port).off = false)
    (hback : (s.link port).back = none) (hg : f.good = true) (hb : f.broken = false) (go : State → Link → State) :
    s.receive port f go = go s ((s.link port).took f) := by
  simp [State.receive, hoff, hback, hg, hb, Link.took]

/-- A flit with a bad check word is answered with a nak. -/
theorem receive_bad {s : State} {port : Nat} {f : ChegenFlit} (hoff : (s.link port).off = false)
    (hback : (s.link port).back = none) (hg : f.good = false) (go : State → Link → State) :
    s.receive port f go = s.setLink port { s.link port with
      wire := (s.link port).wire ++ [(s.link port).control 4 1 0] } := by
  simp [State.receive, hoff, hback, hg]

/-! ## The flits of a link (R326) -/

/-- ACK, CREDIT and IDLE: the acknowledgement and credits are taken and nothing else is. -/
theorem controlFlit_spec {s : State} {port : Nat} {f : ChegenFlit} (hoff : (s.link port).off = false)
    (hback : (s.link port).back = none) {i : Instr}
    (hi : (i, s.ev) ∈ [(Instr.ack, Ev.ack port f), (.credit, .credit port f), (.idle, .idle port f)])
    (hg : f.good = true) (hb : f.broken = false) :
    ∃ t, exec i s = .next t ∧ OnlyLink port s t ∧
      (t.link port).rxSeq = (s.link port).rxSeq ∧ (t.link port).output = (s.link port).output ∧
      ((s.link port).unsent = [] → linkTook (s.link port) f (t.link port) ∧
        (t.link port).wire = (s.link port).wire) := by
  have hx : exec i s = .next (s.receive port f (fun s l => s.setLink port l)) := by
    simp only [List.mem_cons, List.not_mem_nil, or_false, Prod.mk.injEq] at hi
    rcases hi with ⟨rfl, hev⟩ | ⟨rfl, hev⟩ | ⟨rfl, hev⟩
    · change execAck s = _
      rw [execAck, hev]
    · change execCredit s = _
      rw [execCredit, hev]
    · change execIdle s = _
      rw [execIdle, hev]
  rw [receive_good hoff hback hg hb] at hx
  refine ⟨_, hx, onlyLink_setLink .., ?_⟩
  rw [State.link_setLink]
  exact ⟨Link.took_rxSeq .., Link.took_output .., fun hu => ⟨linkTook_took hu f, Link.took_wire hu f⟩⟩

theorem exec_data {s : State} {port : Nat} {f : ChegenFlit} (hev : s.ev = .data port f) :
    exec .data s = .next (s.dataFlit port f) := by
  change execData s = _
  rw [execData, hev]

/-- A data flit with a bad check word is answered with a nak and changes nothing else. -/
theorem data_bad {s : State} {port : Nat} {f : ChegenFlit} (hoff : (s.link port).off = false)
    (hback : (s.link port).back = none) (hg : f.good = false) (hev : s.ev = .data port f) :
    ∃ t x, exec .data s = .next t ∧ OnlyLink port s t ∧
      t.link port = { s.link port with wire := (s.link port).wire ++ [x] } ∧ x.type = 4 ∧
      x.ackn = (s.link port).ackn.toNat := by
  have hx := exec_data hev
  rw [State.dataFlit, receive_bad hoff hback hg] at hx
  exact ⟨_, (s.link port).control 4 1 0, hx, onlyLink_setLink .., State.link_setLink .., rfl, rfl⟩

/-- A link with the bytes of a data flit in order decoded. -/
def Link.decoded (l : Link) (f : ChegenFlit) : Link :=
  let d := decodeBlocks (l.input ++ f.bytes) (l.input.length + 256)
  { l with rxSeq := l.rxSeq + 1, ackn := BitVec.ofNat 12 f.seq, input := d.rest, output := l.output ++ d.out }

/-- A link that has taken a data flit in order: an ack with a credit goes out. -/
def Link.dataTaken (l : Link) (f : ChegenFlit) : Link :=
  { l.decoded f with wire := l.wire ++ [(l.decoded f).control 3 f.vc 1] }

/-- A data flit in order is taken, whether or not its blocks keep R327. -/
theorem dataFlit_link {s : State} {port : Nat} {f : ChegenFlit} (hoff : (s.link port).off = false)
    (hback : (s.link port).back = none) (hg : f.good = true) (hb : f.broken = false)
    (hseq : f.seq = (s.link port).rxSeq.toNat) :
    (s.dataFlit port f).link port = ((s.link port).took f).dataTaken f := by
  let l := (s.link port).took f
  let s1 := s.setLink port (l.dataTaken f)
  have hx : s.dataFlit port f =
      if (decodeBlocks (l.input ++ f.bytes) (l.input.length + 256)).bad then s1.portError port else s1 := by
    rw [State.dataFlit, receive_good hoff hback hg hb]
    exact if_neg (not_not.mpr (hseq.trans (by rw [Link.took_rxSeq])))
  have hs1 : s1.link port = l.dataTaken f := State.link_setLink ..
  rw [hx]
  split
  · exact hs1
  · exact hs1

theorem data_inOrder {s : State} {port : Nat} {f : ChegenFlit} (hoff : (s.link port).off = false)
    (hback : (s.link port).back = none) (hg : f.good = true) (hb : f.broken = false) (hev : s.ev = .data port f)
    (hseq : f.seq = (s.link port).rxSeq.toNat) :
    ∃ t, exec .data s = .next t ∧ SameMems s t ∧
      (t.link port).rxSeq = (s.link port).rxSeq + 1 ∧ (t.link port).ackn = BitVec.ofNat 12 f.seq ∧
      ((s.link port).unsent = [] → linkTook (s.link port) f (t.link port) ∧ ∃ x,
        (t.link port).wire = (s.link port).wire ++ [x] ∧ x.type = 3 ∧ x.vc = f.vc ∧ x.cred = 1 ∧ x.ackn = f.seq % 4096) := by
  refine ⟨_, exec_data hev, State.dataFlit_mems .., ?_⟩
  rw [dataFlit_link hoff hback hg hb hseq]
  refine ⟨?_, rfl, fun hu => ⟨linkTook_congr (linkTook_took hu f) rfl rfl rfl,
    (((s.link port).took f).decoded f).control 3 f.vc 1, ?_, rfl, rfl, rfl, ?_⟩⟩
  · rw [← Link.took_rxSeq (s.link port) f]; rfl
  · rw [← Link.took_wire hu f]; rfl
  · exact BitVec.toNat_ofNat ..

/-- A data flit out of order is dropped: only what rides on it is taken. -/
theorem data_outOfOrder {s : State} {port : Nat} {f : ChegenFlit} (hoff : (s.link port).off = false)
    (hback : (s.link port).back = none) (hg : f.good = true) (hb : f.broken = false) (hev : s.ev = .data port f)
    (hseq : f.seq ≠ (s.link port).rxSeq.toNat) :
    ∃ t, exec .data s = .next t ∧ OnlyLink port s t ∧
      (t.link port).rxSeq = (s.link port).rxSeq ∧ (t.link port).output = (s.link port).output := by
  have hx := exec_data hev
  rw [State.dataFlit, receive_good hoff hback hg hb] at hx
  simp only [Link.took_rxSeq, if_pos hseq] at hx
  refine ⟨_, hx, onlyLink_setLink .., ?_⟩
  rw [State.link_setLink]
  exact ⟨Link.took_rxSeq .., Link.took_output ..⟩

/-- A link with nothing to send again sends nothing. -/
theorem Link.resend_of_empty {l : Link} (h : l.outbox = []) : l.resend = l := by
  simp only [Link.resend, h, List.map_nil, List.append_nil]
  rw [← h]

/-- A nak has every flit that is not acknowledged sent again. -/
theorem nakFlit_link {s : State} {port : Nat} {f : ChegenFlit} (hoff : (s.link port).off = false)
    (hback : (s.link port).back = none) (hg : f.good = true) (hb : f.broken = false) :
    (s.nakFlit port f).link port = ((s.link port).took f).resend := by
  rw [State.nakFlit, receive_good hoff hback hg hb]
  dsimp only
  split
  next ho =>
    rw [State.link_setLink, Link.resend_of_empty ho]
  next =>
    split
    · exact State.link_setLink ..
    · exact State.link_setLink ..

theorem Link.resend_flits (l : Link) : l.resend.outbox.map (fun x => x.1) = l.outbox.map (fun x => x.1) := by
  simp [Link.resend]

theorem nak_spec {s : State} {port : Nat} {f : ChegenFlit} (hoff : (s.link port).off = false)
    (hback : (s.link port).back = none) (hg : f.good = true) (hb : f.broken = false) (hev : s.ev = .nak port f) :
    ∃ t, exec .nak s = .next t ∧ SameMems s t ∧
      ((s.link port).unsent = [] → linkTook (s.link port) f (t.link port) ∧
        (t.link port).wire = (s.link port).wire ++ (t.link port).outbox.map (fun x => x.1)) := by
  have hx : exec .nak s = .next (s.nakFlit port f) := by
    change execNak s = _
    rw [execNak, hev]
  refine ⟨_, hx, State.nakFlit_mems .., fun hu => ?_⟩
  rw [nakFlit_link hoff hback hg hb]
  refine ⟨linkTook_congr (linkTook_took hu f) rfl (Link.resend_flits _) rfl, ?_⟩
  rw [Link.resend_flits, ← Link.took_wire hu f]
  rfl

/-! ## Retraining and the failure of a lane (R326, R360) -/

/-- A link at the start of its retraining, which is over in wall period `due`. -/
def Link.retrains (l : Link) (due : Nat) : Link := { l with outbox := l.outbox.map (fun x => (x.1, 0)), back := some due }

theorem retrainPort_link (s : State) (port : Nat) :
    (s.retrainPort port).link port = (s.link port).retrains (s.wall.toNat + 1024) := State.link_setLink ..

theorem linkRetrain_spec {s : State} {port : Nat} (hev : s.ev = .linkRetrain port false) :
    ∃ t, exec .linkRetrain s = .next t ∧ SameMems s t ∧
      t.link port = { s.link port with
        outbox := (s.link port).outbox.map (fun x => (x.1, 0)), back := some (s.wall.toNat + 1024) } ∧
      ∃ x ∈ t.timers, x.due = s.wall.toNat + 1024 ∧ x.clock = none ∧ x.ev = .linkRetrainDone (.port port) true := by
  have hx : exec .linkRetrain s = .next (s.retrainPort port) := by
    change execLinkRetrain s = _
    rw [execLinkRetrain, hev]
    rfl
  exact ⟨_, hx, State.retrainPort_mems .., retrainPort_link s port, _,
    List.mem_append_right _ (List.mem_singleton.mpr rfl), rfl, rfl, rfl⟩

theorem exec_linkRetrainDone {s : State} {port : Nat} {up : Bool} (hev : s.ev = .linkRetrainDone (.port port) up)
    (hp : port < 16) : exec .linkRetrainDone s = .next (s.portTrained port up) := by
  change execLinkRetrainDone s = _
  rw [execLinkRetrainDone, hev]
  simp [LinkRef.present, hp]

/-- A link that comes back resends what is not acknowledged. -/
theorem linkRetrainDone_up {s : State} {port : Nat} (hev : s.ev = .linkRetrainDone (.port port) true) (hp : port < 16)
    (hback : (s.link port).back ≠ none) :
    ∃ t, exec .linkRetrainDone s = .next t ∧ OnlyLink port s t ∧
      t.link port = { s.link port with
        back := none, wire := (s.link port).wire ++ (s.link port).outbox.map (fun x => x.1) } := by
  have hx := exec_linkRetrainDone hev hp
  simp only [State.portTrained, Option.isNone_iff_eq_none, hback, if_false, if_true] at hx
  exact ⟨_, hx, onlyLink_setLink .., State.link_setLink ..⟩

/-- A link that does not come back is disabled. -/
theorem linkRetrainDone_down {s : State} {port : Nat} (hev : s.ev = .linkRetrainDone (.port port) false) (hp : port < 16)
    (hback : (s.link port).back ≠ none) :
    ∃ t, exec .linkRetrainDone s = .next t ∧ (t.link port).off = true ∧ (t.link port).back = none := by
  have hx := exec_linkRetrainDone hev hp
  simp only [State.portTrained, Option.isNone_iff_eq_none, hback, Bool.false_eq_true, if_false] at hx
  refine ⟨_, hx, ?_⟩
  change ((State.setLink _ port _).link port).off = true ∧ ((State.setLink _ port _).link port).back = none
  rw [State.link_setLink]
  exact ⟨rfl, rfl⟩

/-- The failure of a port's lane: the spare is brought in, or, with the spare in use, the link is disabled. -/
theorem meshLaneFailure_port {s : State} {port : Nat} (hev : s.ev = .meshLaneFailure (.port port)) (hp : port < 16)
    (hoff : (s.link port).off = false) :
    ∃ t, exec .meshLaneFailure s = .next t ∧ SameMems s t ∧
      ((s.link port).spare = false → t.link port = { s.link port with
        spare := true, outbox := (s.link port).outbox.map (fun x => (x.1, 0)), back := some (s.wall.toNat + 1024) }) ∧
      ((s.link port).spare = true → (t.link port).off = true ∧ (t.link port).back = none) := by
  have hx : exec .meshLaneFailure s = .next (s.portLaneFails port) := by
    change execMeshLaneFailure s = _
    rw [execMeshLaneFailure, hev]
    simp [LinkRef.present, hp]
  refine ⟨_, hx, State.portLaneFails_mems .., fun hs => ?_, fun hs => ?_⟩
  · simp only [State.portLaneFails, hoff, hs, Bool.false_eq_true, if_false]
    rw [retrainPort_link, State.link_setLink]
    rfl
  · simp only [State.portLaneFails, hoff, hs, Bool.false_eq_true, if_false, if_true]
    change ((State.setLink _ port _).link port).off = true ∧ ((State.setLink _ port _).link port).back = none
    rw [State.link_setLink]
    exact ⟨rfl, rfl⟩

end Sys2Proof.Machine
end

section
/-! The host's accesses (R330): which pages they need, the bytes a write stores and a read returns. -/

namespace Sys2Proof.Machine

/-! ## The parts of an access -/

/-- The part of a host access that lies in line `l`. -/
def hostPart (q n l : Nat) : Nat × Nat := (Nat.max q (l * 64), Nat.min (q + n) ((l + 1) * 64) - Nat.max q (l * 64))

theorem hostParts_eq {n : Nat} (h : 0 < n) (q : Nat) :
    hostParts q n = (List.range ((q + n - 1) / 64 - q / 64 + 1)).map (fun i => hostPart q n (q / 64 + i)) := by
  rw [hostParts, if_neg (by omega)]
  rfl

theorem hostParts_zero (q : Nat) : hostParts q 0 = [] := rfl

/-- The parts are those of the lines from the first byte's to the last byte's. -/
theorem mem_hostParts {q n : Nat} {x : Nat × Nat} :
    x ∈ hostParts q n ↔ 0 < n ∧ ∃ l, q / 64 ≤ l ∧ l * 64 < q + n ∧ x = hostPart q n l := by
  rcases Nat.eq_zero_or_pos n with rfl | hn
  · simp [hostParts_zero]
  · simp only [hostParts_eq hn, List.mem_map, List.mem_range, hn, true_and]
    constructor
    · rintro ⟨i, hi, rfl⟩
      exact ⟨q / 64 + i, by omega, by omega, rfl⟩
    · rintro ⟨l, h1, h2, rfl⟩
      exact ⟨l - q / 64, by omega, by rw [Nat.add_sub_cancel' h1]⟩

/-- A part lies in one line of the access. -/
theorem hostPart_bounds {q n l : Nat} (h1 : q / 64 ≤ l) (h2 : l * 64 < q + n) (hn : 0 < n) :
    q ≤ (hostPart q n l).1 ∧ (hostPart q n l).1 / 64 = l ∧ (hostPart q n l).1 < q + n ∧
      (hostPart q n l).1 + (hostPart q n l).2 = Nat.min (q + n) ((l + 1) * 64) := by
  have hmax : Nat.max q (l * 64) = max q (l * 64) := rfl
  have hmin : Nat.min (q + n) ((l + 1) * 64) = min (q + n) ((l + 1) * 64) := rfl
  simp only [hostPart, hmax, hmin]
  omega

theorem bounds_of_mem_hostParts {q n : Nat} {x : Nat × Nat} (h : x ∈ hostParts q n) :
    q ≤ x.1 ∧ x.1 < q + n ∧ x.1 + x.2 ≤ q + n := by
  obtain ⟨hn, l, h1, h2, rfl⟩ := mem_hostParts.mp h
  obtain ⟨hq, -, hlt, hend⟩ := hostPart_bounds h1 h2 hn
  exact ⟨hq, hlt, hend ▸ Nat.min_le_left ..⟩

/-- The line of a byte of the access has a part, which holds the byte. -/
theorem exists_hostPart {q n a : Nat} (h1 : q ≤ a) (h2 : a < q + n) :
    ∃ x ∈ hostParts q n, x.1 ≤ a ∧ a < x.1 + x.2 ∧ x.1 / 64 = a / 64 := by
  have hn : 0 < n := by omega
  have hl1 : q / 64 ≤ a / 64 := Nat.div_le_div_right h1
  have hl2 : a / 64 * 64 < q + n := by omega
  obtain ⟨-, hline, -, hend⟩ := hostPart_bounds hl1 hl2 hn
  refine ⟨hostPart q n (a / 64), mem_hostParts.mpr ⟨hn, a / 64, hl1, hl2, rfl⟩, ?_, ?_, hline⟩
  · exact Nat.max_le.mpr ⟨h1, by omega⟩
  · rw [hend]
    exact Nat.lt_min.mpr ⟨h2, by omega⟩

/-- A host access is open when it lies in the window and every page of its bytes is open. -/
theorem hostOpen_iff {s : State} {q n : Nat} :
    s.hostOpen q n = true ↔ q + n ≤ 2 ^ 40 ∧ ∀ a, q ≤ a → a < q + n → a / 65536 ∈ s.endpoint.pages := by
  simp only [State.hostOpen, Bool.and_eq_true, decide_eq_true_eq, List.all_eq_true, List.contains_iff_mem]
  refine and_congr_right fun _ => ⟨fun h a h1 h2 => ?_, fun h x hx => ?_⟩
  · obtain ⟨x, hx, -, -, hline⟩ := exists_hostPart h1 h2
    have hpage : a / 65536 = x.1 / 65536 := by omega
    exact hpage ▸ h x hx
  · obtain ⟨h1, h2, -⟩ := bounds_of_mem_hostParts hx
    exact h x.1 h1 h2

/-- The host's window lies in the DRAM region. -/
theorem region_of_window {pa : Nat} (h : pa < 2 ^ 40) : region pa = 0 := by
  simp only [region, fld]
  omega

/-! ## The bytes of a write -/

/-- A part of the bytes `bs` of an access at `q`, stored at its own place, is read there, and every other byte is as before. -/
theorem get_store_part {q a n : Nat} {bs : List Byte} (h1 : q ≤ a) (h2 : a + n ≤ q + bs.length) (m : Memory) (b : Nat) :
    Memory.get (Memory.store m a ((bs.drop (a - q)).take n)) b =
      if a ≤ b ∧ b < a + n then bs.getD (b - q) 0 else Memory.get m b := by
  have hlen : ((bs.drop (a - q)).take n).length = n := by
    rw [List.length_take, List.length_drop]; omega
  split
  next h =>
    have hb := Memory.get_store_mem m a (b - a) ((bs.drop (a - q)).take n) (by omega)
    rw [Nat.add_sub_cancel' h.1] at hb
    rw [hb, List.getElem_take, List.getElem_drop, List.getD_eq_getElem _ _ (by omega)]
    congr 1
    omega
  next h => exact Memory.get_store_of_not_mem _ _ _ _ (by omega)

/-- The memory with some parts of the bytes of an access stored. -/
def storeParts (q : Nat) (bs : List Byte) (m : Memory) (ps : List (Nat × Nat)) : Memory :=
  ps.foldl (fun m x => Memory.store m x.1 ((bs.drop (x.1 - q)).take x.2)) m

/-- A byte that no part holds is as before. -/
theorem get_storeParts_outside {q b : Nat} {bs : List Byte} {ps : List (Nat × Nat)} {m : Memory}
    (hin : ∀ x ∈ ps, q ≤ x.1 ∧ x.1 + x.2 ≤ q + bs.length) (hb : b < q ∨ q + bs.length ≤ b) :
    Memory.get (storeParts q bs m ps) b = Memory.get m b := by
  induction ps generalizing m with
  | nil => rfl
  | cons x ps ih =>
    obtain ⟨h1, h2⟩ := hin x (List.mem_cons_self ..)
    rw [storeParts, List.foldl_cons, ← storeParts, ih (fun y hy => hin y (List.mem_cons_of_mem _ hy)), get_store_part h1 h2,
      if_neg (by omega)]

/-- A byte that a part holds is the access's, and stays so. -/
theorem get_storeParts_inside {q b : Nat} {bs : List Byte} {ps : List (Nat × Nat)} {m : Memory}
    (hin : ∀ x ∈ ps, q ≤ x.1 ∧ x.1 + x.2 ≤ q + bs.length)
    (hb : Memory.get m b = bs.getD (b - q) 0 ∨ ∃ x ∈ ps, x.1 ≤ b ∧ b < x.1 + x.2) :
    Memory.get (storeParts q bs m ps) b = bs.getD (b - q) 0 := by
  induction ps generalizing m with
  | nil => simpa [storeParts] using hb
  | cons x ps ih =>
    obtain ⟨h1, h2⟩ := hin x (List.mem_cons_self ..)
    refine ih (fun y hy => hin y (List.mem_cons_of_mem _ hy)) ?_
    rw [get_store_part h1 h2]
    split
    next => exact .inl rfl
    next hx =>
      rcases hb with hb | ⟨y, hy, hyb⟩
      · exact .inl hb
      · rcases List.mem_cons.mp hy with rfl | hy
        · exact absurd hyb hx
        · exact .inr ⟨y, hy, hyb⟩

/-- Bytes that a memory holds one by one are read from it together. -/
theorem Memory.load_eq {m : Memory} {bs : List Byte} {a : Nat} (h : ∀ i, i < bs.length → Memory.get m (a + i) = bs.getD i 0) :
    Memory.load m a bs.length = bs := by
  induction bs generalizing a with
  | nil => rfl
  | cons b bs ih =>
    rw [List.length_cons, Memory.load]
    have h0 : Memory.get m a = b := h 0 (by simp)
    rw [h0, ih (fun i hi => ?_)]
    have := h (i + 1) (by simpa using hi)
    rwa [show a + (i + 1) = a + 1 + i by omega, List.getD_cons_succ] at this

/-- A write at a home of the DRAM region stores its bytes and no others. -/
theorem homeWrite_mem {s : State} {pa : Nat} (h : region pa = 0) (bs : List Byte) (ts : Nat) :
    (s.homeWrite pa bs ts).1.mem = Memory.store s.mem pa bs := by
  simp only [State.homeWrite, (State.pushLine_mems _ _).1, (State.touchSlice_mems _ _).1, (State.clearTables_mems _ _ _).1]
  rw [State.physStore, if_neg (by omega)]
  rfl

/-- The state after one part of a host write. -/
def State.hostWritePart (q : Nat) (bs : List Byte) (s : State) (x : Nat × Nat) : State :=
  let w := s.homeWrite x.1 ((bs.drop (x.1 - q)).take x.2) s.endpoint.ts
  { w.1 with endpoint := { w.1.endpoint with ts := w.2 } }

theorem hostWrite_eq (s : State) (q : Nat) (bs : List Byte) :
    s.hostWrite q bs = (hostParts q bs.length).foldl (State.hostWritePart q bs) s := rfl

theorem hostWriteParts_mem {q : Nat} {bs : List Byte} {ps : List (Nat × Nat)} (h : ∀ x ∈ ps, region x.1 = 0) (s : State) :
    (ps.foldl (State.hostWritePart q bs) s).mem = storeParts q bs s.mem ps := by
  induction ps generalizing s with
  | nil => rfl
  | cons x ps ih =>
    have hx : (s.hostWritePart q bs x).mem = Memory.store s.mem x.1 ((bs.drop (x.1 - q)).take x.2) :=
      homeWrite_mem (h x (List.mem_cons_self ..)) _ _
    rw [List.foldl_cons, ih (fun y hy => h y (List.mem_cons_of_mem _ hy)), hx]
    rfl

/-- The parts of an access in the host's window lie in the DRAM region. -/
theorem region_of_mem_hostParts {q n : Nat} (hw : q + n ≤ 2 ^ 40) : ∀ x ∈ hostParts q n, region x.1 = 0 := fun x hx =>
  region_of_window (by have := (bounds_of_mem_hostParts hx).2.1; omega)

theorem hostWrite_mem {s : State} {q : Nat} {bs : List Byte} (hw : q + bs.length ≤ 2 ^ 40) :
    (s.hostWrite q bs).mem = storeParts q bs s.mem (hostParts q bs.length) := by
  rw [hostWrite_eq, hostWriteParts_mem (region_of_mem_hostParts hw)]

/-- A host write stores its bytes and no others. -/
theorem hostWrite_bytes {s : State} {q : Nat} {bs : List Byte} (hw : q + bs.length ≤ 2 ^ 40) :
    SameBytesOutside q bs.length s (s.hostWrite q bs) ∧ Memory.load (s.hostWrite q bs).mem q bs.length = bs := by
  have hin : ∀ x ∈ hostParts q bs.length, q ≤ x.1 ∧ x.1 + x.2 ≤ q + bs.length := fun x hx =>
    ⟨(bounds_of_mem_hostParts hx).1, (bounds_of_mem_hostParts hx).2.2⟩
  rw [hostWrite_mem hw]
  constructor
  · intro b hb
    rw [hostWrite_mem hw]
    exact get_storeParts_outside hin hb
  · refine Memory.load_eq fun i hi => ?_
    obtain ⟨x, hx, h1, h2, -⟩ := exists_hostPart (Nat.le_add_right q i) (Nat.add_lt_add_left hi q)
    rw [get_storeParts_inside hin (.inr ⟨x, hx, h1, h2⟩), Nat.add_sub_cancel_left]

/-! ## The bytes of a read -/

theorem Memory.load_add (m : Memory) (a n k : Nat) :
    Memory.load m a (n + k) = Memory.load m a n ++ Memory.load m (a + n) k := by
  induction n generalizing a with
  | zero => rw [Nat.zero_add, Nat.add_zero]; rfl
  | succ n ih =>
    rw [Nat.succ_add_eq_add_succ, Nat.add_succ, Memory.load, ih (a + 1), Memory.load, List.cons_append,
      Nat.succ_add_eq_add_succ]

/-- The parts of an access laid end to end are its bytes. -/
theorem load_hostParts (m : Memory) (q n : Nat) :
    (hostParts q n).flatMap (fun x => Memory.load m x.1 x.2) = Memory.load m q n := by
  rcases Nat.eq_zero_or_pos n with rfl | hn
  · rfl
  · have hlines : ∀ k, k ≤ (q + n - 1) / 64 - q / 64 + 1 →
        ((List.range k).map (fun i => hostPart q n (q / 64 + i))).flatMap (fun x => Memory.load m x.1 x.2) =
          Memory.load m q (min (q + n) ((q / 64 + k) * 64) - q) := by
      intro k
      induction k with
      | zero =>
        intro _
        rw [show min (q + n) ((q / 64 + 0) * 64) - q = 0 by omega]
        rfl
      | succ k ih =>
        intro hk
        obtain ⟨-, hline, -, hend⟩ := hostPart_bounds (q := q) (n := n) (l := q / 64 + k) (by omega) (by omega) hn
        have hfirst : (hostPart q n (q / 64 + k)).1 = max q ((q / 64 + k) * 64) := rfl
        have hmin : (hostPart q n (q / 64 + k)).1 + (hostPart q n (q / 64 + k)).2 = min (q + n) ((q / 64 + k + 1) * 64) := hend
        have hstart : q + (min (q + n) ((q / 64 + k) * 64) - q) = (hostPart q n (q / 64 + k)).1 := by omega
        have hsum : min (q + n) ((q / 64 + (k + 1)) * 64) - q =
            min (q + n) ((q / 64 + k) * 64) - q + (hostPart q n (q / 64 + k)).2 := by omega
        rw [List.range_succ, List.map_append, List.flatMap_append, ih (by omega), hsum, Memory.load_add, hstart]
        simp
    rw [hostParts_eq hn, hlines _ (Nat.le_refl _), show min (q + n) ((q / 64 + ((q + n - 1) / 64 - q / 64 + 1)) * 64) - q = n by omega]

theorem evict_endpoint (s : State) (k v : Nat) : (s.evict k v).endpoint = s.endpoint := by
  unfold State.evict
  dsimp only
  (repeat' split) <;> rfl

theorem takeWay_endpoint (s : State) (k l : Nat) : (s.takeWay k l).endpoint = s.endpoint := by
  unfold State.takeWay
  dsimp only
  split
  · rfl
  · split
    · rfl
    · rw [evict_endpoint]; rfl

theorem touchSlice_endpoint (s : State) (pa : Nat) : (s.touchSlice pa).endpoint = s.endpoint := by
  rw [State.touchSlice]
  split
  · rfl
  · exact takeWay_endpoint ..

theorem returnLine_endpoint (s : State) (l : Nat) : (s.returnLine l).endpoint = s.endpoint := by
  unfold State.returnLine
  dsimp only
  split <;> rfl

theorem disown_endpoint (s : State) (d : Nat) (ls : List Nat) : (s.disown d ls).endpoint = s.endpoint :=
  foldl_keeps (fun t : State => t.endpoint = s.endpoint) _ ls s rfl (fun t l ht => by
    split
    · rw [returnLine_endpoint, ht]
    · exact ht)

/-- The state and the bytes after one part of a host read. -/
def State.hostReadPart (acc : State × List Byte) (x : Nat × Nat) : State × List Byte :=
  let r := acc.1.homeRead x.1 x.2 acc.1.endpoint.ts 0
  ({ r.1 with endpoint := { r.1.endpoint with ts := r.2.2 } }, acc.2 ++ r.2.1)

theorem hostRead_eq (s : State) (q n : Nat) : s.hostRead q n = (hostParts q n).foldl State.hostReadPart (s, []) := rfl

/-- A read of parts in the DRAM region returns memory's bytes and leaves memory and the notices alone. -/
theorem hostReadParts_spec {ps : List (Nat × Nat)} (h : ∀ x ∈ ps, region x.1 = 0) (acc : State × List Byte) :
    let r := ps.foldl State.hostReadPart acc
    r.2 = acc.2 ++ ps.flatMap (fun x => Memory.load acc.1.mem x.1 x.2) ∧ r.1.mem = acc.1.mem ∧
      r.1.endpoint.notices = acc.1.endpoint.notices := by
  induction ps generalizing acc with
  | nil => exact ⟨(List.append_nil _).symm, rfl, rfl⟩
  | cons x ps ih =>
    have hmem : (State.hostReadPart acc x).1.mem = acc.1.mem := (State.homeRead_mems ..).1
    have hnotices : (State.hostReadPart acc x).1.endpoint.notices = acc.1.endpoint.notices := by
      change (State.touchSlice _ x.1).endpoint.notices = _
      rw [touchSlice_endpoint]
      rfl
    have hbytes : (State.hostReadPart acc x).2 = acc.2 ++ Memory.load acc.1.mem x.1 x.2 := by
      change acc.2 ++ acc.1.physLoad x.1 x.2 = _
      rw [State.physLoad, if_neg (by rw [h x (List.mem_cons_self ..)]; decide)]
    obtain ⟨ih1, ih2, ih3⟩ := ih (fun y hy => h y (List.mem_cons_of_mem _ hy)) (State.hostReadPart acc x)
    refine ⟨?_, ih2.trans hmem, ih3.trans hnotices⟩
    rw [List.foldl_cons, ih1, hbytes, hmem, List.flatMap_cons, List.append_assoc]

theorem hostRead_spec {s : State} {q n : Nat} (hw : q + n ≤ 2 ^ 40) :
    (s.hostRead q n).2 = Memory.load s.mem q n ∧ (s.hostRead q n).1.mem = s.mem ∧
      (s.hostRead q n).1.endpoint.notices = s.endpoint.notices := by
  obtain ⟨h1, h2, h3⟩ := hostReadParts_spec (region_of_mem_hostParts hw) (s, [])
  rw [hostRead_eq]
  exact ⟨h1.trans (load_hostParts ..), h2, h3⟩

/-! ## An access at the head of an empty queue -/

/-- The number of bytes of an access. -/
def hostLen (w : Option (List Byte)) (n : Nat) : Nat :=
  match w with
  | none => n
  | some bs => bs.length

/-- The pages of the access are open. -/
def HostOpened (s : State) (q len : Nat) : Prop :=
  q + len ≤ 2 ^ 40 ∧ ∀ a, q ≤ a → a < q + len → a / 65536 ∈ s.endpoint.pages

/-- No line of the access is pinned or reserved. -/
def HostFree (s : State) (q len : Nat) : Prop :=
  ∀ l, q / 64 ≤ l → l * 64 < q + len → (s.line l).pins = [] ∧ (s.line l).resv = none

theorem hostDone_of_empty {s : State} (h : s.endpoint.queue = []) : s.hostDone = s := by
  have he : ({ s.endpoint with queue := [] } : Endpoint) = s.endpoint := by rw [← h]
  simp only [State.hostDone, he, h]
  rfl

section
variable {s : State} {q n : Nat} {w : Option (List Byte)} (hev : s.ev = .hostDramAccess q w n) (hq : s.endpoint.queue = [])
include hev hq

theorem exec_hostDramAccess : exec .hostDramAccess s = .next (s.hostAccess q w n) := by
  change execHostDramAccess s = _
  rw [execHostDramAccess, hev]
  simp [State.hostWaits, hq]

/-- An access whose pages are not all open is an unsupported request. -/
theorem hostAccess_closed (h : ¬ HostOpened s q (hostLen w n)) :
    exec .hostDramAccess s = .next (s.notify (.unsupportedRequest q)) := by
  have hopen : s.hostOpen q (hostLen w n) = false := by
    rw [← Bool.not_eq_true, hostOpen_iff]
    exact h
  rw [exec_hostDramAccess hev hq]
  cases w <;>
  · simp only [State.hostAccess]
    rw [if_pos (by simpa [hostLen] using hopen), hostDone_of_empty (s := s.notify _) hq]

/-- An open access of free lines is done, once its lines have no owner. -/
theorem hostAccess_open (h : HostOpened s q (hostLen w n)) (hf : HostFree s q (hostLen w n)) :
    ∃ ls, exec .hostDramAccess s = .next (match w with
      | some bs => ((s.disown 32 ls).hostWrite q bs).hostDone
      | none => (((s.disown 32 ls).hostRead q n).1.notify (.hostData ((s.disown 32 ls).hostRead q n).2)).hostDone) := by
  have hopen : s.hostOpen q (hostLen w n) = true := hostOpen_iff.mpr h
  have hline : ∀ x ∈ hostParts q (hostLen w n), (s.line (lineOf x.1)).pins = [] ∧ (s.line (lineOf x.1)).resv = none := by
    intro x hx
    obtain ⟨h1, h2, -⟩ := bounds_of_mem_hostParts hx
    exact hf _ (Nat.div_le_div_right h1) (by rw [lineOf]; omega)
  have hpins : ((hostParts q (hostLen w n)).map (fun x => lineOf x.1)).any (fun l => !(s.line l).pins.isEmpty) = false := by
    simpa [List.any_eq_false] using fun a b hx => (hline (a, b) hx).1
  have hresv : ((hostParts q (hostLen w n)).map (fun x => lineOf x.1)).any (fun l => (s.line l).resv.isSome) = false := by
    simpa [List.any_eq_false] using fun a b hx => (hline (a, b) hx).2
  refine ⟨(hostParts q (hostLen w n)).map (fun x => lineOf x.1), ?_⟩
  rw [exec_hostDramAccess hev hq]
  cases w <;>
  · simp only [hostLen] at hopen hpins hresv
    simp only [State.hostAccess, hopen, hpins, hresv, hostLen, Bool.not_true, Bool.false_eq_true, if_false]

end

/-- R330, with no host request waiting. -/
theorem hostDramAccess_spec (s : State) (q n : Nat) (w : Option (List Byte)) (hev : s.ev = .hostDramAccess q w n)
    (hq : s.endpoint.queue = []) :
    (∀ bs, w = some bs → HostOpened s q (hostLen w n) → HostFree s q (hostLen w n) →
      ∃ t, exec .hostDramAccess s = .next t ∧ SameBytesOutside q bs.length s t ∧ Memory.load t.mem q bs.length = bs) ∧
    (w = none → HostOpened s q (hostLen w n) → HostFree s q (hostLen w n) →
      ∃ t, exec .hostDramAccess s = .next t ∧ SameBytes s t ∧
        t.endpoint.notices = s.endpoint.notices ++ [.hostData (Memory.load s.mem q n)]) ∧
    (0 < hostLen w n → ¬ HostOpened s q (hostLen w n) →
      exec .hostDramAccess s = .next (s.notify (.unsupportedRequest q))) := by
  refine ⟨?_, ?_, fun _ h => hostAccess_closed hev hq h⟩
  · rintro bs rfl ho hf
    obtain ⟨ls, hx⟩ := hostAccess_open hev hq ho hf
    obtain ⟨hout, hbytes⟩ := hostWrite_bytes (s := s.disown 32 ls) ho.1
    refine ⟨_, hx, fun b hb => ?_, hbytes⟩
    exact (hout b hb).trans (by rw [(State.disown_mems s 32 ls).1])
  · rintro rfl ho hf
    obtain ⟨ls, hx⟩ := hostAccess_open hev hq ho hf
    obtain ⟨hbytes, hmem, hnotices⟩ := hostRead_spec (s := s.disown 32 ls) (n := n) ho.1
    rw [(State.disown_mems s 32 ls).1] at hbytes hmem
    rw [disown_endpoint] at hnotices
    refine ⟨_, hx, fun a => ?_, ?_⟩
    · change Memory.get ((s.disown 32 ls).hostRead q n).1.mem a = _
      rw [hmem]
    · change ((s.disown 32 ls).hostRead q n).1.endpoint.notices ++ [.hostData ((s.disown 32 ls).hostRead q n).2] = _
      rw [hnotices, hbytes]

end Sys2Proof.Machine
end

section
/-! Clocks, mesh, ring, links and the host's accesses: the statement from the rules of its events. -/

namespace Sys2Proof.Machine

/-- Settles O60: each clause is the rule of its event, proved above. -/
theorem fabricEvents : Obligations.FabricEvents := by
  unfold Obligations.FabricEvents
  intro s
  exact ⟨wallPeriod_spec s, deliveredTick_spec s, ringCycle_spec s, meshCycle_spec s, flitPromotion_spec s,
    fun _ _ hoff hback => ⟨fun _ hi hg hb => controlFlit_spec hoff hback hi hg hb, data_bad hoff hback,
      fun hg hb hev => ⟨data_inOrder hoff hback hg hb hev, data_outOfOrder hoff hback hg hb hev⟩, nak_spec hoff hback⟩,
    fun _ => ⟨linkRetrain_spec, linkRetrainDone_up, linkRetrainDone_down⟩, ringLaneFailure_spec s, meshLaneFailure_mesh s,
    fun _ => meshLaneFailure_port, hostDramAccess_spec s⟩

end Sys2Proof.Machine
end

section
/-! Row sums (R43): the finite products a column gathers, their exact sum, and the statement. -/

namespace Sys2Proof.Machine

/-! ## Finite numbers and the products of a column as rationals -/

/-- A finite number is a sign, a magnitude and an exponent. -/
theorem Exact.eq_fin_of_finite {x : Exact} (h : x.finite = true) : ∃ n m e s, x = .fin n m e s := by
  cases x with
  | nan n f => cases h
  | inf n => cases h
  | fin n m e s => exact ⟨n, m, e, s, rfl⟩

/-- The value of a signed magnitude: both ways the model writes it agree. -/
theorem Exact.q_fin (n : Bool) (m : Nat) (e : Int) (s : Bool) :
    (Exact.fin n m e s).q = ((if n then -(m : Int) else m : Int) : ℚ) * (2 : ℚ) ^ e := by
  cases n <;> simp [Exact.q]

/-- A product held by a column, as a number. -/
def productQ (p : Int × Int) : ℚ := p.1 * (2 : ℚ) ^ p.2

/-- The sum of the products held by a column, as a number. -/
def productsQ (ps : List (Int × Int)) : ℚ := (ps.map productQ).sum

@[simp] theorem productsQ_nil : productsQ [] = 0 := rfl

@[simp] theorem productsQ_cons (p : Int × Int) (ps : List (Int × Int)) :
    productsQ (p :: ps) = productQ p + productsQ ps := by
  simp [productsQ]

/-! ## What a column gathers (R40, R43) -/

/-- The product of two finite numbers is exact. -/
theorem mulNum_fin_q (n₁ n₂ : Bool) (m₁ m₂ : Nat) (e₁ e₂ : Int) (s₁ s₂ : Bool) :
    (mulNum (.fin n₁ m₁ e₁ s₁) (.fin n₂ m₂ e₂ s₂)).1.q = (Exact.fin n₁ m₁ e₁ s₁).q * (Exact.fin n₂ m₂ e₂ s₂).q := by
  have hpow : (2 : ℚ) ^ (e₁ + e₂) = 2 ^ e₁ * 2 ^ e₂ := zpow_add₀ two_ne_zero e₁ e₂
  cases n₁ <;> cases n₂ <;> simp [mulNum, Exact.q, hpow] <;> ring

/-- Two finite operands: a zero product is not kept, any other is, with its sign and its scaled exponent. -/
theorem ColSum.add_fin (c : ColSum) (n₁ n₂ : Bool) (m₁ m₂ : Nat) (e₁ e₂ : Int) (s₁ s₂ : Bool) (sc : Int) :
    c.add (some (.fin n₁ m₁ e₁ s₁)) (some (.fin n₂ m₂ e₂ s₂)) sc =
      if m₁ * m₂ = 0 then c
      else { c with prods := (if n₁ != n₂ then -((m₁ * m₂ : Nat) : Int) else (m₁ * m₂ : Nat), e₁ + e₂ + sc) :: c.prods } := rfl

/-- A finite product adds its scaled value to the column's products and touches no marker. -/
theorem ColSum.add_finite (c : ColSum) {x y : Exact} (sc : Int) (hx : x.finite = true) (hy : y.finite = true) :
    ∃ ps, c.add (some x) (some y) sc = { c with prods := ps } ∧
      productsQ ps = productsQ c.prods + x.q * y.q * (2 : ℚ) ^ sc := by
  obtain ⟨n₁, m₁, e₁, s₁, rfl⟩ := Exact.eq_fin_of_finite hx
  obtain ⟨n₂, m₂, e₂, s₂, rfl⟩ := Exact.eq_fin_of_finite hy
  rw [ColSum.add_fin, ← mulNum_fin_q, mulNum, Exact.q_fin]
  by_cases hm : m₁ * m₂ = 0
  · exact ⟨c.prods, if_pos hm, by simp [hm]⟩
  · refine ⟨_, if_neg hm, ?_⟩
    rw [productsQ_cons, productQ, zpow_add₀ two_ne_zero _ sc, ← mul_assoc, add_comm]

/-- A column of finite products gathers their scaled sum and touches no marker. -/
theorem ColSum.foldl_add_finite (xs : List (Exact × Exact × Int)) (c : ColSum)
    (h : ∀ x ∈ xs, x.1.finite = true ∧ x.2.1.finite = true) :
    ∃ ps, xs.foldl (fun c x => c.add (some x.1) (some x.2.1) x.2.2) c = { c with prods := ps } ∧
      productsQ ps = productsQ c.prods + (xs.map (fun x => x.1.q * x.2.1.q * (2 : ℚ) ^ x.2.2)).sum := by
  induction xs generalizing c with
  | nil => exact ⟨c.prods, rfl, by simp⟩
  | cons x xs ih =>
    obtain ⟨⟨hx, hy⟩, hxs⟩ := List.forall_mem_cons.1 h
    obtain ⟨ps, hadd, hps⟩ := c.add_finite x.2.2 hx hy
    obtain ⟨qs, hfold, hqs⟩ := ih { c with prods := ps } hxs
    refine ⟨qs, by rw [List.foldl_cons, hadd, hfold], ?_⟩
    rw [hqs, hps, List.map_cons, List.sum_cons, add_assoc]

/-! ## The exact sum of the products (R43) -/

/-- The exponent to which the products are aligned: the lowest of theirs and of `l`. -/
def lowestExp (ps : List (Int × Int)) (l : Int) : Int := ps.foldl (fun l p => if p.2 < l then p.2 else l) l

theorem lowestExp_cons (p : Int × Int) (ps : List (Int × Int)) (l : Int) :
    lowestExp (p :: ps) l = lowestExp ps (min p.2 l) := by
  rw [lowestExp, List.foldl_cons, ← lowestExp]
  congr 1
  omega

theorem lowestExp_le (ps : List (Int × Int)) (l : Int) : lowestExp ps l ≤ l ∧ ∀ p ∈ ps, lowestExp ps l ≤ p.2 := by
  induction ps generalizing l with
  | nil => exact ⟨le_rfl, nofun⟩
  | cons p ps ih =>
    obtain ⟨hmin, hps⟩ := ih (min p.2 l)
    rw [lowestExp_cons]
    exact ⟨hmin.trans (min_le_right _ _), List.forall_mem_cons.2 ⟨hmin.trans (min_le_left _ _), hps⟩⟩

/-- Alignment to a lower exponent keeps a product's value. -/
theorem aligned_productQ (p : Int × Int) {low : Int} (h : low ≤ p.2) :
    ((p.1 * 2 ^ (p.2 - low).toNat : Int) : ℚ) * (2 : ℚ) ^ low = productQ p := by
  have hpow : (2 : ℚ) ^ (p.2 - low).toNat * 2 ^ low = 2 ^ p.2 := by
    rw [← zpow_natCast, ← zpow_add₀ two_ne_zero, Int.toNat_of_nonneg (by omega), sub_add_cancel]
  push_cast
  rw [mul_assoc, hpow, productQ]

/-- Products aligned to an exponent below all of theirs add up to their sum. -/
theorem foldl_aligned (ps : List (Int × Int)) {low : Int} (s : Int) (h : ∀ p ∈ ps, low ≤ p.2) :
    ((ps.foldl (fun s p => s + p.1 * 2 ^ (p.2 - low).toNat) s : Int) : ℚ) * (2 : ℚ) ^ low =
      s * (2 : ℚ) ^ low + productsQ ps := by
  induction ps generalizing s with
  | nil => simp
  | cons p ps ih =>
    obtain ⟨hp, hps⟩ := List.forall_mem_cons.1 h
    rw [List.foldl_cons, ih _ hps, Int.cast_add, add_mul, aligned_productQ p hp, productsQ_cons, add_assoc]

/-- Without a truncation (R44) the sum of the products is exact and nothing is lost. -/
theorem sumProducts_none (ps : List (Int × Int)) :
    ((sumProducts ps none).1 : ℚ) * (2 : ℚ) ^ (sumProducts ps none).2.1 = productsQ ps ∧
      (sumProducts ps none).2.2 = false := by
  refine ⟨?_, rfl⟩
  change ((ps.foldl (fun s p => s + p.1 * 2 ^ (p.2 - lowestExp ps 0).toNat) 0 : Int) : ℚ) * 2 ^ lowestExp ps 0 = _
  simpa using foldl_aligned ps 0 (lowestExp_le ps 0).2

/-- An integer is the signed magnitude that `ColSum.value` makes of it. -/
theorem Exact.q_ofSigned (i e : Int) : (Exact.fin (decide (i < 0)) i.natAbs e false).q = i * (2 : ℚ) ^ e := by
  have hi : (if decide (i < 0) then -(i.natAbs : Int) else i.natAbs) = i := by
    simp only [decide_eq_true_eq]
    omega
  rw [Exact.q_fin, hi]

/-- The value of a column without NaN and infinity, not of BF16: the sum of its products, finite, with no flag. -/
theorem ColSum.value_plain (ps : List (Int × Int)) :
    let v := ColSum.value { nan := false, pinf := false, ninf := false, prods := ps } false
    v.1.finite = true ∧ v.2 = 0 ∧ v.1.q = productsQ ps := by
  obtain ⟨hsum, hlost⟩ := sumProducts_none ps
  exact ⟨rfl, congrArg (flagIf · fNX) hlost, (Exact.q_ofSigned _ _).trans hsum⟩

/-! ## The statement -/

/-- Settles O45: the column gathers the products' values, and its value is their sum. -/
theorem rowSumIsExact : Obligations.RowSumIsExact := by
  unfold Obligations.RowSumIsExact
  intro xs h
  obtain ⟨ps, hcol, hps⟩ :=
    ColSum.foldl_add_finite xs { nan := false, pinf := false, ninf := false, prods := [] } h
  obtain ⟨hfin, hflags, hval⟩ := ColSum.value_plain ps
  rw [hcol]
  exact ⟨hfin, hflags, by rw [hval, hps, productsQ_nil, zero_add]⟩

end Sys2Proof.Machine
end

section
/-! Encodings (R64 to R80): the round trip of every instruction, the spec's example words, and the opcodes without a word. -/

namespace Sys2Proof.Laws

/-! ## The round trip -/

/-- Every instruction's round trip, each by the lemma of its own words; an event stands in no unit's section. -/
theorem roundTrip (i : Instr) : RoundTrip.Statement i :=
  match i with
  | .add d a b => RoundTrip.add d a b | .sub d a b => RoundTrip.sub d a b | .and d a b => RoundTrip.and d a b
  | .or d a b => RoundTrip.or d a b | .xor d a b => RoundTrip.xor d a b | .andn d a b => RoundTrip.andn d a b
  | .sll d a b => RoundTrip.sll d a b | .srl d a b => RoundTrip.srl d a b | .sra d a b => RoundTrip.sra d a b
  | .slt d a b => RoundTrip.slt d a b | .sltn d a b => RoundTrip.sltn d a b | .min d a b => RoundTrip.min d a b
  | .max d a b => RoundTrip.max d a b | .minn d a b => RoundTrip.minn d a b | .maxn d a b => RoundTrip.maxn d a b
  | .mul d a b => RoundTrip.mul d a b | .mulh d a b => RoundTrip.mulh d a b | .mulhn d a b => RoundTrip.mulhn d a b
  | .div d a b => RoundTrip.div d a b | .divn d a b => RoundTrip.divn d a b | .rem d a b => RoundTrip.rem d a b
  | .remn d a b => RoundTrip.remn d a b | .clz d a => RoundTrip.clz d a | .ctz d a => RoundTrip.ctz d a
  | .popc d a => RoundTrip.popc d a | .addi d a imm => RoundTrip.addi d a imm | .andi d a imm => RoundTrip.andi d a imm
  | .ori d a imm => RoundTrip.ori d a imm | .xori d a imm => RoundTrip.xori d a imm
  | .slli d a sh => RoundTrip.slli d a sh | .srli d a sh => RoundTrip.srli d a sh
  | .srai d a sh => RoundTrip.srai d a sh | .lui d imm => RoundTrip.lui d imm | .slti d a imm => RoundTrip.slti d a imm
  | .sltni d a imm => RoundTrip.sltni d a imm | .ldB d a imm => RoundTrip.ldB d a imm
  | .ldH d a imm => RoundTrip.ldH d a imm | .ldW d a imm => RoundTrip.ldW d a imm
  | .ldD d a imm => RoundTrip.ldD d a imm | .ldBn d a imm => RoundTrip.ldBn d a imm
  | .ldHn d a imm => RoundTrip.ldHn d a imm | .ldWn d a imm => RoundTrip.ldWn d a imm
  | .stB d a imm => RoundTrip.stB d a imm | .stH d a imm => RoundTrip.stH d a imm
  | .stW d a imm => RoundTrip.stW d a imm | .stD d a imm => RoundTrip.stD d a imm
  | .ldS d a imm => RoundTrip.ldS d a imm | .chk d => RoundTrip.chk d | .beq a b off => RoundTrip.beq a b off
  | .bne a b off => RoundTrip.bne a b off | .blt a b off => RoundTrip.blt a b off
  | .bge a b off => RoundTrip.bge a b off | .bltn a b off => RoundTrip.bltn a b off
  | .bgen a b off => RoundTrip.bgen a b off | .jal d off => RoundTrip.jal d off
  | .jalr d a imm => RoundTrip.jalr d a imm | .amoSwap sc d a b => RoundTrip.amoSwap sc d a b
  | .amoAdd sc d a b => RoundTrip.amoAdd sc d a b | .amoAnd sc d a b => RoundTrip.amoAnd sc d a b
  | .amoOr sc d a b => RoundTrip.amoOr sc d a b | .amoXor sc d a b => RoundTrip.amoXor sc d a b
  | .amoMax sc d a b => RoundTrip.amoMax sc d a b | .amoMin sc d a b => RoundTrip.amoMin sc d a b
  | .amoMaxn sc d a b => RoundTrip.amoMaxn sc d a b | .amoMinn sc d a b => RoundTrip.amoMinn sc d a b
  | .cas sc d a b => RoundTrip.cas sc d a b | .redAdd sc a b => RoundTrip.redAdd sc a b
  | .redFadd32 sc a b => RoundTrip.redFadd32 sc a b | .redMax sc a b => RoundTrip.redMax sc a b
  | .redMin sc a b => RoundTrip.redMin sc a b | .lda sc d a => RoundTrip.lda sc d a
  | .stl sc a b => RoundTrip.stl sc a b | .fenceMem => RoundTrip.fenceMem | .fenceEngines => RoundTrip.fenceEngines
  | .fenceBoth => RoundTrip.fenceBoth | .barInit d a b => RoundTrip.barInit d a b
  | .barArr d a b => RoundTrip.barArr d a b | .barWait d a b => RoundTrip.barWait d a b
  | .barArrw d a b => RoundTrip.barArrw d a b | .barQuery d a b => RoundTrip.barQuery d a b | .sev a => RoundTrip.sev a
  | .wfe => RoundTrip.wfe | .clrev => RoundTrip.clrev | .spawn d a b => RoundTrip.spawn d a b
  | .join d a => RoundTrip.join d a | .send d a b => RoundTrip.send d a b | .runV d a n => RoundTrip.runV d a n
  | .runM d a n => RoundTrip.runM d a n | .runX d a n => RoundTrip.runX d a n | .runW d a n => RoundTrip.runW d a n
  | .ewaitE mask => RoundTrip.ewaitE mask | .ewaitK mask => RoundTrip.ewaitK mask | .atTick a => RoundTrip.atTick a
  | .codePf a c => RoundTrip.codePf a c | .codePin a c => RoundTrip.codePin a c
  | .codeUnpin a c => RoundTrip.codeUnpin a c | .safe num => RoundTrip.safe num | .cfgr d num => RoundTrip.cfgr d num
  | .cfgw a num => RoundTrip.cfgw a num | .syscall code => RoundTrip.syscall code | .brk code => RoundTrip.brk code
  | .eret => RoundTrip.eret | .halt => RoundTrip.halt | .qdepth d q => RoundTrip.qdepth d q
  | .tstate d t => RoundTrip.tstate d t | .vshape h vp => RoundTrip.vshape h vp
  | .vld h t inc d vp => RoundTrip.vld h t inc d vp | .vst h t inc d vp => RoundTrip.vst h t inc d vp
  | .vldacc h t inc ex d vp => RoundTrip.vldacc h t inc ex d vp
  | .vstacc h t inc ex d vp => RoundTrip.vstacc h t inc ex d vp | .vmov h t d a => RoundTrip.vmov h t d a
  | .vsplat h t x d a => RoundTrip.vsplat h t x d a | .vadd h m t r d a b => RoundTrip.vadd h m t r d a b
  | .vsub h m t r d a b => RoundTrip.vsub h m t r d a b | .vmul h m t r d a b => RoundTrip.vmul h m t r d a b
  | .vfma h m t r d a b => RoundTrip.vfma h m t r d a b | .vmax h m t d a b => RoundTrip.vmax h m t d a b
  | .vmin h m t d a b => RoundTrip.vmin h m t d a b | .vdiv h m t r d a b => RoundTrip.vdiv h m t r d a b
  | .vcvt h m t r d a src => RoundTrip.vcvt h m t r d a src | .vand h t d a b => RoundTrip.vand h t d a b
  | .vor h t d a b => RoundTrip.vor h t d a b | .vxor h t d a b => RoundTrip.vxor h t d a b
  | .vshl h t d a b => RoundTrip.vshl h t d a b | .vshrSrl h t d a b => RoundTrip.vshrSrl h t d a b
  | .vshrSra h t d a b => RoundTrip.vshrSra h t d a b | .vmpush h t c a b => RoundTrip.vmpush h t c a b
  | .vminv h => RoundTrip.vminv h | .vmpop h => RoundTrip.vmpop h | .vskip h c n => RoundTrip.vskip h c n
  | .vsel h t d a b => RoundTrip.vsel h t d a b | .vloop h sm1 l vp => RoundTrip.vloop h sm1 l vp
  | .vexp2 h m t r d a => RoundTrip.vexp2 h m t r d a | .vlog2 h m t r d a => RoundTrip.vlog2 h m t r d a
  | .vrcp h m t r d a => RoundTrip.vrcp h m t r d a | .vrsqrt h m t r d a => RoundTrip.vrsqrt h m t r d a
  | .vtanh h m t r d a => RoundTrip.vtanh h m t r d a | .vsig h m t r d a => RoundTrip.vsig h m t r d a
  | .vredsum h t r dir d a => RoundTrip.vredsum h t r dir d a | .vredmax h t dir d a => RoundTrip.vredmax h t dir d a
  | .vredmin h t dir d a => RoundTrip.vredmin h t dir d a
  | .vtopk h t mx byId vpk d a b => RoundTrip.vtopk h t mx byId vpk d a b
  | .vtopm h t mx byId vpk d a b => RoundTrip.vtopm h t mx byId vpk d a b
  | .vperm h t g d a b => RoundTrip.vperm h t g d a b | .vgath h t g d vp b => RoundTrip.vgath h t g d vp b
  | .vscat h t g d vp b => RoundTrip.vscat h t g d vp b | .vrand h t x d vpa vpb => RoundTrip.vrand h t x d vpa vpb
  | .vqrs h t x d vpa vpb => RoundTrip.vqrs h t x d vpa vpb | .vqdir h vpa vpb => RoundTrip.vqdir h vpa vpb
  | .vpchk h t vp d a b => RoundTrip.vpchk h t vp d a b | .vpush h t q a vpb => RoundTrip.vpush h t q a vpb
  | .vpop h t d q => RoundTrip.vpop h t d q | .vtrans h t d a => RoundTrip.vtrans h t d a
  | .viota h t x d => RoundTrip.viota h t x d | .vclass h t d a => RoundTrip.vclass h t d a
  | .vexit h => RoundTrip.vexit h | .mfmt af bf ex => RoundTrip.mfmt af bf ex | .mldb tn => RoundTrip.mldb tn
  | .mldbScaled tn sc => RoundTrip.mldbScaled tn sc | .mrows st n dst a pitch => RoundTrip.mrows st n dst a pitch
  | .mbag st sl list n e rep => RoundTrip.mbag st sl list n e rep
  | .mfeed st tg q n dst => RoundTrip.mfeed st tg q n dst | .mclose => RoundTrip.mclose
  | .mclr vw n first => RoundTrip.mclr vw n first | .mdrain clr h vw n first a => RoundTrip.mdrain clr h vw n first a
  | .mfill h vw n first a => RoundTrip.mfill h vw n first a | .mtagb base => RoundTrip.mtagb base
  | .msync kv k => RoundTrip.msync kv k | .mflags clear a => RoundTrip.mflags clear a
  | .mcharge fx units => RoundTrip.mcharge fx units | .mexit => RoundTrip.mexit
  | .xcopyG2s x dfr sl sp off => RoundTrip.xcopyG2s x dfr sl sp off
  | .xcopyS2g x dfr drain sl sp off => RoundTrip.xcopyS2g x dfr drain sl sp off
  | .xcopyS2s x dfr drain sl src dst => RoundTrip.xcopyS2s x dfr drain sl src dst
  | .xcopy2 x dfr sl dl => RoundTrip.xcopy2 x dfr sl dl
  | .xgath x dfr sl list n dst => RoundTrip.xgath x dfr sl list n dst
  | .xmcast x vp src g set => RoundTrip.xmcast x vp src g set | .xred x op sl sp off => RoundTrip.xred x op sl sp off
  | .xcomp x dfr sl list n dl => RoundTrip.xcomp x dfr sl list n dl | .xtile x tn sp => RoundTrip.xtile x tn sp
  | .xscale x sp n => RoundTrip.xscale x sp n | .xslot x sl vp off => RoundTrip.xslot x sl vp off
  | .xslev x sl vp off => RoundTrip.xslev x sl vp off | .xpub x => RoundTrip.xpub x
  | .xsend x sp mbox => RoundTrip.xsend x sp mbox | .xfillDef x tt sp len => RoundTrip.xfillDef x tt sp len
  | .xfillRel x tt => RoundTrip.xfillRel x tt | .xwait x => RoundTrip.xwait x
  | .xbusySet x sp g => RoundTrip.xbusySet x sp g | .xbusyClr x sp g => RoundTrip.xbusyClr x sp g
  | .xexit wm => RoundTrip.xexit wm | .wli d imm => RoundTrip.wli d imm | .wliHi d imm => RoundTrip.wliHi d imm
  | .wliVp d n => RoundTrip.wliVp d n | .wadd d a b imm => RoundTrip.wadd d a b imm
  | .wsub d a b imm => RoundTrip.wsub d a b imm | .wmul d a b imm => RoundTrip.wmul d a b imm
  | .wand d a b imm => RoundTrip.wand d a b imm | .wor d a b imm => RoundTrip.wor d a b imm
  | .wshl d a b imm => RoundTrip.wshl d a b imm | .wshr d a b imm => RoundTrip.wshr d a b imm
  | .wmin d a b imm => RoundTrip.wmin d a b imm | .wld sz d a imm => RoundTrip.wld sz d a imm
  | .wbit d a b imm => RoundTrip.wbit d a b imm | .wloop a off => RoundTrip.wloop a off
  | .wnext d a off => RoundTrip.wnext d a off | .wskip c a b off => RoundTrip.wskip c a b off
  | .wpos kind a b => RoundTrip.wpos kind a b | .wemitE a b imm => RoundTrip.wemitE a b imm
  | .wemitL a b => RoundTrip.wemitL a b | .wemitW a b imm => RoundTrip.wemitW a b imm | .wtile a => RoundTrip.wtile a
  | .wrow a imm => RoundTrip.wrow a imm | .wgo a sl kv k => RoundTrip.wgo a sl kv k
  | .wmove sz d a b => RoundTrip.wmove sz d a b | .wexit kv k => RoundTrip.wexit kv k
  | .barrierRequestArrival | .barrierReply | .sevArrival | .retryResponse | .requestRetry | .storeStamped | .loadReply
  | .leasePush | .ownershipReturn | .vectorWriteback | .queueRowDelivery | .runEnd | .rowPassLand | .bagRowArrival
  | .tileClaim | .shadowFilled | .publishReserve | .publishCommit | .scratchpadPublish | .stepComplete | .xredLineApply
  | .multicastLanding | .sectorPageFault | .stepResume | .packetParse | .launchQueueAccept | .timedLaunchStart
  | .watchdogExpiry | .partitionReset | .partitionReopen | .uncorrectableMemoryError | .timeSliceSwitch | .heldDelivery
  | .coreSave | .swapSave | .swapRestore | .swapDone | .taskResume | .taskEnd | .faultRecordRemove
  | .partitionDescriptorWrite | .remapTableWrite | .mailboxStateWrite | .ringTableWrite | .ringctlWrite | .meshcfgWrite
  | .portChannelBind | .translationBlockWrite | .invalidateVa | .invalidateAsid | .hatboxBankMapWrite | .hatboxSlotCopy
  | .pmRegisterWrite | .imageLoad | .doorbell | .hostDramAccess | .tableWalkComplete | .pickerRowDelivery
  | .flitPromotion | .requestReplay | .requestAtHome | .linkProtocolError | .data | .nak | .ack | .credit
  | .linkRetrain | .portWindowCommit | .ringTableError | .ringLaneFailure | .meshLaneFailure | .sliceWayReplace
  | .dramRowSpare | .bootStage0 | .bootStage1 | .bootStage2 | .quoteRequest | .powerLevelUpdate | .thermalTrip
  | .deliveredTick | .wallPeriod | .ringCycle | .meshCycle | .illegalWord | .idle | .requestAcknowledgement
  | .linkRetrainDone | .refreshWindowCalibration | .dieTemperatureRecovery | .codeCacheFill => fun _ _ hu => nomatch hu

/-- Settles O32, by the round trip of each instruction. -/
theorem decodeOfEncode : Obligations.DecodeOfEncode := by
  unfold Obligations.DecodeOfEncode
  exact roundTrip

/-! ## Words without a meaning (R64, R67) -/

/-- The sequencer's opcodes end at 0x32. -/
theorem decodeSeq_eq_none {w : Nat} (hw : w < 2 ^ 32) (h : 0x33 ≤ w / 2 ^ 26) : decodeSeq w = none := by
  have hop : fld w 26 6 = w / 2 ^ 26 := Nat.mod_eq_of_lt (by omega)
  have hlt : w / 2 ^ 26 < 64 := by omega
  unfold decodeSeq
  rw [hop]
  generalize w / 2 ^ 26 = op at h hlt
  interval_cases op <;> rfl

/-- Settles O33: each example word evaluates, and no opcode from 0x33 on has an arm. -/
theorem decodeWords : Obligations.DecodeWords := by
  unfold Obligations.DecodeWords
  refine ⟨rfl, rfl, rfl, rfl, rfl, rfl, rfl, rfl, rfl, rfl, rfl, rfl, rfl, rfl, fun w rest hw h => ?_, fun u => rfl⟩
  rw [decode, decodeSeq_eq_none hw h, Option.map_none]

end Sys2Proof.Laws
end

section
/-! The step (R64, R79): what it does with each kind of job, and that no instruction's meaning is refused. -/

namespace Sys2Proof.Machine

open Sys2Proof

/-! ## The step of each kind of job (R64) -/

section
variable {s : State} {who : Cur} {rest : List Job}

theorem step_event {e : Ev} (h : s.agenda = .event who e :: rest) :
    step s = exec e.instr { s with agenda := rest, cur := who, ev := e } := by
  rw [step, h]

theorem step_issue (h : s.agenda = .issue who :: rest) :
    step s = issueStep who { s with agenda := rest, cur := who } := by
  rw [step, h]

theorem step_input {e : Ev} {more : List Ev} (hag : s.agenda = []) (hin : s.inputs = e :: more) :
    step s = if s.takes e then exec e.instr { s with inputs := more, ev := e } else .next { s with inputs := more } := by
  rw [step, hag, hin]

theorem step_quiet (hag : s.agenda = []) (hin : s.inputs = []) : step s = exec .wallPeriod s := by
  rw [step, hag, hin]

theorem issueStep_decoded {ws : List Nat} {i : Instr} {n : Nat} (hf : s.fetch who = .words ws)
    (hd : decode who.unit ws = some (i, n)) : issueStep who s = exec i (s.dropBypass who) := by
  simp only [issueStep, hf, hd]

theorem issueStep_undecoded {ws : List Nat} (hf : s.fetch who = .words ws) (hd : decode who.unit ws = none) :
    issueStep who s = exec .illegalWord (s.dropBypass who) := by
  simp only [issueStep, hf, hd]

end

/-- Settles O34, clause by clause from what `step` does with the head of the agenda and of the inputs. -/
theorem stepRunsDecoded : Obligations.StepRunsDecoded := by
  unfold Obligations.StepRunsDecoded
  intro s who rest
  refine ⟨fun ws i n hag hf hd => ?_, fun ws hag hf hd => ?_, fun e hag => step_event hag,
    fun e more hag hin ht => ?_, fun e more hag hin ht => ?_, fun e => rfl, step_quiet⟩
  · rw [step_issue hag, issueStep_decoded hf hd]
  · rw [step_issue hag, issueStep_undecoded hf hd]
  · rw [step_input hag hin, if_pos ht]
  · rw [step_input hag hin, if_neg (ne_true_of_eq_false ht)]

/-! ## How a meaning can end -/

/-- The run goes on. -/
def Completes (r : Res) : Prop := ∃ t, r = .next t

theorem Completes.next (t : State) : Completes (.next t) := ⟨t, rfl⟩

/-- A walker word waits for its sources or has its effect (R220). -/
theorem Completes.carder (s : State) (rs : List WReg) (f : State) : Completes (s.carder rs f) := by
  unfold State.carder
  split <;> exact .next _

/-- The run goes on, or a command named an object that the package does not have (log 110). -/
inductive Settled : Res → Prop where
  | next (t : State) : Settled (.next t)
  | noObject : Settled noObject

theorem Completes.settled {r : Res} (h : Completes r) : Settled r := by
  obtain ⟨t, rfl⟩ := h
  exact .next t

theorem Settled.cases {r : Res} (h : Settled r) : (∃ t, r = .next t) ∨ r = .fault .noSuchObject := by
  cases h with
  | next t => exact .inl ⟨t, rfl⟩
  | noObject => exact .inr rfl

/-! ## The meanings: the words of each unit, then the events -/

/-- A sequencer word: its faults and traps are next states (R336). -/
theorem exec_seq_completes {i : Instr} (hu : i.unit? = some .seq) (s : State) : Completes (exec i s) := by
  cases i
  case add | sub | and | or | xor | andn | sll | srl | sra | slt | sltn | min | max | minn | maxn | mul | mulh | mulhn
    | div | divn | rem | remn | clz | ctz | popc | addi | andi | ori | xori | slli | srli | srai | lui | slti | sltni
    | ldB | ldH | ldW | ldD | ldBn | ldHn | ldWn | stB | stH | stW | stD | ldS | chk | beq | bne | blt | bge | bltn
    | bgen | jal | amoSwap | amoAdd | amoAnd | amoOr | amoXor | amoMax | amoMin | amoMaxn | amoMinn | cas | redAdd
    | redFadd32 | redMax | redMin | lda | stl | barInit | barArr | barWait | barArrw | barQuery | clrev | runV | runM
    | runX | runW | atTick | syscall | brk | qdepth | tstate => exact .next _
  case jalr | fenceMem | fenceEngines | fenceBoth | sev | wfe | spawn | join | send | ewaitE | ewaitK | codePf | codePin
    | codeUnpin | safe | cfgr | cfgw | eret | halt =>
    simp only [exec, execJalr, execFenceMem, execFenceEngines, execFenceBoth, execSev, execWfe, execSpawn, execJoin,
      execSend, execEwaitE, execEwaitK, execCodePf, execCodePin, execCodeUnpin, execSafe, execCfgr, execCfgw, execEret,
      execHalt]
    repeat' split
    all_goals exact .next _
  all_goals nomatch hu

/-- A vector word: its faults stop the run (R154), in a next state. -/
theorem exec_vector_completes {i : Instr} (hu : i.unit? = some (.eng .vector)) (s : State) : Completes (exec i s) := by
  cases i
  case vmov | vsplat | vadd | vsub | vmul | vfma | vmax | vmin | vdiv | vand | vor | vxor | vshl | vshrSrl | vshrSra
    | vsel | vexp2 | vlog2 | vrcp | vrsqrt | vtanh | vsig | vredsum | vredmax | vredmin | vrand | vpchk | vtrans | viota
    | vclass | vexit => exact .next _
  case vshape | vld | vst | vldacc | vstacc | vcvt | vmpush | vminv | vmpop | vskip | vloop | vtopk | vtopm | vperm
    | vgath | vscat | vqrs | vqdir | vpush | vpop =>
    simp only [exec, execVshape, execVld, execVst, execVldacc, execVstacc, execVcvt, execVmpush, execVminv, execVmpop,
      execVskip, execVloop, execVtopk, execVtopm, execVperm, execVgath, execVscat, execVqrs, execVqdir, execVpush,
      execVpop]
    repeat' split
    all_goals exact .next _
  all_goals nomatch hu

/-- A matrix step: one that waits, faults or enters a row is a next state. -/
theorem exec_matrix_completes {i : Instr} (hu : i.unit? = some (.eng .matrix)) (s : State) : Completes (exec i s) := by
  cases i
  case mtagb | mexit => exact .next _
  case mfmt | mldb | mldbScaled | mrows | mbag | mfeed | mclose | mclr | mdrain | mfill | msync | mflags | mcharge =>
    simp only [exec, execMfmt, execMldb, execMldbScaled, execMrows, execMbag, execMfeed, execMclose, execMclr,
      execMdrain, execMfill, execMsync, execMflags, execMcharge]
    repeat' split
    all_goals exact .next _
  all_goals nomatch hu

/-- A transfer step: `xissue` says itself whether it waits, faults or goes into flight (R198). -/
theorem exec_transfer_completes {i : Instr} (hu : i.unit? = some (.eng .transfer)) (s : State) : Completes (exec i s) := by
  cases i
  case xcopyG2s | xcopyS2g | xcopyS2s | xcopy2 | xgath | xred | xcomp | xtile | xscale | xslot | xslev | xpub | xsend
    | xfillDef | xfillRel | xwait | xbusySet | xbusyClr => exact .next _
  case xmcast | xexit =>
    simp only [exec, execXmcast, execXexit]
    repeat' split
    all_goals exact .next _
  all_goals nomatch hu

/-- A walker word waits for its sources, or its effect or fault is a next state (R220, R238). -/
theorem exec_walker_completes {i : Instr} (hu : i.unit? = some (.eng .walker)) (s : State) : Completes (exec i s) := by
  cases i
  case wli | wliVp => exact .carder s [] _
  case wliHi | wadd | wsub | wmul | wand | wor | wshl | wshr | wmin | wld | wbit | wloop | wnext | wskip | wpos | wemitE
    | wemitW | wtile | wrow | wgo | wmove => exact .carder _ _ _
  case wemitL =>
    change Completes (execWemitL _ _ s)
    unfold execWemitL
    split <;> exact .carder _ _ _
  case wexit =>
    simp only [exec, execWexit]
    repeat' split
    all_goals exact .next _
  all_goals nomatch hu

/-- An event or command: only one that names an object of the package can find that there is none (log 110). -/
theorem exec_event_settled {i : Instr} (hu : i.unit? = none) (s : State) : Settled (exec i s) := by
  cases i
  -- The meanings that ask for no object of the package.
  case wallPeriod | ringCycle | meshCycle => exact .next _
  case barrierRequestArrival | barrierReply | sevArrival | retryResponse | requestRetry | storeStamped | loadReply
    | leasePush | ownershipReturn | vectorWriteback | queueRowDelivery | runEnd | rowPassLand | bagRowArrival
    | tileClaim | shadowFilled | publishReserve | publishCommit | scratchpadPublish | stepComplete | xredLineApply
    | multicastLanding | sectorPageFault | stepResume | packetParse | launchQueueAccept | timedLaunchStart
    | watchdogExpiry | partitionReset | partitionReopen | timeSliceSwitch | heldDelivery | coreSave | swapDone | taskEnd
    | doorbell | hostDramAccess | tableWalkComplete | pickerRowDelivery | requestReplay | requestAtHome
    | linkProtocolError | data | nak | ack | credit | linkRetrain | portWindowCommit | bootStage0 | bootStage2
    | powerLevelUpdate | deliveredTick | illegalWord | idle | requestAcknowledgement | codeCacheFill =>
    simp only [exec, execBarrierRequestArrival, execBarrierReply, execSevArrival, execRetryResponse, execRequestRetry,
      execStoreStamped, execLoadReply, execLeasePush, execOwnershipReturn, execVectorWriteback, execQueueRowDelivery,
      execRunEnd, execRowPassLand, execBagRowArrival, execTileClaim, execShadowFilled, execPublishReserve,
      execPublishCommit, execScratchpadPublish, execStepComplete, execXredLineApply, execMulticastLanding,
      execSectorPageFault, execStepResume, execPacketParse, execLaunchQueueAccept, execTimedLaunchStart,
      execWatchdogExpiry, execPartitionReset, execPartitionReopen, execTimeSliceSwitch, execHeldDelivery, execCoreSave,
      execSwapDone, execTaskEnd, execDoorbell, execHostDramAccess, execTableWalkComplete, execPickerRowDelivery,
      execRequestReplay, execRequestAtHome, execLinkProtocolError, execData, execNak, execAck, execCredit,
      execLinkRetrain, execPortWindowCommit, execBootStage0, execBootStage2, execPowerLevelUpdate, execDeliveredTick,
      execIllegalWord, execIdle, execRequestAcknowledgement, execCodeCacheFill]
    repeat' split
    all_goals exact .next _
  -- The meanings that first ask whether the package has the object named.
  case uncorrectableMemoryError | swapSave | swapRestore | taskResume | faultRecordRemove | partitionDescriptorWrite
    | remapTableWrite | mailboxStateWrite | ringTableWrite | ringctlWrite | meshcfgWrite | portChannelBind
    | translationBlockWrite | invalidateVa | invalidateAsid | hatboxBankMapWrite | hatboxSlotCopy | pmRegisterWrite
    | imageLoad | flitPromotion | ringTableError | ringLaneFailure | meshLaneFailure | sliceWayReplace | dramRowSpare
    | bootStage1 | quoteRequest | thermalTrip | linkRetrainDone | refreshWindowCalibration | dieTemperatureRecovery =>
    simp only [exec, execUncorrectableMemoryError, execSwapSave, execSwapRestore, execTaskResume, execFaultRecordRemove,
      execPartitionDescriptorWrite, execRemapTableWrite, execMailboxStateWrite, execRingTableWrite, execRingctlWrite,
      execMeshcfgWrite, execPortChannelBind, execTranslationBlockWrite, execInvalidateVa, execInvalidateAsid,
      execHatboxBankMapWrite, execHatboxSlotCopy, execPmRegisterWrite, execImageLoad, execFlitPromotion,
      execRingTableError, execRingLaneFailure, execMeshLaneFailure, execSliceWayReplace, execDramRowSpare,
      execBootStage1, execQuoteRequest, execThermalTrip, execLinkRetrainDone, execRefreshWindowCalibration,
      execDieTemperatureRecovery]
    repeat' split
    all_goals constructor
  all_goals nomatch hu

theorem exec_word_completes {i : Instr} {a : Agent} (hu : i.unit? = some a) (s : State) : Completes (exec i s) := by
  match a with
  | .seq => exact exec_seq_completes hu s
  | .eng .vector => exact exec_vector_completes hu s
  | .eng .matrix => exact exec_matrix_completes hu s
  | .eng .transfer => exact exec_transfer_completes hu s
  | .eng .walker => exact exec_walker_completes hu s

theorem exec_settled (i : Instr) (s : State) : Settled (exec i s) := by
  cases hu : i.unit? with
  | none => exact exec_event_settled hu s
  | some a => exact (exec_word_completes hu s).settled

/-! ## Every step is settled -/

theorem issueStep_settled (who : Cur) (s : State) : Settled (issueStep who s) := by
  cases hf : s.fetch who with
  | words ws =>
    cases hd : decode who.unit ws with
    | none =>
      rw [issueStep_undecoded hf hd]
      exact exec_settled _ _
    | some x =>
      rw [issueStep_decoded hf hd]
      exact exec_settled _ _
  | nothing | miss va pa | fault cause why addr =>
    rw [issueStep, hf]
    exact .next _

theorem step_settled (s : State) : Settled (step s) := by
  cases hag : s.agenda with
  | nil =>
    cases hin : s.inputs with
    | nil =>
      rw [step_quiet hag hin]
      exact exec_settled _ _
    | cons e more =>
      rw [step_input hag hin]
      split
      · exact exec_settled _ _
      · exact .next _
  | cons j rest =>
    cases j with
    | event who e =>
      rw [step_event hag]
      exact exec_settled _ _
    | issue who =>
      rw [step_issue hag]
      exact issueStep_settled _ _
    | engines | ends | arbitrate | sectors | report | frontEnds | barriers =>
      rw [step, hag]
      exact .next _

/-- Settles O35: the meaning of every instruction is settled, and so is each kind of step. -/
theorem noStepRefused : Obligations.NoStepRefused := by
  unfold Obligations.NoStepRefused
  exact fun s => (step_settled s).cases

end Sys2Proof.Machine
end

section
/-! The canonical form of memory (log 8): each meaning, and each kind of step, keeps it. The words of the four engines write no byte of
physical or host memory: their stores are transfer steps, which the events of R204 to R209 complete. -/

namespace Sys2Proof.Machine

open Sys2Proof

/-! ## Where a meaning leaves the memories -/

/-- The run goes on with every byte of physical and host memory as it was. -/
def LeavesMems (s : State) (r : Res) : Prop := ∀ t, r = .next t → SameMems s t

/-- The run goes on with both memories in canonical form, if it goes on. -/
def KeepsForm (r : Res) : Prop := ∀ t, r = .next t → t.memoryOk

section
variable {s t : State}

theorem LeavesMems.next (h : SameMems s t) : LeavesMems s (.next t) := by
  rintro _ ⟨⟩
  exact h

@[simp] theorem keepsForm_next : KeepsForm (.next t) ↔ t.memoryOk := by
  simp [KeepsForm]

@[simp] theorem keepsForm_noObject : KeepsForm noObject := by
  rintro _ ⟨⟩

theorem KeepsForm.next (h : t.memoryOk) : KeepsForm (.next t) := keepsForm_next.mpr h

theorem SameMems.ite {u : State} {p : Prop} [Decidable p] (ht : SameMems s t) (hu : SameMems s u) :
    SameMems s (if p then t else u) := by
  split
  · exact ht
  · exact hu

theorem memoryOk_of_sameMems (h : s.memoryOk) (ht : SameMems s t) : t.memoryOk := by
  rw [State.memoryOk, ht.1, ht.2]
  exact h

theorem LeavesMems.keepsForm {r : Res} (hr : LeavesMems s r) (h : s.memoryOk) : KeepsForm r :=
  fun t ht => memoryOk_of_sameMems h (hr t ht)

/-- A walker word waits for its sources, changing nothing, or has its effect (R220). -/
theorem LeavesMems.carder {rs : List WReg} (ht : SameMems s t) : LeavesMems s (s.carder rs t) := by
  unfold State.carder
  split
  · exact .next ht
  · exact .next ⟨rfl, rfl⟩

end

/-! ## Words of the engines -/

section
variable {i : Instr} {s : State}

theorem exec_vector_leavesMems (hu : i.unit? = some (.eng .vector)) : LeavesMems s (exec i s) := by
  cases i
  case vmov | vsplat | vadd | vsub | vmul | vfma | vmax | vmin | vdiv | vand | vor | vxor | vshl | vshrSrl | vshrSra
    | vsel | vexp2 | vlog2 | vrcp | vrsqrt | vtanh | vsig | vredsum | vredmax | vredmin | vrand | vpchk | vtrans | viota
    | vclass | vexit => exact .next (by simp [SameMems])
  case vshape | vld | vst | vldacc | vstacc | vcvt | vmpush | vminv | vmpop | vskip | vloop | vtopk | vtopm | vperm
    | vgath | vscat | vqrs | vqdir | vpush | vpop =>
    simp only [exec, execVshape, execVld, execVst, execVldacc, execVstacc, execVcvt, execVmpush, execVminv, execVmpop,
      execVskip, execVloop, execVtopk, execVtopm, execVperm, execVgath, execVscat, execVqrs, execVqdir, execVpush,
      execVpop]
    repeat' split
    all_goals exact .next (by simp [SameMems, foldl_mems])
  all_goals nomatch hu

theorem exec_matrix_leavesMems (hu : i.unit? = some (.eng .matrix)) : LeavesMems s (exec i s) := by
  cases i
  case mtagb | mexit => exact .next (by simp [SameMems])
  case mfmt | mldb | mldbScaled | mrows | mbag | mfeed | mclose | mclr | mdrain | mfill | msync | mflags | mcharge =>
    simp only [exec, execMfmt, execMldb, execMldbScaled, execMrows, execMbag, execMfeed, execMclose, execMclr,
      execMdrain, execMfill, execMsync, execMflags, execMcharge]
    repeat' split
    all_goals exact .next (by simp [SameMems])
  all_goals nomatch hu

theorem exec_transfer_leavesMems (hu : i.unit? = some (.eng .transfer)) : LeavesMems s (exec i s) := by
  cases i
  case xcopyG2s | xcopyS2g | xcopyS2s | xcopy2 | xgath | xred | xcomp | xtile | xscale | xslot | xslev | xsend
    | xfillDef | xwait | xbusySet | xbusyClr => exact .next (by simp [SameMems])
  case xpub | xfillRel => exact .next (SameMems.ite (by simp [SameMems]) (by simp [SameMems]))
  case xmcast | xexit =>
    simp only [exec, execXmcast, execXexit]
    repeat' split
    all_goals exact .next (by simp [SameMems, foldl_mems])
  all_goals nomatch hu

theorem exec_walker_leavesMems (hu : i.unit? = some (.eng .walker)) : LeavesMems s (exec i s) := by
  cases i
  case wli | wliVp => exact .carder (rs := []) (by simp [SameMems])
  case wliHi | wadd | wsub | wmul | wand | wor | wshl | wshr | wmin | wld | wbit | wloop | wnext | wskip | wpos | wemitE
    | wemitW | wtile | wrow | wmove =>
    refine .carder ?_
    repeat' split
    all_goals simp [SameMems]
  case wgo =>
    refine .carder ?_
    dsimp only
    repeat' split
    all_goals simp [SameMems]
  case wemitL =>
    change LeavesMems s (execWemitL _ _ s)
    unfold execWemitL
    split
    all_goals
      refine .carder ?_
      repeat' split
      all_goals simp [SameMems]
  case wexit =>
    simp only [exec, execWexit]
    repeat' split
    all_goals exact .next (by simp [SameMems])
  all_goals nomatch hu

/-! ## Sequencer words and events -/

/-- A sequencer word writes memory where its task's stores are performed before it, its barrier's waits end or its task ends. -/
theorem exec_seq_keepsForm (hu : i.unit? = some .seq) (h : s.memoryOk) : KeepsForm (exec i s) := by
  obtain ⟨h1, h2⟩ := h
  cases i
  -- The words that change their task's slot alone.
  case add | sub | and | or | xor | andn | sll | srl | sra | slt | sltn | min | max | minn | maxn | mul | mulh | mulhn
    | clz | ctz | popc | addi | andi | ori | xori | slli | srli | srai | lui | slti | sltni | jal | clrev | atTick | qdepth
    | tstate => exact .next ⟨h1, h2⟩
  -- The words whose meaning is one operation on the state.
  case div | divn | rem | remn | ldB | ldH | ldW | ldD | ldBn | ldHn | ldWn | stB | stH | stW | stD | ldS | chk | beq
    | bne | blt | bge | bltn | bgen | amoSwap | amoAdd | amoAnd | amoOr | amoXor | amoMax | amoMin | amoMaxn | amoMinn
    | cas | redAdd | redFadd32 | redMax | redMin | lda | stl | barInit | barArr | barWait | barArrw | barQuery | runV
    | runM | runX | runW | syscall | brk => exact .next (by simp [State.memoryOk, h1, h2])
  case jalr | fenceMem | fenceEngines | fenceBoth | sev | wfe | spawn | join | send | ewaitE | ewaitK | codePf | codePin
    | codeUnpin | safe | cfgr | cfgw | eret | halt =>
    simp only [exec, execJalr, execFenceMem, execFenceEngines, execFenceBoth, execSev, execWfe, execSpawn, execJoin,
      execSend, execEwaitE, execEwaitK, execCodePf, execCodePin, execCodeUnpin, execSafe, execCfgr, execCfgw, execEret,
      execHalt]
    repeat' split
    all_goals exact .next (by simp [State.memoryOk, h1, h2])
  all_goals nomatch hu

/-- A delivery held for a core that has come back: only a barrier request performed now can write (R292). -/
theorem exec_heldDelivery_keepsForm (h : s.memoryOk) : KeepsForm (exec .heldDelivery s) := by
  obtain ⟨h1, h2⟩ := h
  simp only [exec, execHeldDelivery]
  split
  case h_1 k d _ =>
    cases d with
    | launch l =>
      dsimp only
      cases hl : s.acceptLaunch k l with
      | some t => exact .next (memoryOk_of_sameMems ⟨h1, h2⟩ (State.acceptLaunch_mems hl))
      | none => exact .next ⟨h1, h2⟩
    | sev | barrier | landing | row => exact .next (by simp [State.memoryOk, h1, h2])
  case h_2 => exact .next ⟨h1, h2⟩

theorem exec_event_keepsForm (hu : i.unit? = none) (h : s.memoryOk) : KeepsForm (exec i s) := by
  obtain ⟨h1, h2⟩ := h
  cases i
  -- The meanings that ask for no object of the package.
  case wallPeriod | ringCycle | meshCycle => exact .next (by simp [State.memoryOk, h1, h2])
  case barrierRequestArrival | barrierReply | sevArrival | retryResponse | requestRetry | storeStamped | loadReply
    | leasePush | ownershipReturn | vectorWriteback | queueRowDelivery | runEnd | rowPassLand | bagRowArrival
    | tileClaim | shadowFilled | publishReserve | publishCommit | scratchpadPublish | stepComplete | xredLineApply
    | multicastLanding | sectorPageFault | stepResume | packetParse | launchQueueAccept | timedLaunchStart
    | watchdogExpiry | partitionReset | partitionReopen | timeSliceSwitch | coreSave | swapDone | taskEnd
    | doorbell | hostDramAccess | tableWalkComplete | pickerRowDelivery | requestReplay | requestAtHome
    | linkProtocolError | data | nak | ack | credit | linkRetrain | portWindowCommit | bootStage0 | bootStage2
    | powerLevelUpdate | deliveredTick | illegalWord | idle | requestAcknowledgement | codeCacheFill =>
    simp only [exec, execBarrierRequestArrival, execBarrierReply, execSevArrival, execRetryResponse, execRequestRetry,
      execStoreStamped, execLoadReply, execLeasePush, execOwnershipReturn, execVectorWriteback, execQueueRowDelivery,
      execRunEnd, execRowPassLand, execBagRowArrival, execTileClaim, execShadowFilled, execPublishReserve,
      execPublishCommit, execScratchpadPublish, execStepComplete, execXredLineApply, execMulticastLanding,
      execSectorPageFault, execStepResume, execPacketParse, execLaunchQueueAccept, execTimedLaunchStart,
      execWatchdogExpiry, execPartitionReset, execPartitionReopen, execTimeSliceSwitch, execCoreSave,
      execSwapDone, execTaskEnd, execDoorbell, execHostDramAccess, execTableWalkComplete, execPickerRowDelivery,
      execRequestReplay, execRequestAtHome, execLinkProtocolError, execData, execNak, execAck, execCredit,
      execLinkRetrain, execPortWindowCommit, execBootStage0, execBootStage2, execPowerLevelUpdate, execDeliveredTick,
      execIllegalWord, execIdle, execRequestAcknowledgement, execCodeCacheFill]
    repeat' split
    all_goals exact .next (by simp [State.memoryOk, h1, h2])
  case heldDelivery => exact exec_heldDelivery_keepsForm ⟨h1, h2⟩
  -- The meanings that first ask whether the package has the object named.
  case uncorrectableMemoryError | swapSave | swapRestore | taskResume | faultRecordRemove | partitionDescriptorWrite
    | remapTableWrite | mailboxStateWrite | ringTableWrite | ringctlWrite | meshcfgWrite | portChannelBind
    | translationBlockWrite | invalidateVa | invalidateAsid | hatboxBankMapWrite | hatboxSlotCopy | pmRegisterWrite
    | imageLoad | flitPromotion | ringTableError | ringLaneFailure | meshLaneFailure | sliceWayReplace | dramRowSpare
    | bootStage1 | quoteRequest | thermalTrip | linkRetrainDone | refreshWindowCalibration | dieTemperatureRecovery =>
    simp only [exec, execUncorrectableMemoryError, execSwapSave, execSwapRestore, execTaskResume, execFaultRecordRemove,
      execPartitionDescriptorWrite, execRemapTableWrite, execMailboxStateWrite, execRingTableWrite, execRingctlWrite,
      execMeshcfgWrite, execPortChannelBind, execTranslationBlockWrite, execInvalidateVa, execInvalidateAsid,
      execHatboxBankMapWrite, execHatboxSlotCopy, execPmRegisterWrite, execImageLoad, execFlitPromotion,
      execRingTableError, execRingLaneFailure, execMeshLaneFailure, execSliceWayReplace, execDramRowSpare,
      execBootStage1, execQuoteRequest, execThermalTrip, execLinkRetrainDone, execRefreshWindowCalibration,
      execDieTemperatureRecovery]
    repeat' split
    all_goals simp [State.memoryOk, foldl_mems, h1, h2]
  all_goals nomatch hu

theorem exec_keepsForm (h : s.memoryOk) : KeepsForm (exec i s) := by
  match hu : i.unit? with
  | none => exact exec_event_keepsForm hu h
  | some .seq => exact exec_seq_keepsForm hu h
  | some (.eng .vector) => exact (exec_vector_leavesMems hu).keepsForm h
  | some (.eng .matrix) => exact (exec_matrix_leavesMems hu).keepsForm h
  | some (.eng .transfer) => exact (exec_transfer_leavesMems hu).keepsForm h
  | some (.eng .walker) => exact (exec_walker_leavesMems hu).keepsForm h

/-! ## Every step keeps the form -/

theorem issueStep_keepsForm (who : Cur) (h : s.memoryOk) : KeepsForm (issueStep who s) := by
  have hdrop : (s.dropBypass who).memoryOk := memoryOk_of_sameMems h (State.dropBypass_mems s who)
  obtain ⟨h1, h2⟩ := h
  cases hf : s.fetch who with
  | words ws =>
    cases hd : decode who.unit ws with
    | none =>
      rw [issueStep_undecoded hf hd]
      exact exec_keepsForm hdrop
    | some x =>
      rw [issueStep_decoded hf hd]
      exact exec_keepsForm hdrop
  | nothing | miss va pa | fault cause why addr =>
    rw [issueStep, hf]
    exact .next (by simp [State.memoryOk, h1, h2])

theorem step_keepsForm (h : s.memoryOk) : KeepsForm (step s) := by
  cases hag : s.agenda with
  | nil =>
    cases hin : s.inputs with
    | nil =>
      rw [step_quiet hag hin]
      exact exec_keepsForm h
    | cons e more =>
      rw [step_input hag hin]
      split
      · exact exec_keepsForm (s := { s with inputs := more, ev := e }) h
      · exact .next h
  | cons j rest =>
    cases j with
    | event who e =>
      rw [step_event hag]
      exact exec_keepsForm (s := { s with agenda := rest, cur := who, ev := e }) h
    | issue who =>
      rw [step_issue hag]
      exact issueStep_keepsForm (s := { s with agenda := rest, cur := who }) who h
    | engines | ends | arbitrate | sectors | report | frontEnds | barriers =>
      obtain ⟨h1, h2⟩ := h
      rw [step, hag]
      exact .next (by simp [State.memoryOk, h1, h2])

end

/-- Settles O36: the meaning of every instruction keeps the form, and so does each kind of step. -/
theorem stepKeepsMemoryForm : Obligations.StepKeepsMemoryForm := by
  unfold Obligations.StepKeepsMemoryForm
  exact fun s t h ht => step_keepsForm h t ht

end Sys2Proof.Machine
end

section
/-! Sequencer arithmetic (R86 to R89): each word's value as its rule gives it, and the divisions with their borderline cases. -/

namespace Sys2Proof.Machine

open Sys2Proof

/-! ## The values of the arithmetic words (R87, R89) -/

section
variable (x y : Word64)

theorem add_eq_ofNat : x + y = BitVec.ofNat 64 (uv x + uv y) := by
  simp [BitVec.ofNat_add]

theorem sub_eq_ofInt : x - y = BitVec.ofInt 64 (sv x - sv y) :=
  BitVec.eq_of_toInt_eq (by rw [BitVec.toInt_sub, BitVec.toInt_ofInt])

theorem mul_eq_ofInt : x * y = BitVec.ofInt 64 (sv x * sv y) := by
  simp [BitVec.ofInt_mul]

theorem and_eq_ofNat : x &&& y = BitVec.ofNat 64 (uv x &&& uv y) := BitVec.eq_of_toNat_eq (by simp)

theorem or_eq_ofNat : x ||| y = BitVec.ofNat 64 (uv x ||| uv y) := BitVec.eq_of_toNat_eq (by simp)

theorem xor_eq_ofNat : x ^^^ y = BitVec.ofNat 64 (uv x ^^^ uv y) := BitVec.eq_of_toNat_eq (by simp)

theorem andn_eq_ofNat : x &&& ~~~y = BitVec.ofNat 64 (uv x &&& (2 ^ 64 - 1 - uv y)) := by
  rw [and_eq_ofNat, show uv (~~~y) = 2 ^ 64 - 1 - uv y from BitVec.toNat_not]

theorem shl_eq_ofNat (n : Nat) : x <<< n = BitVec.ofNat 64 (uv x * 2 ^ n) :=
  BitVec.eq_of_toNat_eq (by simp [Nat.shiftLeft_eq])

theorem shr_eq_ofNat (n : Nat) : x >>> n = BitVec.ofNat 64 (uv x / 2 ^ n) :=
  BitVec.eq_of_toNat_eq (by
    simp [Nat.shiftRight_eq_div_pow, Nat.mod_eq_of_lt (Nat.lt_of_le_of_lt (Nat.div_le_self _ _) x.isLt)])

theorem sshr_eq_ofInt (n : Nat) : x.sshiftRight n = BitVec.ofInt 64 (sv x / 2 ^ n) := by
  rw [← BitVec.ofInt_toInt (x := x.sshiftRight n), BitVec.toInt_sshiftRight, Int.shiftRight_eq_div_pow]
  norm_cast

theorem flag64_decide (p : Prop) [Decidable p] : flag64 (decide p) = if p then 1 else 0 := by
  simp [flag64]

/-- The signed smaller or larger value: where the two are equal either choice is the same value. -/
theorem pick_signed : pick true false x y = (if sv x ≤ sv y then x else y) ∧
    pick true true x y = (if sv x ≤ sv y then y else x) := by
  rcases lt_trichotomy (sv x) (sv y) with h | h | h
  · simp [pick, h, h.le]
  · simp [pick, BitVec.eq_of_toInt_eq h]
  · simp [pick, h.not_gt, h.not_ge]

theorem pick_unsigned : pick false false x y = (if uv x ≤ uv y then x else y) ∧
    pick false true x y = (if uv x ≤ uv y then y else x) := by
  rcases lt_trichotomy (uv x) (uv y) with h | h | h
  · simp [pick, h, h.le]
  · simp [pick, BitVec.eq_of_toNat_eq h]
  · simp [pick, h.not_gt, h.not_ge]

theorem high64_natCast (n : Nat) : high64 (n : Int) = BitVec.ofNat 64 (n / 2 ^ 64) := by
  rw [high64, ← BitVec.ofInt_natCast]
  norm_cast

/-- The leading zeros are the places above the highest bit that is set. -/
theorem clz64_eq_find? : clz64 x = ((List.range 64).find? (fun i => x.getLsbD (63 - i))).getD 64 := by
  unfold clz64
  split
  next hx =>
    rw [List.find?_range_eq_none.mpr (by simp [hx])]
    rfl
  next hx =>
    have hx' : x.toNat ≠ 0 := fun h => hx (BitVec.eq_of_toNat_eq h)
    have hlog : x.toNat.log2 < 64 := (Nat.log2_lt hx').mpr x.isLt
    have hfind : (List.range 64).find? (fun i => x.getLsbD (63 - i)) = some (63 - x.toNat.log2) := by
      refine List.find?_range_eq_some.mpr ⟨?_, List.mem_range.mpr (by omega), fun j hj => ?_⟩
      · rw [show 63 - (63 - x.toNat.log2) = x.toNat.log2 by omega]
        exact Nat.testBit_log2 hx'
      · have hbit : x.toNat.testBit (63 - j) = false :=
          Nat.testBit_lt_two_pow ((Nat.log2_lt hx').mp (by omega))
        simp [BitVec.getLsbD, hbit]
    rw [hfind, Option.getD_some]

variable (imm : BitVec 16)

theorem toInt_sx64 : sv (sx64 imm) = imm.toInt := BitVec.toInt_signExtend_of_le (by decide)

theorem sx64_eq_ofInt : sx64 imm = BitVec.ofInt 64 imm.toInt := by
  rw [← toInt_sx64, BitVec.ofInt_toInt]

theorem add_sx64_eq_ofInt : x + sx64 imm = BitVec.ofInt 64 (sv x + imm.toInt) := by
  rw [BitVec.ofInt_add, BitVec.ofInt_toInt, sx64_eq_ofInt]

theorem uv_zx64 : uv (zx64 imm) = imm.toNat := BitVec.toNat_setWidth_of_le (by decide)

theorem sx64_shl : sx64 imm <<< 16 = BitVec.ofInt 64 (imm.toInt * 65536) := by
  rw [BitVec.ofInt_mul, ← sx64_eq_ofInt, BitVec.shiftLeft_eq_mul_twoPow]
  rfl

theorem divS_eq : divS x y = if y = 0 then 0xFFFFFFFFFFFFFFFF
      else if x = 0x8000000000000000 ∧ sv y = -1 then 0x8000000000000000
      else BitVec.ofInt 64 ((sv x).tdiv (sv y)) := by
  unfold divS
  split
  · rfl
  · split
    next h => obtain ⟨rfl, h⟩ := h; rw [h]; rfl
    · rfl

theorem remS_eq : remS x y = if y = 0 then x
      else if x = 0x8000000000000000 ∧ sv y = -1 then 0
      else BitVec.ofInt 64 (sv x - sv y * (sv x).tdiv (sv y)) := by
  unfold remS
  split
  · rfl
  · split
    next h => obtain ⟨rfl, h⟩ := h; rw [h]; rfl
    · rw [Int.tmod_def]

theorem remU_eq : remU x y = if y = 0 then x else BitVec.ofNat 64 (uv x - uv y * (uv x / uv y)) := by
  rw [remU, Nat.mod_eq_sub_mul_div]

end

/-! ## Arithmetic words -/

section
variable {s : State} {i : Instr} {d d' : GReg} {v v' w : Word64} {n n' : Nat}

/-- A word that ends with a register write, whose value is the rule's. -/
theorem exec_of_arithValue (h : some (d', v', n') = some (d, v, n)) (hi : exec i s = .next (s.finishReg d' w n')) (hv : w = v') :
    exec i s = .next (s.finishReg d v n) := by
  cases h
  rw [hi, hv]

/-- The meaning of each arithmetic word against the table of R87 and R89. -/
theorem exec_arith (h : arithResult s.g i = some (d, v, n)) : exec i s = .next (s.finishReg d v n) := by
  cases i
  case add => exact exec_of_arithValue h rfl (add_eq_ofNat _ _)
  case sub => exact exec_of_arithValue h rfl (sub_eq_ofInt _ _)
  case and => exact exec_of_arithValue h rfl (and_eq_ofNat _ _)
  case or => exact exec_of_arithValue h rfl (or_eq_ofNat _ _)
  case xor => exact exec_of_arithValue h rfl (xor_eq_ofNat _ _)
  case andn => exact exec_of_arithValue h rfl (andn_eq_ofNat _ _)
  case sll => exact exec_of_arithValue h rfl (shl_eq_ofNat _ _)
  case srl => exact exec_of_arithValue h rfl (shr_eq_ofNat _ _)
  case sra => exact exec_of_arithValue h rfl (sshr_eq_ofInt _ _)
  case slt => exact exec_of_arithValue h rfl (flag64_decide _)
  case sltn => exact exec_of_arithValue h rfl (flag64_decide _)
  case min => exact exec_of_arithValue h rfl (pick_signed _ _).1
  case max => exact exec_of_arithValue h rfl (pick_signed _ _).2
  case minn => exact exec_of_arithValue h rfl (pick_unsigned _ _).1
  case maxn => exact exec_of_arithValue h rfl (pick_unsigned _ _).2
  case mul => exact exec_of_arithValue h rfl (mul_eq_ofInt _ _)
  case mulh => exact exec_of_arithValue h rfl rfl
  case mulhn => exact exec_of_arithValue h rfl (high64_natCast _)
  case clz => exact exec_of_arithValue h rfl (congrArg _ (clz64_eq_find? _))
  case ctz | popc => exact exec_of_arithValue h rfl rfl
  case addi => exact exec_of_arithValue h rfl (add_sx64_eq_ofInt _ _)
  case andi => exact exec_of_arithValue h rfl (by rw [and_eq_ofNat, uv_zx64])
  case ori => exact exec_of_arithValue h rfl (by rw [or_eq_ofNat, uv_zx64])
  case xori => exact exec_of_arithValue h rfl (by rw [xor_eq_ofNat, uv_zx64])
  case slli => exact exec_of_arithValue h rfl (shl_eq_ofNat _ _)
  case srli => exact exec_of_arithValue h rfl (shr_eq_ofNat _ _)
  case srai => exact exec_of_arithValue h rfl (sshr_eq_ofInt _ _)
  case lui => exact exec_of_arithValue h rfl (sx64_shl _)
  case slti => exact exec_of_arithValue h rfl (by rw [flag64_decide, toInt_sx64])
  case sltni => exact exec_of_arithValue h rfl (by rw [flag64_decide, sx64_eq_ofInt])
  all_goals nomatch h

end

/-- Settles O1: each word is a register write of the rule's value. -/
theorem arithmeticResult : Obligations.ArithmeticResult := by
  unfold Obligations.ArithmeticResult
  exact ⟨fun s => Slot.reg_zero s.task, fun s i d v n h => ⟨_, exec_arith h, wordDone_finishReg s d v n⟩⟩

/-! ## Divisions (R88) -/

theorem exec_division {s : State} {i : Instr} {d : GReg} {v : Word64} (h : divideResult s.g i = some (d, v)) :
    exec i s = .next (s.divide d v) := by
  cases i
  case div => cases h; exact congrArg _ (congrArg _ (divS_eq _ _))
  case divn => cases h; rfl
  case rem => cases h; exact congrArg _ (congrArg _ (remS_eq _ _))
  case remn => cases h; exact congrArg _ (congrArg _ (remU_eq _ _))
  all_goals nomatch h

theorem divide_busy {s : State} (h : s.tick < s.me.divBusy) (d : GReg) (v : Word64) : s.divide d v = s := by
  rw [State.divide, if_pos (by simpa [State.divBlocked] using h)]

theorem divide_free {s : State} (h : s.me.divBusy ≤ s.tick) (d : GReg) (v : Word64) :
    s.divide d v = s.setMe { (s.finishReg d v 20).me with divBusy := s.tick + 20 } := by
  rw [State.divide, if_neg (by simpa [State.divBlocked] using h)]
  exact State.setMe_setMe s _ _

theorem task_setMe (s : State) (c : Core) : (s.setMe c).task = c.task s.cur.slot := by
  rw [State.task, State.me_setMe]
  rfl

/-- Settles O2: the four divisions write the rule's value, or wait for the divider; the examples are computed. -/
theorem divisionNeverFaults : Obligations.DivisionNeverFaults := by
  unfold Obligations.DivisionNeverFaults
  refine ⟨fun s i d v h => ⟨fun hb => ?_, fun hf => ?_⟩, fun g h1 h2 => ?_, fun g h1 h2 => ?_, rfl⟩
  · rw [exec_division h, divide_busy hb]
  · obtain ⟨-, slot, regs⟩ := wordDone_finishReg s d v 20
    have ht : (s.setMe { (s.finishReg d v 20).me with divBusy := s.tick + 20 }).task = (s.finishReg d v 20).task :=
      task_setMe s _
    refine ⟨_, by rw [exec_division h, divide_free hf], onlyCore_setMe s _, ?_, ?_, fun r => ?_⟩
    · rw [ht, State.me_setMe, State.finishReg, State.me_setTask, State.task_setTask]
    · rw [ht]
      exact slot
    · rw [State.g, ht]
      exact regs r
  · simp only [divideResult, h1, h2]
    decide
  · simp only [arithResult, h1, h2]
    decide

/-! ## Branches (R98) -/

/-- A jump changes the acting task's slot alone (R85, R86). -/
theorem jump_spec (s : State) (d : GReg) (link pc : Word64) (n : Nat) :
    OnlyTask s.meRef s (s.jump d link pc n) ∧
    (s.jump d link pc n).task = { s.task with pc := pc, g := (s.jump d link pc n).task.g, readyAt := s.tick + n, hold := .none } ∧
    ∀ r, (s.jump d link pc n).g r = if r = d ∧ d ≠ 0 then link else s.g r := by
  refine ⟨onlyTask_setTask s _, ?_, fun r => ?_⟩
  · rw [State.jump, State.task_setTask, Slot.setReg_eq]
  · rw [State.g, State.jump, State.task_setTask]
    exact Slot.reg_setReg s.task d r link

/-- The target of a branch or `jal`: the pc and four times the offset. -/
theorem add_sx64_four {w : Nat} (hw : w ≤ 64) (pc : Word64) (off : BitVec w) :
    pc + sx64 off * 4 = BitVec.ofInt 64 (pc.toInt + 4 * off.toInt) := by
  have hoff : sx64 off = BitVec.ofInt 64 off.toInt := by
    rw [← BitVec.toInt_signExtend_of_le hw, BitVec.ofInt_toInt]
  rw [BitVec.ofInt_add, BitVec.ofInt_mul, BitVec.ofInt_toInt, ← hoff, BitVec.mul_comm]
  rfl

theorem branch_taken (s : State) (off : BitVec 16) : s.branch true off = s.jump 0 0 (s.task.pc + sx64 off * 4) 2 := rfl

theorem branch_not_taken (s : State) (off : BitVec 16) : s.branch false off = s.finish 1 := rfl

theorem exec_branch {s : State} {i : Instr} {c : Prop} {off : BitVec 16} (h : branchTaken s.g i = some (c, off)) :
    ∃ b : Bool, (b = true ↔ c) ∧ exec i s = .next (s.branch b off) := by
  cases i
  case beq => cases h; exact ⟨_, beq_iff_eq, rfl⟩
  case bne => cases h; exact ⟨_, bne_iff_ne, rfl⟩
  case blt | bge | bltn | bgen => cases h; exact ⟨_, decide_eq_true_iff, rfl⟩
  all_goals nomatch h

theorem encImm_eq (op : Nat) (d a : GReg) (imm : BitVec 16) :
    encImm op d a imm = op * 2 ^ 26 + d.val * 2 ^ 21 + a.val * 2 ^ 16 + imm.toNat := rfl

theorem branch_spec (s : State) (b : Bool) (off : BitVec 16) :
    OnlyTask s.meRef s (s.branch b off) ∧ (∀ r, (s.branch b off).g r = s.g r) ∧
    (s.branch b off).task =
      if b then { s.task with pc := BitVec.ofInt 64 (s.task.pc.toInt + 4 * off.toInt), readyAt := s.tick + 2, hold := .none }
      else { s.task with pc := s.task.pc + 4, readyAt := s.tick + 1, hold := .none } := by
  cases b with
  | true =>
    obtain ⟨only, slot, regs⟩ := jump_spec s 0 0 (s.task.pc + sx64 off * 4) 2
    refine ⟨only, fun r => by rw [branch_taken, regs r, if_neg (fun h => h.2 rfl)], ?_⟩
    rw [branch_taken, State.jump, State.task_setTask, Slot.setReg_zero, add_sx64_four (by decide)]
    rfl
  | false =>
    refine ⟨onlyTask_setTask s _, fun r => ?_, ?_⟩
    · rw [branch_not_taken, State.g, State.finish, State.task_setTask]
      rfl
    · rw [branch_not_taken, State.finish, State.task_setTask]
      rfl

/-- Settles O3: a branch is a jump that writes g0 where its condition holds, and an empty word where it does not. -/
theorem branchMovesPc : Obligations.BranchMovesPc := by
  unfold Obligations.BranchMovesPc
  refine ⟨fun s i c off h => ?_, fun a b off => ?_, rfl⟩
  · obtain ⟨b, hb, he⟩ := exec_branch h
    obtain ⟨only, regs, slot⟩ := branch_spec s b off
    refine ⟨_, he, only, regs, fun hc => ?_, fun hc => ?_⟩
    · rw [slot, if_pos (hb.mpr hc)]
    · rw [slot, if_neg (fun h => hc (hb.mp h))]
  · simp [encode, encImm_eq, Nat.add_assoc]

/-! ## Jumps (R99, R100) -/

/-- Settles O4. -/
theorem jalLinks : Obligations.JalLinks := by
  unfold Obligations.JalLinks
  refine ⟨fun s d off => ?_, fun d off => rfl, rfl⟩
  obtain ⟨only, slot, regs⟩ := jump_spec s d (s.task.pc + 4) (s.task.pc + sx64 off * 4) 2
  rw [← add_sx64_four (by decide)]
  exact ⟨_, rfl, only, slot, regs⟩

theorem bitsOf_low2 (w : Word64) : bitsOf w 0 2 = w.toNat % 4 := by
  simp [bitsOf, fld]

/-- Settles O5: the target is aligned, and `jalr` is a jump, or it is not, and the word faults. -/
theorem jalrLinksOrFaults : Obligations.JalrLinksOrFaults := by
  unfold Obligations.JalrLinksOrFaults
  refine ⟨fun s d a imm h => ?_, fun s d a imm h => ?_, fun d a imm => rfl, rfl⟩
  · obtain ⟨only, slot, regs⟩ := jump_spec s d (s.task.pc + 4) (s.ea a imm) 2
    refine ⟨_, ?_, only, slot, regs⟩
    simp only [exec, execJalr]
    rw [if_neg (by rw [bitsOf_low2]; exact fun hne => hne h)]
  · refine ⟨3, ?_⟩
    simp only [exec, execJalr]
    rw [if_pos (by rw [bitsOf_low2]; exact h)]
    rfl

end Sys2Proof.Machine
end

section
/-! Memory accesses of the sequencer (R86, R90, R91, R107 to R111): the issue of a word's request or store, its fault, what an access does
at its line's home, and the reply of a load. -/

namespace Sys2Proof.Machine

open Sys2Proof

/-! ## What a request's messages change -/

theorem ringQueue_outside (s : State) (p : Nat) (ready : Nat → Nat) (h : RingHop) (rest : List RingHop)
    (flit : Nat → Option RingFlit) : ∃ ds, s.ringQueue p ready h rest flit = { s with dies := ds } := ⟨_, rfl⟩

/-- A message changes rings and routers alone. -/
theorem carry_outside (s : State) (a src b dst : Nat) (vc : Fin 4) (p bytes : Nat) (late : Nat → Nat) (back : List RingHop)
    (kind : Nat → FlitKind) (num : Option (Stream × Nat)) (mesh : Bool) :
    ∃ ds, s.carry a src b dst vc p bytes late back kind num mesh = { s with dies := ds } := by
  have hring : ∃ ds, (match ringHops vc a src b dst bytes with
      | [] => s
      | h :: rest => s.ringQueue p (fun i => s.ringCyc + late i) h (rest ++ back) (fun i =>
          if (mesh && !(s.part p).fl && a != 32) = true then
            some { goal := b, vc := vc, head := s.meshCyc + 8 + late i, kind := kind i,
                   num := if i + 1 = ceilDiv bytes 256 then num else none }
          else none)) = { s with dies := ds } := by
    split
    · exact ⟨_, rfl⟩
    · exact ⟨_, rfl⟩
  unfold State.carry
  dsimp only
  split
  · refine foldl_keeps (fun t : State => ∃ ds, t = { s with dies := ds }) _ _ _ hring ?_
    rintro t i ⟨ds, rfl⟩
    exact ⟨_, rfl⟩
  · exact hring

theorem requestOut_outside (s : State) (r : TaskRef) (x : Access) (sm : Stream) (n late : Nat) :
    ∃ ds, s.requestOut r x sm n late = { s with dies := ds } := by
  unfold State.requestOut
  dsimp only
  split
  · exact carry_outside ..
  · exact carry_outside ..

/-- A request on its way changes rings, routers and timers alone. -/
theorem depart_outside (s : State) (r : TaskRef) (x : Access) (sm : Stream) (n : Nat) :
    ∃ ds ts, s.depart r x sm n = { s with dies := ds, timers := ts } := by
  obtain ⟨ds, hout⟩ := requestOut_outside s r x sm n (2 * x.pad)
  unfold State.depart
  dsimp only
  rw [hout]
  split
  · exact ⟨_, _, rfl⟩
  · split
    · exact ⟨_, _, rfl⟩
    · exact ⟨_, _, rfl⟩

/-! ## What a translation's time and a task's pins change -/

/-- A word's translation touches the TLB entry it used, or sets out to fetch one. -/
theorem noteWalk_cases (s : State) (k va lvl : Nat) :
    (∃ tlb, s.noteWalk k va lvl = s.setCore k { s.core k with l1tlb := tlb }) ∨
    (∃ ds ts, s.noteWalk k va lvl = { s with dies := ds, timers := ts }) := by
  unfold State.noteWalk
  split
  · dsimp only
    split
    · exact .inr ⟨_, _, rfl⟩
    · exact .inl ⟨_, rfl⟩
  · split
    · exact .inr ⟨_, _, rfl⟩
    · exact .inr ⟨_, _, rfl⟩

/-- Of the acting core a translation changes the first-level TLB alone. -/
theorem noteWalk_me (s : State) (va lvl : Nat) :
    ∃ tlb, (s.noteWalk s.cur.core va lvl).me = { s.me with l1tlb := tlb } := by
  rcases noteWalk_cases s s.cur.core va lvl with ⟨tlb, h⟩ | ⟨ds, ts, h⟩
  · exact ⟨tlb, by rw [h]; exact State.me_setMe s _⟩
  · exact ⟨s.me.l1tlb, by rw [h]; rfl⟩

@[simp] theorem noteWalk_cur (s : State) (k va lvl : Nat) : (s.noteWalk k va lvl).cur = s.cur := by
  rcases noteWalk_cases s k va lvl with ⟨tlb, h⟩ | ⟨ds, ts, h⟩
  · rw [h, State.setCore_cur]
  · rw [h]

@[simp] theorem noteWalk_parts (s : State) (k va lvl : Nat) : (s.noteWalk k va lvl).parts = s.parts := by
  rcases noteWalk_cases s k va lvl with ⟨tlb, h⟩ | ⟨ds, ts, h⟩
  · rw [h, State.setCore_parts]
  · rw [h]

@[simp] theorem noteWalk_task (s : State) (va lvl : Nat) : (s.noteWalk s.cur.core va lvl).task = s.task := by
  obtain ⟨tlb, h⟩ := noteWalk_me s va lvl
  rw [State.task, h, noteWalk_cur]
  rfl

/-- A task's pins go from the lines and from its slot. -/
theorem unpinTask_outside (s : State) (r : TaskRef) :
    ∃ ls, s.unpinTask r = ({ s with lines := ls } : State).setTaskOf r { s.taskOf r with pins := [] } := by
  have hfold : ∃ ls, (s.taskOf r).pins.foldl (fun s l =>
      s.setLine l { s.line l with pins := (s.line l).pins.filter (fun y => y != r) }) s = { s with lines := ls } := by
    refine foldl_keeps (fun t : State => ∃ ls, t = { s with lines := ls }) _ _ _ ⟨_, rfl⟩ ?_
    rintro t l ⟨ls, rfl⟩
    exact ⟨_, rfl⟩
  obtain ⟨ls, hls⟩ := hfold
  refine ⟨ls, ?_⟩
  unfold State.unpinTask
  dsimp only
  rw [hls]
  rfl

/-- The acting task's pins go, those too that its queued stores would make. -/
theorem releasePins_outside (s : State) : ∃ ls, s.releasePins s.meRef = ({ s with lines := ls } : State).setMe
    { s.me.setTask s.cur.slot { s.task with pins := [] } with storeQ := s.me.storeQ.map (fun x =>
      if x.slot = s.cur.slot ∧ x.scope = some .core then { x with scope := none } else x) } := by
  obtain ⟨ls, h⟩ := unpinTask_outside s s.meRef
  refine ⟨ls, ?_⟩
  rw [State.releasePins, h]
  dsimp only [State.setTaskOf]
  rw [State.core_setCore, State.setCore_setCore]
  rfl

/-! ## The state in which a word's access issues -/

/-- `u` is `s` after a word of scope `sc` has been translated and has ended the pins it ends (R91, R111): beside translations, lines
and the pins of the task nothing has changed but the scopes of its queued stores. -/
structure Prepared (sc : Option Scope) (s u : State) : Prop where
  cur   : u.cur = s.cur
  parts : u.parts = s.parts
  mem   : u.mem = s.mem
  part  : u.me.part = s.me.part
  task  : u.task = { s.task with pins := u.task.pins }
  count : u.me.storeQ.length = s.me.storeQ.length
  queue : sc = none ∨ sc = some .core → u.me.storeQ = s.me.storeQ

theorem Prepared.refl (sc : Option Scope) (s : State) : Prepared sc s s :=
  ⟨rfl, rfl, rfl, rfl, rfl, rfl, fun _ => rfl⟩

theorem prepared_noteWalk (sc : Option Scope) (s : State) (va lvl : Nat) : Prepared sc s (s.noteWalk s.cur.core va lvl) := by
  obtain ⟨tlb, h⟩ := noteWalk_me s va lvl
  refine ⟨by simp, by simp, (State.noteWalk_mems ..).1, ?_, ?_, ?_, fun _ => ?_⟩
  · rw [h]
  · rw [noteWalk_task]
  · rw [h]
  · rw [h]

theorem Prepared.releasePins {sc : Option Scope} {s u : State} (h : Prepared sc s u) (hw : Scope.wide sc = true) :
    Prepared sc s (u.releasePins u.meRef) := by
  obtain ⟨cur, parts, mem, part, task, count, -⟩ := h
  obtain ⟨ls, hu⟩ := releasePins_outside u
  have hme : (u.releasePins u.meRef).me = { u.me.setTask u.cur.slot { u.task with pins := [] } with
      storeQ := u.me.storeQ.map (fun x => if x.slot = u.cur.slot ∧ x.scope = some .core then { x with scope := none } else x) } := by
    rw [hu]
    exact State.me_setMe _ _
  refine ⟨?_, ?_, ?_, ?_, ?_, ?_, fun hsc => ?_⟩
  · rw [hu]
    exact cur
  · rw [hu]
    exact parts
  · rw [(State.releasePins_mems u u.meRef).1, mem]
  · rw [hme]
    exact part
  · have htask : (u.releasePins u.meRef).task = { u.task with pins := [] } := by
      rw [State.task, hme, hu]
      exact Core.task_setTask u.me u.cur.slot _
    rw [htask, task]
  · rw [hme]
    simpa using count
  · rcases hsc with rfl | rfl <;> cases hw

section
variable {s : State} {op : MemOp} {sc : Option Scope} {dst : GReg} {ea a b : Word64} {lvl : Nat}

/-- A word whose address passes its checks issues its access once it is prepared; a store waits while its queue is full. -/
theorem memWord_passed {tr : Trans} (h : s.check ea op.bytes op.kind = (lvl, .ok tr)) (reply : Bool) :
    ∃ u x, s.memWord op sc dst ea a b reply = (if reply then u.issueAccess x else if u.storeWaits then s else u.issueStore x) ∧
      Prepared sc s u ∧ x.op = op ∧ x.scope = sc ∧ x.dst = dst ∧ x.va = ea.toNat ∧ x.pa = tr.pa ∧ x.a = a ∧ x.b = b ∧
      x.slot = s.cur.slot := by
  have hnote : Prepared sc s (if reply && s.accessWaits s.meRef then s else s.noteWalk s.cur.core ea.toNat lvl) := by
    split
    · exact .refl sc s
    · exact prepared_noteWalk sc s ea.toNat lvl
  simp only [State.memWord, h]
  refine ⟨_, _, rfl, ?_, rfl, rfl, rfl, rfl, rfl, rfl, rfl, rfl⟩
  split
  next hw => exact hnote.releasePins hw
  · exact hnote

/-- A word whose address fails a check faults (R91, R336). -/
theorem memWord_failed {cause why : Nat} (h : s.check ea op.bytes op.kind = (lvl, .error (cause, why))) (reply : Bool) :
    s.memWord op sc dst ea a b reply = (s.noteWalk s.cur.core ea.toNat lvl).takeFault s.meRef
      { cause := cause, unit := 0, loc := s.task.pc.toNat, acc := accCode op.kind, why := why, addr := ea.toNat, sect := 0, code := 0 }
      false := by
  rw [State.memWord, h]
  dsimp only
  rw [State.seqFault, State.meRef, noteWalk_cur, noteWalk_task]
  rfl

end

/-! ## A request stands in its task -/

/-- A task's slot before and after its request `x` is sent or held back: the request stands in it, with what its sending adds, and
beside that only pins and the address table may have changed. -/
structure RequestStands (x : Access) (t u : Slot) : Prop where
  slot : u = { t with accReq := u.accReq, hold := .access, pins := u.pins, tab := u.tab }
  req  : ∃ y, u.accReq = some y ∧ y = { x with phase := y.phase, due := y.due, seq := y.seq, value := y.value, stamp := y.stamp }

theorem RequestStands.mono {x : Access} {t u v : Slot} (h : RequestStands x t u) (hv : v = { u with pins := v.pins, tab := v.tab }) :
    RequestStands x t v := by
  obtain ⟨slot, y, hreq, hy⟩ := h
  have hacc : v.accReq = u.accReq := by rw [hv]
  refine ⟨?_, y, hacc.trans hreq, hy⟩
  rw [hacc, hv, slot]

/-- The address table takes an `ld.s`'s entry, and nothing for any other access (R95). -/
theorem noteSpec_cases (s : State) (r : TaskRef) (x : Access) (wts : Nat) :
    s.noteSpec r x wts = s ∨ ∃ tab, s.noteSpec r x wts = s.setTaskOf r { s.taskOf r with tab := tab } := by
  unfold State.noteSpec
  split
  · exact .inr ⟨_, rfl⟩
  · exact .inl rfl

/-- A line pinned to a task is one more of those that its slot names, in the place of the oldest of eight (R111). -/
theorem pinLine_cases (s : State) (r : TaskRef) (l : Nat) :
    s.pinLine r l = s ∨
    ∃ ls ps, s.pinLine r l = ({ s with lines := ls } : State).setTaskOf r { s.taskOf r with pins := ps } := by
  unfold State.pinLine
  dsimp only
  split
  · exact .inl rfl
  · refine .inr ?_
    have hfold (old : List Nat) : ∃ ls, old.foldl (fun s o =>
        s.setLine o { s.line o with pins := (s.line o).pins.filter (fun y => y != r) }) s = { s with lines := ls } := by
      refine foldl_keeps (fun t : State => ∃ ls, t = { s with lines := ls }) _ _ _ ⟨_, rfl⟩ ?_
      rintro t o ⟨ls, rfl⟩
      exact ⟨_, rfl⟩
    obtain ⟨ls, hls⟩ := hfold (if (s.taskOf r).pins.length < 8 then ([], (s.taskOf r).pins)
      else ((s.taskOf r).pins.take 1, (s.taskOf r).pins.drop 1)).1
    rw [hls]
    exact ⟨_, _, rfl⟩

theorem RequestStands.noteSpec {s : State} {r : TaskRef} {x : Access} {t : Slot} (h : RequestStands x t (s.taskOf r)) (z : Access)
    (wts : Nat) : RequestStands x t ((s.noteSpec r z wts).taskOf r) := by
  rcases noteSpec_cases s r z wts with hs | ⟨tab, hs⟩
  · rw [hs]
    exact h
  · rw [hs, State.taskOf_setTaskOf]
    exact h.mono rfl

theorem RequestStands.pinLine {s : State} {r : TaskRef} {x : Access} {t : Slot} (h : RequestStands x t (s.taskOf r)) (l : Nat) :
    RequestStands x t ((s.pinLine r l).taskOf r) := by
  rcases pinLine_cases s r l with hs | ⟨ls, ps, hs⟩
  · rw [hs]
    exact h
  · rw [hs, State.taskOf_setTaskOf]
    exact h.mono rfl

@[simp] theorem noteSpec_cur (s : State) (r : TaskRef) (x : Access) (wts : Nat) : (s.noteSpec r x wts).cur = s.cur := by
  rcases noteSpec_cases s r x wts with h | ⟨tab, h⟩
  · rw [h]
  · rw [h, State.setTaskOf_cur]

@[simp] theorem pinLine_cur (s : State) (r : TaskRef) (l : Nat) : (s.pinLine r l).cur = s.cur := by
  rcases pinLine_cases s r l with h | ⟨ls, ps, h⟩
  · rw [h]
  · rw [h, State.setTaskOf_cur]

@[simp] theorem depart_cur (s : State) (r : TaskRef) (x : Access) (sm : Stream) (n : Nat) : (s.depart r x sm n).cur = s.cur := by
  obtain ⟨ds, ts, h⟩ := depart_outside s r x sm n
  rw [h]

theorem depart_core (s : State) (r : TaskRef) (x : Access) (sm : Stream) (n k : Nat) : (s.depart r x sm n).core k = s.core k := by
  obtain ⟨ds, ts, h⟩ := depart_outside s r x sm n
  rw [h]
  rfl

@[simp] theorem atTick_taskOf (s : State) (w : Cur) (n : Nat) (e : Ev) (r : TaskRef) : (s.atTick w n e).taskOf r = s.taskOf r := rfl

theorem taskOf_setCore (s : State) (r : TaskRef) (c : Core) : (s.setCore r.core c).taskOf r = c.task r.slot := by
  rw [State.taskOf, State.core_setCore]

theorem setTaskOf_stands {s : State} {r : TaskRef} {x y : Access}
    (hy : y = { x with phase := y.phase, due := y.due, seq := y.seq, value := y.value, stamp := y.stamp }) :
    RequestStands x (s.taskOf r) ((s.setTaskOf r { s.taskOf r with accReq := some y, hold := .access }).taskOf r) := by
  rw [State.taskOf_setTaskOf]
  exact ⟨rfl, y, rfl, hy⟩

theorem depart_taskOf (s : State) (r q : TaskRef) (x : Access) (sm : Stream) (n : Nat) :
    (s.depart r x sm n).taskOf q = s.taskOf q := by
  rw [State.taskOf, depart_core]
  rfl

/-- A request that a copy serves: the address table and the pins are all that its serving adds (R96, R111). -/
theorem RequestStands.served {s : State} {r : TaskRef} {x z : Access} {t : Slot} (h : RequestStands x t (s.taskOf r))
    (dc : List DLine) (wts l : Nat) (pins : Prop) [Decidable pins] :
    let s1 := (s.setCore r.core { s.core r.core with dcache := dc }).noteSpec r z wts
    RequestStands x t ((if pins then s1.pinLine r l else s1).taskOf r) ∧ (if pins then s1.pinLine r l else s1).cur = s.cur := by
  have hcopy : RequestStands x t ((s.setCore r.core { s.core r.core with dcache := dc }).taskOf r) := by
    rw [taskOf_setCore]
    exact h
  dsimp only
  split
  · exact ⟨(hcopy.noteSpec z wts).pinLine l, by simp⟩
  · exact ⟨hcopy.noteSpec z wts, by simp⟩

/-- A request is served by a copy or sent to its home (R273, R281). -/
theorem submit_stands (s : State) (r : TaskRef) (x : Access) :
    RequestStands x (s.taskOf r) ((s.submit r x).taskOf r) ∧ (s.submit r x).cur = s.cur := by
  unfold State.submit
  dsimp only
  split
  · exact (setTaskOf_stands (s := s) rfl).served ..
  · constructor
    · rw [depart_taskOf]
      exact setTaskOf_stands (s := s) rfl
    · rw [depart_cur]
      rfl

/-- A load, or a read-and-write with a reply, stands in its task from its issue on, sent or held back by the task's stores (R275). -/
theorem issueAccess_stands (s : State) (x : Access) : RequestStands x s.task (s.issueAccess x).task := by
  unfold State.issueAccess
  dsimp only
  split
  · change RequestStands x s.task (s.setTask _).task
    rw [State.task_setTask]
    exact ⟨rfl, _, rfl, rfl⟩
  · obtain ⟨h, hcur⟩ := submit_stands s s.meRef x
    rw [State.task_eq (s.submit s.meRef x), show (s.submit s.meRef x).meRef = s.meRef by rw [State.meRef, hcur]; rfl]
    exact h

/-! ## Words that read -/

theorem exec_loadAsk {s : State} {i : Instr} {m : MemAsk} (h : loadAsk s.g i = some m) :
    exec i s = .next (s.memWord m.op m.sc m.dst m.ea m.a m.b true) := by
  cases i
  case ldB | ldH | ldW | ldD | ldBn | ldHn | ldWn | amoSwap | amoAdd | amoAnd | amoOr | amoXor | amoMax | amoMin | amoMaxn
    | amoMinn | cas | lda =>
    cases h
    rfl
  all_goals nomatch h

theorem exec_storeAsk {s : State} {i : Instr} {m : MemAsk} (h : storeAsk s.g i = some m) :
    exec i s = .next (s.memWord m.op m.sc m.dst m.ea m.a m.b false) := by
  cases i
  case stB | stH | stW | stD | stl | redAdd | redFadd32 | redMax | redMin =>
    cases h
    rfl
  all_goals nomatch h

/-- A word with a reply whose address passes its checks: its request stands in the task, whose registers, flags and pc are as before. -/
theorem memWord_request {s : State} {op : MemOp} {ea : Word64} {lvl : Nat} {tr : Trans}
    (h : s.check ea op.bytes op.kind = (lvl, .ok tr)) (sc : Option Scope) (dst : GReg) (a b : Word64) :
    let t := s.memWord op sc dst ea a b true
    ∃ x, t.task.accReq = some x ∧ x.op = op ∧ x.scope = sc ∧ x.dst = dst ∧ x.va = ea.toNat ∧ x.pa = tr.pa ∧
      x.a = a ∧ x.b = b ∧ t.task.hold = .access ∧ t.task.pc = s.task.pc ∧ t.task.g = s.task.g ∧ t.task.fflags = s.task.fflags ∧ SameBytes s t := by
  obtain ⟨u, x, heq, hu, hop, hsc, hdst, hva, hpa, ha, hb, -⟩ := memWord_passed (sc := sc) (dst := dst) (a := a) (b := b) h true
  obtain ⟨slot, y, hreq, hy⟩ := issueAccess_stands u x
  have hmem : (u.issueAccess x).mem = s.mem := (State.issueAccess_mems u x).1.trans hu.mem
  dsimp only
  rw [heq, if_pos rfl]
  refine ⟨y, hreq, ?_, ?_, ?_, ?_, ?_, ?_, ?_, ?_, ?_, ?_, ?_, fun k => by rw [hmem]⟩
  · rw [hy, hop]
  · rw [hy, hsc]
  · rw [hy, hdst]
  · rw [hy, hva]
  · rw [hy, hpa]
  · rw [hy, ha]
  · rw [hy, hb]
  · rw [slot]
  · rw [slot, hu.task]
  · rw [slot, hu.task]
  · rw [slot, hu.task]

/-- Settles O6. -/
theorem readIssues : Obligations.ReadIssues := by
  unfold Obligations.ReadIssues
  intro s i m lvl tr hask hcheck
  obtain ⟨x, hx⟩ := memWord_request hcheck m.sc m.dst m.a m.b
  exact ⟨_, x, exec_loadAsk hask, hx⟩

/-! ## Words that store -/

theorem Prepared.tick {sc : Option Scope} {s u : State} (h : Prepared sc s u) : u.tick = s.tick := by
  rw [State.tick, State.tick, State.partNo, State.partNo, h.part, State.part, State.part, h.parts]

theorem Prepared.storeWaits {sc : Option Scope} {s u : State} (h : Prepared sc s u) : u.storeWaits = s.storeWaits := by
  rw [State.storeWaits, State.storeWaits, State.partNo, State.partNo, h.part, h.count, State.part, State.part, h.parts]

theorem Prepared.rides {sc : Option Scope} {s u : State} (h : Prepared sc s u) (x : Access) :
    u.rides u.cur.core x = s.rides s.cur.core x := by
  have hpart : (u.core u.cur.core).part = (s.core s.cur.core).part := h.part
  rw [State.rides, State.rides, hpart, State.part, State.part, h.parts]

theorem depart_me (s : State) (r : TaskRef) (x : Access) (sm : Stream) (n : Nat) : (s.depart r x sm n).me = s.me := by
  rw [State.me, depart_core, depart_cur]
  rfl

/-- The entry that a store takes in its core's queue: it is due when it is stamped, unless the mesh carries it (R275, R282). -/
def State.queuedStore (s : State) (x : Access) : Access :=
  { x with phase := .sent, due := if s.rides s.cur.core x then 0 else s.storeDue s.cur.core x s.task.lastStore
           seq := s.seqNext s.cur.core }

/-- A store enters the queue of its core behind the others, and its task goes on (R86, R275). -/
theorem issueStore_me (s : State) (x : Access) :
    (s.issueStore x).cur = s.cur ∧
    (s.issueStore x).me = ({ s.me with storeQ := s.me.storeQ ++ [s.queuedStore x] } : Core).setTask s.cur.slot
      { s.task.advance s.tick 1 with
        lastStore := if s.rides s.cur.core x then s.task.lastStore else (s.queuedStore x).due } := by
  have hme (c : Core) : ((s.setMe c).sendNumber { core := s.cur.core, slot := s.cur.slot }).me = c := State.me_setMe s c
  have htask (c : Core) : ((s.setMe c).sendNumber { core := s.cur.core, slot := s.cur.slot }).task = c.task s.cur.slot :=
    task_setMe s c
  unfold State.issueStore State.queuedStore
  dsimp only [State.meRef]
  by_cases hr : s.rides s.cur.core x = true
  · simp only [hr, if_true]
    rw [depart_cur, depart_me, State.me_setTask, hme, htask]
    exact ⟨rfl, rfl⟩
  · simp only [eq_false_of_ne_true hr, Bool.false_eq_true, if_false]
    split
    · refine ⟨rfl, ?_⟩
      change (State.setTask _ _).me = _
      rw [State.me_setTask, hme, htask]
      rfl
    · obtain ⟨ds, hout⟩ := requestOut_outside _
        { core := s.cur.core, slot := s.cur.slot } x (s.seqStream s.cur.core) (s.seqNext s.cur.core) 0
      rw [hout]
      refine ⟨rfl, ?_⟩
      change (State.setTask _ _).me = _
      rw [State.me_setTask, hme, htask]
      rfl

/-- Settles O7. -/
theorem storeQueues : Obligations.StoreQueues := by
  unfold Obligations.StoreQueues
  intro s i m lvl tr hask hcheck hroom
  obtain ⟨u, x, heq, hu, hop, hsc, hdst, hva, hpa, ha, hb, hslot⟩ :=
    memWord_passed (sc := m.sc) (dst := m.dst) (a := m.a) (b := m.b) hcheck false
  obtain ⟨hcur, hme⟩ := issueStore_me u x
  have htask : (u.issueStore x).task = { u.task.advance u.tick 1 with
      lastStore := if u.rides u.cur.core x then u.task.lastStore else (u.queuedStore x).due } := by
    rw [State.task, hme, hcur, Core.task_setTask]
  have hmem : (u.issueStore x).mem = s.mem := (State.issueStore_mems u x).1.trans hu.mem
  have hrides : s.rides s.cur.core (u.queuedStore x) = u.rides u.cur.core x := (hu.rides (u.queuedStore x)).symm
  rw [if_neg Bool.false_ne_true, hu.storeWaits, hroom, if_neg Bool.false_ne_true] at heq
  refine ⟨u.issueStore x, u.me.storeQ, u.queuedStore x, by rw [exec_storeAsk hask, heq], ?_, hu.count, hu.queue, hop, hsc, hva, hpa, ha,
    hslot, fun hr => ?_, ?_, ?_, ?_, fun k => by rw [hmem]⟩
  · rw [hme]
    rfl
  · rw [htask, ← hrides, hr]
    rfl
  · rw [htask, hu.task]
    rfl
  · rw [htask, ← hu.tick]
    rfl
  · rw [htask, hu.task]
    rfl

/-! ## Failed checks (R91, R336) -/

/-- A lookup that fails only as not present, whatever its why code (R351). -/
def FailsAbsent (r : Except TransFail TlbEntry) : Prop := ∀ f, r = .error f → f.cause = 0x08

@[simp] theorem failsAbsent_notPresent (why : Nat) : FailsAbsent (notPresent why) := by
  rintro _ ⟨⟩
  rfl

@[simp] theorem failsAbsent_ok (e : TlbEntry) : FailsAbsent (.ok e) := by
  rintro _ ⟨⟩

theorem FailsAbsent.ite {c : Prop} [Decidable c] {q r : Except TransFail TlbEntry} (hq : FailsAbsent q) (hr : FailsAbsent r) :
    FailsAbsent (if c then q else r) := by
  split
  · exact hq
  · exact hr

theorem hit_failsAbsent (s : State) (e : TlbEntry) (va : Nat) : FailsAbsent (s.hit e va) := by
  unfold State.hit
  exact .ite (failsAbsent_ok e) (failsAbsent_notPresent 6)

/-- Every descriptor that ends a table walk without a page ends it as not present. -/
theorem walk_failsAbsent (s : State) (p va : Nat) : FailsAbsent (s.walk p va) := by
  unfold State.walk
  dsimp only
  repeat' apply FailsAbsent.ite
  all_goals simp

theorem lookup_failsAbsent (s : State) (k va : Nat) : FailsAbsent (s.lookup k va).2 := by
  unfold State.lookup State.dieLookup
  dsimp only
  split
  · exact hit_failsAbsent s _ va
  · split
    · exact failsAbsent_notPresent 1
    · split
      · exact hit_failsAbsent s _ va
      · exact walk_failsAbsent s _ va

theorem permit_cause {s : State} {p : Nat} {e : TlbEntry} {va : Nat} {k : AccKind} {pub : Bool} {f : TransFail}
    (h : s.permit p e va k pub = some f) : f.cause = 0x09 := by
  unfold State.permit at h
  cases k
  all_goals grind

/-- R351: a translation fails as not present or as not permitted. -/
theorem translate_error {s : State} {k va l : Nat} {a : AccKind} {pub : Bool} {f : TransFail}
    (h : s.translate k va a pub = (l, .error f)) : f.cause = 0x08 ∨ f.cause = 0x09 := by
  unfold State.translate at h
  dsimp only at h
  split at h
  next g hg =>
    cases h
    exact .inl (lookup_failsAbsent s k va f hg)
  next e he =>
    split at h
    next g hg =>
      cases h
      exact .inr (permit_cause hg)
    · cases h

/-- R91: a misaligned address fails first. -/
theorem check_error {s : State} {ea : Word64} {n lvl cause why : Nat} {k : AccKind} (h : s.check ea n k = (lvl, .error (cause, why))) :
    (ea.toNat % n ≠ 0 → cause = 0x07) ∧ (ea.toNat % n = 0 → cause = 0x08 ∨ cause = 0x09) := by
  unfold State.check at h
  split at h
  next hn =>
    cases h
    exact ⟨fun _ => rfl, fun h0 => absurd h0 hn⟩
  next hn =>
    refine ⟨fun h0 => absurd h0 hn, fun _ => ?_⟩
    split at h
    next l f ht =>
      cases h
      exact translate_error ht
    · cases h

/-- Settles O8. -/
theorem accessFaults : Obligations.AccessFaults := by
  unfold Obligations.AccessFaults
  intro s i m lvl cause why hask hcheck
  obtain ⟨h7, h89⟩ := check_error hcheck
  refine ⟨h7, h89, _, ?_, rfl⟩
  rcases hask with h | h
  · rw [exec_loadAsk h, memWord_failed hcheck]
  · rw [exec_storeAsk h, memWord_failed hcheck]

/-! ## What an access does at its line's home (R90, R108 to R110, R272) -/

theorem physLoad_eq {s : State} {pa : Nat} (h : region pa ≠ 1) (n : Nat) : s.physLoad pa n = Memory.load s.mem pa n := by
  rw [State.physLoad, if_neg h]

/-- A write at a home within the package stores its bytes and no others. -/
theorem homeWrite_store {s : State} {pa : Nat} (h : region pa ≠ 1) (bs : List Byte) (ts : Nat) :
    (s.homeWrite pa bs ts).1.mem = Memory.store s.mem pa bs := by
  simp only [State.homeWrite, (State.pushLine_mems _ _).1, (State.touchSlice_mems _ _).1, (State.clearTables_mems _ _ _).1]
  rw [State.physStore, if_neg h]
  rfl

/-- Settles O9: an access that writes nothing is a read at the home, and one that writes stores its bytes there. -/
theorem accessPerforms : Obligations.AccessPerforms := by
  unfold Obligations.AccessPerforms
  intro s x ts hpa
  rw [← physLoad_eq (s := s) hpa]
  unfold State.perform
  dsimp only
  cases hup : x.op.update (BitVec.ofNat 64 (leNat (s.physLoad x.pa x.op.bytes))) x.a x.b with
  | none =>
    have hmem := (State.homeRead_mems s x.pa x.op.bytes ts x.lease).1
    exact ⟨rfl, fun b _ => by rw [hmem], fun b => by rw [hmem]⟩
  | some v =>
    have hmem := homeWrite_store (s := s) hpa (leBytes x.op.bytes v.toNat) ts
    refine ⟨rfl, fun b hb => ?_, ?_⟩
    · rw [hmem, Memory.get_store_of_not_mem _ _ _ _ (by rwa [leBytes_length])]
    · have hload := Memory.load_store_self s.mem x.pa (leBytes x.op.bytes v.toNat)
      rw [leBytes_length] at hload
      rw [hmem, hload, leNat_leBytes]

/-! ## The reply of a load (R86, R272) -/

/-- The task after its reply, but for its address table, which a `chk`'s empties (R97). -/
def State.replied (s : State) (r : TaskRef) (x : Access) (v : Word64) (tab : Vector TabEntry 8) : State :=
  s.setTaskOf r (({ (s.taskOf r).setReg x.dst v with tab := tab, accReq := none, ts := Nat.max (s.taskOf r).ts x.stamp } : Slot).advance
    (s.tickOf r.core) 0)

theorem loadReply_replied {s : State} {r : TaskRef} {x : Access} {v : Word64} (hreq : (s.taskOf r).accReq = some x)
    (hval : x.value = some v) : ∃ tab, s.loadReply r =
      if ((s.replied r x v tab).stream (s.seqStream r.core)).sent.any (fun y => y.1 == x.seq && y.2.1 == r) then
        ((s.replied r x v tab).numberAnswered r.core x.seq).now (seqAt r) (.requestAcknowledgement (s.seqStream r.core) x.seq)
      else s.replied r x v tab := by
  unfold State.loadReply
  simp only [hreq, hval]
  exact ⟨_, rfl⟩

/-- Settles O10. -/
theorem loadReplyWrites : Obligations.LoadReplyWrites := by
  unfold Obligations.LoadReplyWrites
  intro s r x v hev hreq hval
  have hexec : exec .loadReply s = .next (s.loadReply r) := by
    simp only [exec, execLoadReply, hev]
  obtain ⟨tab, hslot⟩ : ∃ tab, (s.loadReply r).taskOf r = { ((s.taskOf r).setReg x.dst v).advance (s.tickOf r.core) 0 with
      tab := tab, accReq := none, ts := Nat.max (s.taskOf r).ts x.stamp } := by
    obtain ⟨tab, htab⟩ := loadReply_replied hreq hval
    refine ⟨tab, ?_⟩
    rw [htab]
    split
    · exact State.taskOf_setTaskOf ..
    · exact State.taskOf_setTaskOf ..
  have hmem := (State.loadReply_mems s r).1
  refine ⟨_, hexec, fun a => by rw [hmem], ?_, ?_, ?_, fun g => ?_, ?_⟩
  · rw [hslot]
  · rw [hslot]
    simp
  · rw [hslot]
  · rw [hslot, ← Slot.reg_setReg]
    rfl
  · rw [hslot, Slot.setReg_eq]
    rfl

end Sys2Proof.Machine
end

section
/-! Speculative loads (R94 to R97): `ld.s` with passing and with failing checks, and `chk` on each state of its entry. -/

namespace Sys2Proof.Machine

open Sys2Proof

/-! ## Checks and the acting task's slot -/

section
variable (s : State) (u : Slot)

theorem part_setTask (p : Nat) : (s.setTask u).part p = s.part p := rfl

theorem physOk_setTask : (s.setTask u).physOk = s.physOk := rfl

theorem phys64_setTask : (s.setTask u).phys64 = s.phys64 := rfl

theorem runOk_setTask : (s.setTask u).runOk = s.runOk := by
  funext a
  unfold State.runOk
  rw [phys64_setTask]

theorem walk_setTask (p va : Nat) : (s.setTask u).walk p va = s.walk p va := by
  unfold State.walk
  rw [part_setTask, physOk_setTask, phys64_setTask, runOk_setTask]

theorem hit_setTask (e : TlbEntry) (va : Nat) : (s.setTask u).hit e va = s.hit e va := rfl

theorem permit_setTask (p : Nat) (e : TlbEntry) (va : Nat) (k : AccKind) (pub : Bool) :
    (s.setTask u).permit p e va k pub = s.permit p e va k pub := rfl

/-- A translation of the acting core reads no task slot, and so no check of its words does. -/
theorem check_setTask (ea : Word64) (n : Nat) (k : AccKind) : (s.setTask u).check ea n k = s.check ea n k := by
  have hme : (s.setTask u).core s.cur.core = s.me.setTask s.cur.slot u := State.me_setTask s u
  have hdie (d : Nat) : (s.setTask u).die d = s.die d := rfl
  simp only [State.check, State.translate, State.lookup, State.dieLookup, State.setTask_cur, hme, hdie, part_setTask, hit_setTask,
    walk_setTask, permit_setTask]
  rfl

end

/-! ## `ld.s` (R95) -/

/-- The entry of an `ld.s` whose value has not come, or whose checks have failed. -/
def specEntry (d : GReg) (ea : Word64) (failed : Bool) : TabEntry := { v := false, reg := some d, ea := ea, f := failed, pa := 0 }

/-- The slot of a task whose `ld.s` has issued. -/
def Slot.specIssued (t : Slot) (d : GReg) (ea : Word64) : Slot := { t with tab := vset t.tab (tabIndex d) (specEntry d ea false) }

/-- The slot of a task whose `ld.s` has failed: `g[d]` is 0 and the entry says so. -/
def Slot.specFailed (t : Slot) (d : GReg) (ea : Word64) : Slot :=
  { (t.specIssued d ea).setReg d 0 with tab := vset ((t.specIssued d ea).setReg d 0).tab (tabIndex d) (specEntry d ea true) }

theorem Slot.specFailed_pc (t : Slot) (d : GReg) (ea : Word64) : (t.specFailed d ea).pc = t.pc := Slot.setReg_pc ..

theorem Slot.specFailed_accReq (t : Slot) (d : GReg) (ea : Word64) : (t.specFailed d ea).accReq = t.accReq := by
  rw [Slot.specFailed, Slot.setReg_eq]
  rfl

theorem Slot.specFailed_tab (t : Slot) (d : GReg) (ea : Word64) :
    vget (t.specFailed d ea).tab (tabIndex d) = specEntry d ea true := vget_vset ..

theorem Slot.reg_specFailed (t : Slot) (d r : GReg) (ea : Word64) : (t.specFailed d ea).reg r = if r = d then 0 else t.reg r := by
  have hreg : (t.specFailed d ea).reg r = ((t.specIssued d ea).setReg d 0).reg r := rfl
  have hsame : (t.specIssued d ea).reg r = t.reg r := rfl
  rw [hreg, Slot.reg_setReg, hsame]
  by_cases hr : r = d
  · by_cases hd : d = 0
    · simp [hr, hd]
    · simp [hr, hd]
  · simp [hr]

/-- The request that stands for a failed `ld.s` while its task's stores are not yet stamped. -/
def State.failedRequest (s : State) (d : GReg) (ea : Word64) (lvl : Nat) : Access :=
  { op := .loadS, dst := d, va := ea.toNat, pa := 0, scope := none, a := 0, b := 0, lease := 0, slot := s.cur.slot, due := 0,
    pad := s.failPad s.cur.core ea.toNat lvl, phase := .failed, seq := 0, value := none, stamp := 0, old := false }

theorem loadSpec_failed {s : State} {d : GReg} {ea : Word64} {lvl : Nat} {f : Nat × Nat} (h : s.check ea 8 .read = (lvl, .error f)) :
    ∃ u : State, u.cur = s.cur ∧ u.parts = s.parts ∧ u.mem = s.mem ∧ u.me.part = s.me.part ∧ s.loadSpec d ea =
      if s.storesPending then
        (u.setTask { s.task.specFailed d ea with accReq := some (s.failedRequest d ea lvl), hold := .access }).atTick s.cur
          (Nat.max (s.tick + 1) (s.storesBy s.meRef)) (.requestRetry s.meRef)
      else u.setTask ((s.task.specFailed d ea).advance s.tick (s.failPad s.cur.core ea.toNat lvl)) := by
  have htask : ((s.setTask (s.task.specIssued d ea)).noteWalk s.cur.core ea.toNat lvl).task = s.task.specIssued d ea :=
    (noteWalk_task (s.setTask (s.task.specIssued d ea)) ea.toNat lvl).trans (State.task_setTask ..)
  obtain ⟨tlb, hme⟩ := noteWalk_me (s.setTask (s.task.specIssued d ea)) ea.toNat lvl
  refine ⟨(s.setTask (s.task.specIssued d ea)).noteWalk s.cur.core ea.toNat lvl, ?_, ?_, ?_, ?_, ?_⟩
  · rw [noteWalk_cur, State.setTask_cur]
  · rw [noteWalk_parts, State.setTask_parts]
  · rw [(State.noteWalk_mems ..).1, State.setTask_mem]
  · rw [State.setTask_cur] at hme
    rw [hme, State.me_setTask]
    rfl
  · have hfailed (u : State) (hu : u.task = s.task.specIssued d ea) : s.task.specFailed d ea =
        { u.task.setReg d 0 with tab := vset (u.task.setReg d 0).tab (tabIndex d) (specEntry d ea true) } := by
      rw [hu]
      rfl
    simp only [State.loadSpec, h]
    rw [hfailed _ htask]
    rfl

theorem loadSpec_passed {s : State} {d : GReg} {ea : Word64} {lvl : Nat} {tr : Trans} (h : s.check ea 8 .read = (lvl, .ok tr)) :
    s.loadSpec d ea = (s.setTask (s.task.specIssued d ea)).memWord .loadS none d ea 0 0 true := by
  simp only [State.loadSpec, h]
  rfl

/-- The first clause of R95. -/
theorem ldS_passed {s : State} {d a : GReg} {imm : BitVec 16} {lvl : Nat} {tr : Trans}
    (h : s.check (s.ea a imm) 8 .read = (lvl, .ok tr)) :
    ∃ t x, exec (.ldS d a imm) s = .next t ∧ t.task.accReq = some x ∧ x.op = .loadS ∧ x.dst = d ∧ x.pa = tr.pa ∧
      t.task.pc = s.task.pc ∧ t.task.g = s.task.g ∧ SameBytes s t := by
  have hcheck : (s.setTask (s.task.specIssued d (s.ea a imm))).check (s.ea a imm) MemOp.loadS.bytes MemOp.loadS.kind = (lvl, .ok tr) :=
    (check_setTask s _ _ _ _).trans h
  obtain ⟨x, hreq, hop, -, hdst, -, hpa, -, -, -, hpc, hg, -, hmem⟩ := memWord_request hcheck none d 0 0
  rw [State.task_setTask] at hpc hg
  exact ⟨_, x, congrArg Host.Outcome.next (loadSpec_passed h), hreq, hop, hdst, hpa, hpc, hg, hmem⟩

/-- The second clause of R95: with failing checks the word reads nothing and writes 0, and goes on or waits as a load does. -/
theorem ldS_failed {s : State} {d a : GReg} {imm : BitVec 16} {lvl : Nat} {f : Nat × Nat}
    (h : s.check (s.ea a imm) 8 .read = (lvl, .error f)) :
    ∃ t, exec (.ldS d a imm) s = .next t ∧ t.parts = s.parts ∧
      (s.storesPending = false → t.task.pc = s.task.pc + 4 ∧ t.task.accReq = s.task.accReq) ∧
      (s.storesPending = true → t.task.pc = s.task.pc ∧ t.task.hold = .access ∧
        ∃ x, t.task.accReq = some x ∧ x.phase = .failed ∧
          { clock := some s.partNo, due := Nat.max (s.tick + 1) (s.storesBy s.meRef), who := s.cur,
            ev := .requestRetry s.meRef } ∈ t.timers) ∧ (∀ r, t.g r = if r = d then 0 else s.g r) ∧
      vget t.task.tab (tabIndex d) = { v := false, reg := some d, ea := s.ea a imm, f := true, pa := 0 } ∧ SameBytes s t := by
  obtain ⟨u, hcur, hparts, hmem, hpart, heq⟩ := loadSpec_failed (d := d) h
  have hexec : exec (.ldS d a imm) s = .next (s.loadSpec d (s.ea a imm)) := rfl
  cases hpend : s.storesPending with
  | false =>
    rw [hpend, if_neg Bool.false_ne_true] at heq
    have htask : (s.loadSpec d (s.ea a imm)).task = _ := (congrArg State.task heq).trans (State.task_setTask u _)
    refine ⟨_, hexec, ?_, fun _ => ⟨?_, ?_⟩, nofun, fun r => ?_, ?_, fun k => ?_⟩
    · rw [heq]
      exact hparts
    · rw [htask, Slot.advance_pc, Slot.specFailed_pc]
    · rw [htask]
      exact Slot.specFailed_accReq ..
    · rw [State.g, htask]
      exact Slot.reg_specFailed ..
    · rw [htask]
      exact Slot.specFailed_tab ..
    · rw [heq, State.setTask_mem, hmem]
  | true =>
    rw [hpend, if_pos rfl] at heq
    have htask : (s.loadSpec d (s.ea a imm)).task = _ := (congrArg State.task heq).trans (State.task_setTask u _)
    refine ⟨_, hexec, ?_, nofun, fun _ => ⟨?_, ?_, s.failedRequest d (s.ea a imm) lvl, ?_, rfl, ?_⟩, fun r => ?_, ?_,
      fun k => ?_⟩
    · rw [heq]
      exact hparts
    · rw [htask]
      exact Slot.specFailed_pc ..
    · rw [htask]
    · rw [htask]
    · have hclock : ((u.setTask { s.task.specFailed d (s.ea a imm) with
          accReq := some (s.failedRequest d (s.ea a imm) lvl), hold := .access }).core s.cur.core).part = s.partNo := by
        rw [← hcur]
        change (State.setTask u _).me.part = s.me.part
        rw [State.me_setTask, ← hpart]
        rfl
      rw [heq, State.atTick, hclock]
      exact List.mem_append_right _ (List.mem_singleton_self _)
    · rw [State.g, htask]
      exact Slot.reg_specFailed ..
    · rw [htask]
      exact Slot.specFailed_tab ..
    · rw [heq, State.atTick_mem, State.setTask_mem, hmem]

/-! ## The read that confirms a speculative load (R97, R272) -/

theorem line_out (s : State) (l : Nat) : (s.line l).out = false := by
  unfold State.line
  split
  · rfl
  · split
    · rfl
    next h => exact eq_false_of_ne_true h

theorem evict_lines (s : State) (k v l : Nat) (h : l ≠ v) : Tbl.get? (s.evict k v).lines l = Tbl.get? s.lines l := by
  unfold State.evict
  dsimp only
  split
  · exact Tbl.get?_set_ne _ _ _ _ h
  · split
    · rfl
    · rfl

/-- A line that takes a way of a slice drives out another one, and not itself (R269). -/
theorem takeWay_lines (s : State) (k l : Nat) : Tbl.get? (s.takeWay k l).lines l = Tbl.get? s.lines l := by
  unfold State.takeWay
  dsimp only
  split
  · rfl
  · split
    · rfl
    next v hv =>
      have hne : l ≠ v := by
        have := List.find?_some hv
        simp only [Bool.and_eq_true, bne_iff_ne] at this
        exact this.2.symm
      exact evict_lines _ k v l hne

theorem touchSlice_lines (s : State) (pa : Nat) : Tbl.get? (s.touchSlice pa).lines (lineOf pa) = Tbl.get? s.lines (lineOf pa) := by
  rw [State.touchSlice]
  split
  · rfl
  · exact takeWay_lines ..

theorem line_of_get? {s : State} {l : Nat} {x : Line} (h : Tbl.get? s.lines l = some x) (hx : x.out = false) : s.line l = x := by
  simp [State.line, h, hx]

/-- A read at a line's home leaves the line with its lease (R272). -/
theorem homeRead_line (s : State) (pa n ts lease : Nat) :
    (s.homeRead pa n ts lease).1.line (lineOf pa) = ((s.line (lineOf pa)).read ts lease).1 := by
  refine line_of_get? ?_ (line_out s (lineOf pa))
  rw [State.homeRead, touchSlice_lines]
  exact Tbl.get?_set_self ..

theorem evict_outside (s : State) (k v : Nat) : ∃ ls sl, s.evict k v = { s with lines := ls, slices := sl } := by
  unfold State.evict
  dsimp only
  split
  · exact ⟨_, _, rfl⟩
  · split
    · exact ⟨_, _, rfl⟩
    · exact ⟨_, _, rfl⟩

theorem takeWay_outside (s : State) (k l : Nat) : ∃ ls sl, s.takeWay k l = { s with lines := ls, slices := sl } := by
  unfold State.takeWay
  dsimp only
  split
  · exact ⟨_, _, rfl⟩
  · split
    · exact ⟨_, _, rfl⟩
    next v _ =>
      obtain ⟨ls, sl, h⟩ := evict_outside (s.setSlice k { s.slice k with
        sets := Tbl.set (s.slice k).sets (setOf l) ((l :: (Tbl.getD (s.slice k).sets (setOf l) []).erase l).erase v) }) k v
      exact ⟨ls, sl, h⟩

/-- A read at a line's home changes lines and slices alone. -/
theorem homeRead_outside (s : State) (pa n ts lease : Nat) :
    ∃ ls sl, (s.homeRead pa n ts lease).1 = { s with lines := ls, slices := sl } := by
  rw [State.homeRead]
  dsimp only [State.touchSlice]
  split
  · exact ⟨_, _, rfl⟩
  · obtain ⟨ls, sl, h⟩ := takeWay_outside (s.setLine (lineOf pa) ((s.line (lineOf pa)).read ts lease).1) (homeSlice pa) (lineOf pa)
    exact ⟨ls, sl, h⟩

/-- The state after a `chk` that confirms entry `x`: the read of the entry's place has been made and the task has its stamp. -/
theorem confirm_finish (s : State) (x : TabEntry) :
    ∃ u : State, (∃ ls sl, u = { s with lines := ls, slices := sl }) ∧
      u.line (lineOf x.pa) = ((s.line (lineOf x.pa)).read s.task.ts s.task.leaselen.toNat).1 ∧
      (s.confirm x).finish 1 = u.setTask (({ s.task with
        ts := ((s.line (lineOf x.pa)).read s.task.ts s.task.leaselen.toNat).2 } : Slot).advance s.tick 1) := by
  obtain ⟨ls, sl, hout⟩ := homeRead_outside s x.pa 8 s.task.ts s.task.leaselen.toNat
  refine ⟨_, ⟨ls, sl, hout⟩, homeRead_line .., ?_⟩
  have htask : (s.homeRead x.pa 8 s.task.ts s.task.leaselen.toNat).1.task = s.task :=
    (congrArg State.task hout).trans rfl
  have htick : (s.homeRead x.pa 8 s.task.ts s.task.leaselen.toNat).1.tick = s.tick :=
    (congrArg State.tick hout).trans rfl
  have hconfirm : s.confirm x = (s.homeRead x.pa 8 s.task.ts s.task.leaselen.toNat).1.setTask
      { s.task with ts := ((s.line (lineOf x.pa)).read s.task.ts s.task.leaselen.toNat).2 } := by
    change State.setTask _ { (s.homeRead x.pa 8 s.task.ts s.task.leaselen.toNat).1.task with ts := _ } = _
    rw [htask]
    rfl
  rw [hconfirm, State.finish, State.task_setTask, State.setTask_setTask, State.tick_setTask, htick]

/-! ## `chk` (R97) -/

/-- R97: a `chk` without a matching `ld.s`. -/
theorem chk_unmatched {s : State} {d : GReg} (h : (vget s.task.tab (tabIndex d)).reg ≠ some d) :
    exec (.chk d) s = .next (s.takeFault s.meRef (FaultInfo.plain 0x01 0 s.task.pc.toNat) false) := by
  have hword : s.checkWord d = s.seqFault 0x01 0 0 0 0 := if_pos h
  exact congrArg Host.Outcome.next hword

/-- R97: a matching `chk` tests its entry once every earlier store of the task is stamped. -/
theorem chk_matched {s : State} {d : GReg} (h : (vget s.task.tab (tabIndex d)).reg = some d) :
    exec (.chk d) s = .next (if s.storesPending then s
      else if (vget s.task.tab (tabIndex d)).v then (s.confirm (vget s.task.tab (tabIndex d))).finish 1
      else s.memWord (.reload (tabIndex d)) none d (vget s.task.tab (tabIndex d)).ea 0 0 true) :=
  congrArg Host.Outcome.next (if_neg (not_not_intro h))

/-- A confirming `chk` completes in one tick, with the stamp of its read and no register written. -/
theorem confirm_done (s : State) (x : TabEntry) :
    let t := (s.confirm x).finish 1
    let y := (s.line (lineOf x.pa)).read s.task.ts s.task.leaselen.toNat
    SameBytes s t ∧ SameUnits s.cur.core s t ∧ TaskDone s t 0 0 1 ∧ t.task.tab = s.task.tab ∧ t.task.pins = s.task.pins ∧
      t.task.latch = s.task.latch ∧ t.task.ts = y.2 ∧ (t.line (lineOf x.pa)).rts = y.1.rts := by
  obtain ⟨u, ⟨ls, sl, hu⟩, hline, heq⟩ := confirm_finish s x
  have hmem : u.mem = s.mem := hu ▸ rfl
  have hcore (v : Slot) : (u.setTask v).core s.cur.core = s.me.setTask s.cur.slot v := by
    rw [hu]
    exact State.me_setTask ..
  dsimp only
  rw [heq]
  refine ⟨fun k => by rw [State.setTask_mem, hmem], ?_, ⟨?_, fun r => ?_⟩, ?_, ?_, ?_, ?_, ?_⟩
  · rw [SameUnits, hcore]
    rfl
  · rw [State.task_setTask]
    rfl
  · rw [State.g, State.task_setTask, if_neg (fun h => h.2 rfl)]
    rfl
  · rw [State.task_setTask]
    rfl
  · rw [State.task_setTask]
    rfl
  · rw [State.task_setTask]
    rfl
  · rw [State.task_setTask]
    rfl
  · exact congrArg Line.rts hline

/-- Settles O12: `ld.s` by its checks, `chk` by the state of its entry. -/
theorem speculativeLoads : Obligations.SpeculativeLoads := by
  unfold Obligations.SpeculativeLoads
  refine ⟨fun s d a imm => ⟨fun _ _ h => ldS_passed h, fun _ _ h => ldS_failed h⟩, fun s d => ⟨chk_unmatched, ?_, ?_, ?_⟩⟩
  · intro hreg hpend
    rw [chk_matched hreg, if_pos hpend]
  · intro hreg hpend hv
    have hword : exec (.chk d) s = .next ((s.confirm (vget s.task.tab (tabIndex d))).finish 1) := by
      rw [chk_matched hreg, hpend, if_neg Bool.false_ne_true]
      exact congrArg Host.Outcome.next (if_pos hv)
    exact ⟨_, hword, confirm_done s _⟩
  · intro hreg hpend hv lvl tr hcheck
    have hword : exec (.chk d) s =
        .next (s.memWord (.reload (tabIndex d)) none d (vget s.task.tab (tabIndex d)).ea 0 0 true) := by
      rw [chk_matched hreg, hpend, if_neg Bool.false_ne_true]
      exact congrArg Host.Outcome.next (if_neg (ne_true_of_eq_false hv))
    obtain ⟨y, hreq, hop, -, hdst, -, hpa, -, -, -, hpc, -, -, hmem⟩ :=
      memWord_request (op := .reload (tabIndex d)) hcheck none d 0 0
    exact ⟨_, y, hword, hreq, hdst, hpa, congrArg MemOp.bytes hop, hpc, hmem⟩

end Sys2Proof.Machine
end

section
/-! The issue of a vector word (R62, R65, R75 to R77, R140, R152): what moving past a word changes, the three ways an issue ends, and
the entry that stands in the pipeline. -/

namespace Sys2Proof.Machine

/-! ## Moving past a word (R62, R152) -/

/-- Moving past a word changes the vector engine's run, its rotation base, its stage predicates and its loop alone. -/
theorem Core.vecGo_outside (c : Core) (upc at_ : Nat) :
    c.vecGo upc at_ = { c with
      runs := (c.vecGo upc at_).runs
      vec := { c.vec with
        rb := (c.vecGo upc at_).vec.rb, sg := (c.vecGo upc at_).vec.sg, loop := (c.vecGo upc at_).vec.loop } } := by
  simp only [Core.vecGo]
  repeat' split
  all_goals rfl

/-- Moving past a word keeps the parameter registers of the run. -/
theorem Core.vecGo_vp (c : Core) (upc at_ : Nat) :
    ((c.vecGo upc at_).runOf .vector).vp = (c.runOf .vector).vp := by
  simp only [Core.vecGo]
  repeat' split
  all_goals rw [Core.runOf_setRun]

@[simp] theorem Core.vecGo_scratch (c : Core) (upc at_ : Nat) : (c.vecGo upc at_).scratch = c.scratch := by
  rw [Core.vecGo_outside]

@[simp] theorem Core.vecGo_acc (c : Core) (upc at_ : Nat) : (c.vecGo upc at_).acc = c.acc := by
  rw [Core.vecGo_outside]

@[simp] theorem Core.vecGo_spBuf (c : Core) (upc at_ : Nat) : (c.vecGo upc at_).spBuf = c.spBuf := by
  rw [Core.vecGo_outside]

@[simp] theorem Core.vecGo_accBuf (c : Core) (upc at_ : Nat) : (c.vecGo upc at_).accBuf = c.accBuf := by
  rw [Core.vecGo_outside]

@[simp] theorem Core.vecGo_pending (c : Core) (upc at_ : Nat) : (c.vecGo upc at_).vec.pending = c.vec.pending := by
  rw [Core.vecGo_outside]

@[simp] theorem Core.vecGo_v (c : Core) (upc at_ : Nat) : (c.vecGo upc at_).vec.v = c.vec.v := by
  rw [Core.vecGo_outside]

/-- Without a loop the run alone moves. -/
theorem Core.vecGo_of_no_loop {c : Core} (h : c.vec.loop = none) (upc at_ : Nat) :
    c.vecGo upc at_ = c.setRun .vector { c.runOf .vector with upc := BitVec.ofNat 24 upc, nextAt := at_ } := by
  simp only [Core.vecGo, h]

/-! ## The acting core replaced -/

@[simp] theorem State.run_setMe (s : State) (c : Core) (e : Engine) : (s.setMe c).run e = c.runOf e := by
  rw [State.run, State.me_setMe]

theorem State.tick_setMe {s : State} {c : Core} (h : c.part = s.me.part) : (s.setMe c).tick = s.tick := by
  simp only [State.tick, State.partNo, State.me_setMe, h]
  rfl

/-- A change of the acting core after a change of it alone. -/
theorem OnlyCore.setMe {s t : State} (h : OnlyCore s.cur.core s t) (c : Core) : OnlyCore s.cur.core s (t.setMe c) := by
  obtain ⟨outside, bytes, others⟩ := h
  have hcur : t.cur = s.cur := by rw [outside]
  refine ⟨?_, bytes, fun j hj => ?_⟩
  · rw [outside]
    rfl
  · rw [State.setMe, State.core_setCore_ne _ _ _ _ (hcur ▸ hj)]
    exact others j hj

/-! ## How an issue ends -/

/-- The entry of a word in the pipeline, between its issue and its retirement. -/
def vecEntry (s : State) (wt : Nat) (d : Option VReg) (o : VOut) : VWrite :=
  { at_ := wt, dst := d.map s.me.vec.phys, val := o.val, mask := o.mask, flags := o.flags, slot := some (s.run .vector).owner }

/-- `u` is `s` with another acting core, of the same partition and with its vector run at the same place and of the same owner: what a
word may do at its issue beside its entry. -/
structure MeChanged (s u : State) : Prop where
  rest  : ∀ c, u.setMe c = s.setMe c
  part  : u.me.part = s.me.part
  upc   : (u.run .vector).upc = (s.run .vector).upc
  owner : (u.run .vector).owner = (s.run .vector).owner

theorem MeChanged.refl (s : State) : MeChanged s s := ⟨fun _ => rfl, rfl, rfl, rfl⟩

/-- A further change of the acting core. -/
theorem MeChanged.setMe {s u : State} (h : MeChanged s u) {c : Core} (part : c.part = u.me.part)
    (upc : (c.runOf .vector).upc = (u.run .vector).upc) (owner : (c.runOf .vector).owner = (u.run .vector).owner) :
    MeChanged s (u.setMe c) where
  rest := fun d => by rw [State.setMe_setMe, h.rest]
  part := by rw [State.me_setMe, part, h.part]
  upc := by rw [State.run_setMe, upc, h.upc]
  owner := by rw [State.run_setMe, owner, h.owner]

/-- A change outside the partition and the runs. -/
theorem MeChanged.setMe_of_runs {s u : State} (h : MeChanged s u) {c : Core} (part : c.part = u.me.part) (runs : c.runs = u.me.runs) :
    MeChanged s (u.setMe c) :=
  have run : c.runOf .vector = u.run .vector := congrArg (fun rs : Vector Run 4 => vget rs Engine.vector.idx) runs
  h.setMe part (congrArg Run.upc run) (congrArg Run.owner run)

theorem Run.traps_iff (r : Run) (fl : Flags) : r.traps fl = true ↔ fl &&& r.cfg.trapen ≠ 0 := by
  simp [Run.traps]

/-- R76: a checked hold that is undersized. -/
theorem vecIssue_undersized {s : State} {wt : Nat} {srcs : List VReg} {d : Option VReg}
    (hc : (s.run .vector).cfg.holdchk = true)
    (hu : s.me.vec.undersized s.tick wt (srcs.map s.me.vec.phys) (d.map s.me.vec.phys) = true)
    (h : Hold) (len n : Nat) (o : VOut) (effect : State → State) :
    s.vecIssue h len n wt srcs d o effect = s.engFault .vector 0x06 0 0 0 :=
  if_pos (by rw [hc, hu]; rfl)

/-- R140: an enabled exception, with nothing in the way of the issue. -/
theorem vecIssue_trap {s : State} {o : VOut} (hc : (s.run .vector).cfg.holdchk = false)
    (ht : o.flags &&& (s.run .vector).cfg.trapen ≠ 0)
    (h : Hold) (len n wt : Nat) (srcs : List VReg) (d : Option VReg) (effect : State → State) :
    s.vecIssue h len n wt srcs d o effect =
      (s.setMe (s.me.vecPend wt none (VOut.nothing o.flags))).engFault .vector 0x0E 0 0 0 := by
  simp only [State.vecIssue]
  rw [if_neg (by rw [hc, Bool.false_and]; exact Bool.false_ne_true), if_pos ((Run.traps_iff ..).mpr ht)]

/-- A word that is past the hold check and the traps. -/
theorem vecIssue_clear {s : State} {wt : Nat} {srcs : List VReg} {d : Option VReg} {o : VOut}
    (hc : vecClear s wt srcs d o.flags) (h : Hold) (len n : Nat) (effect : State → State) :
    s.vecIssue h len n wt srcs d o effect =
      ((effect s).setMe ((effect s).me.vecPend wt (d.map s.me.vec.phys) o)).vecNext len n h := by
  obtain ⟨hold, trap⟩ := hc
  simp only [State.vecIssue]
  rw [if_neg, if_neg]
  · exact fun ht => (Run.traps_iff ..).mp ht trap
  · intro hb
    obtain ⟨h1, h2⟩ := (Bool.and_eq_true ..).mp hb
    rw [hold h1] at h2
    exact Bool.false_ne_true h2

/-- A word past the hold check and the traps issues, with its effect. -/
theorem vecIssued_of_clear {s : State} {wt : Nat} {srcs : List VReg} {d : Option VReg} {o : VOut} {effect : State → State}
    {f : Core → Core} (hc : vecClear s wt srcs d o.flags) (he : MeChanged s (effect s)) (hf : (effect s).me = f s.me)
    (h : Hold) (len n : Nat) :
    VecIssued s (s.vecIssue h len n wt srcs d o effect) len n wt h (vecEntry s wt d o) f := by
  obtain ⟨rest, part, upc, owner⟩ := he
  rw [State.run, hf] at upc owner
  rw [hf] at part
  let c : Core := (f s.me).vecPend wt (d.map s.me.vec.phys) o
  have hx : s.vecIssue h len n wt srcs d o effect =
      s.setMe (c.vecGo ((s.run .vector).upc.toNat + len) (s.tick + n + h.toNat)) := by
    rw [vecIssue_clear hc, hf, rest, State.vecNext, State.me_setMe, State.setMe_setMe,
      State.run_setMe, State.tick_setMe (c := c) part]
    exact congrArg (fun u : BitVec 24 => s.setMe (c.vecGo (u.toNat + len) (s.tick + n + h.toNat))) upc
  rw [hx]
  refine ⟨onlyCore_setMe s _, rfl, rfl, ?_⟩
  rw [State.me_setMe]
  simp only [c, Core.vecPend, owner, vecEntry]

/-- The core with an entry in its vector pipeline. -/
def Core.withEntry (c : Core) (w : VWrite) : Core := { c with vec := { c.vec with pending := c.vec.pending ++ [w] } }

/-- The acting core after a word that has issued: only what its effect, its entry and its place change. -/
theorem VecIssued.me_eq {s t : State} {len n wt : Nat} {h : Hold} {w : VWrite} {f : Core → Core}
    (hi : VecIssued s t len n wt h w f) :
    t.me = ((f s.me).withEntry w).vecGo ((s.run .vector).upc.toNat + len) (s.tick + n + h.toNat) := hi.core

/-! ## Words past the hold check and the traps -/

/-- Neither the hold check nor a trap is enabled in the vector engine's run. -/
def Unchecked (s : State) : Prop := (s.run .vector).cfg.holdchk = false ∧ (s.run .vector).cfg.trapen = 0

theorem vecClear_of_unchecked {s : State} (h : Unchecked s) (wt : Nat) (srcs : List VReg) (d : Option VReg) (fl : Flags) :
    vecClear s wt srcs d fl := by
  obtain ⟨hc, ht⟩ := h
  refine ⟨fun hb => absurd (hc.symm.trans hb) Bool.false_ne_true, ?_⟩
  rw [ht]
  exact BitVec.and_zero

/-- No entry is in the way of a word that reads and writes no register. -/
theorem VecUnit.undersized_nil (u : VecUnit) (tick wt : Nat) : u.undersized tick wt [] none = false := by
  rw [VecUnit.undersized, List.any_eq_false]
  intro p _
  cases p.dst <;> simp

/-- A word that reads and writes no register and raises no flag is past the hold check and the traps. -/
theorem vecClear_ctl (s : State) (wt : Nat) : vecClear s wt [] none 0 :=
  ⟨fun _ => VecUnit.undersized_nil .., BitVec.zero_and⟩

end Sys2Proof.Machine
end

section
/-! Shapes, masks, skips, loops and the end of a vector run (R133, R149 to R154). -/

namespace Sys2Proof.Machine

/-! ## Fields of a value and bits of a mask -/

/-- The lowest field of a value. -/
theorem bitsOf_low (w : Word64) (n : Nat) : bitsOf w 0 n = w.toNat % 2 ^ n := by
  simp [bitsOf, fld]

/-- The highest field of a value. -/
theorem bitsOf_high (w : Word64) {lo len : Nat} (h : lo + len = 64) : bitsOf w lo len = w.toNat / 2 ^ lo := by
  have hw : w.toNat < 2 ^ lo * 2 ^ len := by
    rw [← Nat.pow_add, h]
    exact w.isLt
  exact Nat.mod_eq_of_lt (Nat.div_lt_of_lt_mul hw)

/-- A field that must be 0 is not, exactly where the value reaches it. -/
theorem bitsOf_high_ne_zero (w : Word64) {lo len : Nat} (h : lo + len = 64) : bitsOf w lo len ≠ 0 ↔ 2 ^ lo ≤ w.toNat := by
  rw [bitsOf_high w h, ne_eq, Nat.div_eq_zero_iff]
  have : 2 ^ lo ≠ 0 := by positivity
  omega

/-- The bits of a sum of different powers of 2. -/
theorem testBit_foldl_two_pow (f : Nat → Prop) [DecidablePred f] (n q : Nat) :
    ((List.range n).foldl (fun acc j => if f j then acc + 2 ^ j else acc) 0).testBit q = decide (q < n ∧ f q) := by
  induction n generalizing q with
  | zero => simp
  | succ n ih =>
    rw [List.range_succ, List.foldl_append]
    generalize (List.range n).foldl (fun acc j => if f j then acc + 2 ^ j else acc) 0 = a at ih
    have ha : a < 2 ^ n := Nat.lt_pow_two_of_testBit a fun i hi => by
      rw [ih]
      simp [Nat.not_lt.mpr hi]
    have hor : a + 2 ^ n = 2 ^ n ||| a := by
      have h := Nat.two_pow_add_eq_or_of_lt ha 1
      rwa [Nat.mul_one, Nat.add_comm] at h
    simp only [List.foldl_cons, List.foldl_nil, Nat.lt_succ_iff_lt_or_eq]
    by_cases hf : f n <;> rcases eq_or_ne q n with rfl | hqn
    · simp [hf, hor, ih]
    · simp [hf, hor, ih, hqn, Ne.symm hqn]
    · simp [hf, ih]
    · simp [hf, ih, hqn]

/-- The bits of a mask (R15). -/
theorem getLsbD_maskOf (n : Nat) (f : Nat → Bool) {q : Nat} (hq : q < 4096) :
    (maskOf n f).getLsbD q = (decide (q < n) && f q) := by
  have hcomm : RightCommutative (fun (acc j : Nat) => if f j = true then acc + 2 ^ j else acc) :=
    ⟨fun a b c => by split <;> split <;> omega⟩
  have hfold := (List.reverse_perm (List.range n)).foldl_eq (f := fun (acc j : Nat) => if f j = true then acc + 2 ^ j else acc) 0
  rw [List.foldl_reverse] at hfold
  rw [maskOf, BitVec.getLsbD_ofNat, hfold, testBit_foldl_two_pow]
  simp [hq]

/-- The stage predicates of a pass (R152). -/
theorem getLsbD_stagePreds (p n st : Nat) (j : Fin 8) :
    (stagePreds p n st).getLsbD j.val = decide (j.val < st ∧ j.val ≤ p ∧ p - j.val < n) := by
  rw [stagePreds, BitVec.getLsbD_ofNat, testBit_foldl_two_pow (fun j => j < st ∧ j ≤ p ∧ p - j < n)]
  simp [j.isLt]

/-! ## Ctl words (R75) -/

/-- The entry of a ctl word: it writes nothing and retires in the next tick. -/
def ctlEntry (s : State) (fl : Flags) : VWrite := vecEntry s (s.tick + 1) none (VOut.nothing fl)

/-- A ctl word past the hold check and the traps issues with its effect on the vector unit. -/
theorem vecCtl_issued {s : State} {srcs : List VReg} {fl : Flags} (hc : vecClear s (s.tick + 1) srcs none fl) (h : Hold)
    (f : VecUnit → VecUnit) :
    VecIssued s (s.vecCtl h srcs fl (fun s => s.setVec (f s.me.vec))) 1 1 (s.tick + 1) h (ctlEntry s fl)
      (fun c => { c with vec := f c.vec }) :=
  vecIssued_of_clear (f := fun c => { c with vec := f c.vec }) hc
    ((MeChanged.refl s).setMe_of_runs (c := { s.me with vec := f s.me.vec }) rfl rfl) (State.me_setMe ..) h 1 1

/-- A word that only moves on, by `len` words. -/
theorem vecSkip_issued (s : State) (h : Hold) (len : Nat) :
    VecIssued s ((s.setMe (s.me.vecPend (s.tick + 1) none (VOut.nothing 0))).vecNext len 1 h) len 1 (s.tick + 1) h
      (ctlEntry s 0) id := by
  have hclear : vecClear s (s.tick + 1) [] none (VOut.nothing 0).flags := vecClear_ctl s _
  have hissue := vecIssued_of_clear (effect := id) (f := id) hclear (.refl s) rfl h len 1
  rwa [vecIssue_clear hclear] at hissue

/-! ## Shapes (R133) -/

theorem exec_vshape (s : State) (h : Hold) (vp : VpReg) :
    let w := s.vp .vector vp
    exec (.vshape h vp) s =
      if bitsOf w 22 42 ≠ 0 ∨ 4096 < (bitsOf w 0 10 + 1) * (bitsOf w 10 12 + 1) then .next (s.engFault .vector 0x0A 0 0 0)
      else .next (s.vecCtl h [] 0 (fun s => s.setVec { s.me.vec with rows := bitsOf w 0 10 + 1, cols := bitsOf w 10 12 + 1 })) :=
  rfl

theorem vshape_fault {s : State} {vp : VpReg} (hb : 2 ^ 22 ≤ (s.vp .vector vp).toNat ∨
      4096 < ((s.vp .vector vp).toNat % 2 ^ 10 + 1) * ((s.vp .vector vp).toNat / 2 ^ 10 % 2 ^ 12 + 1)) (h : Hold) :
    exec (.vshape h vp) s = .next (s.engFault .vector 0x0A 0 0 0) := by
  rw [← bitsOf_high_ne_zero (len := 42) _ rfl, ← bitsOf_low] at hb
  exact (exec_vshape s h vp).trans (if_pos hb)

theorem vshape_issued {s : State} {vp : VpReg} (hw : (s.vp .vector vp).toNat < 2 ^ 22)
    (hs : ((s.vp .vector vp).toNat % 2 ^ 10 + 1) * ((s.vp .vector vp).toNat / 2 ^ 10 % 2 ^ 12 + 1) ≤ 4096) (h : Hold) :
    ∃ t, exec (.vshape h vp) s = .next t ∧ VecIssued s t 1 1 (s.tick + 1) h (ctlEntry s 0) (fun c => { c with
      vec := { c.vec with
        rows := (s.vp .vector vp).toNat % 2 ^ 10 + 1, cols := (s.vp .vector vp).toNat / 2 ^ 10 % 2 ^ 12 + 1 } }) := by
  have hok : ¬ (bitsOf (s.vp .vector vp) 22 42 ≠ 0 ∨
      4096 < (bitsOf (s.vp .vector vp) 0 10 + 1) * (bitsOf (s.vp .vector vp) 10 12 + 1)) := by
    rw [bitsOf_high_ne_zero _ rfl, bitsOf_low]
    exact not_or.mpr ⟨not_le.mpr hw, not_lt.mpr hs⟩
  rw [← bitsOf_low]
  exact ⟨_, (exec_vshape s h vp).trans (if_neg hok), vecCtl_issued (vecClear_ctl s _) h
    (fun u => { u with rows := bitsOf (s.vp .vector vp) 0 10 + 1, cols := bitsOf (s.vp .vector vp) 10 12 + 1 })⟩

/-! ## Masks (R149, R150) -/

/-- What a compared position gives: nothing where it is not enabled. -/
def maskedCmp (s : State) (t : ElemType) (c : Cond) (a b : VReg) (q : Nat) : Bool × Flags :=
  if maskBit s.me.vec.top q then elemCmp t c (vElemOf s t a q) (vElemOf s t b q) else (false, 0)

theorem maskedCmp_fst (s : State) (t : ElemType) (c : Cond) (a b : VReg) (q : Nat) :
    (maskedCmp s t c a b q).1 = (vOn s q && (elemCmp t c (vElemOf s t a q) (vElemOf s t b q)).1) := by
  rw [maskedCmp, vOn, maskBit]
  cases s.me.vec.top.getLsbD q <;> rfl

/-- The flags that the comparisons of a word raise. -/
def maskedCmpFlags (s : State) (t : ElemType) (c : Cond) (a b : VReg) : Flags :=
  (List.range s.me.vec.count).foldl (fun acc q => acc ||| (maskedCmp s t c a b q).2) 0

/-- `vmpush`, with its checks in order (R65, R149). -/
theorem exec_vmpush (s : State) (h : Hold) (t : ElemType) (c : Cond) (a b : VReg) :
    exec (.vmpush h t c a b) s =
      if !s.me.vec.fits t.width then .next (s.engFault .vector 0x0A 0 0 0)
      else if 8 ≤ s.me.vec.masks.length then .next (s.engFault .vector 0x02 0 0 0)
      else .next (s.vecCtl h [a, b] (maskedCmpFlags s t c a b) (fun x => x.setVec
        { x.me.vec with masks := maskOf s.me.vec.count (fun q => (maskedCmp s t c a b q).1) :: s.me.vec.masks })) := rfl

theorem fits_of_shapeFits {s : State} {t : ElemType} {b : Bool} (h : shapeFits s t = b) : s.me.vec.fits t.width = b := h

theorem vmpush_small {s : State} {t : ElemType} (hf : shapeFits s t = false) (h : Hold) (c : Cond) (a b : VReg) :
    exec (.vmpush h t c a b) s = .next (s.engFault .vector 0x0A 0 0 0) := by
  rw [exec_vmpush, fits_of_shapeFits hf]
  rfl

theorem vmpush_full {s : State} {t : ElemType} (hf : shapeFits s t = true) (hm : 8 ≤ s.me.vec.masks.length)
    (h : Hold) (c : Cond) (a b : VReg) :
    exec (.vmpush h t c a b) s = .next (s.engFault .vector 0x02 0 0 0) := by
  rw [exec_vmpush, fits_of_shapeFits hf]
  exact if_pos hm

theorem vmpush_issued {s : State} {t : ElemType} (hf : shapeFits s t = true) (hm : s.me.vec.masks.length < 8)
    (hfree : Unchecked s) (h : Hold) (c : Cond) (a b : VReg) :
    ∃ x e top, exec (.vmpush h t c a b) s = .next x ∧
      VecIssued s x 1 1 (s.tick + 1) h e (fun k => { k with vec := { k.vec with masks := top :: s.me.vec.masks } }) ∧
      e.dst = none ∧ ∀ q, q < 4096 → top.getLsbD q = (decide (q < s.me.vec.count) && vOn s q &&
        (elemCmp t c (vElemOf s t a q) (vElemOf s t b q)).1) := by
  refine ⟨_, _, maskOf s.me.vec.count (fun q => (maskedCmp s t c a b q).1), ?_,
    vecCtl_issued (vecClear_of_unchecked hfree _ [a, b] none (maskedCmpFlags s t c a b)) h
      (fun u => { u with masks := maskOf s.me.vec.count (fun q => (maskedCmp s t c a b q).1) :: s.me.vec.masks }),
    rfl, fun q hq => ?_⟩
  · rw [exec_vmpush, fits_of_shapeFits hf]
    exact if_neg (not_le.mpr hm)
  · rw [getLsbD_maskOf _ _ hq, maskedCmp_fst, Bool.and_assoc]

theorem vminv_empty {s : State} (hm : s.me.vec.masks = []) (h : Hold) :
    exec (.vminv h) s = .next (s.engFault .vector 0x02 0 0 0) := by
  change execVminv h s = _
  rw [execVminv]
  split
  · rfl
  next top rest hcons => exact absurd (hm.symm.trans hcons) (List.cons_ne_nil _ _).symm

theorem vmpop_empty {s : State} (hm : s.me.vec.masks = []) (h : Hold) :
    exec (.vmpop h) s = .next (s.engFault .vector 0x02 0 0 0) := by
  change execVmpop h s = _
  rw [execVmpop, hm]
  rfl

theorem vminv_issued {s : State} {m : BitVec 4096} {rest : List (BitVec 4096)} (hm : s.me.vec.masks = m :: rest) (h : Hold) :
    ∃ x e top, exec (.vminv h) s = .next x ∧
      VecIssued s x 1 1 (s.tick + 1) h e (fun k => { k with vec := { k.vec with masks := top :: rest } }) ∧
      ∀ q, q < 4096 → top.getLsbD q =
        (decide (q < s.me.vec.count) && !m.getLsbD q && (rest.headD (BitVec.allOnes 4096)).getLsbD q) := by
  let top := maskOf s.me.vec.count (fun q => !maskBit m q && maskBit (rest.headD (BitVec.allOnes 4096)) q)
  refine ⟨_, _, top, ?_, vecCtl_issued (vecClear_ctl s _) h (fun u => { u with masks := top :: rest }), fun q hq => ?_⟩
  · change execVminv h s = _
    rw [execVminv]
    split
    next hnil => exact absurd (hnil.symm.trans hm) (List.cons_ne_nil _ _).symm
    next top' rest' hcons =>
      cases hm.symm.trans hcons
      rfl
  · rw [getLsbD_maskOf _ _ hq, Bool.and_assoc]
    rfl

theorem vmpop_issued {s : State} {m : BitVec 4096} {rest : List (BitVec 4096)} (hm : s.me.vec.masks = m :: rest) (h : Hold) :
    ∃ x e, exec (.vmpop h) s = .next x ∧
      VecIssued s x 1 1 (s.tick + 1) h e (fun k => { k with vec := { k.vec with masks := rest } }) := by
  refine ⟨_, _, ?_, vecCtl_issued (vecClear_ctl s _) h (fun u => { u with masks := rest })⟩
  change execVmpop h s = _
  rw [execVmpop, hm]

/-! ## Skips (R151) -/

/-- The condition of a `vskip`, position by position. -/
def SkipHolds (u : VecUnit) (c : SkipCond) : Prop :=
  match c with
  | .empty => u.masks ≠ [] ∧ ∀ q, q < u.count → u.top.getLsbD q = false
  | .full => ∀ q, q < u.count → u.top.getLsbD q = true
  | .sg j => u.sg.getLsbD j.val = false

theorem VecUnit.skips_iff (u : VecUnit) (c : SkipCond) : u.skips c = true ↔ SkipHolds u c := by
  cases c with
  | empty => simp [VecUnit.skips, SkipHolds, maskBit]
  | full => simp [VecUnit.skips, SkipHolds, maskBit]
  | sg j => simp [VecUnit.skips, SkipHolds]

/-- The last place that a `vskip` may go to: the end of the run's section, or of the loop's body. -/
def skipLimit (s : State) : Nat :=
  match s.me.vec.loop with
  | none => (s.run .vector).endOff.toNat
  | some l => Nat.min (s.run .vector).endOff.toNat (l.u + 1 + l.l)

/-- `vskip`: its target is checked first, and its condition says how far it goes. -/
theorem exec_vskip (s : State) (h : Hold) (c : SkipCond) (n : BitVec 15) :
    exec (.vskip h c n) s =
      if skipLimit s < (s.run .vector).upc.toNat + 1 + n.toNat then .next (s.engFault .vector 0x02 0 0 0)
      else .next ((s.setMe (s.me.vecPend (s.tick + 1) none (VOut.nothing 0))).vecNext
        (if s.me.vec.skips c then 1 + n.toNat else 1) 1 h) := rfl

theorem vskip_taken {s : State} {c : SkipCond} {n : BitVec 15}
    (ht : (s.run .vector).upc.toNat + 1 + n.toNat ≤ skipLimit s) (hc : SkipHolds s.me.vec c) (h : Hold) :
    ∃ x e, exec (.vskip h c n) s = .next x ∧ VecIssued s x (1 + n.toNat) 1 (s.tick + 1) h e id := by
  refine ⟨_, _, ?_, vecSkip_issued s h (1 + n.toNat)⟩
  rw [exec_vskip, if_neg (not_lt.mpr ht), if_pos ((VecUnit.skips_iff ..).mpr hc)]

theorem vskip_not_taken {s : State} {c : SkipCond} {n : BitVec 15}
    (ht : (s.run .vector).upc.toNat + 1 + n.toNat ≤ skipLimit s) (hc : ¬ SkipHolds s.me.vec c) (h : Hold) :
    ∃ x e, exec (.vskip h c n) s = .next x ∧ VecIssued s x 1 1 (s.tick + 1) h e id := by
  refine ⟨_, _, ?_, vecSkip_issued s h 1⟩
  rw [exec_vskip, if_neg (not_lt.mpr ht), if_neg (fun hs => hc ((VecUnit.skips_iff ..).mp hs))]

/-! ## Loops (R152) -/

/-- A `vloop` that faults: an empty body, one that passes the section's end, or a loop inside a loop. -/
def LoopBad (s : State) (l : BitVec 10) : Prop :=
  l = 0 ∨ (s.run .vector).endOff.toNat < (s.run .vector).upc.toNat + 1 + l.toNat ∨ s.me.vec.loop ≠ none

/-- The loop that a `vloop` begins. -/
def newLoop (s : State) (sm1 : BitVec 3) (l : BitVec 10) (vp : VpReg) : VLoop :=
  { n := (s.vp .vector vp).toNat % 2 ^ 32, s := sm1.toNat + 1, l := l.toNat, u := (s.run .vector).upc.toNat, p := 0 }

theorem vloop_fault {s : State} {l : BitVec 10} (hb : LoopBad s l) (h : Hold) (sm1 : BitVec 3) (vp : VpReg) :
    exec (.vloop h sm1 l vp) s = .next (s.engFault .vector 0x02 0 0 0) := by
  rw [LoopBad, ← Option.isSome_iff_ne_none] at hb
  exact if_pos hb

/-- `vloop` past its checks: it moves past the body of a loop of no pass, and into the body of another. -/
theorem exec_vloop {s : State} {l : BitVec 10} (hb : ¬ LoopBad s l) (h : Hold) (sm1 : BitVec 3) (vp : VpReg) :
    let s1 := s.setMe (s.me.vecPend (s.tick + 1) none (VOut.nothing 0))
    let s2 := s1.vecNext 1 1 h
    exec (.vloop h sm1 l vp) s =
      if (s.vp .vector vp).toNat % 2 ^ 32 = 0 then .next (s1.vecNext (1 + l.toNat) 1 h)
      else .next (s2.setVec { s2.me.vec with
        rb := 0, sg := stagePreds 0 ((s.vp .vector vp).toNat % 2 ^ 32) (sm1.toNat + 1), loop := some (newLoop s sm1 l vp) }) := by
  rw [LoopBad, ← Option.isSome_iff_ne_none] at hb
  simp only [newLoop, ← bitsOf_low]
  exact if_neg hb

/-- A loop of no pass is left out. -/
theorem vloop_no_pass {s : State} {l : BitVec 10} {vp : VpReg} (hb : ¬ LoopBad s l)
    (hn : (s.vp .vector vp).toNat % 2 ^ 32 = 0) (h : Hold) (sm1 : BitVec 3) :
    ∃ x e, exec (.vloop h sm1 l vp) s = .next x ∧ VecIssued s x (1 + l.toNat) 1 (s.tick + 1) h e id :=
  ⟨_, _, (exec_vloop hb h sm1 vp).trans (if_pos hn), vecSkip_issued s h (1 + l.toNat)⟩

/-- A loop begins: the engine moves on to its body, in its first pass. -/
theorem vloop_begins {s : State} {l : BitVec 10} {vp : VpReg} (hb : ¬ LoopBad s l)
    (hn : (s.vp .vector vp).toNat % 2 ^ 32 ≠ 0) (h : Hold) (sm1 : BitVec 3) :
    ∃ x, exec (.vloop h sm1 l vp) s = .next x ∧ OnlyCore s.cur.core s x ∧ x.me.vec.rb = 0 ∧
      x.me.vec.loop = some (newLoop s sm1 l vp) ∧ (x.me.runOf .vector).upc = (s.run .vector).upc + 1 ∧
      (∀ j : Fin 8, x.me.vec.sg.getLsbD j.val = decide (j.val = 0)) ∧ x.me.vec.v = s.me.vec.v ∧
      x.me.vec.masks = s.me.vec.masks := by
  have hloop : s.me.vec.loop = none := not_not.mp fun hl => hb (.inr (.inr hl))
  have issued := vecSkip_issued s h 1
  have core := issued.me_eq.trans (Core.vecGo_of_no_loop (c := s.me.withEntry (ctlEntry s 0)) hloop ..)
  refine ⟨_, (exec_vloop hb h sm1 vp).trans (if_neg hn), issued.only.setMe _, ?_⟩
  rw [State.setVec, State.me_setMe, core]
  refine ⟨rfl, rfl, ?_, fun j => ?_, rfl, rfl⟩
  · change (Core.runOf (Core.setRun _ .vector _) .vector).upc = _
    rw [Core.runOf_setRun]
    change BitVec.ofNat 24 _ = _
    rw [BitVec.ofNat_add, BitVec.ofNat_toNat, BitVec.setWidth_eq]
    rfl
  · rw [getLsbD_stagePreds, decide_eq_decide]
    omega

/-- A pass that is not the last starts the next one at the body's first word (R152). -/
theorem Core.vecGo_next_pass {c : Core} {l : VLoop} (hl : c.vec.loop = some l) (hp : l.p + 1 < l.n + l.s - 1) (at_ : Nat) :
    c.vecGo (l.u + 1 + l.l) at_ =
      Core.setRun { c with vec := { c.vec with
          rb := c.vec.rb + 1, sg := stagePreds (l.p + 1) l.n l.s, loop := some { l with p := l.p + 1 } } } .vector
        { c.runOf .vector with upc := BitVec.ofNat 24 (l.u + 1), nextAt := at_ } := by
  simp only [Core.vecGo, hl]
  exact (if_neg (not_not_intro rfl)).trans (if_pos hp)

/-- The last pass ends the loop, and the engine goes on behind the body (R152). -/
theorem Core.vecGo_last_pass {c : Core} {l : VLoop} (hl : c.vec.loop = some l) (hp : l.n + l.s - 1 ≤ l.p + 1) (at_ : Nat) :
    c.vecGo (l.u + 1 + l.l) at_ =
      Core.setRun { c with vec := { c.vec with rb := c.vec.rb + 1, sg := 0xFF, loop := none } } .vector
        { c.runOf .vector with upc := BitVec.ofNat 24 (l.u + 1 + l.l), nextAt := at_ } := by
  simp only [Core.vecGo, hl]
  exact (if_neg (not_not_intro rfl)).trans (if_neg (not_lt.mpr hp))

/-- The end of a loop's body turns the rotation base, and the run goes to the next pass or out of the loop. -/
theorem vecGo_bodyEnd {c : Core} {l : VLoop} (hl : c.vec.loop = some l) (at_ : Nat) :
    let x := c.vecGo (l.u + 1 + l.l) at_
    x.vec.rb = c.vec.rb + 1 ∧ x.vec.v = c.vec.v ∧ (x.runOf .vector).nextAt = at_ ∧
    (l.p + 1 < l.n + l.s - 1 → (x.runOf .vector).upc = BitVec.ofNat 24 (l.u + 1) ∧
      x.vec.loop = some { l with p := l.p + 1 } ∧ ∀ j : Fin 8, x.vec.sg.getLsbD j.val =
        decide (j.val < l.s ∧ j.val ≤ l.p + 1 ∧ l.p + 1 - j.val < l.n)) ∧
    (l.n + l.s - 1 ≤ l.p + 1 → (x.runOf .vector).upc = BitVec.ofNat 24 (l.u + 1 + l.l) ∧
      x.vec.loop = none ∧ x.vec.sg = 0xFF) := by
  rcases Nat.lt_or_ge (l.p + 1) (l.n + l.s - 1) with hp | hp
  · rw [Core.vecGo_next_pass hl hp]
    refine ⟨rfl, rfl, ?_, fun _ => ⟨?_, rfl, getLsbD_stagePreds (l.p + 1) l.n l.s⟩, fun hge => absurd hp (not_lt.mpr hge)⟩
    all_goals rw [Core.runOf_setRun]
  · rw [Core.vecGo_last_pass hl hp]
    refine ⟨rfl, rfl, ?_, fun hlt => absurd hlt (not_lt.mpr hp), fun _ => ⟨?_, rfl, rfl⟩⟩
    all_goals rw [Core.runOf_setRun]

/-! ## The end of a run (R154) -/

theorem vexit_ending (s : State) (h : Hold) :
    ∃ x e, exec (.vexit h) s = .next x ∧ OnlyCore s.cur.core s x ∧
      x.me.vec = { s.me.vec with pending := s.me.vec.pending ++ [e] } ∧ e.at_ = s.tick + 1 ∧ e.dst = none ∧
      (x.me.runOf .vector).ending = true ∧ x.me.tasks = s.me.tasks := by
  refine ⟨_, ctlEntry s 0, rfl, onlyCore_setMe s _, ?_⟩
  rw [State.me_setMe]
  refine ⟨rfl, rfl, rfl, ?_, rfl⟩
  rw [Core.exitRun, Core.runOf_setRun]

/-- Settles O42, word by word. -/
theorem vectorControl : Obligations.VectorControl := by
  unfold Obligations.VectorControl
  intro s h
  refine ⟨fun vp => ⟨fun hb => vshape_fault hb h, fun hw hs => ?_⟩,
    fun t c a b => ⟨fun hf => vmpush_small hf h c a b, fun hf hm => vmpush_full hf hm h c a b,
      fun hf hm hfree => vmpush_issued hf hm hfree h c a b⟩,
    fun hm => ⟨vminv_empty hm h, vmpop_empty hm h⟩,
    fun m rest hm => ⟨vminv_issued hm h, vmpop_issued hm h⟩,
    fun c n => ⟨fun ht => (exec_vskip s h c n).trans (if_pos ht), fun ht hc => vskip_taken ht hc h,
      fun ht hc => vskip_not_taken ht hc h⟩,
    fun sm1 l vp => ⟨fun hb => vloop_fault hb h sm1 vp, fun hb hn => vloop_no_pass hb hn h sm1,
      fun hb hn => vloop_begins hb hn h sm1⟩,
    fun c l at_ hl => vecGo_bodyEnd hl at_, vexit_ending s h⟩
  obtain ⟨t, hx, issued⟩ := vshape_issued hw hs h
  exact ⟨t, _, hx, issued, rfl⟩

end Sys2Proof.Machine
end

section
/-! Elements of a vector register (R14, R75, R139): what the packed result of a word reads at each position, and its flags. -/

namespace Sys2Proof.Machine

/-! ## Packed elements (R14) -/

theorem vPack_lt (w : Nat) (vs : List Nat) : vPack w vs < 2 ^ (w * vs.length) := by
  induction vs with
  | nil => simp [vPack]
  | cons x xs ih =>
    have hx : x % 2 ^ w < 2 ^ w := Nat.mod_lt _ (by positivity)
    calc vPack w xs * 2 ^ w + x % 2 ^ w
      _ < (vPack w xs + 1) * 2 ^ w := by rw [Nat.add_mul, Nat.one_mul]; omega
      _ ≤ 2 ^ (w * xs.length) * 2 ^ w := Nat.mul_le_mul_right _ ih
      _ = 2 ^ (w * (xs.length + 1)) := by rw [← Nat.pow_add, Nat.mul_add, Nat.mul_one]

theorem vPack_field (w : Nat) (vs : List Nat) (q : Nat) : vPack w vs / 2 ^ (w * q) % 2 ^ w = vs.getD q 0 % 2 ^ w := by
  induction vs generalizing q with
  | nil => simp [vPack]
  | cons x xs ih =>
    have hcons : vPack w (x :: xs) = 2 ^ w * vPack w xs + x % 2 ^ w := by rw [Nat.mul_comm]; rfl
    rw [hcons]
    cases q with
    | zero => simp
    | succ q =>
      rw [Nat.mul_add, Nat.mul_one, Nat.add_comm (w * q) w, Nat.pow_add, ← Nat.div_div_eq_div_mul,
        Nat.mul_add_div (by positivity), Nat.div_eq_of_lt (Nat.mod_lt _ (by positivity)), Nat.add_zero, ih]
      rfl

theorem toNat_ofNat_vPack {w n : Nat} {vs : List Nat} (h : vs.length * w ≤ n) :
    (BitVec.ofNat n (vPack w vs)).toNat = vPack w vs := by
  rw [BitVec.toNat_ofNat]
  exact Nat.mod_eq_of_lt (lt_of_lt_of_le (vPack_lt w vs) (Nat.pow_le_pow_right (by decide) (by rwa [Nat.mul_comm])))

/-- An element of a packed register; one past the last reads 0. -/
theorem vElem_vPack {w : Nat} {vs : List Nat} (h : vs.length * w ≤ 32768) (q : Nat) :
    vElem (BitVec.ofNat 32768 (vPack w vs)) w q = vs.getD q 0 % 2 ^ w := by
  rw [vElem, toNat_ofNat_vPack h, vPack_field]

/-! ## The result of a word (R75, R139) -/

/-- The value that a position takes, or 0 where it takes none. -/
def elemVal (x : Option (Nat × Flags)) : Nat := (x.map Prod.fst).getD 0

/-- The bits that a position writes. -/
def elemMask (w : Nat) (x : Option (Nat × Flags)) : Nat := if x.isSome then 2 ^ w - 1 else 0

/-- The flags that a position raises. -/
def elemFlags (x : Option (Nat × Flags)) : Flags := (x.map Prod.snd).getD 0

theorem vOut_val (w n : Nat) (f : Nat → Option (Nat × Flags)) :
    (vOut w n f).val = BitVec.ofNat 32768 (vPack w ((List.range n).map (fun q => elemVal (f q)))) := by
  simp only [vOut, List.map_map]
  congr 2
  refine List.map_congr_left fun q _ => ?_
  dsimp only [Function.comp]
  cases f q <;> rfl

theorem vOut_mask (w n : Nat) (f : Nat → Option (Nat × Flags)) :
    (vOut w n f).mask = BitVec.ofNat 32768 (vPack w ((List.range n).map (fun q => elemMask w (f q)))) := by
  simp only [vOut, List.map_map]
  rfl

theorem vOut_flags (w n : Nat) (f : Nat → Option (Nat × Flags)) :
    (vOut w n f).flags = ((List.range n).map f).foldl (fun acc y => acc ||| elemFlags y) 0 := by
  simp only [vOut]
  congr 1
  funext acc y
  cases y with
  | none => exact BitVec.or_zero.symm
  | some p => rfl

/-- Results that agree on the positions of the shape are one. -/
theorem vOut_congr {w n : Nat} {f g : Nat → Option (Nat × Flags)} (h : ∀ q, q < n → f q = g q) : vOut w n f = vOut w n g := by
  have hmap : (List.range n).map f = (List.range n).map g :=
    List.map_congr_left fun q hq => h q (List.mem_range.mp hq)
  simp only [vOut, hmap]

/-- The entry that a word's result makes holds that result's elements. -/
theorem vOut_holds {w n : Nat} (hn : n * w ≤ 32768) {f : Nat → Option (Nat × Flags)} {e : VWrite}
    (hv : e.val = (vOut w n f).val) (hm : e.mask = (vOut w n f).mask) : e.holds w n f := by
  have hlt : 2 ^ w - 1 < 2 ^ w := Nat.sub_lt (by positivity) one_pos
  have mask (q : Nat) : vElem e.mask w q = if q < n then elemMask w (f q) else 0 := by
    rw [hm, vOut_mask, vElem_vPack (by simpa using hn)]
    split
    next hq => by_cases hs : (f q).isSome <;> simp [hq, elemMask, hs, Nat.mod_eq_of_lt hlt]
    next hq => simp [hq]
  refine ⟨fun q hq => ?_, fun q hq => by rw [mask, if_neg (not_lt.mpr hq)]⟩
  rw [mask, if_pos hq]
  cases hf : f q with
  | none => rfl
  | some p =>
    refine ⟨rfl, ?_⟩
    rw [hv, vOut_val, vElem_vPack (by simpa using hn)]
    simp [hq, hf, elemVal]

/-- A type that fits the shape packs into a register (R14). -/
theorem VecUnit.packs_of_fits {u : VecUnit} {t : ElemType} (h : u.fits t.width = true) : u.count * t.width ≤ 32768 := by
  have hw : t.width = t.width / 8 * 8 := by cases t <;> rfl
  have hc : u.count * (t.width / 8) ≤ 4096 := of_decide_eq_true h
  rw [hw, ← Nat.mul_assoc]
  omega

end Sys2Proof.Machine
end

section
/-! Vector words that write elements (R139 to R148, R157, R159, R163, R167): each word's elements are those of its rule, and
what an issue does with them. -/

namespace Sys2Proof.Machine

/-! ## Values that the model and the rules write differently -/

/-- An arithmetic shift right (R143): the signed value divided, the count cut to the width. -/
theorem sra_value {w x : Nat} (hx : x < 2 ^ w) (hw : 0 < w) (u : Nat) :
    wrapInt w (signedOf w x / 2 ^ (Nat.min u (w - 1))) =
      ((if x < 2 ^ (w - 1) then (x : Int) else x - 2 ^ w) / 2 ^ (if u < w then u else w - 1) % 2 ^ w).toNat := by
  have hmin : Nat.min u (w - 1) = if u < w then u else w - 1 := by
    change min u (w - 1) = _
    split <;> omega
  simp only [wrapInt, signedOf, Nat.mod_eq_of_lt hx, hmin]

/-- The counter of a random element (R167), its fields wrapping apart from each other. -/
theorem rand_counter (o : Word64) (i j : Nat) :
    put (bitsOf o 48 16) 48 + put ((bitsOf o 20 28 + i) % 2 ^ 28) 20 + (bitsOf o 0 20 + j) % 2 ^ 20 =
      o.toNat / 2 ^ 48 * 2 ^ 48 + (o.toNat / 2 ^ 20 + i) % 2 ^ 28 * 2 ^ 20 + (o.toNat + j) % 2 ^ 20 := by
  rw [bitsOf_high o (len := 16) rfl, bitsOf_low, Nat.mod_add_mod, bitsOf, fld, Nat.mod_add_mod, put, put]

/-! ## The sets of a reduction (R159) -/

/-- A table whose values are all changed. -/
theorem Tbl.get?_map {α β : Type} (t : Tbl α) (g : α → β) (k : Nat) :
    Tbl.get? (t.map (fun e => (e.1, g e.2)) : Tbl β) k = (Tbl.get? t k).map g := by
  induction t with
  | nil => rfl
  | cons e rest ih =>
    simp only [List.map_cons, Tbl.get?]
    split
    · rfl
    · exact ih

/-- A key that no entry of a listed table has. -/
theorem Tbl.get?_list_none {α : Type} {xs : List Nat} {k : Nat → Nat} {v : Nat → α} {q : Nat} (h : ∀ i ∈ xs, k i ≠ q) :
    Tbl.get? (xs.map (fun i => (k i, v i)) : Tbl α) q = none := by
  induction xs with
  | nil => rfl
  | cons i rest ih =>
    obtain ⟨hi, hrest⟩ := List.forall_mem_cons.mp h
    simp only [List.map_cons, Tbl.get?, if_neg hi]
    exact ih hrest

/-- A key that one entry of a listed table has. -/
theorem Tbl.get?_list_some {α : Type} {xs : List Nat} {k : Nat → Nat} {v : Nat → α} {i : Nat} (hi : i ∈ xs)
    (hu : ∀ j ∈ xs, k j = k i → j = i) : Tbl.get? (xs.map (fun i => (k i, v i)) : Tbl α) (k i) = some (v i) := by
  induction xs with
  | nil => cases hi
  | cons j rest ih =>
    obtain ⟨hj, hrest⟩ := List.forall_mem_cons.mp hu
    simp only [List.map_cons, Tbl.get?]
    split
    next hk => rw [hj hk]
    next hk => exact ih ((List.mem_cons.mp hi).resolve_left fun he => hk (by rw [he])) hrest

/-- The set that a position of the shape is the first of. -/
theorem get?_reduceSets (s : State) (dir : Dir) {q : Nat} (hq : q < s.me.vec.count) :
    Tbl.get? (reduceSets dir s.me.vec.rows s.me.vec.cols : Tbl (List Nat)) q = setFrom s dir q := by
  have hcols : 0 < s.me.vec.cols := Nat.pos_of_ne_zero fun h => by
    rw [VecUnit.count, h, Nat.mul_zero] at hq
    exact Nat.not_lt_zero _ hq
  cases dir with
  | all =>
    simp only [reduceSets, Tbl.get?, setFrom]
    exact if_congr eq_comm rfl rfl
  | row =>
    simp only [reduceSets, setFrom]
    split
    next h0 =>
      have hk : q / s.me.vec.cols * s.me.vec.cols = q := Nat.div_mul_cancel (Nat.dvd_of_mod_eq_zero h0)
      have hi : q / s.me.vec.cols ∈ List.range s.me.vec.rows :=
        List.mem_range.mpr ((Nat.div_lt_iff_lt_mul hcols).mpr hq)
      have hget := Tbl.get?_list_some (k := fun i => i * s.me.vec.cols)
        (v := fun i => (List.range s.me.vec.cols).map (fun j => i * s.me.vec.cols + j)) hi
        (fun j _ hj => Nat.eq_of_mul_eq_mul_right hcols hj)
      rwa [hk] at hget
    next h0 => exact Tbl.get?_list_none fun i _ hk => h0 (by rw [← hk, Nat.mul_mod_left])
  | col =>
    simp only [reduceSets, setFrom]
    split
    next hlt => exact Tbl.get?_list_some (k := fun j => j) (List.mem_range.mpr hlt) (fun j _ hj => hj)
    next hge => exact Tbl.get?_list_none fun j hj hk => hge (hk ▸ List.mem_range.mp hj)

/-! ## Each word's elements -/

/-- The state after a word whose rule gives its elements. -/
def VWord.next (x : VWord) (s : State) : State :=
  if x.ok then s.vecWord x.h x.m x.t x.lat x.srcs x.d (vOut x.t.width s.me.vec.count x.elem) else s.engFault .vector 0x0A 0 0 0

/-- A word that writes what the model computes at each position of the shape, where that is the rule's element. -/
theorem vecTyped_next {s : State} {x : VWord} {f : Nat → Option (Nat × Flags)} (hok : x.ok = shapeFits s x.t)
    (hf : ∀ q, q < s.me.vec.count → f q = x.elem q) :
    x.next s = s.vecTyped x.h x.m x.t x.lat x.srcs x.d (vOut x.t.width s.me.vec.count f) := by
  rw [vOut_congr hf, VWord.next, hok]
  rfl

/-- The same for a word of the enabled positions (R140). -/
theorem each_next {s : State} {h : Hold} {m : Option Modifier} {t : ElemType} {lat : Nat} {d : VReg} {srcs : List VReg}
    {f g : Nat → Nat × Flags} {x : VWord} (hx : vEach s h m t lat d srcs g = some x)
    (hf : ∀ q, q < s.me.vec.count → f q = g q) :
    s.vecTyped h m t lat srcs d (s.me.vec.each t f) = x.next s := by
  cases hx
  refine Eq.symm (vecTyped_next rfl fun q hq => ?_)
  simp only [hf q hq]
  rfl

/-- A reduction takes the sets of its direction. -/
theorem vecReduce_next {s : State} {f : List Nat → Nat × Flags} {h : Hold} {t : ElemType} {dir : Dir} {d a : VReg} {x : VWord}
    (hx : vSets s h t dir d a f = some x) : s.vecReduce f h t dir d a = x.next s := by
  cases hx
  refine Eq.symm (vecTyped_next rfl fun q hq => ?_)
  refine (Tbl.get?_map (reduceSets dir s.me.vec.rows s.me.vec.cols : Tbl (List Nat))
    (fun st => f ((st.filter (vOn s)).map (vElemOf s t a))) q).trans ?_
  rw [get?_reduceSets s dir hq]

/-- A word with a second type to fit the shape, which is checked first. -/
theorem guarded_next {s : State} {x : VWord} {b : Bool} {f : Nat → Option (Nat × Flags)} (hok : x.ok = (shapeFits s x.t && b))
    (hf : ∀ q, q < s.me.vec.count → f q = x.elem q) :
    (.next (x.next s) : Res) = if !b then .next (s.vecFault 0x0A 0)
      else .next (s.vecTyped x.h x.m x.t x.lat x.srcs x.d (vOut x.t.width s.me.vec.count f)) := by
  cases b with
  | false =>
    rw [VWord.next, hok, Bool.and_false]
    rfl
  | true => exact congrArg Host.Outcome.next (vecTyped_next (hok.trans (Bool.and_true _)) hf)

theorem vElemOf_lt (s : State) (t : ElemType) (r : VReg) (q : Nat) : vElemOf s t r q < 2 ^ t.width :=
  Nat.mod_lt _ (by positivity)

theorem exec_vsplat {s : State} {h : Hold} {t : ElemType} {k : Splat} {d a : VReg} {x : VWord}
    (hx : vecWordOf s (.vsplat h t k d a) = some x) : exec (.vsplat h t k d a) s = .next (x.next s) := by
  refine congrArg Host.Outcome.next ?_
  cases k with
  | elem | row | col => exact each_next hx fun _ _ => rfl
  | vp => exact each_next hx fun _ _ => congrArg (·, (0 : Flags)) (bitsOf_low ..)

theorem exec_vfma {s : State} {h : Hold} {m : Option Modifier} {t : ElemType} {r : Rnd} {d a b : VReg} {x : VWord}
    (hx : vecWordOf s (.vfma h m t r d a b) = some x) : exec (.vfma h m t r d a b) s = .next (x.next s) := by
  refine congrArg Host.Outcome.next ?_
  cases m with
  | none | some md => exact each_next hx fun _ _ => rfl

theorem exec_vperm {s : State} {h : Hold} {t : ElemType} {g : Grain} {d a b : VReg} {x : VWord}
    (hx : vecWordOf s (.vperm h t g d a b) = some x) : exec (.vperm h t g d a b) s = .next (x.next s) := by
  cases hx
  cases g with
  | row | lin => exact Eq.symm (guarded_next rfl fun _ _ => rfl)

/-- Every word of the family does what its rule's elements say. -/
theorem exec_vecWord {s : State} {i : Instr} {x : VWord} (hx : vecWordOf s i = some x) : exec i s = .next (x.next s) := by
  cases i
  case vsplat => exact exec_vsplat hx
  case vfma => exact exec_vfma hx
  case vperm => exact exec_vperm hx
  case vcvt =>
    cases hx
    exact Eq.symm (guarded_next rfl fun _ _ => rfl)
  case vsel =>
    cases hx
    exact congrArg Host.Outcome.next (Eq.symm (vecTyped_next rfl fun _ _ => rfl))
  case vshrSra h t d a b =>
    exact congrArg Host.Outcome.next (each_next hx fun q _ => congrArg (·, (0 : Flags))
      (sra_value (vElemOf_lt s t a q) (by cases t <;> decide) _))
  case vrand => exact congrArg Host.Outcome.next (each_next hx fun q _ => by dsimp only; rw [rand_counter])
  case vredsum | vredmax | vredmin => exact congrArg Host.Outcome.next (vecReduce_next hx)
  case vmov | vadd | vsub | vmul | vmax | vmin | vdiv | vand | vor | vxor | vshl | vshrSrl | vclass | viota | vtrans | vexp2 |
      vlog2 | vrcp | vrsqrt | vtanh | vsig =>
    exact congrArg Host.Outcome.next (each_next hx fun _ _ => rfl)
  all_goals nomatch hx

/-- A word's own check includes that its type fits the shape (R14). -/
theorem shapeFits_of_ok {s : State} {i : Instr} {x : VWord} (hx : vecWordOf s i = some x) (hok : x.ok = true) :
    shapeFits s x.t = true := by
  cases i
  case vcvt | vperm =>
    cases hx
    exact ((Bool.and_eq_true ..).mp hok).1
  case vsplat h t k d a => cases k <;> cases hx <;> exact hok
  case vmov | vadd | vsub | vmul | vmax | vmin | vdiv | vfma | vand | vor | vxor | vshl | vshrSrl | vshrSra | vclass | vsel | viota |
      vtrans | vexp2 | vlog2 | vrcp | vrsqrt | vtanh | vsig | vredsum | vredmax | vredmin | vrand =>
    cases hx
    exact hok
  all_goals nomatch hx

/-! ## What an issue does with the elements -/

theorem VWord.next_small {x : VWord} (h : x.ok = false) (s : State) : x.next s = s.engFault .vector 0x0A 0 0 0 :=
  if_neg (by rw [h]; exact Bool.false_ne_true)

/-- The tick in which a word's elements land (R74, R75). -/
def VWord.landing (x : VWord) (s : State) : Nat := s.tick + s.me.vec.beats x.t + x.lat + modLat x.m

/-- The result of a word's elements. -/
def VWord.out (x : VWord) (s : State) : VOut := vOut x.t.width s.me.vec.count x.elem

theorem VWord.next_fits {x : VWord} (h : x.ok = true) (s : State) :
    x.next s = s.vecIssue x.h (modLen x.m) (s.me.vec.beats x.t) (x.landing s) x.srcs (some x.d) (x.out s) id :=
  if_pos h

/-- A fault of an engine is a change of the acting core alone. -/
theorem engFault_setMe (s : State) (c : Core) (e : Engine) (cause acc why addr : Nat) :
    (s.setMe c).engFault e cause acc why addr = s.setMe (c.setRun e { c.runOf e with
      halted := some { cause := cause, upc := (c.runOf e).upc.toNat, why := why, acc := acc, addr := addr } }) := by
  rw [State.engFault, State.me_setMe, State.setMe_setMe]

/-- A word that traps stands in the pipeline with its flags alone, and the engine stops (R140). -/
theorem vecTrap_spec (s : State) (wt : Nat) (fl : Flags) :
    let t := (s.setMe (s.me.vecPend wt none (VOut.nothing fl))).engFault .vector 0x0E 0 0 0
    OnlyCore s.cur.core s t ∧
      t.me.vec = { s.me.vec with pending := s.me.vec.pending ++ [vecEntry s wt none (VOut.nothing fl)] } ∧
      (t.me.runOf .vector).halted.map (fun f => f.cause) = some 0x0E ∧ t.me.tasks = s.me.tasks := by
  dsimp only
  rw [engFault_setMe]
  refine ⟨onlyCore_setMe s _, ?_⟩
  rw [State.me_setMe, Core.runOf_setRun]
  exact ⟨rfl, rfl, rfl⟩

/-- Settles O38: the word is its elements' result at issue, which faults, traps or enters the pipeline. -/
theorem vectorElements : Obligations.VectorElements := by
  unfold Obligations.VectorElements
  intro s i x hx
  rw [exec_vecWord hx]
  have hflags : (x.out s).flags = ((List.range s.me.vec.count).map x.elem).foldl (fun acc y => acc ||| elemFlags y) 0 :=
    vOut_flags ..
  refine ⟨fun hok => ?_, fun hok hchk hund => ?_, fun hok hchk htrap => ?_, fun hok hclear => ?_⟩
  · rw [VWord.next_small hok]
  · rw [VWord.next_fits hok]
    exact congrArg Host.Outcome.next (vecIssue_undersized hchk hund ..)
  · rw [VWord.next_fits hok, vecIssue_trap hchk (by rw [hflags]; exact htrap)]
    obtain ⟨only, vec, halted, tasks⟩ := vecTrap_spec s (x.landing s) (x.out s).flags
    exact ⟨_, _, rfl, only, vec, rfl, rfl, hflags, halted, tasks⟩
  · rw [VWord.next_fits hok]
    have hpacks := VecUnit.packs_of_fits (shapeFits_of_ok hx hok)
    refine ⟨_, _, rfl, vecIssued_of_clear ?_ (.refl s) rfl .., rfl, hflags, vOut_holds hpacks rfl rfl⟩
    rw [hflags]
    exact hclear

end Sys2Proof.Machine
end

section
/-! Elements stored in scratchpad (R37, R137, R165): the writes that a list of elements makes, the groups of T6 merged in turn. -/

namespace Sys2Proof.Machine

/-! ## Fields of a group (R37) -/

/-- A number as a field of `k` bits from bit `n` on, with what lies above and below it. -/
theorem eq_field_parts (g n k : Nat) : g = 2 ^ n * (2 ^ k * (g / 2 ^ (n + k)) + fld g n k) + g % 2 ^ n := by
  rw [fld, Nat.pow_add, ← Nat.div_div_eq_div_mul, Nat.div_add_mod, Nat.div_add_mod]

/-- The bits of a number whose field has been replaced. -/
theorem testBit_replaceField (g n k v j : Nat) :
    (g - put (fld g n k) n + put (v % 2 ^ k) n).testBit j =
      if n ≤ j ∧ j < n + k then v.testBit (j - n) else g.testBit j := by
  have hlow : g % 2 ^ n < 2 ^ n := Nat.mod_lt _ (by positivity)
  have hmod (x : Nat) : x % 2 ^ k < 2 ^ k := Nat.mod_lt _ (by positivity)
  have parts := eq_field_parts g n k
  have hnew : g - put (fld g n k) n + put (v % 2 ^ k) n = 2 ^ n * (2 ^ k * (g / 2 ^ (n + k)) + v % 2 ^ k) + g % 2 ^ n := by
    simp only [put]
    rw [Nat.mul_add] at parts ⊢
    rw [Nat.mul_comm (v % 2 ^ k), Nat.mul_comm (fld g n k)]
    omega
  have field (f : Nat) (hf : f < 2 ^ k) : (2 ^ n * (2 ^ k * (g / 2 ^ (n + k)) + f) + g % 2 ^ n).testBit j =
      if j < n then (g % 2 ^ n).testBit j
      else if j - n < k then f.testBit (j - n) else (g / 2 ^ (n + k)).testBit (j - n - k) := by
    rw [Nat.testBit_two_pow_mul_add _ hlow, Nat.testBit_two_pow_mul_add _ hf]
  have hold := field (fld g n k) (hmod _)
  rw [← parts] at hold
  rw [hnew, field _ (hmod v), hold]
  by_cases h1 : j < n
  · rw [if_pos h1, if_pos h1, if_neg (fun h => not_le.mpr h1 h.1)]
  · by_cases h2 : j - n < k
    · rw [if_neg h1, if_pos h2, if_pos ⟨not_lt.mp h1, by omega⟩, Nat.testBit_mod_two_pow, decide_eq_true h2, Bool.true_and]
    · rw [if_neg h1, if_neg h2, if_neg h1, if_neg h2, if_neg (by omega)]

/-! ## One element (R37, R137) -/

theorem elemMerge_whole {f : Fmt} (h : f ≠ .t6) (m : Memory) (x : ElemAt) (v : Nat) :
    (elemMerge m f x v).length = f.bits / 8 ∧ leNat (elemMerge m f x v) = v % 2 ^ f.bits := by
  have hbits : 256 ^ (f.bits / 8) = 2 ^ f.bits := by
    cases f with
    | t6 => exact absurd rfl h
    | _ => rfl
  rw [elemMerge, if_neg h, leBytes_length, leNat_leBytes, hbits, Nat.mod_mod]
  exact ⟨rfl, rfl⟩

theorem elemMerge_t6 (m : Memory) (x : ElemAt) (v : Nat) :
    (elemMerge m .t6 x v).length = 3 ∧ ∀ j, j < 24 → (leNat (elemMerge m .t6 x v)).testBit j =
      if 6 * x.2 ≤ j ∧ j < 6 * x.2 + 6 then v.testBit (j - 6 * x.2) else (leNat (Memory.load m x.1 3)).testBit j := by
  rw [elemMerge, if_pos rfl, leBytes_length, leNat_leBytes]
  refine ⟨rfl, fun j hj => ?_⟩
  rw [show 256 ^ 3 = 2 ^ 24 from rfl, Nat.testBit_mod_two_pow, decide_eq_true hj, Bool.true_and]
  exact testBit_replaceField _ (6 * x.2) 6 v j

/-! ## Elements in turn (R137, R165) -/

/-- Storing further elements only adds writes. -/
theorem storeElems_fold (f : Fmt) (xs : List (ElemAt × Nat)) (m : Memory) (ws : List (Nat × List Byte)) :
    (xs.foldl (fun (acc : Memory × List (Nat × List Byte)) x =>
      (Memory.store acc.1 x.1.1 (elemMerge acc.1 f x.1 x.2), acc.2 ++ [(x.1.1, elemMerge acc.1 f x.1 x.2)])) (m, ws)).2 =
      ws ++ storeElems m f xs := by
  induction xs generalizing m ws with
  | nil => exact (List.append_nil ws).symm
  | cons x rest ih =>
    have hone := ih (Memory.store m x.1.1 (elemMerge m f x.1 x.2)) ([] ++ [(x.1.1, elemMerge m f x.1 x.2)])
    rw [storeElems, List.foldl_cons, List.foldl_cons, ih, hone, ← List.append_assoc, ← List.append_assoc, List.append_nil]

/-- The first element's bytes, then the others over the memory with them stored. -/
theorem storeElems_cons (m : Memory) (f : Fmt) (x : ElemAt × Nat) (rest : List (ElemAt × Nat)) :
    storeElems m f (x :: rest) = (x.1.1, elemMerge m f x.1 x.2) ::
      storeElems (Memory.store m x.1.1 (elemMerge m f x.1 x.2)) f rest :=
  storeElems_fold f rest _ _

/-- The writes of a list of elements are those elements, stored in turn. -/
theorem storedElems_storeElems (f : Fmt) (m : Memory) (xs : List (ElemAt × Nat)) : StoredElems f m xs (storeElems m f xs) := by
  induction xs generalizing m with
  | nil => exact ⟨rfl, fun _ => rfl, fun _ i x v a bs hx => by simp at hx⟩
  | cons x rest ih =>
    obtain ⟨places, whole, groups⟩ := ih (Memory.store m x.1.1 (elemMerge m f x.1 x.2))
    rw [storeElems_cons]
    refine ⟨?_, fun hf => ?_, fun hf i => ?_⟩
    · rw [List.map_cons, List.map_cons, places]
    · obtain ⟨hlen, hval⟩ := elemMerge_whole hf m x.1 x.2
      rw [List.map_cons, List.map_cons, whole hf, hlen, hval]
    · cases i with
      | zero =>
        intro y v a bs hy hw
        cases hy
        cases hw
        rw [hf]
        exact elemMerge_t6 m y v
      | succ i => exact groups hf i

end Sys2Proof.Machine
end

section
/-! Vector loads and stores (R134 to R138, R164, R165): what each word does at its issue beside its entry, the elements that it
moves, and its faults and waits. -/

namespace Sys2Proof.Machine

/-! ## Held tiles and writes of a tick (R136, R264) -/

/-- A held tile changes the admitted accesses alone. -/
theorem Core.holdTile_outside (c : Core) (p : Place) (till : Nat) :
    c.holdTile p till = { c with admits := (c.holdTile p till).admits } := by
  rw [Core.holdTile]
  split <;> rfl

theorem Core.holdTile_runs (c : Core) (p : Place) (till : Nat) : (c.holdTile p till).runs = c.runs := by
  rw [Core.holdTile_outside]

/-- Writes to scratchpad stand behind those of the tick before them. -/
theorem Core.foldl_spWrite (e : Engine) (ws : List (Nat × List Byte)) (c : Core) :
    ws.foldl (fun c w => c.spWrite e w.1 w.2) c = { c with spBuf := c.spBuf ++ ws.map (fun y => (e.rank, y.1, y.2)) } := by
  induction ws generalizing c with
  | nil => simp
  | cons w rest ih =>
    rw [List.foldl_cons, ih, List.map_cons, List.append_cons]
    rfl

/-- Writes to the accumulator stand behind those of the tick before them. -/
theorem Core.foldl_accWrite {α : Type} (e : Engine) (a : α → Nat) (b : α → List Byte) (xs : List α) (c : Core) :
    xs.foldl (fun c x => c.accWrite e (a x) (b x)) c =
      { c with accBuf := c.accBuf ++ xs.map (fun x => (e.rank, a x, b x)) } := by
  induction xs generalizing c with
  | nil => simp
  | cons x rest ih =>
    rw [List.foldl_cons, ih, List.map_cons, List.append_cons]
    rfl

theorem State.vecStores_me (s : State) (ws : List (Nat × List Byte)) :
    (s.vecStores ws).me = { s.me with spBuf := s.me.spBuf ++ ws.map (fun y => (Engine.vector.rank, y.1, y.2)) } := by
  rw [State.vecStores, State.me_setMe, Core.foldl_spWrite]

theorem MeChanged.vecStores (s : State) (ws : List (Nat × List Byte)) : MeChanged s (s.vecStores ws) := by
  rw [State.vecStores, Core.foldl_spWrite]
  exact (MeChanged.refl s).setMe_of_runs rfl rfl

/-- A tile is held for an access of the word. -/
theorem MeChanged.holdTile {s u : State} (h : MeChanged s u) (p : Place) (till : Nat) :
    MeChanged s (u.setMe (u.me.holdTile p till)) :=
  h.setMe_of_runs (by rw [Core.holdTile_outside]) (Core.holdTile_runs ..)

/-! ## A vp register moved on (R137, R138) -/

/-- A vp register whose low `bits` bits are `n` higher, where `inc` says so. -/
def State.moveVp (s : State) (inc : Bool) (vp : VpReg) (bits n : Nat) : State :=
  if inc then s.setVp vp (lowField (s.vp .vector vp) bits (bitsOf (s.vp .vector vp) 0 bits + n)) else s

theorem incOff_eq_moveVp (s : State) (inc : Bool) (vp : VpReg) (a : VAcc) :
    s.incOff inc vp a = s.moveVp inc vp 17 (s.me.vec.rows * a.stride) := rfl

theorem incRow_eq_moveVp (s : State) (inc : Bool) (vp : VpReg) : s.incRow inc vp = s.moveVp inc vp 10 s.me.vec.rows := rfl

theorem State.moveVp_true (s : State) (vp : VpReg) (bits n : Nat) :
    s.moveVp true vp bits n = s.setVp vp (lowField (s.vp .vector vp) bits (bitsOf (s.vp .vector vp) 0 bits + n)) := rfl

/-- Moving a vp register changes the vector engine's run alone. -/
theorem State.moveVp_me (s : State) (inc : Bool) (vp : VpReg) (bits n : Nat) :
    (s.moveVp inc vp bits n).me = { s.me with runs := (s.moveVp inc vp bits n).me.runs } := by
  cases inc with
  | false => rfl
  | true =>
    rw [State.moveVp_true, State.setVp, State.me_setMe]
    rfl

theorem MeChanged.moveVp {s u : State} (h : MeChanged s u) (inc : Bool) (vp : VpReg) (bits n : Nat) :
    MeChanged s (u.moveVp inc vp bits n) := by
  cases inc with
  | false => exact h
  | true =>
    rw [State.moveVp_true, State.setVp]
    exact h.setMe rfl (by rw [Core.runOf_setRun]) (by rw [Core.runOf_setRun])

theorem lowField_toNat (w : Word64) {n : Nat} (hn : n ≤ 64) (v : Nat) :
    (lowField w n v).toNat = w.toNat / 2 ^ n * 2 ^ n + v % 2 ^ n := by
  have hparts : w.toNat - w.toNat % 2 ^ n = w.toNat / 2 ^ n * 2 ^ n := by
    have := Nat.div_add_mod' w.toNat (2 ^ n)
    omega
  have hlt : w.toNat / 2 ^ n * 2 ^ n + v % 2 ^ n < 2 ^ 64 := by
    have hdiv : w.toNat / 2 ^ n < 2 ^ (64 - n) := by
      rw [Nat.div_lt_iff_lt_mul (by positivity), ← Nat.pow_add, Nat.sub_add_cancel hn]
      exact w.isLt
    calc w.toNat / 2 ^ n * 2 ^ n + v % 2 ^ n
      _ < (w.toNat / 2 ^ n + 1) * 2 ^ n := by
        rw [Nat.add_mul, Nat.one_mul]
        exact Nat.add_lt_add_left (Nat.mod_lt _ (by positivity)) _
      _ ≤ 2 ^ (64 - n) * 2 ^ n := Nat.mul_le_mul_right _ hdiv
      _ = 2 ^ 64 := by rw [← Nat.pow_add, Nat.sub_add_cancel hn]
  rw [lowField, BitVec.toNat_ofNat, fld, Nat.pow_zero, Nat.div_one, hparts, Nat.mod_eq_of_lt hlt]

/-- A word that has issued has moved its vp register as its effect did. -/
theorem vpMoved_of_issued {s x u : State} {len n wt : Nat} {h : Hold} {e : VWrite} {inc : Bool} {vp : VpReg} {bits k : Nat}
    (hx : VecIssued s x len n wt h e (fun _ => (u.moveVp inc vp bits k).me)) (hb : bits ≤ 64)
    (hruns : u.me.runs = s.me.runs) : VpMoved s x vp inc bits k := by
  have hrun : u.run .vector = s.run .vector := congrArg (fun rs : Vector Run 4 => vget rs Engine.vector.idx) hruns
  have hreg (j : VpReg) : u.vp .vector j = s.vp .vector j := congrArg (fun r : Run => vget r.vp j) hrun
  have hvp : (x.me.runOf .vector).vp = ((u.moveVp inc vp bits k).run .vector).vp := by
    rw [hx.me_eq, Core.vecGo_vp]
    rfl
  rw [VpMoved, hvp]
  cases inc with
  | false => exact ⟨congrArg BitVec.toNat (hreg vp), fun j _ => hreg j⟩
  | true =>
    rw [State.moveVp_true, State.setVp, State.run_setMe, Core.runOf_setRun]
    refine ⟨?_, fun j hj => ?_⟩
    · rw [vget_vset, hreg, lowField_toNat _ hb, bitsOf_low]
      rfl
    · rw [vget_vset_ne _ _ _ _ hj]
      exact hreg j

/-- `inc` of `vld` and `vst` (R137). -/
theorem vpMoved_of_incOff {s x u : State} {len n wt : Nat} {h : Hold} {e : VWrite} {inc : Bool} {vp : VpReg} {a : VAcc}
    (hx : VecIssued s x len n wt h e (fun _ => (u.incOff inc vp a).me)) (hvec : u.me.vec = s.me.vec)
    (hruns : u.me.runs = s.me.runs) : VpMoved s x vp inc 17 (s.me.vec.rows * a.stride) := by
  rw [incOff_eq_moveVp, hvec] at hx
  exact vpMoved_of_issued hx (by decide) hruns

/-- `inc` of `vldacc` and `vstacc` (R138). -/
theorem vpMoved_of_incRow {s x u : State} {len n wt : Nat} {h : Hold} {e : VWrite} {inc : Bool} {vp : VpReg}
    (hx : VecIssued s x len n wt h e (fun _ => (u.incRow inc vp).me)) (hvec : u.me.vec = s.me.vec)
    (hruns : u.me.runs = s.me.runs) : VpMoved s x vp inc 10 s.me.vec.rows := by
  rw [incRow_eq_moveVp, hvec] at hx
  exact vpMoved_of_issued hx (by decide) hruns

/-! ## What an access meets -/

/-- A word by what its access meets: a fault, a wait in which nothing changes, or the state after its issue. -/
def admitted (s : State) (a : Admit) (issued : State) : Res :=
  match a with
  | .fault cause => .next (s.engFault .vector cause 0 0 0)
  | .wait => .next s
  | .go => .next issued

/-- The ways a word ends at its checks. -/
theorem admitted_stops {s : State} {i : Instr} {a : Admit} {issued : State} (h : exec i s = admitted s a issued) :
    (∀ cause, a = .fault cause → exec i s = .next (s.engFault .vector cause 0 0 0)) ∧ (a = .wait → exec i s = .next s) := by
  refine ⟨fun cause hc => ?_, fun hw => ?_⟩
  · rw [h, hc]
    rfl
  · rw [h, hw]
    rfl

theorem admitted_go {s : State} {i : Instr} {a : Admit} {issued : State} (h : exec i s = admitted s a issued) (hgo : a = .go) :
    exec i s = .next issued := by
  rw [h, hgo]
  rfl

/-- An access that passes its checks has passed the second of them, in which its type must fit. -/
theorem fits_of_checks {c p : Prop} [Decidable c] [Decidable p] {fits : Bool} {x y : Nat} {rest : Admit}
    (h : (if c then .fault x else if (!fits) = true ∨ p then .fault y else rest) = Admit.go) : fits = true := by
  split at h
  · nomatch h
  · cases fits with
    | true => rfl
    | false =>
      rw [if_pos (.inl rfl)] at h
      nomatch h

theorem fits_of_admitRows {s : State} {w : Word64} {a : VAcc} {t : ElemType} (h : s.admitRows w a t = .go) :
    s.me.vec.fits t.width = true := fits_of_checks h

theorem fits_of_admitElems {s : State} {w : Word64} {a : VAcc} {g : Grain} {t : ElemType} {qs : List Nat} {idx : Nat → Nat}
    (h : s.admitElems w a g t qs idx = .go) : s.me.vec.fits t.width = true := fits_of_checks h

/-! ## Loads -/

/-- A word that reads its elements from a store: its entry holds them. -/
theorem load_issued {s : State} {t : ElemType} {effect : State → State} {g : Core → Core} (hfit : s.me.vec.fits t.width = true)
    (hfree : Unchecked s) (he : MeChanged s (effect s)) (hg : (effect s).me = g s.me) (h : Hold) (n wt : Nat)
    (srcs : List VReg) (d : VReg) (f : Nat → Option (Nat × Flags)) :
    ∃ e, VecIssued s (s.vecIssue h 1 n wt srcs (some d) (vOut t.width s.me.vec.count f) effect) 1 n wt h e g ∧
      e.dst = some (s.me.vec.phys d) ∧ e.holds t.width s.me.vec.count f :=
  ⟨_, vecIssued_of_clear (vecClear_of_unchecked hfree ..) he hg h 1 n, rfl, vOut_holds (VecUnit.packs_of_fits hfit) rfl rfl⟩

/-- The elements of a `vld`, by position. -/
def loadElem (s : State) (a : VAcc) (t : ElemType) (q : Nat) : Option (Nat × Flags) :=
  if vOn s q then some (convert a.bankF t.fmt .rne
    (readElem s.me.scratch a.size (a.at_ (q / s.me.vec.cols) (q % s.me.vec.cols)))) else none

theorem exec_vld (s : State) (h : Hold) (t : ElemType) (inc : Bool) (d : VReg) (vp : VpReg) :
    let a := s.vAcc (s.vp .vector vp) t
    let n := s.me.vec.beats t
    exec (.vld h t inc d vp) s = admitted s (s.admitRows (s.vp .vector vp) a t)
      (s.vecIssue h 1 n (s.tick + n + 2) [] (some d) (vOut t.width s.me.vec.count (loadElem s a t))
        (fun s => (s.setMe (s.me.holdTile a.place (s.tick + n + 1))).incOff inc vp a)) := rfl

theorem vld_issued {s : State} {t : ElemType} {vp : VpReg}
    (hgo : s.admitRows (s.vp .vector vp) (s.vAcc (s.vp .vector vp) t) t = .go) (hfree : Unchecked s) (h : Hold) (inc : Bool) (d : VReg) :
    let a := s.vAcc (s.vp .vector vp) t
    let n := s.me.vec.beats t
    ∃ x e, exec (.vld h t inc d vp) s = .next x ∧ VpMoved s x vp inc 17 (s.me.vec.rows * a.stride) ∧
      VecIssued s x 1 n (s.tick + n + 2) h e
        (fun _ => ((s.setMe (s.me.holdTile a.place (s.tick + n + 1))).incOff inc vp a).me) ∧
      e.dst = some (s.me.vec.phys d) ∧ e.holds t.width s.me.vec.count (loadElem s a t) := by
  intro a n
  let u := s.setMe (s.me.holdTile a.place (s.tick + n + 1))
  have hme : u.me = s.me.holdTile a.place (s.tick + n + 1) := State.me_setMe ..
  have hchanged : MeChanged s (u.incOff inc vp a) := ((MeChanged.refl s).holdTile ..).moveVp ..
  obtain ⟨e, issued, dst, holds⟩ := load_issued
    (effect := fun s => (s.setMe (s.me.holdTile a.place (s.tick + n + 1))).incOff inc vp a)
    (g := fun _ => (u.incOff inc vp a).me) (fits_of_admitRows hgo) hfree hchanged rfl h n (s.tick + n + 2) [] d (loadElem s a t)
  have moved := vpMoved_of_incOff issued (by rw [hme, Core.holdTile_outside]) (by rw [hme, Core.holdTile_runs])
  exact ⟨_, e, admitted_go (exec_vld ..) hgo, moved, issued, dst, holds⟩

/-- The elements of a `vgath`, by position. -/
def gatherElem (s : State) (a : VAcc) (g : Grain) (t : ElemType) (b : VReg) (q : Nat) : Option (Nat × Flags) :=
  if vOn s q then some (convert a.bankF t.fmt .rne
    (readElem s.me.scratch a.size (a.target g s.me.vec.cols q (vElemOf s .n32 b q)))) else none

theorem exec_vgath (s : State) (h : Hold) (t : ElemType) (g : Grain) (d : VReg) (vp : VpReg) (b : VReg) :
    let a := s.vAcc (s.vp .vector vp) t
    let n := s.me.vec.beats t
    exec (.vgath h t g d vp b) s =
      admitted s (s.admitElems (s.vp .vector vp) a g t s.me.vec.enabled (vElemOf s .n32 b))
        (s.vecIssue h 1 n (s.tick + n + 3) [b] (some d) (vOut t.width s.me.vec.count (gatherElem s a g t b))
          (fun s => s.setMe (s.me.holdTile a.place (s.tick + n + 2)))) := rfl

theorem vgath_issued {s : State} {t : ElemType} {g : Grain} {vp : VpReg} {b : VReg}
    (hgo : s.admitElems (s.vp .vector vp) (s.vAcc (s.vp .vector vp) t) g t s.me.vec.enabled (vElemOf s .n32 b) = .go)
    (hfree : Unchecked s) (h : Hold) (d : VReg) :
    let a := s.vAcc (s.vp .vector vp) t
    let n := s.me.vec.beats t
    ∃ x e, exec (.vgath h t g d vp b) s = .next x ∧
      VecIssued s x 1 n (s.tick + n + 3) h e (fun c => c.holdTile a.place (s.tick + n + 2)) ∧
      e.dst = some (s.me.vec.phys d) ∧ e.holds t.width s.me.vec.count (gatherElem s a g t b) := by
  intro a n
  obtain ⟨e, issued, dst, holds⟩ := load_issued (effect := fun s => s.setMe (s.me.holdTile a.place (s.tick + n + 2)))
    (g := fun c => c.holdTile a.place (s.tick + n + 2)) (fits_of_admitElems hgo) hfree ((MeChanged.refl s).holdTile ..)
    (State.me_setMe ..) h n (s.tick + n + 3) [b] d (gatherElem s a g t b)
  exact ⟨_, e, admitted_go (exec_vgath ..) hgo, issued, dst, holds⟩

/-! ## Stores -/

/-- The elements that a store writes, each with its place (R137, R165). -/
def storedAt (s : State) (a : VAcc) (t : ElemType) (d : VReg) (place : Nat → ElemAt) : List (ElemAt × Nat) :=
  s.me.vec.enabled.map (fun q => (place q, (convert t.fmt a.bankF .rne (vElemOf s t d q)).1))

/-- The writes of a store to scratchpad. -/
def storeWrites (s : State) (a : VAcc) (t : ElemType) (d : VReg) (place : Nat → ElemAt) : List (Nat × List Byte) :=
  storeElems s.me.scratch a.size (storedAt s a t d place)

theorem storeVals_places (s : State) (a : VAcc) (t : ElemType) (d : VReg) (place : Nat → ElemAt) :
    (s.storeVals a t d).1.map (fun x => (place x.1, x.2)) = storedAt s a t d place := by
  simp only [State.storeVals, List.map_map]
  rfl

/-- The state after a store's writes, its tile held. -/
def storesDone (s : State) (ws : List (Nat × List Byte)) (p : Place) (till : Nat) : State :=
  (s.vecStores ws).setMe ((s.vecStores ws).me.holdTile p till)

/-- A store changes the writes of the tick and the admitted accesses alone. -/
theorem storesDone_me (s : State) (ws : List (Nat × List Byte)) (p : Place) (till : Nat) :
    (storesDone s ws p till).me = { s.me with
      spBuf := s.me.spBuf ++ ws.map (fun y => (Engine.vector.rank, y.1, y.2)), admits := (storesDone s ws p till).me.admits } := by
  rw [storesDone, State.me_setMe, Core.holdTile_outside, State.vecStores_me]

theorem MeChanged.storesDone (s : State) (ws : List (Nat × List Byte)) (p : Place) (till : Nat) :
    MeChanged s (storesDone s ws p till) := (MeChanged.vecStores s ws).holdTile ..

/-- A store that has issued: its writes stand in the tick's, and scratchpad is as it was. -/
theorem store_issued {s u : State} {effect : State → State} {ws : List (Nat × List Byte)}
    (hfree : Unchecked s) (he : effect s = u) (hu : MeChanged s u) (hscratch : u.me.scratch = s.me.scratch)
    (hbuf : u.me.spBuf = s.me.spBuf ++ ws.map (fun y => (Engine.vector.rank, y.1, y.2)))
    (h : Hold) (n wt : Nat) (srcs : List VReg) (fl : Flags) :
    let x := s.vecIssue h 1 n wt srcs none (VOut.nothing fl) effect
    ∃ e, VecIssued s x 1 n wt h e (fun _ => u.me) ∧ e.dst = none ∧ x.me.scratch = s.me.scratch ∧
      x.me.spBuf = s.me.spBuf ++ ws.map (fun y => (Engine.vector.rank, y.1, y.2)) := by
  have issued := vecIssued_of_clear (effect := effect) (f := fun _ => u.me) (d := none) (o := VOut.nothing fl)
    (vecClear_of_unchecked hfree wt srcs _ _) (he ▸ hu) (congrArg State.me he) h 1 n
  refine ⟨_, issued, rfl, ?_, ?_⟩
  · rw [issued.me_eq, Core.vecGo_scratch]
    exact hscratch
  · rw [issued.me_eq, Core.vecGo_spBuf]
    exact hbuf

theorem exec_vst (s : State) (h : Hold) (t : ElemType) (inc : Bool) (d : VReg) (vp : VpReg) :
    let a := s.vAcc (s.vp .vector vp) t
    let n := s.me.vec.beats t
    let ws := storeWrites s a t d (fun q => a.at_ (q / s.me.vec.cols) (q % s.me.vec.cols))
    exec (.vst h t inc d vp) s = admitted s (s.admitRows (s.vp .vector vp) a t)
      (s.vecIssue h 1 n (s.tick + n + 2) [d] none (VOut.nothing (s.storeVals a t d).2)
        (fun s => (storesDone s ws a.place (s.tick + n + 1)).incOff inc vp a)) := by
  intro a n ws
  simp only [ws, storeWrites, ← storeVals_places]
  rfl

theorem vst_issued {s : State} {t : ElemType} {vp : VpReg}
    (hgo : s.admitRows (s.vp .vector vp) (s.vAcc (s.vp .vector vp) t) t = .go) (hfree : Unchecked s) (h : Hold) (inc : Bool) (d : VReg) :
    let a := s.vAcc (s.vp .vector vp) t
    let n := s.me.vec.beats t
    ∃ x e ws, exec (.vst h t inc d vp) s = .next x ∧ e.dst = none ∧
      VecIssued s x 1 n (s.tick + n + 2) h e
        (fun _ => ((storesDone s ws a.place (s.tick + n + 1)).incOff inc vp a).me) ∧
      VpMoved s x vp inc 17 (s.me.vec.rows * a.stride) ∧ x.me.scratch = s.me.scratch ∧
      x.me.spBuf = s.me.spBuf ++ ws.map (fun y => (Engine.vector.rank, y.1, y.2)) ∧
      StoredElems a.size s.me.scratch
        (storedAt s a t d (fun q => a.at_ (q / s.me.vec.cols) (q % s.me.vec.cols))) ws := by
  intro a n
  let ws := storeWrites s a t d (fun q => a.at_ (q / s.me.vec.cols) (q % s.me.vec.cols))
  let u := storesDone s ws a.place (s.tick + n + 1)
  have hu := storesDone_me s ws a.place (s.tick + n + 1)
  have hmoved := State.moveVp_me u inc vp 17 (u.me.vec.rows * a.stride)
  obtain ⟨e, issued, dst, scratch, buf⟩ := store_issued (u := u.incOff inc vp a) (ws := ws)
    (effect := fun s => (storesDone s ws a.place (s.tick + n + 1)).incOff inc vp a) hfree rfl
    ((MeChanged.storesDone ..).moveVp ..) (by rw [incOff_eq_moveVp, hmoved, hu]) (by rw [incOff_eq_moveVp, hmoved, hu])
    h n (s.tick + n + 2) [d] (s.storeVals a t d).2
  have moved := vpMoved_of_incOff issued (by rw [hu]) (by rw [hu])
  exact ⟨_, e, ws, admitted_go (exec_vst ..) hgo, dst, issued, moved, scratch, buf, storedElems_storeElems ..⟩

theorem exec_vscat (s : State) (h : Hold) (t : ElemType) (g : Grain) (d : VReg) (vp : VpReg) (b : VReg) :
    let a := s.vAcc (s.vp .vector vp) t
    let n := s.me.vec.beats t
    let ws := storeWrites s a t d (fun q => a.target g s.me.vec.cols q (vElemOf s .n32 b q))
    exec (.vscat h t g d vp b) s =
      admitted s (s.admitElems (s.vp .vector vp) a g t s.me.vec.enabled (vElemOf s .n32 b))
        (s.vecIssue h 1 n (s.tick + n + 2) [d, b] none (VOut.nothing (s.storeVals a t d).2)
          (fun s => storesDone s ws a.place (s.tick + n + 1))) := by
  intro a n ws
  simp only [ws, storeWrites, ← storeVals_places]
  rfl

theorem vscat_issued {s : State} {t : ElemType} {g : Grain} {vp : VpReg} {b : VReg}
    (hgo : s.admitElems (s.vp .vector vp) (s.vAcc (s.vp .vector vp) t) g t s.me.vec.enabled (vElemOf s .n32 b) = .go)
    (hfree : Unchecked s) (h : Hold) (d : VReg) :
    let a := s.vAcc (s.vp .vector vp) t
    let n := s.me.vec.beats t
    ∃ x e ws, exec (.vscat h t g d vp b) s = .next x ∧ e.dst = none ∧
      VecIssued s x 1 n (s.tick + n + 2) h e (fun _ => (s.vecStores ws).me.holdTile a.place (s.tick + n + 1)) ∧
      x.me.scratch = s.me.scratch ∧ x.me.spBuf = s.me.spBuf ++ ws.map (fun y => (Engine.vector.rank, y.1, y.2)) ∧
      StoredElems a.size s.me.scratch
        (storedAt s a t d (fun q => a.target g s.me.vec.cols q (vElemOf s .n32 b q))) ws := by
  intro a n
  let ws := storeWrites s a t d (fun q => a.target g s.me.vec.cols q (vElemOf s .n32 b q))
  have hu := storesDone_me s ws a.place (s.tick + n + 1)
  obtain ⟨e, issued, dst, scratch, buf⟩ := store_issued (u := storesDone s ws a.place (s.tick + n + 1)) (ws := ws)
    (effect := fun s => storesDone s ws a.place (s.tick + n + 1)) hfree rfl (MeChanged.storesDone ..) (by rw [hu]) (by rw [hu])
    h n (s.tick + n + 2) [d, b] (s.storeVals a t d).2
  have hheld : (storesDone s ws a.place (s.tick + n + 1)).me = (s.vecStores ws).me.holdTile a.place (s.tick + n + 1) :=
    State.me_setMe ..
  rw [hheld] at issued
  exact ⟨_, e, ws, admitted_go (exec_vscat ..) hgo, dst, issued, scratch, buf, storedElems_storeElems ..⟩

/-! ## The accumulator (R138) -/

/-- An accumulator access that R138 faults. -/
def AccBad (s : State) (w : Word64) (t : ElemType) (ex : Bool) : Prop :=
  shapeFits s t = false ∨ 2 ^ 17 ≤ w.toNat ∨ 128 < w.toNat / 2 ^ 10 % 2 ^ 7 + s.me.vec.cols ∨
    (if ex then 256 else 1024) < w.toNat % 2 ^ 10 + s.me.vec.rows

/-- The condition under which the model gives an access no place. -/
theorem accBad_iff (s : State) (w : Word64) (t : ElemType) (ex : Bool) :
    AccBad s w t ex ↔ (!s.me.vec.fits t.width) = true ∨ bitsOf w 17 47 ≠ 0 ∨ 128 < bitsOf w 10 7 + s.me.vec.cols ∨
      accRows ex < bitsOf w 0 10 + s.me.vec.rows := by
  rw [bitsOf_high_ne_zero w rfl, bitsOf_low, Bool.not_eq_true']
  rfl

theorem accPlace_bad {s : State} {w : Word64} {t : ElemType} {ex : Bool} (h : AccBad s w t ex) : s.accPlace w t ex = none :=
  if_pos ((accBad_iff ..).mp h)

theorem accPlace_good {s : State} {w : Word64} {t : ElemType} {ex : Bool} (h : ¬ AccBad s w t ex) :
    s.accPlace w t ex = some (w.toNat % 2 ^ 10, w.toNat / 2 ^ 10 % 2 ^ 7) := by
  rw [← bitsOf_low]
  exact if_neg (fun hb => h ((accBad_iff ..).mpr hb))

theorem fits_of_not_accBad {s : State} {w : Word64} {t : ElemType} {ex : Bool} (h : ¬ AccBad s w t ex) :
    s.me.vec.fits t.width = true :=
  Bool.eq_true_of_not_eq_false fun hf => h (.inl hf)

theorem vldacc_bad {s : State} {t : ElemType} {ex : Bool} {vp : VpReg} (hb : AccBad s (s.vp .vector vp) t ex)
    (h : Hold) (inc : Bool) (d : VReg) : exec (.vldacc h t inc ex d vp) s = .next (s.engFault .vector 0x0A 0 0 0) := by
  change execVldacc h t inc ex d vp s = _
  rw [execVldacc, accPlace_bad hb]
  rfl

theorem vstacc_bad {s : State} {t : ElemType} {ex : Bool} {vp : VpReg} (hb : AccBad s (s.vp .vector vp) t ex)
    (h : Hold) (inc : Bool) (d : VReg) : exec (.vstacc h t inc ex d vp) s = .next (s.engFault .vector 0x0A 0 0 0) := by
  change execVstacc h t inc ex d vp s = _
  rw [execVstacc, accPlace_bad hb]
  rfl

/-- Where position `q` of an accumulator access stands. -/
def accPos (s : State) (w : Word64) (ex : Bool) (q : Nat) : Nat :=
  accAt ex (w.toNat % 2 ^ 10 + q / s.me.vec.cols) (w.toNat / 2 ^ 10 % 2 ^ 7 + q % s.me.vec.cols)

/-- The elements of a `vldacc`, by position. -/
def accElem (s : State) (w : Word64) (t : ElemType) (ex : Bool) (q : Nat) : Option (Nat × Flags) :=
  if vOn s q then some (accOut ex t.fmt (leNat (Memory.load s.me.acc (accPos s w ex q) (if ex then 16 else 4)))) else none

theorem vldacc_issued {s : State} {t : ElemType} {ex : Bool} {vp : VpReg} (hok : ¬ AccBad s (s.vp .vector vp) t ex)
    (hfree : Unchecked s) (h : Hold) (inc : Bool) (d : VReg) :
    ∃ x e, exec (.vldacc h t inc ex d vp) s = .next x ∧ VpMoved s x vp inc 10 s.me.vec.rows ∧
      VecIssued s x 1 (s.me.vec.beats t) (s.tick + s.me.vec.beats t + 2) h e (fun _ => (s.incRow inc vp).me) ∧
      e.dst = some (s.me.vec.phys d) ∧ e.holds t.width s.me.vec.count (accElem s (s.vp .vector vp) t ex) := by
  obtain ⟨e, issued, dst, holds⟩ := load_issued (effect := fun s => s.incRow inc vp) (g := fun _ => (s.incRow inc vp).me)
    (fits_of_not_accBad hok) hfree ((MeChanged.refl s).moveVp inc vp 10 s.me.vec.rows) rfl h (s.me.vec.beats t)
    (s.tick + s.me.vec.beats t + 2) [] d (accElem s (s.vp .vector vp) t ex)
  refine ⟨_, e, ?_, vpMoved_of_incRow issued rfl rfl, issued, dst, holds⟩
  change execVldacc h t inc ex d vp s = _
  rw [execVldacc, accPlace_good hok]
  rfl

/-- The writes of a `vstacc`. -/
def accWrites (s : State) (w : Word64) (t : ElemType) (ex : Bool) (d : VReg) : List (Nat × Nat × List Byte) :=
  s.me.vec.enabled.map (fun q =>
    (Engine.vector.rank, accPos s w ex q, leBytes (if ex then 16 else 4) (accIn ex t.fmt (vElemOf s t d q)).1))

/-- The flags that a `vstacc` raises. -/
def accStoreFlags (s : State) (t : ElemType) (ex : Bool) (d : VReg) : Flags :=
  (s.me.vec.enabled.map (fun q => (q, accIn ex t.fmt (vElemOf s t d q)))).foldl (fun fl c => fl ||| c.2.2) 0

/-- The state with writes to the accumulator in this tick. -/
def State.accStores (s : State) (ws : List (Nat × Nat × List Byte)) : State :=
  s.setMe { s.me with accBuf := s.me.accBuf ++ ws }

theorem MeChanged.accStores (s : State) (ws : List (Nat × Nat × List Byte)) : MeChanged s (s.accStores ws) :=
  (MeChanged.refl s).setMe_of_runs (c := { s.me with accBuf := s.me.accBuf ++ ws }) rfl rfl

theorem exec_vstacc {s : State} {t : ElemType} {ex : Bool} {vp : VpReg} (hok : ¬ AccBad s (s.vp .vector vp) t ex)
    (h : Hold) (inc : Bool) (d : VReg) :
    exec (.vstacc h t inc ex d vp) s = .next (s.vecIssue h 1 (s.me.vec.beats t) (s.tick + s.me.vec.beats t + 2) [d] none
      (VOut.nothing (accStoreFlags s t ex d)) (fun x => (x.accStores (accWrites s (s.vp .vector vp) t ex d)).incRow inc vp)) := by
  change execVstacc h t inc ex d vp s = _
  rw [execVstacc, accPlace_good hok]
  simp only [Core.foldl_accWrite, List.map_map]
  rfl

theorem vstacc_issued {s : State} {t : ElemType} {ex : Bool} {vp : VpReg} (hok : ¬ AccBad s (s.vp .vector vp) t ex)
    (hfree : Unchecked s) (h : Hold) (inc : Bool) (d : VReg) :
    ∃ x e, exec (.vstacc h t inc ex d vp) s = .next x ∧ e.dst = none ∧ OnlyCore s.cur.core s x ∧
      VpMoved s x vp inc 10 s.me.vec.rows ∧ x.me.vec.pending = s.me.vec.pending ++ [e] ∧
      e.at_ = s.tick + s.me.vec.beats t + 2 ∧ x.me.acc = s.me.acc ∧ x.me.vec.v = s.me.vec.v ∧ x.mem = s.mem ∧
      x.me.accBuf = s.me.accBuf ++ accWrites s (s.vp .vector vp) t ex d := by
  let u := s.accStores (accWrites s (s.vp .vector vp) t ex d)
  have hu : u.me = { s.me with accBuf := s.me.accBuf ++ accWrites s (s.vp .vector vp) t ex d } := State.me_setMe ..
  have hchanged : MeChanged s (u.incRow inc vp) := (MeChanged.accStores ..).moveVp inc vp 10 u.me.vec.rows
  have issued := vecIssued_of_clear (effect := fun x => (x.accStores (accWrites s (s.vp .vector vp) t ex d)).incRow inc vp)
    (f := fun _ => (u.incRow inc vp).me) (d := none) (o := VOut.nothing (accStoreFlags s t ex d))
    (vecClear_of_unchecked hfree (s.tick + s.me.vec.beats t + 2) [d] _ _) hchanged rfl h 1 (s.me.vec.beats t)
  have hme := (State.moveVp_me u inc vp 10 u.me.vec.rows)
  rw [← incRow_eq_moveVp, hu] at hme
  refine ⟨_, _, exec_vstacc hok h inc d, rfl, issued.only, vpMoved_of_incRow issued (by rw [hu]) (by rw [hu]), ?_,
    issued.at_, ?_, ?_, ?_, ?_⟩
  · rw [issued.me_eq, Core.vecGo_pending, hme]
    rfl
  · rw [issued.me_eq, Core.vecGo_acc, hme]
    rfl
  · rw [issued.me_eq, Core.vecGo_v, hme]
    rfl
  · rw [issued.only.outside]
  · rw [issued.me_eq, Core.vecGo_accBuf, hme]
    rfl

/-! ## The statement -/

/-- Settles O41: each word by what its access meets, its entry and its writes. -/
theorem vectorMemoryWords : Obligations.VectorMemoryWords := by
  unfold Obligations.VectorMemoryWords
  intro s h t inc ex d vp
  refine ⟨?_, fun hgo hfree => vld_issued hgo hfree h inc d, fun hgo hfree => vst_issued hgo hfree h inc d, ?_,
    fun hok hfree => vldacc_issued hok hfree h inc d, fun hok hfree => vstacc_issued hok hfree h inc d, fun g b => ⟨?_,
    fun hgo hfree => vgath_issued hgo hfree h d, fun hgo hfree => vscat_issued hgo hfree h d⟩⟩
  · rintro i (rfl | rfl)
    · exact admitted_stops (exec_vld ..)
    · exact admitted_stops (exec_vst ..)
  · rintro i (rfl | rfl) hb
    · exact vldacc_bad hb h inc d
    · exact vstacc_bad hb h inc d
  · rintro i (rfl | rfl)
    · exact admitted_stops (exec_vgath ..)
    · exact admitted_stops (exec_vscat ..)

end Sys2Proof.Machine
end

section
/-! Direction vectors (R168): what `vqdir` does at its issue, and where its run goes on at the end of a loop's body. -/

namespace Sys2Proof.Machine

/-! ## The issue of `vqdir` (R168) -/

/-- The scratchpad place from which a `vqdir` loads. -/
def dirPlace (s : State) (vpa : VpReg) : Place :=
  let w := s.vp .vector vpa
  s.me.place (bit w.toNat 63) (Fin.ofNat 64 (bitsOf w 56 6)) (bitsOf w 17 4) (bitsOf w 0 17)

/-- The number of dimensions that a `vqdir` loads. -/
def dirCount (s : State) (vpb : VpReg) : Nat := bitsOf (s.vp .vector vpb) 6 7

/-- The loads that a `vqdir` sets on their way: the tick, the dimension and the words of each. -/
def dirLoadsOf (s : State) (vpa vpb : VpReg) : List (Nat × Nat × List (BitVec 32)) :=
  (List.range (dirCount s vpb)).map (fun q => (s.tick + q, bitsOf (s.vp .vector vpb) 0 6 + q, (List.range 32).map (fun k =>
    BitVec.ofNat 32 (leNat (s.me.spRead ((dirPlace s vpa).byte ((dirPlace s vpa).off + 4 * (32 * q + k))) 4)))))

/-- The core after the issue of a `vqdir`, its entry and its place apart. -/
def Core.withDirLoads (c : Core) (loads : List (Nat × Nat × List (BitVec 32))) (tick : Nat) (p : Place) (till : Nat) : Core :=
  Core.holdTile { c with vec := { c.vec with dirLoads := c.vec.dirLoads ++ loads }.landDirs tick } p till

theorem Core.withDirLoads_loop (c : Core) (loads : List (Nat × Nat × List (BitVec 32))) (tick : Nat) (p : Place) (till : Nat) :
    (c.withDirLoads loads tick p till).vec.loop = c.vec.loop := by
  rw [Core.withDirLoads, Core.holdTile_outside]
  rfl

/-- The effect of a `vqdir` on the state. -/
def State.withDirLoads (s : State) (loads : List (Nat × Nat × List (BitVec 32))) (tick : Nat) (p : Place) (till : Nat) : State :=
  let s1 := s.setVec ({ s.me.vec with dirLoads := s.me.vec.dirLoads ++ loads }.landDirs tick)
  s1.setMe (s1.me.holdTile p till)

theorem State.withDirLoads_me (s : State) (loads : List (Nat × Nat × List (BitVec 32))) (tick : Nat) (p : Place) (till : Nat) :
    (s.withDirLoads loads tick p till).me = s.me.withDirLoads loads tick p till := by
  simp only [State.withDirLoads, State.setVec, State.me_setMe, Core.withDirLoads]

theorem MeChanged.withDirLoads (s : State) (loads : List (Nat × Nat × List (BitVec 32))) (tick : Nat) (p : Place) (till : Nat) :
    MeChanged s (s.withDirLoads loads tick p till) := by
  refine MeChanged.holdTile (u := s.setVec _) ?_ p till
  exact (MeChanged.refl s).setMe_of_runs rfl rfl

/-- A field that a `vqdir` names is out of its range (R168). -/
def DirBad (s : State) (vpa vpb : VpReg) : Prop :=
  64 < bitsOf (s.vp .vector vpb) 0 6 + dirCount s vpb ∨ dirCount s vpb = 0 ∨ bitsOf (s.vp .vector vpb) 13 51 ≠ 0 ∨
    (vpAddr? (s.vp .vector vpa)).isNone = true ∨ (!(dirPlace s vpa).fits (dirPlace s vpa).off (128 * dirCount s vpb)) = true

/-- `vqdir` past its checks meets the tile and the publishes of its place. -/
theorem exec_vqdir {s : State} {vpa vpb : VpReg} (hok : ¬ DirBad s vpa vpb) (hoff : (dirPlace s vpa).off % 4 = 0) (h : Hold) :
    exec (.vqdir h vpa vpb) s =
      admitted s (s.admitTile (dirPlace s vpa) (dirPlace s vpa).off (128 * dirCount s vpb))
        (s.vecIssue h 1 1 (s.tick + dirCount s vpb) [] none (VOut.nothing 0)
          (fun x => x.withDirLoads (dirLoadsOf s vpa vpb) x.tick (dirPlace s vpa) (s.tick + dirCount s vpb - 1))) :=
  (if_neg hok).trans (if_neg (not_not_intro hoff))

/-- A `vqdir` that ends a loop's body with a pass to come goes on at the body's first word (R152). -/
theorem vqdir_bodyEnd {s x : State} {vpa vpb : VpReg} {h : Hold} {l : VLoop} (hok : ¬ DirBad s vpa vpb)
    (hoff : (dirPlace s vpa).off % 4 = 0) (hgo : s.admitTile (dirPlace s vpa) (dirPlace s vpa).off (128 * dirCount s vpb) = .go)
    (hl : s.me.vec.loop = some l) (hend : (s.run .vector).upc.toNat + 1 = l.u + 1 + l.l) (hp : l.p + 1 < l.n + l.s - 1)
    (hx : exec (.vqdir h vpa vpb) s = .next x) : (x.me.runOf .vector).upc = BitVec.ofNat 24 (l.u + 1) := by
  let p := dirPlace s vpa
  let c := s.me.withDirLoads (dirLoadsOf s vpa vpb) s.tick p (s.tick + dirCount s vpb - 1)
  have issued := vecIssued_of_clear (f := fun _ => c) (o := VOut.nothing 0)
    (effect := fun x => x.withDirLoads (dirLoadsOf s vpa vpb) x.tick p (s.tick + dirCount s vpb - 1))
    (vecClear_ctl s (s.tick + dirCount s vpb))
    (MeChanged.withDirLoads s (dirLoadsOf s vpa vpb) s.tick p (s.tick + dirCount s vpb - 1)) (State.withDirLoads_me ..) h 1 1
  rw [admitted_go (exec_vqdir hok hoff h) hgo] at hx
  cases hx
  have hloop : (c.withEntry (vecEntry s (s.tick + dirCount s vpb) none (VOut.nothing 0))).vec.loop = some l :=
    (Core.withDirLoads_loop ..).trans hl
  obtain ⟨-, -, -, next_pass, -⟩ := vecGo_bodyEnd hloop (s.tick + 1 + h.toNat)
  rw [issued.me_eq, hend]
  exact (next_pass hp).1

/-! ## The statement -/

/-- A vector engine at the only word of a loop's body, in the first of two passes, with one dimension named in vp1. -/
def loopingCore : Core :=
  Core.setRun { Core.reset with vec := { Core.reset.vec with loop := some { n := 2, s := 1, l := 1, u := 0, p := 0 } } } .vector
    { Run.idle with active := true, upc := 1, endOff := 3, vp := vset Run.idle.vp 1 64 }

/-- Refutes O43: a `vqdir` that ends a loop's body with a pass to come does not go on at the next word, but at the body's first (R152),
while the clause on its issue states the next word in every state. Here the body is the word at 1, and the run stays at 1. -/
theorem not_vectorQueuesAndDirections : ¬ Obligations.VectorQueuesAndDirections := by
  unfold Obligations.VectorQueuesAndDirections
  rintro ⟨-, directions⟩
  let s := State.reset.setMe loopingCore
  obtain ⟨-, -, -, issues, -⟩ := directions s 0 0 1
  obtain ⟨x, hx, -, -, hupc, -⟩ := issues (by decide +kernel) (by decide +kernel) (by decide +kernel) (by decide +kernel)
    (by decide +kernel)
  have hback : (x.me.runOf .vector).upc = BitVec.ofNat 24 1 :=
    vqdir_bodyEnd (l := { n := 2, s := 1, l := 1, u := 0, p := 0 }) (by unfold DirBad; decide +kernel) (by decide +kernel)
      (by decide +kernel) (by decide +kernel) (by decide +kernel) (by decide) hx
  have hnext : (s.run .vector).upc + 1 = BitVec.ofNat 24 2 := by decide +kernel
  exact absurd (hback.symm.trans (hupc.trans hnext)) (by decide)

end Sys2Proof.Machine
end

section
/-! The order of exact values (R39, R142) and the width of FP32 results (R54): what comparisons, sums and roundings give, stated
on rational numbers. -/

namespace Sys2Proof.Machine

/-! ## Values with infinities -/

/-- The value of a number, infinities included; a NaN counts as 0. -/
def Exact.extended (x : Exact) : WithBot (WithTop ℚ) :=
  match x with
  | .inf true => ⊥
  | .inf false => ((⊤ : WithTop ℚ) : WithBot (WithTop ℚ))
  | .fin _ _ _ _ | .nan _ _ => ((x.q : WithTop ℚ) : WithBot (WithTop ℚ))

/-- The place of a number in the order of R142: by its value, −0 below +0. -/
def Exact.orderKey (x : Exact) : WithBot (WithTop ℚ) ×ₗ Bool := toLex (x.extended, !x.sign)

/-- The exact sum of two signed magnitudes. -/
theorem alignSum_q (n₁ n₂ : Bool) (m₁ m₂ : Nat) (e₁ e₂ : Int) (s₁ s₂ : Bool) :
    ((alignSum n₁ m₁ e₁ n₂ m₂ e₂).1 : ℚ) * (2 : ℚ) ^ (alignSum n₁ m₁ e₁ n₂ m₂ e₂).2 =
      (Exact.fin n₁ m₁ e₁ s₁).q + (Exact.fin n₂ m₂ e₂ s₂).q := by
  let low : Int := if e₁ < e₂ then e₁ else e₂
  have part (n : Bool) (m : Nat) (e : Int) (s : Bool) (hle : low ≤ e) :
      (((if n then -((m : Int) * 2 ^ (e - low).toNat) else (m : Int) * 2 ^ (e - low).toNat) : Int) : ℚ) * (2 : ℚ) ^ low =
        (Exact.fin n m e s).q := by
    have hsign : (if n then -((m : Int) * 2 ^ (e - low).toNat) else (m : Int) * 2 ^ (e - low).toNat) =
        (if n then -(m : Int) else m) * 2 ^ (e - low).toNat := by cases n <;> simp
    rw [Exact.q_fin, hsign]
    exact aligned_productQ (if n then -(m : Int) else m, e) hle
  have h₁ := part n₁ m₁ e₁ s₁ (by dsimp only [low]; split <;> omega)
  have h₂ := part n₂ m₂ e₂ s₂ (by dsimp only [low]; split <;> omega)
  rw [← h₁, ← h₂, ← add_mul, ← Int.cast_add]
  rfl

theorem Exact.q_negate (x : Exact) : x.negate.q = -x.q := by
  cases x with
  | nan n f | inf n => simp [Exact.negate, Exact.q]
  | fin n m e s => cases n <;> simp [Exact.negate, Exact.q]

/-- The comparison of two finite numbers is that of their values. -/
theorem cmpNum_fin (n₁ n₂ : Bool) (m₁ m₂ : Nat) (e₁ e₂ : Int) (s₁ s₂ : Bool) :
    let x := Exact.fin n₁ m₁ e₁ s₁
    let y := Exact.fin n₂ m₂ e₂ s₂
    cmpNum x y = if x.q < y.q then -1 else if x.q = y.q then 0 else 1 := by
  intro x y
  have hsum := alignSum_q n₁ (!n₂) m₁ m₂ e₁ e₂ s₁ s₂
  have hneg : (Exact.fin (!n₂) m₂ e₂ s₂).q = -y.q := y.q_negate
  rw [hneg, ← sub_eq_add_neg] at hsum
  have hcmp : cmpNum x y = if (alignSum n₁ m₁ e₁ (!n₂) m₂ e₂).1 < 0 then -1
      else if (alignSum n₁ m₁ e₁ (!n₂) m₂ e₂).1 = 0 then 0 else 1 := rfl
  have hpow : (0 : ℚ) < 2 ^ (alignSum n₁ m₁ e₁ (!n₂) m₂ e₂).2 := by positivity
  generalize (alignSum n₁ m₁ e₁ (!n₂) m₂ e₂).1 = i at hsum hcmp
  have hlt : i < 0 ↔ x.q < y.q := by
    rw [← sub_neg (a := x.q), ← hsum, ← not_le, ← not_le, mul_nonneg_iff_of_pos_right hpow, Int.cast_nonneg_iff]
  have heq : i = 0 ↔ x.q = y.q := by
    rw [← sub_eq_zero (a := x.q), ← hsum, mul_eq_zero, or_iff_left hpow.ne', Int.cast_eq_zero]
  rw [hcmp]
  simp only [hlt, heq]

/-- The comparison of two numbers is that of their values. -/
theorem cmpNum_eq {x y : Exact} (hx : x.isNan = false) (hy : y.isNan = false) :
    cmpNum x y = if x.extended < y.extended then -1 else if x.extended = y.extended then 0 else 1 := by
  cases x with
  | nan n f => nomatch hx
  | inf a =>
    cases y with
    | nan n f => nomatch hy
    | inf b => cases a <;> cases b <;> simp [cmpNum, Exact.extended]
    | fin n m e s => cases a <;> simp [cmpNum, Exact.extended]
  | fin n m e s =>
    cases y with
    | nan n f => nomatch hy
    | inf b => cases b <;> simp [cmpNum, Exact.extended]
    | fin n' m' e' s' =>
      simp only [Exact.extended, WithBot.coe_lt_coe, WithTop.coe_lt_coe, WithBot.coe_inj, WithTop.coe_inj]
      exact cmpNum_fin ..

theorem cmpNum_pos_iff {x y : Exact} (hx : x.isNan = false) (hy : y.isNan = false) : 0 < cmpNum x y ↔ y.extended < x.extended := by
  rw [cmpNum_eq hx hy]
  rcases lt_trichotomy x.extended y.extended with h | h | h
  · simp [h, h.le]
  · simp [h]
  · simp [h, h.not_gt, h.ne']

theorem ltOrdered_iff {x y : Exact} (hx : x.isNan = false) (hy : y.isNan = false) :
    ltOrdered x y = true ↔ x.orderKey < y.orderKey := by
  simp only [ltOrdered, cmpNum_eq hx hy, Exact.orderKey, Prod.Lex.toLex_lt_toLex]
  rcases lt_trichotomy x.extended y.extended with h | h | h
  · simp [h]
  · cases x.sign <;> cases y.sign <;> simp [h]
  · simp [h.not_gt, h.ne']

/-! ## The width of a result (R54) -/

theorem FpFmt.pack_lt (f : FpFmt) (neg : Bool) {x fr : Nat} (hx : x < 2 ^ f.eb) (hfr : fr < 2 ^ f.fb) :
    f.pack neg x fr < 2 ^ (f.eb + f.fb + 1) := by
  have hs : b2n neg ≤ 1 := by cases neg <;> decide
  have hfield : x * 2 ^ f.fb + fr < 2 ^ (f.eb + f.fb) := by
    calc x * 2 ^ f.fb + fr
      _ < (x + 1) * 2 ^ f.fb := by rw [Nat.add_mul, Nat.one_mul]; omega
      _ ≤ 2 ^ f.eb * 2 ^ f.fb := Nat.mul_le_mul_right _ hx
      _ = 2 ^ (f.eb + f.fb) := (Nat.pow_add ..).symm
  have hsign : b2n neg * 2 ^ (f.eb + f.fb) ≤ 1 * 2 ^ (f.eb + f.fb) := Nat.mul_le_mul_right _ hs
  rw [FpFmt.pack, put, put, Nat.pow_succ]
  omega

theorem roundShift_le (rm : RM) (neg : Bool) (m drop : Nat) (sticky : Bool) :
    (roundShift rm neg m drop sticky).1 ≤ m / 2 ^ drop + 1 := by
  have pick (up : Bool) : (if up then m / 2 ^ drop + 1 else m / 2 ^ drop) ≤ m / 2 ^ drop + 1 := by cases up <;> simp
  exact pick _

/-- A magnitude rounded to a quantum no finer than its own last place under `fb` fraction bits has at most one bit more. -/
theorem roundedTo_le (m : Nat) (rm : RM) (neg : Bool) (e q : Int) (fb : Nat) (sticky : Bool)
    (hq : e + m.log2 - fb ≤ q) :
    (if e ≤ q then roundShift rm neg m (q - e).toNat sticky else (m * 2 ^ (e - q).toNat, sticky)).1 ≤ 2 ^ (fb + 1) := by
  have hlt : m < 2 ^ (m.log2 + 1) := Nat.lt_log2_self
  split
  next hle =>
    have hpow : m < 2 ^ (q - e).toNat * 2 ^ (fb + 1) := by
      rw [← Nat.pow_add]
      exact lt_of_lt_of_le hlt (Nat.pow_le_pow_right (by decide) (by omega))
    have hdiv := Nat.div_lt_of_lt_mul hpow
    have := roundShift_le rm neg m (q - e).toNat sticky
    omega
  next hgt =>
    calc m * 2 ^ (e - q).toNat
      _ ≤ 2 ^ (m.log2 + 1) * 2 ^ (e - q).toNat := Nat.mul_le_mul_right _ hlt.le
      _ = 2 ^ (m.log2 + 1 + (e - q).toNat) := (Nat.pow_add ..).symm
      _ ≤ 2 ^ (fb + 1) := Nat.pow_le_pow_right (by decide) (by omega)

/-- The bits of a rounded magnitude `n` in units of 2^q: subnormal, beyond the range, or normal. -/
def FpFmt.packed (f : FpFmt) (rm : RM) (neg : Bool) (n : Nat) (q : Int) : Nat :=
  if n < 2 ^ f.fb then f.pack neg 0 n
  else if (2 ^ f.eb - 1 : Int) ≤ q + f.fb + f.bias then
    if (match rm with | .rne => false | .rtz => true | .rdn => !neg | .rup => neg) then f.maxFin neg else f.inf neg
  else f.pack neg (q + f.fb + f.bias).toNat (n - 2 ^ f.fb)

theorem FpFmt.packed_lt (f : FpFmt) (rm : RM) (neg : Bool) {n : Nat} (q : Int) (hn : n < 2 ^ (f.fb + 1)) :
    f.packed rm neg n q < 2 ^ (f.eb + f.fb + 1) := by
  have hfb : 0 < 2 ^ f.fb := by positivity
  have heb : 0 < 2 ^ f.eb := by positivity
  unfold FpFmt.packed
  split
  next hsub => exact f.pack_lt neg heb hsub
  next hsub =>
    split
    next =>
      have beyond (toMax : Bool) : (if toMax then f.maxFin neg else f.inf neg) < 2 ^ (f.eb + f.fb + 1) := by
        cases toMax with
        | false => exact f.pack_lt neg (by omega) hfb
        | true => exact f.pack_lt neg (by omega) (by omega)
      exact beyond _
    next hx =>
      refine f.pack_lt neg ?_ (by omega)
      have hcast : ((2 ^ f.eb : Nat) : Int) = 2 ^ f.eb := by push_cast; rfl
      omega

theorem FpFmt.round_lt (f : FpFmt) (rm : RM) (neg : Bool) (m : Nat) (e : Int) (sticky : Bool) :
    (f.round rm neg m e sticky).1 < 2 ^ (f.eb + f.fb + 1) := by
  by_cases hm : m = 0
  · rw [show f.round rm neg m e sticky = (f.pack neg 0 0, 0, false) from if_pos hm]
    exact f.pack_lt neg (by positivity) (by positivity)
  let emin : Int := 1 - f.bias
  let top : Int := e + m.log2
  let q : Int := (if top < emin then emin else top) - f.fb
  let n := (if e ≤ q then roundShift rm neg m (q - e).toNat sticky else (m * 2 ^ (e - q).toNat, sticky)).1
  let r := if n = 2 ^ (f.fb + 1) then (2 ^ f.fb, q + 1) else (n, q)
  have hbits : (f.round rm neg m e sticky).1 = f.packed rm neg r.1 r.2 :=
    (congrArg Prod.fst (if_neg hm)).trans ((apply_ite Prod.fst _ _ _).trans (congrArg (ite _ _) (apply_ite Prod.fst _ _ _)))
  have hn : n ≤ 2 ^ (f.fb + 1) := roundedTo_le m rm neg e q f.fb sticky (by dsimp only [q, top]; split <;> omega)
  rw [hbits]
  refine f.packed_lt rm neg r.2 ?_
  dsimp only [r]
  split
  · exact Nat.pow_lt_pow_right (by decide) (Nat.lt_succ_self _)
  · omega

theorem FpFmt.quiet_lt (f : FpFmt) (neg : Bool) {frac : Nat} (h : frac < 2 ^ 23) (hf : f.fb ≤ 23) :
    f.quiet neg frac < 2 ^ (f.eb + f.fb + 1) := by
  refine f.pack_lt neg (Nat.sub_lt (by positivity) one_pos) (Nat.div_lt_of_lt_mul ?_)
  rw [← Nat.pow_add, Nat.sub_add_cancel hf]
  split <;> omega

/-- An FP32 result has 32 bits. -/
theorem fp32_fit_lt (rm : RM) {x : Exact} (hx : ∀ n fr, x = .nan n fr → fr < 2 ^ 23) : (fp32.fit rm x).1 < 2 ^ 32 := by
  cases x with
  | nan n fr => exact fp32.quiet_lt n (hx n fr rfl) le_rfl
  | inf n => exact fp32.pack_lt n (by decide) (by decide)
  | fin n m e s => exact fp32.round_lt rm n m e s

/-- The fraction of a NaN that an encoding gives stands left-aligned in 23 bits. -/
theorem FpFmt.decode_frac_lt {f : FpFmt} (hf : f.fb ≤ 23) {b : Nat} {n : Bool} {fr : Nat} (h : f.decode b = .nan n fr) :
    fr < 2 ^ 23 := by
  simp only [FpFmt.decode] at h
  split at h
  · split at h
    · nomatch h
    · cases h
      calc fld b 0 f.fb * 2 ^ (23 - f.fb)
        _ < 2 ^ f.fb * 2 ^ (23 - f.fb) := Nat.mul_lt_mul_of_pos_right (Nat.mod_lt _ (by positivity)) (by positivity)
        _ = 2 ^ 23 := by rw [← Nat.pow_add, Nat.add_sub_cancel' hf]
  · split at h <;> nomatch h

/-- The score of a selection has 32 bits (R160). -/
theorem scoreWord_lt (t : ElemType) (b : Nat) : scoreWord t b < 2 ^ 32 := by
  have wrapped (i : Int) : wrapInt 32 i < 2 ^ 32 := by
    rw [wrapInt]
    omega
  have fitted {f : FpFmt} (hf : f.fb ≤ 23) : (fp32.fit .rne (f.decode b)).1 < 2 ^ 32 :=
    fp32_fit_lt .rne fun _ _ h => FpFmt.decode_frac_lt hf h
  cases t
  case f32 | f16 | b16 => exact fitted (by decide)
  case i32 | i16 | i8 | n32 | n8 => exact wrapped _

end Sys2Proof.Machine
end

section
/-! The ranking of candidates (R161, R162): inserting each in turn behind its equals and keeping k gives the best k of them all. -/

namespace Sys2Proof.Machine

/-! ## The order of candidates -/

/-- A candidate's score is strictly better than another's. -/
def Cand.better (max : Bool) (a b : Cand) : Prop :=
  if max then b.val.orderKey < a.val.orderKey else a.val.orderKey < b.val.orderKey

/-- A candidate ranks before another by its score, or, scores equal and ids ranking, by its id. -/
theorem Cand.before_iff {max byId : Bool} {a b : Cand} (ha : a.val.isNan = false) (hb : b.val.isNan = false) :
    a.before max byId b = true ↔ a.better max b ∨ (¬ b.better max a ∧ byId = true ∧ a.id < b.id) := by
  cases max <;> simp [Cand.before, Cand.better, ← ltOrdered_iff, ha, hb, and_assoc]

theorem Cand.before_asymm {max byId : Bool} {a b : Cand} (ha : a.val.isNan = false) (hb : b.val.isNan = false)
    (h : a.before max byId b = true) : b.before max byId a = false := by
  rw [← Bool.not_eq_true, Cand.before_iff hb ha]
  rw [Cand.before_iff ha hb] at h
  cases max <;> simp only [Cand.better, Bool.false_eq_true, if_true, if_false] at h ⊢ <;> grind

/-- What ranks before a candidate ranks before everything that does not rank before that candidate. -/
theorem Cand.before_of_before {max byId : Bool} {a b c : Cand} (ha : a.val.isNan = false) (hb : b.val.isNan = false)
    (hc : c.val.isNan = false) (h : a.before max byId b = true) (hn : c.before max byId b = false) :
    a.before max byId c = true := by
  rw [← Bool.not_eq_true, Cand.before_iff hc hb] at hn
  rw [Cand.before_iff ha hb] at h
  rw [Cand.before_iff ha hc]
  cases max <;> simp only [Cand.better, Bool.false_eq_true, if_true, if_false] at h hn ⊢ <;> grind

/-! ## All candidates in rank order, each with its place -/

/-- A candidate with its place ranks before another: by the order, or, equal, by an earlier place. -/
def PlacedBefore (max byId : Bool) (p q : Cand × Nat) : Prop :=
  p.1.before max byId q.1 = true ∨ (q.1.before max byId p.1 = false ∧ p.2 < q.2)

/-- Candidates with their places, inserted in turn behind their equals. -/
def rankAll (max byId : Bool) (ps : List (Cand × Nat)) : List (Cand × Nat) :=
  ps.foldl (fun l p => l.orderedInsert (fun p q => p.1.before max byId q.1 = true) p) []

theorem rankAll_perm (max byId : Bool) (ps : List (Cand × Nat)) : (rankAll max byId ps).Perm ps := by
  induction ps using List.reverseRecOn with
  | nil => exact .refl _
  | append_singleton ps p ih =>
    rw [rankAll, List.foldl_append]
    exact (List.perm_orderedInsert ..).trans ((ih.cons p).trans (List.perm_append_singleton p ps).symm)

/-- A candidate behind all others by its place keeps the list in rank order. -/
theorem pairwise_orderedInsert {max byId : Bool} {p : Cand × Nat} {l : List (Cand × Nat)} (hp : p.1.val.isNan = false)
    (hl : ∀ q ∈ l, q.1.val.isNan = false ∧ q.2 < p.2) (h : l.Pairwise (PlacedBefore max byId)) :
    (l.orderedInsert (fun p q => p.1.before max byId q.1 = true) p).Pairwise (PlacedBefore max byId) := by
  induction l with
  | nil => exact List.pairwise_singleton _ _
  | cons q l ih =>
    obtain ⟨⟨hq, hplace⟩, hrest⟩ := List.forall_mem_cons.1 hl
    obtain ⟨hfirst, hsorted⟩ := List.pairwise_cons.1 h
    rw [List.orderedInsert_cons]
    split
    next hbefore =>
      refine List.pairwise_cons.2 ⟨List.forall_mem_cons.2 ⟨.inl hbefore, fun r hr => .inl ?_⟩, h⟩
      have hr' := (hrest r hr).1
      refine Cand.before_of_before hp hq hr' hbefore ?_
      rcases hfirst r hr with hqr | ⟨hrq, -⟩
      · exact Cand.before_asymm hq hr' hqr
      · exact hrq
    next hbefore =>
      refine List.pairwise_cons.2 ⟨fun r hr => ?_, ih hrest hsorted⟩
      rcases List.mem_cons.1 ((List.perm_orderedInsert ..).mem_iff.1 hr) with rfl | hr
      · exact .inr ⟨Bool.not_eq_true _ ▸ hbefore, hplace⟩
      · exact hfirst r hr

theorem rankAll_pairwise (max byId : Bool) {cs : List Cand} (h : ∀ c ∈ cs, c.val.isNan = false) :
    (rankAll max byId cs.zipIdx).Pairwise (PlacedBefore max byId) := by
  induction cs using List.reverseRecOn with
  | nil => exact .nil
  | append_singleton cs c ih =>
    obtain ⟨hcs, hc⟩ := List.forall_mem_append.1 h
    rw [List.zipIdx_append, rankAll, List.foldl_append]
    refine pairwise_orderedInsert (hc c (List.mem_singleton_self c)) (fun q hq => ?_) (ih hcs)
    have hmem := List.mem_zipIdx ((rankAll_perm ..).mem_iff.1 hq)
    obtain ⟨-, hlt, heq⟩ := hmem
    exact ⟨hcs _ (heq ▸ List.getElem_mem _), by simpa using hlt⟩

/-! ## The best k -/

theorem take_orderedInsert_take {α : Type} (r : α → α → Prop) [DecidableRel r] (a : α) (k : Nat) (l : List α) :
    ((l.take k).orderedInsert r a).take k = (l.orderedInsert r a).take k := by
  induction k generalizing l with
  | zero => simp
  | succ k ih =>
    cases l with
    | nil => rfl
    | cons b l =>
      rw [List.take_succ_cons, List.orderedInsert_cons, List.orderedInsert_cons]
      split
      · exact congrArg (a :: ·) (by rw [← List.take_succ_cons, List.take_take, Nat.min_eq_left (Nat.le_succ k)])
      · rw [List.take_succ_cons, List.take_succ_cons, ih]

/-- A candidate put in its rank among the best k is one inserted behind its equals, with k kept. -/
theorem insertCand_eq (max byId : Bool) (k : Nat) (c : Cand) (l : List Cand) :
    insertCand max byId k c l = (l.orderedInsert (fun a b => a.before max byId b = true) c).take k := by
  induction l generalizing k with
  | nil => cases k <;> simp [insertCand]
  | cons x rest ih =>
    cases k with
    | zero => rfl
    | succ k =>
      rw [insertCand, List.orderedInsert_cons]
      split
      · rfl
      · rw [ih, List.take_succ_cons]

/-- The best k of a row's candidates. -/
def bestCands (max byId : Bool) (k : Nat) (cs : List Cand) : List Cand :=
  cs.foldl (fun acc c => insertCand max byId k c acc) []

theorem rankWords_eq (max byId : Bool) (k : Nat) (cs : List Cand) :
    rankWords max byId k cs = (bestCands max byId k cs).flatMap (fun c => [c.score, c.id]) ++
      (List.replicate (k - (bestCands max byId k cs).length) [0, emptyId]).flatten := rfl

/-- They are the first k of all candidates in rank order. -/
theorem bestCands_eq (max byId : Bool) (k : Nat) (cs : List Cand) :
    bestCands max byId k cs = ((rankAll max byId cs.zipIdx).take k).map Prod.fst := by
  induction cs using List.reverseRecOn with
  | nil => simp [bestCands, rankAll]
  | append_singleton cs c ih =>
    have hnew : bestCands max byId k (cs ++ [c]) = insertCand max byId k c (bestCands max byId k cs) := by
      simp [bestCands]
    have hall : rankAll max byId (cs ++ [c]).zipIdx = (rankAll max byId cs.zipIdx).orderedInsert
        (fun p q => p.1.before max byId q.1 = true) (c, cs.length) := by
      simp [rankAll, List.zipIdx_append]
    have hmap := List.map_orderedInsert (fun p q : Cand × Nat => p.1.before max byId q.1 = true)
      (fun a b => a.before max byId b = true) Prod.fst (rankAll max byId cs.zipIdx) (c, cs.length) (fun _ _ => .rfl) (fun _ _ => .rfl)
    rw [hnew, hall, ih, insertCand_eq, List.map_take, take_orderedInsert_take, List.map_take, hmap]

theorem bestCands_length_le (max byId : Bool) (k : Nat) (cs : List Cand) : (bestCands max byId k cs).length ≤ k := by
  rw [bestCands_eq, List.length_map]
  exact List.length_take_le ..

theorem mem_of_mem_bestCands {max byId : Bool} {k : Nat} {cs : List Cand} {c : Cand} (h : c ∈ bestCands max byId k cs) : c ∈ cs := by
  rw [bestCands_eq] at h
  obtain ⟨p, hp, rfl⟩ := List.mem_map.1 h
  exact List.fst_mem_of_mem_zipIdx ((rankAll_perm ..).mem_iff.1 (List.mem_of_mem_take hp))

/-- A row's selection has two words for each rank. -/
theorem rankWords_length (max byId : Bool) (k : Nat) (cs : List Cand) : (rankWords max byId k cs).length = 2 * k := by
  have := bestCands_length_le max byId k cs
  rw [rankWords_eq]
  simp
  omega

/-- A row's selection holds words of its candidates, or those of an empty entry. -/
theorem rankWords_lt {max byId : Bool} {k : Nat} {cs : List Cand} (h : ∀ c ∈ cs, c.score < 2 ^ 32 ∧ c.id < 2 ^ 32) :
    ∀ w ∈ rankWords max byId k cs, w < 2 ^ 32 := by
  intro w hw
  rw [rankWords_eq] at hw
  rcases List.mem_append.1 hw with hw | hw
  · obtain ⟨c, hc, hw⟩ := List.mem_flatMap.1 hw
    obtain ⟨hscore, hid⟩ := h c (mem_of_mem_bestCands hc)
    simp only [List.mem_cons, List.not_mem_nil, or_false] at hw
    rcases hw with rfl | rfl
    · exact hscore
    · exact hid
  · obtain ⟨e, he, hw⟩ := List.mem_flatten.1 hw
    rw [List.eq_of_mem_replicate he] at hw
    simp only [List.mem_cons, List.not_mem_nil, or_false] at hw
    rcases hw with rfl | rfl <;> decide

/-- The places of the best k. -/
def bestPlaces (max byId : Bool) (k : Nat) (cs : List Cand) : List Nat := ((rankAll max byId cs.zipIdx).take k).map Prod.snd

theorem mem_rankAll_iff (max byId : Bool) (cs : List Cand) (p : Cand × Nat) :
    p ∈ rankAll max byId cs.zipIdx ↔ cs[p.2]? = some p.1 := by
  rw [(rankAll_perm ..).mem_iff, List.mem_zipIdx_iff_getElem?]

theorem ranksBefore_of_placed {max byId : Bool} {cs : List Cand} {p q : Cand × Nat} (hp : cs[p.2]? = some p.1)
    (hq : cs[q.2]? = some q.1) (h : PlacedBefore max byId p q) : RanksBefore max byId cs p.2 q.2 :=
  ⟨p.1, q.1, hp, hq, h⟩

theorem bestPlaces_best (max byId : Bool) (k : Nat) {cs : List Cand} (h : ∀ c ∈ cs, c.val.isNan = false) :
    BestOf max byId k cs (bestPlaces max byId k cs) := by
  have hsorted := rankAll_pairwise max byId h
  have hmem (p : Cand × Nat) := (mem_rankAll_iff max byId cs p).1
  rw [← List.take_append_drop k (rankAll max byId cs.zipIdx)] at hsorted
  obtain ⟨htake, -, hacross⟩ := List.pairwise_append.1 hsorted
  refine ⟨fun i hi => ?_, ?_, ?_, fun i hi j hj hout => ?_⟩
  · obtain ⟨p, hp, rfl⟩ := List.mem_map.1 hi
    exact (List.getElem?_eq_some_iff.1 (hmem p (List.mem_of_mem_take hp))).1
  · rw [bestPlaces, List.length_map, List.length_take, (rankAll_perm ..).length_eq, List.length_zipIdx]
  · rw [bestPlaces, List.pairwise_map]
    exact htake.imp_of_mem fun hp hq hpq =>
      ranksBefore_of_placed (hmem _ (List.mem_of_mem_take hp)) (hmem _ (List.mem_of_mem_take hq)) hpq
  · obtain ⟨p, hp, rfl⟩ := List.mem_map.1 hi
    have hat : cs[j]? = some cs[j] := List.getElem?_eq_getElem hj
    have hall : (cs[j], j) ∈ rankAll max byId cs.zipIdx := (mem_rankAll_iff ..).2 hat
    rw [← List.take_append_drop k (rankAll max byId cs.zipIdx)] at hall
    rcases List.mem_append.1 hall with hin | hbehind
    · exact absurd (List.mem_map_of_mem hin) hout
    · exact ranksBefore_of_placed (hmem p (List.mem_of_mem_take hp)) hat (hacross p hp _ hbehind)

/-- A row's selection holds the words of its best k candidates in rank order, and empty entries behind them (R160 to R162). -/
theorem rankWords_best (max byId : Bool) (k : Nat) (cs : List Cand) :
    rankWords max byId k cs =
      (bestPlaces max byId k cs).flatMap (fun i => ((cs[i]?).map (fun c => [c.score, c.id])).getD []) ++
        (List.replicate (k - (bestPlaces max byId k cs).length) [0, emptyId]).flatten := by
  have hwords : (bestPlaces max byId k cs).flatMap (fun i => ((cs[i]?).map (fun c => [c.score, c.id])).getD []) =
      (bestCands max byId k cs).flatMap (fun c => [c.score, c.id]) := by
    rw [bestPlaces, bestCands_eq, List.flatMap_map, List.flatMap_map]
    refine List.flatMap_congr fun p hp => ?_
    rw [(mem_rankAll_iff max byId cs p).1 (List.mem_of_mem_take hp)]
    rfl
  rw [hwords, rankWords_eq, bestCands_eq, bestPlaces, List.length_map, List.length_map]

end Sys2Proof.Machine
end

section
/-! Selections (R160 to R162): the words of a register that is written whole, the candidates of `vtopk` and `vtopm`, and what their
entries hold. -/

namespace Sys2Proof.Machine

/-! ## A register written whole (R160) -/

/-- A word of a type that fits the shape, past the hold check and the traps, issues with its result as its entry. -/
theorem vecTyped_issued {s : State} {t : ElemType} (hfit : shapeFits s t = true) (hfree : Unchecked s) (h : Hold) (lat : Nat)
    (srcs : List VReg) (d : VReg) (o : VOut) :
    VecIssued s (s.vecTyped h none t lat srcs d o) 1 (s.me.vec.beats t) (s.tick + s.me.vec.beats t + lat) h
      (vecEntry s (s.tick + s.me.vec.beats t + lat) (some d) o) id := by
  have htyped : s.vecTyped h none t lat srcs d o =
      s.vecIssue h 1 (s.me.vec.beats t) (s.tick + s.me.vec.beats t + lat) srcs (some d) o id := if_pos hfit
  rw [htyped]
  exact vecIssued_of_clear (vecClear_of_unchecked hfree ..) (.refl s) rfl ..

theorem selOut_word {ws : List Nat} (hlen : ws.length ≤ 1024) (hws : ∀ w ∈ ws, w < 2 ^ 32) (fl : Flags) {q : Nat}
    (hq : q < ws.length) : vElem (selOut ws fl).val 32 q = ws[q] := by
  have hval : vElem (selOut ws fl).val 32 q = (ws.getD q 0) % 2 ^ 32 := by
    change vElem (vOut 32 ws.length (fun q => some (ws.getD q 0, 0))).val 32 q = _
    rw [vOut_val, vElem_vPack (by simpa using Nat.mul_le_mul_right 32 hlen)]
    simp [hq, elemVal]
  rw [hval, List.getD_eq_getElem _ _ hq, Nat.mod_eq_of_lt (hws _ (List.getElem_mem hq))]

theorem selOut_mask {ws : List Nat} (hlen : ws.length ≤ 1024) (fl : Flags) {q : Nat} (hq : q < ws.length) :
    vElem (selOut ws fl).mask 32 q = 2 ^ 32 - 1 := by
  change vElem (vOut 32 ws.length (fun q => some (ws.getD q 0, 0))).mask 32 q = _
  rw [vOut_mask, vElem_vPack (by simpa using Nat.mul_le_mul_right 32 hlen)]
  simp [hq, elemMask]

/-- A place in blocks of one length, put one after the other. -/
theorem getElem?_flatMap_blocks {α β : Type} {f : α → List β} {m q : Nat} (hq : q < m) (xs : List α) (r : Nat)
    (hf : ∀ x ∈ xs, (f x).length = m) : (xs.flatMap f)[r * m + q]? = (xs[r]?).bind (fun x => (f x)[q]?) := by
  induction xs generalizing r with
  | nil => rfl
  | cons x xs ih =>
    obtain ⟨hx, hxs⟩ := List.forall_mem_cons.1 hf
    rw [List.flatMap_cons]
    cases r with
    | zero => simp [List.getElem?_append_left (hx ▸ hq)]
    | succ r =>
      have hplace : (r + 1) * m + q = (f x).length + (r * m + q) := by rw [hx]; ring
      rw [hplace, List.getElem?_append_right (Nat.le_add_right ..), Nat.add_sub_cancel_left, ih r hxs]
      rfl

/-! ## The rows of a selection (R160) -/

/-- What a place offers to a selection: a candidate whose words have 32 bits or none, and nv or no flag. -/
structure Offers (c : Option Cand × Flags) (sig : Bool) : Prop where
  words : ∀ x, c.1 = some x → x.score < 2 ^ 32 ∧ x.id < 2 ^ 32
  flags : c.2 = flagIf sig fNV

theorem offers_none : Offers (none, 0) false := ⟨nofun, rfl⟩

theorem offers_candOf (t : ElemType) (b : Nat) {id : Nat} (hid : id < 2 ^ 32) :
    Offers (candOf t b id) (decodeFmt t.fmt b).isSig := by
  cases hv : decodeFmt t.fmt b with
  | nan n f => exact ⟨by simp [candOf, hv, Exact.isNan], by simp [candOf, hv, Exact.isNan, sigFlag]⟩
  | inf n | fin n m e s =>
    by_cases hempty : id = emptyId
    · exact ⟨by simp [candOf, hempty], by simp [candOf, hempty, hv, sigFlag]⟩
    · refine ⟨fun x hx => ?_, by simp [candOf, hv, Exact.isNan, hempty, Exact.isSig, flagIf]⟩
      simp only [candOf, hv, Exact.isNan, hempty, beq_iff_eq, Bool.false_or, if_false, Option.some.injEq] at hx
      subst hx
      exact ⟨scoreWord_lt t b, hid⟩

theorem foldl_flags {α : Type} {f : α → Flags} {p : α → Bool} (xs : List α) (h : ∀ x ∈ xs, f x = flagIf (p x) fNV) (b : Bool) :
    xs.foldl (fun acc x => acc ||| f x) (flagIf b fNV) = flagIf (b || xs.any p) fNV := by
  induction xs generalizing b with
  | nil => simp
  | cons x xs ih =>
    obtain ⟨hx, hxs⟩ := List.forall_mem_cons.1 h
    have hor : flagIf b fNV ||| flagIf (p x) fNV = flagIf (b || p x) fNV := by cases b <;> cases p x <;> rfl
    rw [List.foldl_cons, hx, hor, ih hxs, List.any_cons, Bool.or_assoc]

section
variable {ι : Type} (max byId : Bool) (k rows : Nat) (places : List ι) (offer : Nat → ι → Option Cand × Flags)

/-- The words of a selection: of each row, those of its best k candidates. -/
def selectionWords : List Nat :=
  (List.range rows).flatMap (fun i => rankWords max byId k (places.filterMap (fun e => (offer i e).1)))

/-- The flags of a selection. -/
def selectionFlags : Flags := (List.range rows).foldl (fun acc i => places.foldl (fun acc e => acc ||| (offer i e).2) acc) 0

variable {rows places offer} {sig : Nat → ι → Bool} (h : ∀ i, i < rows → ∀ e ∈ places, Offers (offer i e) (sig i e))
include h

/-- A selection raises nv where a place of it does. -/
theorem selectionFlags_eq : selectionFlags rows places offer =
    flagIf ((List.range rows).any (fun i => places.any (sig i))) fNV := by
  have hrows (xs : List Nat) (hxs : ∀ i ∈ xs, i < rows) (b : Bool) :
      xs.foldl (fun acc i => places.foldl (fun acc e => acc ||| (offer i e).2) acc) (flagIf b fNV) =
        flagIf (b || xs.any (fun i => places.any (sig i))) fNV := by
    induction xs generalizing b with
    | nil => simp
    | cons i xs ih =>
      obtain ⟨hi, hxs⟩ := List.forall_mem_cons.1 hxs
      rw [List.foldl_cons, foldl_flags places (fun e he => (h i hi e he).flags), ih hxs, List.any_cons, Bool.or_assoc]
  exact (hrows _ (fun i hi => List.mem_range.1 hi) false).trans (by rw [Bool.false_or])

theorem rankWords_offers_lt {i : Nat} (hi : i < rows) :
    ∀ w ∈ rankWords max byId k (places.filterMap (fun e => (offer i e).1)), w < 2 ^ 32 := by
  refine rankWords_lt fun c hc => ?_
  obtain ⟨e, he, hec⟩ := List.mem_filterMap.1 hc
  exact (h i hi e he).words c hec

/-- The entry of a selection holds, for each row, the words of its best k candidates (R160). -/
theorem selection_row (hfit : rows * 2 * k ≤ 1024) (fl : Flags) {r : Nat} (hr : r < rows) :
    (List.range (2 * k)).map (fun q => vElem (selOut (selectionWords max byId k rows places offer) fl).val 32 (r * 2 * k + q)) =
      rankWords max byId k (places.filterMap (fun e => (offer r e).1)) := by
  let ws := selectionWords max byId k rows places offer
  let row (i : Nat) := rankWords max byId k (places.filterMap (fun e => (offer i e).1))
  have hrow (i : Nat) : (row i).length = 2 * k := rankWords_length ..
  have hlen : ws.length = rows * 2 * k := by
    simp [ws, selectionWords, List.length_flatMap, rankWords_length, Nat.mul_assoc]
  have hlt : ∀ w ∈ ws, w < 2 ^ 32 := fun w hw => by
    obtain ⟨i, hi, hw⟩ := List.mem_flatMap.1 hw
    exact rankWords_offers_lt max byId k h (List.mem_range.1 hi) w hw
  refine List.ext_getElem (by simp [rankWords_length]) fun q hq hq' => ?_
  have hqk : q < 2 * k := by simpa using hq
  have hplace : r * 2 * k + q < ws.length := by
    rw [hlen, Nat.mul_assoc, Nat.mul_assoc]
    calc r * (2 * k) + q
      _ < (r + 1) * (2 * k) := by rw [Nat.add_mul, Nat.one_mul]; omega
      _ ≤ rows * (2 * k) := Nat.mul_le_mul_right _ hr
  have hat : ws[r * 2 * k + q]? = (row r)[q]? := by
    rw [Nat.mul_assoc]
    refine (getElem?_flatMap_blocks hqk (List.range rows) r (fun i _ => hrow i)).trans ?_
    rw [List.getElem?_range hr]
    rfl
  rw [List.getElem_map, List.getElem_range, selOut_word (hlen ▸ hfit) hlt fl hplace]
  rw [List.getElem?_eq_getElem hplace, List.getElem?_eq_getElem hq'] at hat
  exact Option.some.inj hat

end

/-! ## `vtopk` (R161) -/

/-- The k that a selection word names. -/
def selCount (s : State) (vpk : VpReg) : Nat := (s.vp .vector vpk).toNat % 2 ^ 16

/-- k is out of its limits (R161). -/
def SelBad (s : State) (vpk : VpReg) : Prop :=
  selCount s vpk < 1 ∨ s.me.vec.cols < selCount s vpk ∨ 1024 < s.me.vec.rows * 2 * selCount s vpk

theorem selK_bad {s : State} {vpk : VpReg} (hb : SelBad s vpk) : s.selK vpk = none := by
  unfold SelBad selCount at hb
  simp only [State.selK, bitsOf_low]
  exact if_neg (by omega)

theorem selK_good {s : State} {vpk : VpReg} (hok : ¬ SelBad s vpk) : s.selK vpk = some (selCount s vpk) := by
  unfold SelBad selCount at hok
  simp only [State.selK, bitsOf_low]
  exact if_pos (by omega)

theorem selGood_size {s : State} {vpk : VpReg} (hok : ¬ SelBad s vpk) : s.me.vec.rows * 2 * selCount s vpk ≤ 1024 := by
  unfold SelBad at hok
  omega

theorem vtopk_bad {s : State} {vpk : VpReg} (hb : SelBad s vpk) (h : Hold) (t : ElemType) (max byId : Bool) (d a b : VReg) :
    exec (.vtopk h t max byId vpk d a b) s = .next (s.engFault .vector 0x0A 0 0 0) := by
  change execVtopk h t max byId vpk d a b s = _
  rw [execVtopk, selK_bad hb]
  rfl

/-- What the element in column `j` of row `i` offers to a `vtopk`. -/
def topkOffer (s : State) (t : ElemType) (byId : Bool) (a b : VReg) (i j : Nat) : Option Cand × Flags :=
  let q := i * s.me.vec.cols + j
  if vOn s q then candOf t (vElemOf s t a q) (if byId then vElemOf s .n32 b q else j) else (none, 0)

theorem exec_vtopk {s : State} {vpk : VpReg} {byId : Bool} (hok : ¬ SelBad s vpk) (hids : byId = true → shapeFits s .n32 = true)
    (h : Hold) (t : ElemType) (max : Bool) (d a b : VReg) :
    exec (.vtopk h t max byId vpk d a b) s = .next (s.vecTyped h none t 6 (if byId then [a, b] else [a]) d
      (selOut (selectionWords max byId (selCount s vpk) s.me.vec.rows (List.range s.me.vec.cols) (topkOffer s t byId a b))
        (selectionFlags s.me.vec.rows (List.range s.me.vec.cols) (topkOffer s t byId a b)))) := by
  have hfit : (byId && !s.me.vec.idsFit) = false := by
    cases byId with
    | false => rfl
    | true => exact congrArg not (hids rfl)
  change execVtopk h t max byId vpk d a b s = _
  rw [execVtopk, selK_good hok]
  dsimp only
  rw [hfit]
  simp only [List.flatMap_map, List.foldl_map, List.filterMap_map, Bool.false_eq_true, if_false]
  rfl

theorem offers_topkOffer (s : State) (t : ElemType) (byId : Bool) (a b : VReg) (i : Nat) {j : Nat} (hj : j < 2 ^ 32) :
    let q := i * s.me.vec.cols + j
    Offers (topkOffer s t byId a b i j) (vOn s q && (decodeFmt t.fmt (vElemOf s t a q)).isSig) := by
  intro q
  have hid : (if byId then vElemOf s .n32 b q else j) < 2 ^ 32 := by
    split
    · exact vElemOf_lt s .n32 b q
    · exact hj
  have hcand := offers_candOf t (vElemOf s t a q) hid
  change Offers (if vOn s q then candOf t (vElemOf s t a q) (if byId then vElemOf s .n32 b q else j) else (none, 0)) _
  cases vOn s q with
  | false => exact offers_none
  | true => exact hcand

/-- A shape that a type fits has no more positions than a register has bytes. -/
theorem count_le_of_shapeFits {s : State} {t : ElemType} (hfit : shapeFits s t = true) : s.me.vec.count ≤ 4096 := by
  have hsize : s.me.vec.count * (t.width / 8) ≤ 4096 := of_decide_eq_true hfit
  have hbytes : 1 ≤ t.width / 8 := by cases t <;> decide
  exact (Nat.le_mul_of_pos_right _ hbytes).trans hsize

/-- With a row, it has no more columns. -/
theorem cols_le_of_shapeFits {s : State} {t : ElemType} (hfit : shapeFits s t = true) (hrows : 0 < s.me.vec.rows) :
    s.me.vec.cols ≤ 4096 :=
  (Nat.le_mul_of_pos_left _ hrows).trans (count_le_of_shapeFits hfit)

/-- The positions of a shape are those of its rows. -/
theorem any_range_mul (rows cols : Nat) (p : Nat → Bool) :
    (List.range rows).any (fun i => (List.range cols).any (fun j => p (i * cols + j))) = (List.range (rows * cols)).any p := by
  rw [Bool.eq_iff_iff]
  simp only [List.any_eq_true, List.mem_range]
  constructor
  · rintro ⟨i, hi, j, hj, hp⟩
    refine ⟨i * cols + j, ?_, hp⟩
    calc i * cols + j
      _ < (i + 1) * cols := by rw [Nat.add_mul, Nat.one_mul]; omega
      _ ≤ rows * cols := Nat.mul_le_mul_right _ hi
  · rintro ⟨q, hq, hp⟩
    have hcols : 0 < cols := Nat.pos_of_mul_pos_left (Nat.zero_lt_of_lt hq)
    exact ⟨q / cols, Nat.div_lt_of_lt_mul (Nat.mul_comm rows cols ▸ hq), q % cols, Nat.mod_lt _ hcols, by
      rwa [Nat.div_add_mod']⟩

theorem vtopk_issued {s : State} {t : ElemType} {byId : Bool} {vpk : VpReg} (hok : ¬ SelBad s vpk) (hfit : shapeFits s t = true)
    (hids : byId = true → shapeFits s .n32 = true) (hfree : Unchecked s) (h : Hold) (max : Bool) (d a b : VReg) :
    let u := s.me.vec
    let k := selCount s vpk
    ∃ x w, exec (.vtopk h t max byId vpk d a b) s = .next x ∧
      VecIssued s x 1 (u.beats t) (s.tick + u.beats t + 6) h w id ∧ w.dst = some (u.phys d) ∧
      w.flags = flagIf ((List.range u.count).any (fun q => vOn s q && (decodeFmt t.fmt (vElemOf s t a q)).isSig)) fNV ∧
      ∀ r, r < u.rows → (List.range (2 * k)).map (fun q => vElem w.val 32 (r * 2 * k + q)) =
        rankWords max byId k ((List.range u.cols).filterMap (fun j => (topkOffer s t byId a b r j).1)) := by
  intro u k
  have hoffers (i : Nat) (hi : i < u.rows) (j : Nat) (hj : j ∈ List.range u.cols) :=
    offers_topkOffer s t byId a b i (j := j) (lt_of_lt_of_le (List.mem_range.1 hj)
      ((cols_le_of_shapeFits hfit (Nat.zero_lt_of_lt hi)).trans (by decide)))
  refine ⟨_, _, exec_vtopk hok hids h t max d a b, vecTyped_issued hfit hfree .., rfl, ?_, fun r hr => ?_⟩
  · exact (selectionFlags_eq hoffers).trans (congrArg (flagIf · fNV) (any_range_mul u.rows u.cols
      (fun q => vOn s q && (decodeFmt t.fmt (vElemOf s t a q)).isSig)))
  · exact selection_row max byId k hoffers (selGood_size hok)
      (selectionFlags u.rows (List.range u.cols) (topkOffer s t byId a b)) hr

/-! ## `vtopm` (R162) -/

/-- The id of entry `q` of row `r` of a selection register. -/
def entryId (s : State) (k : Nat) (x : VReg) (r q : Nat) : Nat := vElem (s.me.vec.reg x) 32 (r * 2 * k + 2 * q + 1)

/-- Its score. -/
def entryScore (s : State) (k : Nat) (x : VReg) (r q : Nat) : Nat := vElem (s.me.vec.reg x) 32 (r * 2 * k + 2 * q)

/-- What an entry of a selection offers to a `vtopm`. -/
def topmOffer (s : State) (t : ElemType) (k r : Nat) (e : VReg × Nat) : Option Cand × Flags :=
  if entryId s k e.1 r e.2 = emptyId then (none, 0) else candOf t (entryScore s k e.1 r e.2) (entryId s k e.1 r e.2)

/-- The entries of a row of two selections, the first one's before the second's. -/
def topmEntries (k : Nat) (a b : VReg) : List (VReg × Nat) :=
  (List.range k).map (fun q => (a, q)) ++ (List.range k).map (fun q => (b, q))

theorem offers_topmOffer (s : State) (t : ElemType) (k r : Nat) (e : VReg × Nat) :
    Offers (topmOffer s t k r e)
      (entryId s k e.1 r e.2 != emptyId && (decodeFmt t.fmt (entryScore s k e.1 r e.2)).isSig) := by
  have hcand := offers_candOf t (entryScore s k e.1 r e.2) (id := entryId s k e.1 r e.2) (Nat.mod_lt _ (by positivity))
  rw [topmOffer]
  split
  next hempty => simpa [hempty] using offers_none
  next hid => simpa only [bne_iff_ne.2 hid, Bool.true_and] using hcand

theorem vtopm_bad {s : State} {vpk : VpReg} (hb : SelBad s vpk) (h : Hold) (t : ElemType) (max byId : Bool) (d a b : VReg) :
    exec (.vtopm h t max byId vpk d a b) s = .next (s.engFault .vector 0x0A 0 0 0) := by
  change execVtopm h t max byId vpk d a b s = _
  rw [execVtopm, selK_bad hb]
  rfl

theorem exec_vtopm {s : State} {vpk : VpReg} (hok : ¬ SelBad s vpk) (h : Hold) (t : ElemType) (max byId : Bool) (d a b : VReg) :
    let k := selCount s vpk
    exec (.vtopm h t max byId vpk d a b) s = .next (s.vecTyped h none t 6 [a, b] d
      (selOut (selectionWords max byId k s.me.vec.rows (topmEntries k a b) (topmOffer s t k))
        (selectionFlags s.me.vec.rows (topmEntries k a b) (topmOffer s t k)))) := by
  intro k
  change execVtopm h t max byId vpk d a b s = _
  rw [execVtopm, selK_good hok]
  dsimp only [selectionWords, selectionFlags, topmEntries]
  simp only [List.flatMap_map, List.foldl_map, List.foldl_append, List.filterMap_append, List.filterMap_map]
  rfl

theorem vtopm_issued {s : State} {t : ElemType} {vpk : VpReg} (hok : ¬ SelBad s vpk) (hfit : shapeFits s t = true)
    (hfree : Unchecked s) (h : Hold) (max byId : Bool) (d a b : VReg) :
    let u := s.me.vec
    let k := selCount s vpk
    ∃ x w, exec (.vtopm h t max byId vpk d a b) s = .next x ∧
      VecIssued s x 1 (u.beats t) (s.tick + u.beats t + 6) h w id ∧ w.dst = some (u.phys d) ∧
      w.flags = flagIf ((List.range u.rows).any (fun r => (topmEntries k a b).any (fun e =>
        entryId s k e.1 r e.2 != emptyId && (decodeFmt t.fmt (entryScore s k e.1 r e.2)).isSig))) fNV ∧
      ∀ r, r < u.rows → (List.range (2 * k)).map (fun q => vElem w.val 32 (r * 2 * k + q)) =
        rankWords max byId k ((topmEntries k a b).filterMap (fun e => (topmOffer s t k r e).1)) := by
  intro u k
  have hoffers (i : Nat) (_ : i < u.rows) (e : VReg × Nat) (_ : e ∈ topmEntries k a b) := offers_topmOffer s t k i e
  refine ⟨_, _, exec_vtopm hok h t max byId d a b, vecTyped_issued hfit hfree .., rfl, selectionFlags_eq hoffers, fun r hr => ?_⟩
  exact selection_row max byId k hoffers (selGood_size hok)
    (selectionFlags u.rows (topmEntries k a b) (topmOffer s t k)) hr

end Sys2Proof.Machine
end

section
/-! The predictor check (R170): the largest error of the checked positions, the positions that it makes doubtful, and the words that
`vpchk` writes. -/

namespace Sys2Proof.Machine

/-! ## Errors -/

/-- The sum of two finite numbers is exact (R141). -/
theorem addNum_finite (rm : RM) {x y : Exact} (hx : x.finite = true) (hy : y.finite = true) :
    (addNum rm x y).1.finite = true ∧ (addNum rm x y).1.q = x.q + y.q := by
  obtain ⟨n₁, m₁, e₁, s₁, rfl⟩ := Exact.eq_fin_of_finite hx
  obtain ⟨n₂, m₂, e₂, s₂, rfl⟩ := Exact.eq_fin_of_finite hy
  rw [← alignSum_q]
  simp only [addNum, sumNum]
  split
  next hzero => exact ⟨rfl, by simp [hzero, Exact.q]⟩
  next => exact ⟨rfl, Exact.q_ofSigned ..⟩

theorem errOf_not_finite {p c : Exact} (h : p.finite = false ∨ c.finite = false) : errOf p c = .inf false := by
  cases p <;> cases c <;> simp_all [errOf, Exact.finite]

/-- The error of two finite numbers is the magnitude of their difference. -/
theorem errOf_finite {p c : Exact} (hp : p.finite = true) (hc : c.finite = true) :
    (errOf p c).finite = true ∧ (errOf p c).sign = false ∧ (errOf p c).q = |c.q - p.q| := by
  have hneg : p.negate.finite = true := by
    obtain ⟨n, m, e, s, rfl⟩ := Exact.eq_fin_of_finite hp
    rfl
  obtain ⟨hfin, hq⟩ := addNum_finite .rne hc hneg
  obtain ⟨n, m, e, s, hsum⟩ := Exact.eq_fin_of_finite hfin
  have herr : errOf p c = .fin false m e s := by
    obtain ⟨n₁, m₁, e₁, s₁, rfl⟩ := Exact.eq_fin_of_finite hp
    obtain ⟨n₂, m₂, e₂, s₂, rfl⟩ := Exact.eq_fin_of_finite hc
    have hsub : subExact .rne (.fin n₂ m₂ e₂ s₂) (.fin n₁ m₁ e₁ s₁) =
        addNum .rne (.fin n₂ m₂ e₂ s₂) (Exact.negate (.fin n₁ m₁ e₁ s₁)) := rfl
    simp only [errOf, hsub, hsum]
  have hpow : (0 : ℚ) ≤ m * 2 ^ e := by positivity
  refine ⟨by rw [herr]; rfl, by rw [herr]; rfl, ?_⟩
  rw [sub_eq_add_neg, ← Exact.q_negate, ← hq, hsum, herr]
  cases n <;> simp [Exact.q, abs_of_nonneg hpow]

/-! ## The largest error -/

/-- The larger of an error and that of a pair of a predicted and a computed value. -/
def worstOf (e : Exact) (x : Exact × Exact) : Exact := if ltOrdered e (errOf x.1 x.2) then errOf x.1 x.2 else e

/-- The largest error of pairs of a predicted and a computed value. -/
def largestErr (xs : List (Exact × Exact)) : Exact := xs.foldl worstOf (exZero false)

theorem foldl_worstOf_inf (xs : List (Exact × Exact)) : xs.foldl worstOf (.inf false) = .inf false := by
  induction xs with
  | nil => rfl
  | cons x xs ih =>
    have hstay (y : Exact) : ltOrdered (.inf false) y = false := by
      cases y with
      | inf b => cases b <;> rfl
      | nan n f | fin n m e s => rfl
    rw [List.foldl_cons, worstOf, hstay]
    exact ih

theorem worstOf_not_finite {e : Exact} (he : e.finite = true) {x : Exact × Exact} (hx : x.1.finite = false ∨ x.2.finite = false) :
    worstOf e x = .inf false := by
  obtain ⟨n, m, a, s, rfl⟩ := Exact.eq_fin_of_finite he
  rw [worstOf, errOf_not_finite hx]
  rfl

/-- Of finite numbers with sign +, the order is that of their values. -/
theorem ltOrdered_nonneg {x y : Exact} (hx : x.finite = true ∧ x.sign = false) (hy : y.finite = true ∧ y.sign = false) :
    ltOrdered x y = true ↔ x.q < y.q := by
  obtain ⟨n₁, m₁, e₁, s₁, rfl⟩ := Exact.eq_fin_of_finite hx.1
  obtain ⟨n₂, m₂, e₂, s₂, rfl⟩ := Exact.eq_fin_of_finite hy.1
  rw [ltOrdered_iff rfl rfl, Exact.orderKey, Exact.orderKey, hx.2, hy.2, Prod.Lex.toLex_lt_toLex]
  simp [Exact.extended]

/-- A finite error with sign + joined by that of a finite pair. -/
theorem worstOf_finite {e : Exact} (he : e.finite = true ∧ e.sign = false) {x : Exact × Exact} (hp : x.1.finite = true)
    (hc : x.2.finite = true) :
    ((worstOf e x).finite = true ∧ (worstOf e x).sign = false) ∧ (worstOf e x).q = max e.q |x.2.q - x.1.q| := by
  obtain ⟨hfin, hsign, hq⟩ := errOf_finite hp hc
  have hlt := ltOrdered_nonneg he ⟨hfin, hsign⟩
  rw [hq] at hlt
  rw [worstOf]
  split
  next h => exact ⟨⟨hfin, hsign⟩, by rw [hq, max_eq_right (hlt.1 h).le]⟩
  next h => exact ⟨he, (max_eq_left (not_lt.1 fun hc => h (hlt.2 hc))).symm⟩

/-- The errors of finite pairs: the result is the largest of them and of where they began. -/
theorem foldl_worstOf_finite (xs : List (Exact × Exact)) (h : ∀ x ∈ xs, x.1.finite = true ∧ x.2.finite = true) {e : Exact}
    (he : e.finite = true ∧ e.sign = false) :
    let r := xs.foldl worstOf e
    (r.finite = true ∧ r.sign = false) ∧ e.q ≤ r.q ∧ (∀ x ∈ xs, |x.2.q - x.1.q| ≤ r.q) ∧
      (r.q = e.q ∨ ∃ x ∈ xs, |x.2.q - x.1.q| = r.q) := by
  induction xs generalizing e with
  | nil => exact ⟨he, le_rfl, nofun, .inl rfl⟩
  | cons x xs ih =>
    obtain ⟨⟨hp, hc⟩, hxs⟩ := List.forall_mem_cons.1 h
    obtain ⟨hnext, hmax⟩ := worstOf_finite he hp hc
    obtain ⟨hr, hle, hall, hreached⟩ := ih hxs hnext
    rw [hmax] at hle hreached
    refine ⟨hr, (le_max_left ..).trans hle, List.forall_mem_cons.2 ⟨(le_max_right ..).trans hle, hall⟩, ?_⟩
    rcases hreached with heq | ⟨y, hy, heq⟩
    · rcases max_choice e.q |x.2.q - x.1.q| with hmax | hmax
      · exact .inl (heq.trans hmax)
      · exact .inr ⟨x, List.mem_cons_self .., (heq.trans hmax).symm⟩
    · exact .inr ⟨y, List.mem_cons_of_mem _ hy, heq⟩

/-- One pair that is not finite makes the error infinite. -/
theorem foldl_worstOf_not_finite {xs : List (Exact × Exact)} (h : ∃ x ∈ xs, x.1.finite = false ∨ x.2.finite = false) {e : Exact}
    (he : e.finite = true ∧ e.sign = false) : xs.foldl worstOf e = .inf false := by
  induction xs generalizing e with
  | nil => nomatch h
  | cons x xs ih =>
    rw [List.foldl_cons]
    by_cases hx : x.1.finite = false ∨ x.2.finite = false
    · rw [worstOf_not_finite he.1 hx, foldl_worstOf_inf]
    · obtain ⟨hp, hc⟩ := not_or.1 hx
      refine ih ?_ (worstOf_finite he (Bool.not_eq_false _ ▸ hp) (Bool.not_eq_false _ ▸ hc)).1
      obtain ⟨y, hy, hbad⟩ := h
      rcases List.mem_cons.1 hy with rfl | hy
      · exact absurd hbad hx
      · exact ⟨y, hy, hbad⟩

/-- The fold of the model is the largest error (R170). -/
theorem largestError_largestErr (xs : List (Exact × Exact)) : LargestError xs (largestErr xs) := by
  refine ⟨fun h => foldl_worstOf_not_finite h ⟨rfl, rfl⟩, fun h => ?_⟩
  obtain ⟨⟨hfin, -⟩, hle, hall, hreached⟩ := foldl_worstOf_finite xs h (e := exZero false) ⟨rfl, rfl⟩
  have hzero : (exZero false).q = 0 := by simp [exZero, Exact.q]
  rw [hzero] at hle hreached
  exact ⟨hfin, hle, hall, hreached⟩

theorem largestErr_kind (xs : List (Exact × Exact)) : largestErr xs = .inf false ∨ (largestErr xs).finite = true := by
  obtain ⟨hinf, hfin⟩ := largestError_largestErr xs
  by_cases h : ∃ x ∈ xs, x.1.finite = false ∨ x.2.finite = false
  · exact .inl (hinf h)
  · refine .inr (hfin fun x hx => ?_).1
    by_contra hbad
    rw [Classical.not_and_iff_not_or_not, Bool.not_eq_true, Bool.not_eq_true] at hbad
    exact h ⟨x, hx, hbad⟩

/-! ## Doubtful positions -/

theorem exceeds_iff {x y : Exact} (hx : x.isNan = false) : x.exceeds y ↔ y.isNan = false ∧ 0 < cmpNum x y := by
  cases y with
  | nan n f => cases x <;> simp [Exact.exceeds, Exact.isNan]
  | inf b =>
    cases x with
    | nan n f => nomatch hx
    | inf a => cases a <;> cases b <;> simp [Exact.exceeds, cmpNum, Exact.isNan]
    | fin n m e s => cases b <;> simp [Exact.exceeds, cmpNum, Exact.isNan]
  | fin n m e s =>
    rw [cmpNum_pos_iff hx rfl]
    cases x with
    | nan n f => nomatch hx
    | inf a =>
      cases a with
      | false => exact iff_of_true rfl ⟨rfl, WithBot.coe_lt_coe.2 (WithTop.coe_lt_top _)⟩
      | true => simp [Exact.exceeds, Exact.extended]
    | fin n' m' e' s' => simp [Exact.exceeds, Exact.extended, Exact.isNan]

/-- A position is doubtful where its predicted value with the largest error added is above the threshold, or that error infinite. -/
theorem doubtful_iff {p e θ : Exact} (he : e = .inf false ∨ e.finite = true) (hθ : θ.isNan = false) :
    Doubtful p e θ ↔ e = .inf false ∨ (p.isNan = false ∧ 0 < cmpNum (addNum .rne p e).1 θ) := by
  refine or_congr_right' fun hne => ?_
  have hfin := he.resolve_left hne
  obtain ⟨n, m, a, s, rfl⟩ := Exact.eq_fin_of_finite hfin
  cases p with
  | nan b f => simp [Exact.finite, Exact.exceeds, Exact.isNan]
  | inf b =>
    have hcmp := exceeds_iff (x := .inf b) (y := θ) rfl
    rw [hθ] at hcmp
    simpa [Exact.finite, Exact.isNan, addNum, sumNum] using hcmp
  | fin n' m' a' s' =>
    obtain ⟨hsum, hq⟩ := addNum_finite .rne (x := .fin n' m' a' s') (y := .fin n m a s) rfl rfl
    obtain ⟨n'', m'', a'', s'', hform⟩ := Exact.eq_fin_of_finite hsum
    rw [hform] at hq
    have hcmp := exceeds_iff (x := .fin n'' m'' a'' s'') (y := θ) rfl
    rw [hform, ← and_iff_right (a := θ.isNan = false) (b := 0 < _) hθ, ← hcmp]
    cases θ with
    | nan b f => nomatch hθ
    | inf b => simp [Exact.finite, Exact.exceeds, Exact.isNan]
    | fin b f c d => simp [Exact.finite, Exact.exceeds, Exact.isNan, ← hq]

/-! ## `vpchk` -/

/-- The predicted and the computed value of a position. -/
def chkPair (s : State) (t : ElemType) (a b : VReg) (q : Nat) : Exact × Exact :=
  (decodeFmt t.fmt (vElemOf s t a q), decodeFmt t.fmt (vElemOf s t b q))

/-- A position that is not enabled and that the error `e` makes doubtful, as the model decides it. -/
def chkListed (s : State) (t : ElemType) (a : VReg) (e θ : Exact) (q : Nat) : Bool :=
  let p := decodeFmt t.fmt (vElemOf s t a q)
  !vOn s q && (e == .inf false || (!p.isNan && !θ.isNan && decide (0 < cmpNum (addNum .rne p e).1 θ)))

/-- The positions that a `vpchk` lists. -/
def chkFound (s : State) (t : ElemType) (a : VReg) (e θ ε : Exact) : List Nat :=
  if !θ.isNan && !ε.isNan && decide (0 < cmpNum e ε) then (List.range s.me.vec.count).filter (chkListed s t a e θ) else []

/-- The words that a `vpchk` writes. -/
def chkWords (found : List Nat) (e : Exact) : List Nat :=
  [(found.take 1022).length + found.length * 2 ^ 16, (fp32.fit .rup e).1] ++ found.take 1022 ++
    List.replicate (1022 - (found.take 1022).length) emptyId

theorem chkFound_sublist (s : State) (t : ElemType) (a : VReg) (e θ ε : Exact) :
    List.Sublist (chkFound s t a e θ ε) (List.range s.me.vec.count) := by
  rw [chkFound]
  split
  · exact List.filter_sublist
  · exact List.nil_sublist _

theorem mem_chkFound {s : State} {t : ElemType} {a : VReg} {e θ ε : Exact} (he : e = .inf false ∨ e.finite = true) (q : Nat) :
    q ∈ chkFound s t a e θ ε ↔ q < s.me.vec.count ∧ vOn s q = false ∧ θ.isNan = false ∧ e.exceeds ε ∧
      Doubtful (decodeFmt t.fmt (vElemOf s t a q)) e θ := by
  have hnan : e.isNan = false := by
    rcases he with rfl | hfin
    · rfl
    · obtain ⟨n, m, x, st, rfl⟩ := Exact.eq_fin_of_finite hfin
      rfl
  rw [chkFound, exceeds_iff hnan]
  cases hθ : θ.isNan with
  | true => simp
  | false =>
    rw [doubtful_iff he hθ]
    by_cases hε : ε.isNan = false ∧ 0 < cmpNum e ε
    · simp [hε.1, hε.2, chkListed, hθ]
    · have hnone : (!false && !ε.isNan && decide (0 < cmpNum e ε)) = false := by
        cases h : ε.isNan with
        | true => rfl
        | false => simpa [h] using hε
      rw [hnone]
      simp [hε]

theorem chkWords_length (found : List Nat) (e : Exact) : (chkWords found e).length = 1024 := by
  simp only [chkWords, List.length_append, List.length_cons, List.length_nil, List.length_take, List.length_replicate]
  omega

/-- The listed positions in order, and empty ids behind them. -/
theorem chkWords_listed (found : List Nat) (e : Exact) {j : Nat} (hj : j < 1022) :
    (chkWords found e)[j + 2]? = some (found.getD j emptyId) := by
  have hskip : (chkWords found e)[j + 2]? =
      (found.take 1022 ++ List.replicate (1022 - (found.take 1022).length) emptyId)[j]? := rfl
  rw [hskip]
  rcases Nat.lt_or_ge j found.length with hlt | hge
  · have hin : j < (found.take 1022).length := by simp; omega
    rw [List.getElem?_append_left hin, List.getElem?_take_of_lt hj, List.getElem?_eq_getElem hlt, List.getD_eq_getElem _ _ hlt]
  · have hout : (found.take 1022).length ≤ j := by simp; omega
    rw [List.getElem?_append_right hout, List.getElem?_replicate, List.getD_eq_default _ _ hge, if_pos (by omega)]

theorem chkWords_lt {found : List Nat} {e : Exact} {n : Nat} (hn : n ≤ 4096) (hfound : List.Sublist found (List.range n))
    (he : e = .inf false ∨ e.finite = true) : ∀ w ∈ chkWords found e, w < 2 ^ 32 := by
  have hlen : found.length ≤ n := by simpa using hfound.length_le
  have herr : (fp32.fit .rup e).1 < 2 ^ 32 := fp32_fit_lt .rup fun b f hb => by
    rcases he with rfl | hfin
    · nomatch hb
    · rw [hb] at hfin
      nomatch hfin
  intro w hw
  simp only [chkWords, List.cons_append, List.nil_append, List.mem_cons, List.mem_append] at hw
  rcases hw with rfl | rfl | hw | hw
  · rw [List.length_take]
    omega
  · exact herr
  · have := List.mem_range.1 (hfound.subset (List.mem_of_mem_take hw))
    omega
  · rw [List.eq_of_mem_replicate hw]
    decide

/-- The threshold that a `vpchk` names. -/
def chkThreshold (s : State) (vp : VpReg) : Exact := fp32.decode ((s.vp .vector vp).toNat % 2 ^ 32)

/-- The bound that a `vpchk` names. -/
def chkBound (s : State) (vp : VpReg) : Exact := fp32.decode ((s.vp .vector vp).toNat / 2 ^ 32)

/-- A signalling NaN stands among what a `vpchk` reads. -/
def chkSig (s : State) (t : ElemType) (vp : VpReg) (a b : VReg) : Bool :=
  (chkThreshold s vp).isSig || (chkBound s vp).isSig ||
    (List.range s.me.vec.count).any (fun q => (decodeFmt t.fmt (vElemOf s t a q)).isSig) ||
    s.me.vec.enabled.any (fun q => (decodeFmt t.fmt (vElemOf s t b q)).isSig)

/-- The largest error that a `vpchk` finds. -/
def chkError (s : State) (t : ElemType) (a b : VReg) : Exact := largestErr (s.me.vec.enabled.map (chkPair s t a b))

theorem exec_vpchk (s : State) (h : Hold) (t : ElemType) (vp : VpReg) (d a b : VReg) :
    exec (.vpchk h t vp d a b) s = .next (s.vecTyped h none t 5 [a, b] d (selOut
      (chkWords (chkFound s t a (chkError s t a b) (chkThreshold s vp) (chkBound s vp)) (chkError s t a b))
      (flagIf (chkSig s t vp a b) fNV))) := by
  simp only [chkError, largestErr, List.foldl_map, chkSig, chkThreshold, chkBound, ← bitsOf_low,
    ← bitsOf_high (s.vp .vector vp) (lo := 32) (len := 32) rfl]
  rfl

theorem vpchk_issued {s : State} {t : ElemType} (hfit : shapeFits s t = true) (hfree : Unchecked s) (h : Hold) (vp : VpReg)
    (d a b : VReg) :
    let u := s.me.vec
    let e := chkError s t a b
    let found := chkFound s t a e (chkThreshold s vp) (chkBound s vp)
    ∃ x w, exec (.vpchk h t vp d a b) s = .next x ∧ VecIssued s x 1 (u.beats t) (s.tick + u.beats t + 5) h w id ∧
      w.dst = some (u.phys d) ∧ (∀ q, q < 1024 → vElem w.mask 32 q = 2 ^ 32 - 1) ∧
      w.flags = flagIf (chkSig s t vp a b) fNV ∧ vElem w.val 32 0 = Nat.min found.length 1022 + found.length * 2 ^ 16 ∧
      vElem w.val 32 1 = (fp32.fit .rup e).1 ∧ ∀ j, j < 1022 → vElem w.val 32 (j + 2) = found.getD j emptyId := by
  intro u e found
  have hkind : e = .inf false ∨ e.finite = true := largestErr_kind _
  have hlt := chkWords_lt (count_le_of_shapeFits hfit) (chkFound_sublist s t a e (chkThreshold s vp) (chkBound s vp)) hkind
  have hlen := chkWords_length found e
  let fl := flagIf (chkSig s t vp a b) fNV
  have hword (q v : Nat) (hq : q < 1024) (hv : (chkWords found e)[q]? = some v) :
      vElem (selOut (chkWords found e) fl).val 32 q = v := by
    obtain ⟨hq', hv⟩ := List.getElem?_eq_some_iff.1 hv
    rw [← hv]
    exact selOut_word hlen.le hlt fl hq'
  refine ⟨_, _, exec_vpchk s h t vp d a b, vecTyped_issued hfit hfree .., rfl, fun q hq => ?_, rfl, ?_, ?_, fun j hj => ?_⟩
  · exact selOut_mask hlen.le fl (hlen ▸ hq)
  · refine hword 0 _ (by decide) ?_
    have hshown : (found.take 1022).length = Nat.min found.length 1022 := List.length_take.trans (Nat.min_comm ..)
    rw [← hshown]
    rfl
  · exact hword 1 _ (by decide) rfl
  · exact hword (j + 2) _ (by omega) (chkWords_listed found e hj)

/-! ## The statement -/

/-- Settles O40: the words of each row are those of its best k candidates, in the order of the full ranking; a check's words are
those of its largest error and of the positions that it makes doubtful. -/
theorem vectorSelections : Obligations.VectorSelections := by
  unfold Obligations.VectorSelections
  refine ⟨?_, fun max byId k cs hcs => ⟨_, bestPlaces_best max byId k hcs, rankWords_best max byId k cs⟩, ?_⟩
  · intro s h t max byId vpk d a b
    refine ⟨fun hb => ⟨vtopk_bad hb h t max byId d a b, vtopm_bad hb h t max byId d a b⟩, fun hok hfit hids hchk htrap => ?_,
      fun hok hfit hchk htrap => ?_⟩
    · obtain ⟨x, w, hx, issued, dst, flags, rows⟩ := vtopk_issued hok hfit hids ⟨hchk, htrap⟩ h max d a b
      refine ⟨x, w, hx, issued, dst, flags, fun r hr => (rows r hr).trans ?_⟩
      simp only [topkOffer, apply_ite Prod.fst]
      rfl
    · obtain ⟨x, w, hx, issued, dst, flags, rows⟩ := vtopm_issued hok hfit ⟨hchk, htrap⟩ h max byId d a b
      refine ⟨x, w, hx, issued, dst, flags.trans ?_, fun r hr => (rows r hr).trans ?_⟩
      · simp only [topmEntries, List.any_append, List.any_map, List.any_cons, List.any_nil, Bool.or_false]
        rfl
      · simp only [topmOffer, apply_ite Prod.fst]
        rfl
  · intro s h t vp d a b hfit hchk htrap
    obtain ⟨x, w, hx, issued, dst, mask, flags, count, err, listed⟩ := vpchk_issued hfit ⟨hchk, htrap⟩ h vp d a b
    exact ⟨x, w, chkError s t a b, _, hx, issued, dst, mask, flags, largestError_largestErr _, chkFound_sublist .., mem_chkFound
      (largestErr_kind _), count, err, listed⟩

end Sys2Proof.Machine
end

section
/-! What a transfer step's jobs change (R197 to R199, R204): the changes that stay with one core and what acts next, the steps of a
core, its tokens and its room. -/

namespace Sys2Proof.Machine

open Sys2Proof

/-! ## Changes that stay with one core -/

theorem OnlyCoreJobs.refl (k : Nat) (s : State) : OnlyCoreJobs k s s := ⟨rfl, fun _ _ => rfl⟩

theorem OnlyCoreJobs.setCore {k : Nat} {s t : State} (h : OnlyCoreJobs k s t) (c : Core) : OnlyCoreJobs k s (t.setCore k c) := by
  obtain ⟨outside, others⟩ := h
  refine ⟨?_, fun j hj => ?_⟩
  · rw [outside]
    rfl
  · rw [State.core_setCore_ne _ _ _ _ hj, others j hj]

/-- A change of what acts next, and of nothing else. -/
theorem OnlyCoreJobs.jobs {k : Nat} {s t u : State} (h : OnlyCoreJobs k s t)
    (hu : u = { t with agenda := u.agenda, timers := u.timers, fresh := u.fresh }) : OnlyCoreJobs k s u := by
  obtain ⟨outside, others⟩ := h
  refine ⟨?_, fun j hj => ?_⟩
  · rw [hu, outside]
  · rw [hu]
    exact others j hj

theorem OnlyCoreJobs.now {k : Nat} {s t : State} (h : OnlyCoreJobs k s t) (w : Cur) (e : Ev) : OnlyCoreJobs k s (t.now w e) :=
  h.jobs rfl

theorem OnlyCoreJobs.soon {k : Nat} {s t : State} (h : OnlyCoreJobs k s t) (js : List Job) : OnlyCoreJobs k s (t.soon js) :=
  h.jobs rfl

theorem OnlyCoreJobs.atTick {k : Nat} {s t : State} (h : OnlyCoreJobs k s t) (w : Cur) (n : Nat) (e : Ev) :
    OnlyCoreJobs k s (t.atTick w n e) := h.jobs rfl

theorem OnlyCoreJobs.bump {k : Nat} {s t : State} (h : OnlyCoreJobs k s t) : OnlyCoreJobs k s t.bump := h.jobs rfl

theorem OnlyCoreJobs.setStep {k : Nat} {s t : State} (h : OnlyCoreJobs k s t) (x : XStep) : OnlyCoreJobs k s (t.setStep k x) :=
  h.setCore _

theorem OnlyCoreJobs.cur {k : Nat} {s t : State} (h : OnlyCoreJobs k s t) : t.cur = s.cur := by rw [h.outside]

theorem OnlyCoreJobs.mems {k : Nat} {s t : State} (h : OnlyCoreJobs k s t) : SameMems s t := by
  rw [h.outside]
  exact ⟨rfl, rfl⟩

/-! ## The steps of a core (R198) -/

/-- Step `id` is the one it was looked up by. -/
theorem xstep?_id {c : Core} {id : Nat} {x : XStep} (h : c.xstep? id = some x) : x.id = id := by
  simpa using List.find?_some h

theorem xstep?_mem {c : Core} {id : Nat} {x : XStep} (h : c.xstep? id = some x) : x ∈ c.xfr.steps := List.mem_of_find?_eq_some h

/-- A step that replaces another of its number stands among the core's steps. -/
theorem Core.mem_setStep {c : Core} {x y : XStep} (hx : x ∈ c.xfr.steps) (h : x.id = y.id) : y ∈ (c.setStep y).xfr.steps :=
  List.mem_map.mpr ⟨x, hx, if_pos h⟩

theorem Core.mem_setStep_ne {c : Core} {x y : XStep} (h : y.id ≠ x.id) : y ∈ (c.setStep x).xfr.steps ↔ y ∈ c.xfr.steps := by
  constructor
  · intro hy
    obtain ⟨z, hz, hzy⟩ := List.mem_map.mp hy
    split at hzy
    next => exact absurd (congrArg XStep.id hzy.symm) h
    next => exact hzy ▸ hz
  · exact fun hy => List.mem_map.mpr ⟨y, hy, if_neg h⟩

theorem Core.setStep_outside (c : Core) (x : XStep) : c.setStep x = { c with xfr := (c.setStep x).xfr } := rfl

@[simp] theorem State.setStep_core (s : State) (k : Nat) (x : XStep) : (s.setStep k x).core k = (s.core k).setStep x :=
  State.core_setCore ..

theorem State.setStep_core_ne (s : State) (k j : Nat) (x : XStep) (h : j ≠ k) : (s.setStep k x).core j = s.core j :=
  State.core_setCore_ne _ _ _ _ h

/-- The step that a tick's jobs put in the place of one in flight stands there. -/
theorem State.mem_setStep {s : State} {k id : Nat} {x y : XStep} (h : (s.core k).xstep? id = some x) (hy : y.id = x.id) :
    y ∈ ((s.setStep k y).core k).xfr.steps := by
  rw [State.setStep_core]
  exact Core.mem_setStep (xstep?_mem h) hy.symm

/-! ## Tokens (R79, R199) -/

/-- A bit of a byte of tokens with one bit set. -/
theorem getLsbD_tokenBit (k j : Tok) : (1#8 <<< k.val).getLsbD j.val = decide (j = k) := by
  revert k j
  decide

/-- A byte of tokens holds a mask when it holds each token of it. -/
theorem and_beq_mask (ts wm : BitVec 8) :
    (ts &&& wm == wm) = (List.finRange 8).all (fun k => !wm.getLsbD k.val || ts.getLsbD k.val) := by
  rw [Bool.eq_iff_iff, beq_iff_eq, List.all_eq_true]
  constructor
  · intro h k _
    have hk := congrArg (fun v : BitVec 8 => v.getLsbD k.val) h
    simp only [BitVec.getLsbD_and] at hk
    cases hw : wm.getLsbD k.val
    · rfl
    · rwa [hw, Bool.and_true] at hk
  · intro h
    refine BitVec.eq_of_getLsbD_eq fun j hj => ?_
    have hk := h ⟨j, hj⟩ (List.mem_finRange _)
    rw [BitVec.getLsbD_and]
    cases hw : wm.getLsbD j
    · exact Bool.and_false _
    · rw [hw] at hk
      exact (Bool.and_true _).trans hk

theorem tokensWere_eq (s : State) (e : Engine) (wm : BitVec 8) :
    (s.me.task (s.run e).owner).tokensWere wm s.tick = tokensOpen s e wm := by
  rw [Slot.tokensWere, and_beq_mask, tokensOpen, Bool.eq_iff_iff, Bool.and_eq_true, List.all_eq_true, List.all_eq_true,
    List.all_eq_true, ← forall₂_and]
  refine forall₂_congr fun k _ => ?_
  rw [← Bool.and_eq_true, ← Bool.or_and_distrib_left]

theorem foldl_add_eq_sum {α : Type} (f : α → Nat) (l : List α) (n : Nat) : l.foldl (fun n x => n + f x) n = n + (l.map f).sum := by
  induction l generalizing n with
  | nil => simp
  | cons a l ih => simp [ih, Nat.add_assoc]

theorem Core.shadowBytes_eq (c : Core) : c.shadowBytes = (c.xfr.steps.map (fun x => x.shadow)).sum := by
  rw [Core.shadowBytes, foldl_add_eq_sum, Nat.zero_add]

/-- The scale bytes booked are those of the steps toward the queue (R211). -/
theorem Core.scalesBooked_eq (c : Core) :
    c.scalesBooked = ((c.xfr.steps.filter (fun x => x.dest == .scaleQueue)).map (fun x => x.bytes)).sum := by
  have h : ∀ (l : List XStep) (n : Nat), l.foldl (fun n x => if x.dest == .scaleQueue then n + x.bytes else n) n =
      n + ((l.filter (fun x => x.dest == .scaleQueue)).map (fun x => x.bytes)).sum := by
    intro l
    induction l with
    | nil => simp
    | cons a l ih =>
      intro n
      rw [List.foldl_cons, ih]
      cases hd : a.dest == .scaleQueue
      · simp [hd]
      · simp [hd, Nat.add_assoc]
  rw [Core.scalesBooked, h, Nat.zero_add]

theorem stepRoom_eq (s : State) (h : XHdr) (n : Nat) :
    s.me.stepRoom (s.run .transfer).owner h.tok n = stepFits s .transfer h.kv h.k n := by
  have hpend : ∀ p : BitVec 8, (p != 0xFF) = !decide (p.toNat = 255) := by decide
  simp only [Core.stepRoom, stepFits, Core.shadowBytes_eq, XHdr.tok]
  cases h.kv
  · simp
  · simp only [if_true, Bool.true_and]
    exact congrArg _ (hpend _)

end Sys2Proof.Machine
end

section
/-! The checks that a word of the transfer run makes in order at its issue (R65, R202). -/

namespace Sys2Proof.Machine

open Sys2Proof

/-! ## The checks of a word (R65, R202) -/

/-- One check at a word's issue: it may fail with a cause and an address, or make the word wait. -/
inductive IssueCheck where
  | fails (bad : Bool) (cause addr : Nat)
  | waits (b : Bool)

/-- What a check answers; none to go on. -/
def IssueCheck.say : IssueCheck → Option XIssue
  | .fails bad cause addr => if bad then some (.fault cause addr) else none
  | .waits b => if b then some .wait else none

/-- The checks that may fail, in order. -/
def checkFaults : List IssueCheck → List (Bool × Nat × Nat)
  | [] => []
  | .fails bad cause addr :: cs => (bad, cause, addr) :: checkFaults cs
  | .waits _ :: cs => checkFaults cs

/-- Some check makes the word wait. -/
def checkWaits : List IssueCheck → Bool
  | [] => false
  | .fails _ _ _ :: cs => checkWaits cs
  | .waits b :: cs => b || checkWaits cs

/-- The first answer of checks. -/
def issueOf (x : XStep) (cs : List IssueCheck) : XIssue := firstIssue x (cs.map IssueCheck.say)

@[simp] theorem issueOf_nil (x : XStep) : issueOf x [] = .go x := rfl

@[simp] theorem issueOf_fails (x : XStep) (bad : Bool) (cause addr : Nat) (cs : List IssueCheck) :
    issueOf x (.fails bad cause addr :: cs) = if bad then .fault cause addr else issueOf x cs := by
  cases bad <;> rfl

@[simp] theorem issueOf_waits (x : XStep) (b : Bool) (cs : List IssueCheck) :
    issueOf x (.waits b :: cs) = if b then .wait else issueOf x cs := by
  cases b <;> rfl

/-- With nothing to wait for, the first check that fails is the fault. -/
theorem issueOf_fault (x : XStep) {cs : List IssueCheck} (hw : checkWaits cs = false) {b : Bool × Nat × Nat}
    (hb : (checkFaults cs).find? (fun b => b.1) = some b) : issueOf x cs = .fault b.2.1 b.2.2 := by
  induction cs with
  | nil => cases hb
  | cons c cs ih =>
    cases c with
    | fails bad cause addr =>
      rw [issueOf_fails]
      cases bad with
      | true =>
        obtain rfl : (true, cause, addr) = b := by simpa [checkFaults] using hb
        rfl
      | false => exact ih hw (by simpa [checkFaults] using hb)
    | waits w =>
      obtain ⟨rfl, hw⟩ := (Bool.or_eq_false_iff).mp hw
      exact ih hw hb

/-- When no check fails, the word waits if one says so, and else goes on. -/
theorem issueOf_clear (x : XStep) {cs : List IssueCheck} (hb : (checkFaults cs).find? (fun b => b.1) = none) :
    issueOf x cs = if checkWaits cs then .wait else .go x := by
  induction cs with
  | nil => rfl
  | cons c cs ih =>
    cases c with
    | fails bad cause addr =>
      cases bad with
      | true => simp [checkFaults] at hb
      | false => exact ih (by simpa [checkFaults] using hb)
    | waits w =>
      rw [issueOf_waits, ih hb]
      cases w <;> rfl

/-! ## The model's checks as such a list -/

theorem firstIssue_nil (x : XStep) : firstIssue x [] = issueOf x [] := rfl

theorem firstIssue_faultOf (x : XStep) (cs : List (Bool × Nat)) (addr : Nat) (rest : List (Option XIssue)) {ds : List IssueCheck}
    (h : firstIssue x rest = issueOf x ds) :
    firstIssue x (faultOf cs addr :: rest) = issueOf x (cs.map (fun c => .fails c.1 c.2 addr) ++ ds) := by
  induction cs with
  | nil => exact h
  | cons c cs ih =>
    obtain ⟨bad, cause⟩ := c
    cases bad with
    | true => rfl
    | false => exact ih

/-- The tile of a scratchpad source (R19, R214). -/
theorem srcTile_eq (s : State) (p : Place) (drain : Bool) :
    s.me.srcTile p drain s.tick = if tileFaults s p then some (.fault 0x0B 0) else if tileWaits s p drain then some .wait else none := by
  cases hp : p.tile with
  | none => simp [Core.srcTile, tileFaults, tileWaits, hp]
  | some t => cases hsay : (vget s.me.tt t).say <;> simp [Core.srcTile, tileFaults, tileWaits, hp, hsay]

theorem firstIssue_srcTile (s : State) (x : XStep) (p : Place) (drain : Bool) (rest : List (Option XIssue)) {ds : List IssueCheck}
    (h : firstIssue x rest = issueOf x ds) :
    firstIssue x (s.me.srcTile p drain s.tick :: rest) =
      issueOf x (.fails (tileFaults s p) 0x0B 0 :: .waits (tileWaits s p drain) :: ds) := by
  rw [issueOf_fails, issueOf_waits, ← h, srcTile_eq]
  cases tileFaults s p
  · cases tileWaits s p drain <;> rfl
  · rfl

/-- The tile of a scratchpad destination (R214). -/
theorem firstIssue_dstTile (s : State) (x : XStep) (p : Place) (rest : List (Option XIssue)) {ds : List IssueCheck}
    (h : firstIssue x rest = issueOf x ds) :
    firstIssue x (s.me.dstTile p :: rest) = issueOf x (.waits (tileQueued s p) :: ds) := by
  have hdst : s.me.dstTile p = if tileQueued s p then some .wait else none := by
    cases hp : p.tile with
    | none => simp [Core.dstTile, tileQueued, hp]
    | some t => simp [Core.dstTile, tileQueued, hp]
  rw [issueOf_waits, ← h, hdst]
  cases tileQueued s p <;> rfl

/-- A wait that stands in the list by itself. -/
theorem firstIssue_wait (x : XStep) (c : Prop) [Decidable c] (rest : List (Option XIssue)) {ds : List IssueCheck}
    (h : firstIssue x rest = issueOf x ds) :
    firstIssue x ((if c then some .wait else none) :: rest) = issueOf x (.waits (decide c) :: ds) := by
  rw [issueOf_waits, ← h]
  by_cases hc : c
  · rw [if_pos hc, decide_eq_true hc]; rfl
  · rw [if_neg hc, decide_eq_false hc]; rfl

theorem packMisaligned_eq (p : Place) (f : Fmt) : packMisaligned p f = rowCrooked p f := by
  simp [packMisaligned, rowCrooked, bne, Bool.beq_eq_decide_eq]

end Sys2Proof.Machine
end

section
/-! The step that enters flight (R198, R199). -/

namespace Sys2Proof.Machine

open Sys2Proof

/-! ## A step enters flight (R198, R199) -/

/-- `x` is a step as engine `e` issues it now, its entry's own fields apart. -/
structure NewlyIssued (e : Engine) (s : State) (h : XHdr) (x : XStep) : Prop where
  id     : x.id = s.me.xfr.nextId
  slot   : x.slot = (s.run e).owner
  upc    : x.upc = (s.run e).upc
  cfg    : x.cfg = (s.run e).cfg
  issued : x.issued = s.tick
  stage  : x.stage = .working
  sector : x.sector = 0
  tok    : x.tok = h.tok

/-- A slot after the issue of a step that may name a token. -/
def Slot.claimed (t : Slot) (tok : Option Tok) : Slot := tok.elim t t.claimToken

theorem Slot.claimed_outside (t : Slot) (tok : Option Tok) :
    t.claimed tok = { t with tokens := (t.claimed tok).tokens, pend := (t.claimed tok).pend } := by
  cases tok <;> rfl

theorem Slot.claimed_tokens (t : Slot) (h : XHdr) (k : Tok) :
    (t.claimed h.tok).tokens.getLsbD k.val = (t.tokens.getLsbD k.val && !(h.kv && k == h.k)) := by
  rw [XHdr.tok]
  cases h.kv
  · simp [Slot.claimed]
  · simp only [Slot.claimed, Slot.claimToken, if_true, Option.elim, BitVec.getLsbD_and, BitVec.getLsbD_not, getLsbD_tokenBit,
      Bool.true_and, Bool.beq_eq_decide_eq, decide_eq_true k.isLt]

theorem Slot.claimed_pend (t : Slot) (h : XHdr) (k : Tok) :
    vget (t.claimed h.tok).pend k = vget t.pend k + (if h.kv && k == h.k then 1 else 0) := by
  rw [XHdr.tok]
  cases h.kv
  · simp [Slot.claimed]
  · by_cases hk : k = h.k
    · subst hk
      simp [Slot.claimed, Slot.claimToken]
    · simp only [Slot.claimed, Slot.claimToken, if_true, Option.elim]
      rw [vget_vset_ne _ _ _ _ hk]
      simp [hk]

/-- The core with a step in flight that has just been issued, its task's token claimed and the tile table `tt`. -/
def Core.withStep (c : Core) (x : XStep) (tt : Vector TileEnt 64) : Core :=
  { c.setTask x.slot ((c.task x.slot).claimed x.tok) with
    tt := tt, xfr := { steps := c.xfr.steps ++ [x], nextId := c.xfr.nextId + 1 } }

/-- A step that enters flight: a tile that it drains is draining, and one that it fills is to be claimed (R214). -/
theorem addStep_cases (s : State) (x : XStep) : ∃ tt,
    (s.addStep x = s.setMe (s.me.withStep x tt) ∨
      ∃ n, s.addStep x = (s.setMe (s.me.withStep x tt)).now (engAt s.cur.core .transfer) (.tileClaim s.cur.core n)) ∧
    ∀ u, x.source = some u → x.drain = true → x.dest = .global → vget tt u = { vget s.me.tt u with st := .draining } := by
  have hdrain : ∀ {u}, x.source = some u → x.drain = true → vget (match x.source, x.drain with
      | some n, true => vset s.me.tt n { vget s.me.tt n with st := .draining }
      | _, _ => s.me.tt) u = { vget s.me.tt u with st := .draining } := by
    intro u hu hd
    simp only [hu, hd, vget_vset]
  cases htok : x.tok <;> cases hdest : x.dest
  case none.spad b tile | some.spad b tile =>
    cases tile <;> simp only [State.addStep, Core.withStep, Slot.claimed, htok, hdest]
    · exact ⟨_, .inl rfl, fun _ _ _ => nofun⟩
    · exact ⟨_, .inr ⟨_, rfl⟩, fun _ _ _ => nofun⟩
  all_goals
    simp only [State.addStep, Core.withStep, Slot.claimed, htok, hdest]
    exact ⟨_, .inl rfl, fun u hu hd _ => hdrain hu hd⟩

/-- The step that the run issues stands among the core's steps, and the run has moved on. -/
theorem stepEnters_addStep {s : State} {x : XStep} {h : XHdr} (hx : NewlyIssued .transfer s h x) (len : Nat) :
    StepEnters .transfer s ((s.setMe (s.me.stepRun .transfer len (s.tick + 1))).addStep x) len h x ∧
      ∀ u, x.source = some u → x.drain = true → x.dest = .global →
        vget ((s.setMe (s.me.stepRun .transfer len (s.tick + 1))).addStep x).me.tt u = { vget s.me.tt u with st := .draining } := by
  obtain ⟨id, slot, upc, cfg, issued, stage, sector, tok⟩ := hx
  let r := s.setMe (s.me.stepRun .transfer len (s.tick + 1))
  have hr : r.me = s.me.stepRun .transfer len (s.tick + 1) := State.me_setMe ..
  obtain ⟨tt, hadd, htile⟩ := addStep_cases r x
  have hme : (r.addStep x).me = r.me.withStep x tt := by
    rcases hadd with h | ⟨n, h⟩
    · rw [h, State.me_setMe]
    · rw [h]
      exact State.me_setMe ..
  have hjobs : OnlyCoreJobs s.cur.core s (r.addStep x) := by
    have hset : OnlyCoreJobs s.cur.core s (r.setMe (r.me.withStep x tt)) :=
      ((OnlyCoreJobs.refl _ s).setCore _).setCore _
    rcases hadd with h | ⟨n, h⟩
    · rwa [h]
    · rw [h]
      exact hset.now ..
  have htask : (r.addStep x).me.task x.slot = (s.me.task x.slot).claimed h.tok := by
    rw [hme, hr, ← tok]
    exact vget_vset ..
  refine ⟨⟨hjobs, ?_, ?_, ?_, fun y hy => ?_, ?_, tok, ?_, fun k => ?_, ?_, fun i hi => ?_⟩, fun u hu hd hg => ?_⟩
  · rw [hme, hr]
    rfl
  · rw [hme]
    exact List.mem_append_right _ (List.mem_singleton_self x)
  · rw [hme, hr]
    exact List.length_append
  · rw [hme, hr]
    refine List.mem_append.trans (or_iff_left fun hm => hy ?_)
    rw [List.mem_singleton.mp hm]
  · refine ⟨id, ?_, slot, upc, cfg, issued, stage, sector⟩
    rw [hme, hr]
    rfl
  · rw [hme, hr]
    exact Core.runOf_setRun ..
  · rw [htask]
    exact ⟨Slot.claimed_tokens .., Slot.claimed_pend ..⟩
  · rw [htask]
    exact Slot.claimed_outside ..
  · rw [hme, hr]
    exact vget_vset_ne _ _ _ _ hi
  · have := htile u hu hd hg
    rw [hme, hr] at *
    exact this

/-- The acting core with a step replaced. -/
theorem State.setStep_me (t : State) (x : XStep) : (t.setStep t.cur.core x).me = t.me.setStep x := State.core_setCore ..

/-- A further change of the steps in the place of the one that entered, and of what acts next. -/
theorem StepEnters.setStep {s t : State} {e : Engine} {len : Nat} {h : XHdr} {x : XStep} (hx : StepEnters e s t len h x) (d : Nat) :
    StepEnters e s (t.setStep s.cur.core { x with done := d }) len h { x with done := d } := by
  obtain ⟨only, within, step, count, others, place, token, run, tokens, task, slots⟩ := hx
  have hme : (t.setStep s.cur.core { x with done := d }).me = t.me.setStep { x with done := d } := by
    rw [← only.cur]
    exact State.setStep_me ..
  refine ⟨only.setStep _, ?_, ?_, ?_, fun y hy => ?_, ?_, token, ?_, ?_, ?_, ?_⟩
  all_goals rw [hme]
  · rw [Core.setStep_outside, within]
  · exact Core.mem_setStep step rfl
  · exact (List.length_map _).trans count
  · exact (Core.mem_setStep_ne hy).trans (others y hy)
  · exact place
  · exact run
  · exact tokens
  · exact task
  · exact slots

/-- What acts next, and the tiles that are read, may change beside. -/
theorem StepEnters.beside {s t u : State} {e : Engine} {len : Nat} {h : XHdr} {x : XStep} (hx : StepEnters e s t len h x)
    (only : OnlyCoreJobs s.cur.core s u) (hu : u.me = { t.me with admits := u.me.admits }) : StepEnters e s u len h x := by
  obtain ⟨-, within, step, count, others, place, token, run, tokens, task, slots⟩ := hx
  refine ⟨only, ?_, ?_, ?_, ?_, ?_, token, ?_, ?_, ?_, ?_⟩
  all_goals rw [hu]
  · rw [within]
  · exact step
  · exact count
  · exact others
  · exact place
  · exact run
  · exact tokens
  · exact task
  · exact slots

/-- The step as it stands in flight once it has been issued. -/
def XStep.inFlight (x : XStep) (missing : List (Nat × Nat)) (done : Nat) : XStep := { x with missing := missing, done := done }

/-- A step that has entered flight is told its fill at once where it touches no global memory (R283). -/
theorem startStep_cases (s : State) (x : XStep) :
    let x1 := x.inFlight (s.missingSectors s.cur.core x) x.done
    s.startStep x = s.addStep x1 ∨ s.startStep x = (s.addStep x1).scheduleFill s.cur.core x1 := by
  unfold State.startStep
  dsimp only
  split
  · exact .inl rfl
  · split
    · exact .inl rfl
    · exact .inl rfl
    all_goals exact .inr rfl

theorem scheduleFill_tt {t : State} {k : Nat} (hk : k = t.cur.core) (x : XStep) : (t.scheduleFill k x).me.tt = t.me.tt := by
  subst hk
  have h : (t.scheduleFill t.cur.core x).me = t.me.setStep { x with done := _ } := State.setStep_me ..
  rw [h]
  rfl

/-- A step whose tokens are set and that finds room enters flight (R79, R198, R199). -/
theorem xissue_enters {s : State} {x : XStep} {h : XHdr} (hx : NewlyIssued .transfer s h x)
    (hopen : tokensOpen s .transfer h.wm = true) (hfit : stepFits s .transfer h.kv h.k x.shadow = true) (len : Nat) :
    ∃ m d, StepEnters .transfer s (s.xissue len h (.go x)) len h (x.inFlight m d) ∧
      ∀ u, x.source = some u → x.drain = true → x.dest = .global →
        vget (s.xissue len h (.go x)).me.tt u = { vget s.me.tt u with st := .draining } := by
  have hroom : s.me.stepRoom (s.run .transfer).owner x.tok x.shadow = true := by
    rw [hx.tok, stepRoom_eq, hfit]
  have hgo : s.xissue len h (.go x) = (s.setMe (s.me.stepRun .transfer len (s.tick + 1))).startStep x := by
    simp only [State.xissue, tokensWere_eq, hopen, Bool.not_true, Bool.false_eq_true, if_false, hroom, if_true]
  let r := s.setMe (s.me.stepRun .transfer len (s.tick + 1))
  let m := r.missingSectors s.cur.core x
  have hx1 : NewlyIssued .transfer s h (x.inFlight m x.done) := by
    obtain ⟨id, slot, upc, cfg, issued, stage, sector, tok⟩ := hx
    exact ⟨id, slot, upc, cfg, issued, stage, sector, tok⟩
  obtain ⟨henters, htile⟩ := stepEnters_addStep hx1 len
  rw [hgo]
  rcases startStep_cases r x with hs | hs
  · rw [hs]
    exact ⟨m, x.done, henters, htile⟩
  · rw [hs]
    refine ⟨m, _, ((henters.setStep _).beside (((henters.only.setStep _).atTick ..).bump) rfl), fun u hu hd hg => ?_⟩
    exact (congrArg (fun tt => vget tt u) (scheduleFill_tt (congrArg Cur.core henters.only.cur.symm) _)).trans (htile u hu hd hg)

/-! ## A word that issues a step (R79, R198) -/

theorem xissue_closed {s : State} {h : XHdr} (hopen : tokensOpen s .transfer h.wm = false) (len : Nat) (r : XIssue) :
    s.xissue len h r = s := by
  simp only [State.xissue, tokensWere_eq, hopen, Bool.not_false, if_true]

theorem xissue_wait (s : State) (len : Nat) (h : XHdr) : s.xissue len h .wait = s := by
  unfold State.xissue
  dsimp only
  split <;> rfl

theorem xissue_fault {s : State} {h : XHdr} (hopen : tokensOpen s .transfer h.wm = true) (len cause addr : Nat) :
    s.xissue len h (.fault cause addr) = s.engFault .transfer cause 0 0 addr := by
  simp only [State.xissue, tokensWere_eq, hopen, Bool.not_true, Bool.false_eq_true, if_false]

theorem xissue_full {s : State} {x : XStep} {h : XHdr} (hx : x.tok = h.tok)
    (hfit : stepFits s .transfer h.kv h.k x.shadow = false) (len : Nat) : s.xissue len h (.go x) = s := by
  simp only [State.xissue, hx, stepRoom_eq, hfit, Bool.false_eq_true, if_false, ite_self]

/-- A fault at the issue of an engine's word leaves the count of steps as it is. -/
theorem engFault_nextId (s : State) (e : Engine) (cause acc why addr : Nat) :
    (s.engFault e cause acc why addr).me.xfr.nextId = s.me.xfr.nextId := by
  rw [State.engFault, State.me_setMe]
  rfl

theorem issuedIn_self (s : State) : s.issuedIn s = false := bne_self_eq_false _

theorem issuedIn_engFault (s : State) (e : Engine) (cause acc why addr : Nat) :
    s.issuedIn (s.engFault e cause acc why addr) = false := by
  rw [State.issuedIn, engFault_nextId]
  exact bne_self_eq_false _

theorem StepEnters.issuedIn {s t : State} {e : Engine} {len : Nat} {h : XHdr} {x : XStep} (hx : StepEnters e s t len h x) :
    s.issuedIn t = true := by
  rw [State.issuedIn, hx.place.2.1]
  exact bne_iff_ne.mpr (Nat.succ_ne_self _)

section
variable {s : State} {i : Instr} {len : Nat} {h : XHdr} {early late : Bool} {bad : List (Bool × Nat × Nat)} {n : Nat}
  {ok : State → XStep → Prop} {x : XStep} {os : List (Option XIssue)} {cs : List IssueCheck} {beside : State → State}

/-- A word that waits for `early`, makes its checks `cs` and then issues step `x`, with `beside` what follows an issue. -/
theorem xferWord_beside (hexec : exec i s = .next (beside (s.xissue len h (if early then .wait else firstIssue x os))))
    (hos : firstIssue x os = issueOf x cs) (hwaits : checkWaits cs = late)
    (hfaults : late = false → (checkFaults cs).find? (fun b => b.1) = bad.find? (fun b => b.1))
    (hclear : bad.find? (fun b => b.1) = none → (checkFaults cs).find? (fun b => b.1) = none)
    (hx : NewlyIssued .transfer s h x) (hn : x.shadow = n)
    (hbeside : ∀ t, s.issuedIn t = false → beside t = t)
    (hgo : ∀ t m d, StepEnters .transfer s t len h (x.inFlight m d) →
      (∀ u, x.source = some u → x.drain = true → x.dest = .global → vget t.me.tt u = { vget s.me.tt u with st := .draining }) →
      StepEnters .transfer s (beside t) len h (x.inFlight m d) ∧ ok (beside t) (x.inFlight m d)) :
    XferWord s i len h early late bad n ok := by
  have hstay : beside s = s := hbeside s (issuedIn_self s)
  have hissue : (tokensOpen s .transfer h.wm && !early) = true → tokensOpen s .transfer h.wm = true ∧ early = false := by
    intro hg
    obtain ⟨hopen, he⟩ := (Bool.and_eq_true ..).mp hg
    exact ⟨hopen, (Bool.not_eq_true' _).mp he⟩
  rw [hos] at hexec
  have hclose : ∀ {g}, bad.find? (fun b => b.1) = none → checkWaits cs = g → issueOf x cs = if g then .wait else .go x := by
    rintro g hb rfl
    exact issueOf_clear x (hclear hb)
  refine ⟨fun hg => ?_, fun hg hl b hb => ?_, fun hg hb hlf => ?_, fun hg hb hl hf => ?_⟩
  · rw [hexec]
    cases hopen : tokensOpen s .transfer h.wm with
    | false => rw [xissue_closed hopen, hstay]
    | true =>
      rw [hopen, Bool.true_and, Bool.not_eq_false'] at hg
      rw [hg, if_pos rfl, xissue_wait, hstay]
  · obtain ⟨hopen, rfl⟩ := hissue hg
    rw [hexec, if_neg Bool.false_ne_true, issueOf_fault x (hwaits.trans hl) (by rw [hfaults hl, hb]), xissue_fault hopen,
      hbeside _ (issuedIn_engFault ..)]
  · obtain ⟨hopen, rfl⟩ := hissue hg
    rw [hexec, if_neg Bool.false_ne_true, hclose hb hwaits]
    cases late with
    | true => rw [if_pos rfl, xissue_wait, hstay]
    | false =>
      obtain hf := hlf.resolve_left Bool.false_ne_true
      rw [if_neg Bool.false_ne_true, xissue_full hx.tok (by rw [hn, hf]), hstay]
  · obtain ⟨hopen, rfl⟩ := hissue hg
    obtain ⟨m, d, henters, htile⟩ := xissue_enters hx hopen (by rw [hn, hf]) len
    obtain ⟨henters', hok⟩ := hgo _ m d henters htile
    refine ⟨_, x.inFlight m d, ?_, henters', hn, hok⟩
    rw [hexec, if_neg Bool.false_ne_true, hclose hb (hwaits.trans hl), if_neg Bool.false_ne_true]

/-- The same of a word after whose issue nothing follows. -/
theorem xferWord_of_checks (hexec : exec i s = .next (s.xissue len h (if early then .wait else firstIssue x os)))
    (hos : firstIssue x os = issueOf x cs) (hwaits : checkWaits cs = late)
    (hfaults : checkFaults cs = bad) (hx : NewlyIssued .transfer s h x) (hn : x.shadow = n)
    (hok : ∀ t m d,
      (∀ u, x.source = some u → x.drain = true → x.dest = .global → vget t.me.tt u = { vget s.me.tt u with st := .draining }) →
      ok t (x.inFlight m d)) :
    XferWord s i len h early late bad n ok :=
  xferWord_beside (beside := id) hexec hos hwaits (fun _ => congrArg _ hfaults) (fun hb => hfaults ▸ hb) hx hn (fun _ _ => rfl)
    (fun t m d henters htile => ⟨henters, hok t m d htile⟩)

end

end Sys2Proof.Machine
end

section
/-! The issue of copies (R198 to R202, R206, R207). -/

namespace Sys2Proof.Machine

open Sys2Proof

/-- The bytes that a step reads at its issue are the bytes it has got. -/
theorem got_one {x : XStep} {bs : List Byte} (h : x.parts = [(0, bs)]) : x.got = bs := by
  rw [XStep.got, h]
  exact List.append_nil bs

/-- Settles O49: each form of a copy makes the checks of its clause in order and then enters flight. -/
theorem copiesEnter : Obligations.CopiesEnter := by
  unfold Obligations.CopiesEnter
  refine fun s h => ⟨fun dfr sl sp off => ⟨?_, fun drain => ?_⟩, fun dfr drain sl src dst => ?_, fun dfr sl dl => ?_⟩
  · refine xferWord_of_checks rfl (firstIssue_faultOf _ _ _ _ (firstIssue_faultOf _ _ _ _ (firstIssue_faultOf _ _ _ _
      (firstIssue_dstTile _ _ _ _ (firstIssue_nil _))))) (Bool.or_false _) ?_ ⟨rfl, rfl, rfl, rfl, rfl, rfl, rfl, rfl⟩ rfl ?_
    · simp only [packMisaligned_eq]
      rfl
    · exact fun _ _ _ _ => ⟨rfl, rfl, rfl, rfl, rfl, rfl, rfl, rfl⟩
  · refine xferWord_of_checks rfl (firstIssue_faultOf _ _ _ _ (firstIssue_faultOf _ _ _ _ (firstIssue_faultOf _ _ _ _
      (firstIssue_srcTile _ _ _ _ _ (firstIssue_nil _))))) (Bool.or_false _) ?_ ⟨rfl, rfl, rfl, rfl, rfl, rfl, rfl, rfl⟩ rfl ?_
    · simp only [packMisaligned_eq]
      rfl
    · exact fun _ _ _ htile => ⟨rfl, rfl, rfl, rfl, rfl, rfl, rfl, rfl, got_one rfl, fun u hu hd => htile u hu hd rfl⟩
  · refine xferWord_of_checks rfl (firstIssue_faultOf _ _ _ _ (firstIssue_srcTile _ _ _ _ _ (firstIssue_dstTile _ _ _ _
      (firstIssue_nil _)))) ?_ ?_ ⟨rfl, rfl, rfl, rfl, rfl, rfl, rfl, rfl⟩ rfl ?_
    · exact congrArg _ (Bool.or_false _)
    · simp only [packMisaligned_eq]
      rfl
    · exact fun _ _ _ _ => ⟨rfl, rfl, rfl, rfl, rfl, rfl, rfl, got_one rfl⟩
  · refine xferWord_of_checks rfl (firstIssue_faultOf _ _ _ _ (firstIssue_faultOf _ _ _ _ (firstIssue_faultOf _ _ _ _
      (firstIssue_nil _)))) rfl rfl ⟨rfl, rfl, rfl, rfl, rfl, rfl, rfl, rfl⟩ rfl ?_
    exact fun _ _ _ _ => ⟨rfl, rfl, rfl, rfl, rfl, rfl, rfl, rfl, rfl⟩

end Sys2Proof.Machine
end

section
/-! The issue of gathers and compactions (R208): their list, their rows and their checks. -/

namespace Sys2Proof.Machine

open Sys2Proof

/-! ## The rows that a list names (R208) -/

@[simp] theorem Memory.length_load (m : Memory) (a n : Nat) : (Memory.load m a n).length = n := by
  induction n generalizing a with
  | zero => rfl
  | succ n ih => rw [Memory.load, List.length_cons, ih]

/-- A part of the bytes read from a place is read from its own place. -/
theorem Memory.take_drop_load (m : Memory) (a : Nat) {i k n : Nat} (h : i + k ≤ n) :
    ((Memory.load m a n).drop i).take k = Memory.load m (a + i) k := by
  obtain ⟨j, rfl⟩ := Nat.exists_eq_add_of_le h
  rw [Memory.load_add, Memory.load_add, List.append_assoc, List.drop_left' (Memory.length_load ..),
    List.take_left' (Memory.length_load ..)]

theorem gatherSrc_idx (s : State) (sl : ShReg) (p : Place) (n : Nat) (df : Fmt) : (s.gatherSrc sl p n df).idx = listWords s p n := by
  refine List.map_congr_left fun i hi => ?_
  rw [Core.spRead, Memory.take_drop_load _ _ (by have := List.mem_range.mp hi; omega)]

theorem gatherSrc_list7 (s : State) (sl : ShReg) (p : Place) (n : Nat) (df : Fmt) :
    (s.gatherSrc sl p n df).list7 = decide (p.off % 4 ≠ 0) := by
  simp [State.gatherSrc, bne, Bool.beq_eq_decide_eq]

/-- What a gather's list and table slot fail in beside alignment. -/
theorem gatherSrc_bad (s : State) (sl : ShReg) (p : Place) (n : Nat) (df : Fmt) :
    let sh := shapeOf (vget s.me.sh sl)
    let e := sizeFmt sh.fmt df
    (s.gatherSrc sl p n df).bad = (!p.fits p.off (4 * n) || (sh.fmt == .t6 && sh.estride != 0) ||
      decide (sh.rowbytes = 0 ∨ sh.rowbytes % (if e = .t6 then 3 else e.bits / 8) ≠ 0)) := by
  simp [State.gatherSrc, t6Stride, rowUnit, bne, Bool.beq_eq_decide_eq, Bool.or_assoc]

theorem rowMisaligned_eq (base : Nat) (pitch : Int) (f : Fmt) (idx : List Nat) :
    rowMisaligned base pitch f idx = lostRow base pitch f idx := by
  refine congrArg (fun q => List.find? q _) (funext fun va => ?_)
  by_cases h : f = .t6
  · simp [rowAlign, h, Nat.mod_one]
  · simp [rowAlign, h, bne, Bool.beq_eq_decide_eq]

/-- The first misaligned row that a gather's list names. -/
theorem gatherSrc_rowBad (s : State) (sl : ShReg) (p : Place) (n : Nat) (df : Fmt) :
    let sh := shapeOf (vget s.me.sh sl)
    (s.gatherSrc sl p n df).rowBad = lostRow sh.base sh.rpitch (sizeFmt sh.fmt df) (listWords s p n) := by
  rw [GatherSrc.rowBad, rowMisaligned_eq, gatherSrc_idx]
  rfl

/-! ## The checks of a gather (R65, R208) -/

/-- Misaligned rows are judged where the list's tile can be read (log 126). -/
theorem firstIssue_rows (s : State) (x : XStep) (p : Place) (lost : Option Nat) (rest : List (Option XIssue)) {ds : List IssueCheck}
    (h : firstIssue x rest = issueOf x ds) :
    firstIssue x ((if s.me.srcTile p false s.tick = none then lost.map (fun va => XIssue.fault 0x07 va) else none) :: rest) =
      issueOf x (.fails (!tileFaults s p && !tileWaits s p false && lost.isSome) 0x07 (lost.getD 0) :: ds) := by
  rw [issueOf_fails, ← h, srcTile_eq]
  cases tileFaults s p
  · cases tileWaits s p false
    · cases lost <;> rfl
    · rfl
  · rfl

theorem firstIssue_gatherChecks (s : State) (x : XStep) (p : Place) (g : GatherSrc) (dst7 size : Bool) (lost : Option Nat) (big : Bool)
    {rest : List (Option XIssue)} {ds : List IssueCheck} (h : firstIssue x rest = issueOf x ds) :
    firstIssue x (s.gatherChecks p g dst7 size lost big ++ rest) = issueOf x (
      .fails (g.list7 || dst7) 0x07 0 :: .fails (g.bad || size) 0x0A 0 ::
      .fails (!tileFaults s p && !tileWaits s p false && lost.isSome) 0x07 (lost.getD 0) :: .fails big 0x0A 0 ::
      .fails (tileFaults s p) 0x0B 0 :: .waits (tileWaits s p false) :: ds) :=
  firstIssue_faultOf _ _ _ _ (firstIssue_rows _ _ _ _ _ (firstIssue_faultOf _ _ _ _ (firstIssue_srcTile _ _ _ _ _ h)))

/-- The first of several checks that holds. -/
theorem find?_check (b : Bool) (cause addr : Nat) (l : List (Bool × Nat × Nat)) :
    ((b, cause, addr) :: l).find? (fun b => b.1) = if b then some (true, cause, addr) else l.find? (fun b => b.1) := by
  cases b <;> rfl

theorem find?_check_none (b : Bool) (cause addr : Nat) (l : List (Bool × Nat × Nat)) :
    ((b, cause, addr) :: l).find? (fun b => b.1) = none ↔ b = false ∧ l.find? (fun b => b.1) = none := by
  cases b <;> simp

/-- Two checks with one answer, made together or one after the other. -/
theorem ite_bor {α : Type} (a b : Bool) (x y : α) : (if (a || b) = true then x else y) = if a = true then x else if b = true then x else y := by
  cases a <;> rfl

/-- The tile of a list that an issuing step reads is held for the tick. -/
theorem admitList_beside (s : State) (p : Place) :
    (∀ t, s.issuedIn t = false → s.admitList p t = t) ∧
    ∀ t len h x, StepEnters .transfer s t len h x → StepEnters .transfer s (s.admitList p t) len h x := by
  refine ⟨fun t ht => if_neg (Bool.eq_false_iff.mp ht), fun t len h x hx => ?_⟩
  rw [State.admitList, if_pos hx.issuedIn]
  have hcur : t.cur = s.cur := hx.only.cur
  refine hx.beside ?_ ?_
  · rw [State.setMe, hcur]
    exact hx.only.setCore _
  · rw [State.me_setMe]
    exact Core.holdTile_outside ..

/-! ## Gathers and compactions (R208) -/

theorem xgath_xferWord (s : State) (h : XHdr) (dfr : Bool) (sl : ShReg) (list : SpadAddr) (n : BitVec 13) (dst : SpadAddr) :
    let p := s.me.placeOf list
    let q := s.me.placeOf dst
    let g := gatherAsk s sl p n.toNat q
    XferWord s (.xgath h dfr sl list n dst) 4 h (s.me.slotBusy sl) (tileWaits s p false || tileQueued s q) g.bad g.bytes
      (fun _ x => gatherStep s sl g q n.toNat x ∧ x.dfr = dfr) := by
  intro p q g
  refine xferWord_beside (beside := s.admitList p) rfl (firstIssue_gatherChecks _ _ _ _ _ _ _ _ (firstIssue_dstTile _ _ _ _
      (firstIssue_nil _))) (congrArg _ (Bool.or_false _)) (fun hl => ?_) (fun hb => ?_) ⟨rfl, rfl, rfl, rfl, rfl, rfl, rfl, rfl⟩ rfl
    (admitList_beside s p).1 fun t m d henters _ => ⟨(admitList_beside s p).2 _ _ _ _ henters, ?_⟩
  · obtain ⟨hw, -⟩ := Bool.or_eq_false_iff.mp hl
    simp only [g, gatherAsk, checkFaults, find?_check, gatherSrc_list7, gatherSrc_bad, gatherSrc_rowBad, packMisaligned_eq, p, hw, ite_bor,
      Bool.or_false, Bool.not_false, Bool.and_true]
    rfl
  · simp only [g, gatherAsk, find?_check_none, p] at hb
    obtain ⟨h7, hlist, ht6, hrow, hlost, hdst, hbig, htile, -⟩ := hb
    simp only [checkFaults, find?_check_none, gatherSrc_list7, gatherSrc_bad, gatherSrc_rowBad, packMisaligned_eq, Bool.or_false,
      Bool.or_eq_false_iff]
    refine ⟨Bool.or_eq_false_iff.mp h7, ⟨⟨hlist, ht6⟩, hrow⟩, ?_, ⟨hdst, hbig⟩, htile, rfl⟩
    rw [htile] at hlost ⊢
    rw [Bool.not_false, Bool.true_and] at hlost
    rw [hlost, Bool.and_false]
  · exact ⟨⟨congrArg _ (gatherSrc_idx ..), rfl, rfl, rfl, rfl, rfl, rfl, rfl⟩, rfl⟩

/-- Of the rows of both sides the source's are judged first. -/
theorem xcomp_xferWord (s : State) (h : XHdr) (dfr : Bool) (sl : ShReg) (list : SpadAddr) (n : BitVec 13) (dl : ShReg) :
    let p := s.me.placeOf list
    let sh := shapeOf (vget s.me.sh sl)
    let sd := shapeOf (vget s.me.sh dl)
    let e := sizeFmt sh.fmt sd.fmt
    let cols := if e = .t6 then sh.rowbytes / 3 * 4 else sh.rowbytes / (e.bits / 8)
    let out := sizeFmt sd.fmt sh.fmt
    let row := rowBytes out cols
    let idx := listWords s p n.toNat
    let lost := lostRow sh.base sh.rpitch e idx
    let lost' := lostRow sd.base sd.rpitch out (List.range n.toNat)
    XferWord s (.xcomp h dfr sl list n dl) 4 h (s.me.slotBusy sl || s.me.slotBusy dl) (tileWaits s p false)
      [(decide (p.off % 4 ≠ 0), 0x07, 0), (!p.fits p.off (4 * n.toNat), 0x0A, 0), (sh.fmt == .t6 && sh.estride != 0, 0x0A, 0),
        (decide (sh.rowbytes = 0 ∨ sh.rowbytes % (if e = .t6 then 3 else e.bits / 8) ≠ 0), 0x0A, 0),
        (sd.fmt == .t6 && sd.estride != 0, 0x0A, 0), (decide (sd.rowbytes ≠ row), 0x0A, 0),
        (!tileFaults s p && lost.isSome, 0x07, lost.getD 0), (!tileFaults s p && lost'.isSome, 0x07, lost'.getD 0),
        (decide (2097152 < n.toNat * row), 0x0A, 0), (tileFaults s p, 0x0B, 0)] (n.toNat * row)
      (fun _ x => x.src = .rows sh.base sh.rpitch sh.rowbytes idx ∧
        x.dst = .rows sd.base sd.rpitch row (List.range n.toNat) ∧ x.sf = sh.fmt ∧ x.df = sd.fmt ∧ x.cols = cols ∧
        x.sectors = n.toNat ∧ x.asked = 0 ∧ x.dest = .global ∧ x.dfr = dfr) := by
  intro p sh sd e cols out row idx lost lost'
  refine xferWord_beside (beside := s.admitList p) rfl (firstIssue_gatherChecks _ _ _ _ _ _ _ _ (firstIssue_nil _))
    (Bool.or_false _) (fun hw => ?_) (fun hb => ?_) ⟨rfl, rfl, rfl, rfl, rfl, rfl, rfl, rfl⟩ rfl
    (admitList_beside s p).1 fun t m d henters _ => ⟨(admitList_beside s p).2 _ _ _ _ henters, ?_⟩
  · simp only [checkFaults, gatherSrc_list7, gatherSrc_bad, gatherSrc_rowBad, rowMisaligned_eq, hw, Bool.or_false, Bool.not_false,
      Bool.and_true, p]
    cases hlost : lostRow sh.base sh.rpitch e idx with
    | none =>
      simp only [find?_check, ite_bor, lost, lost', hlost, Option.isSome_none, Bool.and_false, Bool.false_eq_true, if_false]
      rfl
    | some va =>
      simp only [find?_check, ite_bor, lost, lost', hlost, Option.isSome_some, Bool.and_true]
      cases htf : tileFaults s (s.me.placeOf list)
      · rfl
      · simp only [Bool.not_true, Bool.false_and, Bool.false_eq_true, if_false]
        rfl
  · simp only [find?_check_none] at hb
    obtain ⟨h7, hlist, ht6, hrow, ht6', hrow', hlost, hlost', hbig, htile, -⟩ := hb
    rw [htile, Bool.not_false, Bool.true_and] at hlost hlost'
    have hnone : lost = none := Option.isSome_eq_false_iff.mp hlost |> Option.isNone_iff_eq_none.mp
    simp only [checkFaults, find?_check_none, gatherSrc_list7, gatherSrc_bad, gatherSrc_rowBad, rowMisaligned_eq, Bool.or_false,
      Bool.or_eq_false_iff]
    refine ⟨h7, ⟨⟨⟨hlist, ht6⟩, hrow⟩, ht6', hrow'⟩, ?_, hbig, htile, rfl⟩
    simp only [lost, lost', sh, sd, e, idx, p] at hnone hlost'
    simp only [hnone]
    rw [Bool.and_eq_false_iff]
    exact .inr hlost'
  · exact ⟨congrArg _ (gatherSrc_idx ..), rfl, rfl, rfl, rfl, rfl, rfl, rfl, rfl⟩

end Sys2Proof.Machine
end

section
/-! The issue of the other transfer words (R201, R208 to R212). -/

namespace Sys2Proof.Machine

open Sys2Proof

/-- The pairs of an operation and an element format that R209 does not allow. -/
theorem redPair_eq (f bf : Fmt) (op : RedOp) :
    (!redPair f op || (bf != f && bf != .raw)) =
      decide (¬ (if op = .fadd then f = .fp32 else f = .i32 ∨ f = .n32) ∨ (bf ≠ f ∧ bf ≠ .raw)) := by
  cases op <;> simp [redPair, bne, Bool.beq_eq_decide_eq]

theorem ne_zero_check (n : Nat) : (n != 0) = decide (n ≠ 0) := by
  simp [bne, Bool.beq_eq_decide_eq]

theorem fld_zero (n w : Nat) : fld n 0 w = n % 2 ^ w := by
  rw [fld, pow_zero, Nat.div_one]

/-- `xslot` and `xslev`: a place that is aligned leaves the slot to wait for. -/
theorem slotWord_xferWord {s : State} {i : Instr} {h : XHdr} {va : Nat} {sl : ShReg} {x : XStep} {ok : State → XStep → Prop} {n : Nat}
    (hexec : exec i s = .next (s.xissue 2 h (if va % 64 ≠ 0 then .fault 0x07 va else if s.me.slotBusy sl then .wait else .go x)))
    (ha : va % 64 = 0) (hx : NewlyIssued .transfer s h x) (hn : x.shadow = n) (hok : ∀ t m d, ok t (x.inFlight m d)) :
    XferWord s i 2 h (s.me.slotBusy sl) false [] n ok := by
  rw [if_neg (not_not.mpr ha)] at hexec
  exact xferWord_of_checks (os := []) (cs := []) hexec (firstIssue_nil x) rfl rfl hx hn fun t m d _ => hok t m d

theorem slotWord_fault {s : State} {i : Instr} {h : XHdr} {va : Nat} {r : XIssue}
    (hexec : exec i s = .next (s.xissue 2 h (if va % 64 ≠ 0 then .fault 0x07 va else r)))
    (ha : va % 64 ≠ 0) (hopen : tokensOpen s .transfer h.wm = true) : exec i s = .next (s.engFault .transfer 0x07 0 0 va) := by
  rw [hexec, if_pos ha, xissue_fault hopen]

/-- Settles O50: each other word of the transfer run makes the checks of its clause in order and then enters flight. -/
theorem stepsEnter : Obligations.StepsEnter := by
  unfold Obligations.StepsEnter
  refine fun s h => ⟨xgath_xferWord s h, xcomp_xferWord s h, fun op sl sp off => ?_, fun tn sp => ?_, fun sp n => ?_,
    fun sl vp off => ⟨fun _ ha hopen => ⟨slotWord_fault rfl ha hopen, slotWord_fault rfl ha hopen⟩, fun ha => ?_, fun ha => ?_⟩,
    fun sp m => ?_⟩
  · refine xferWord_of_checks rfl (firstIssue_faultOf _ _ _ _ (firstIssue_faultOf _ _ _ _ (firstIssue_faultOf _ _ _ _
      (firstIssue_srcTile _ _ _ _ _ (firstIssue_nil _))))) (Bool.or_false _) ?_ ⟨rfl, rfl, rfl, rfl, rfl, rfl, rfl, rfl⟩ rfl ?_
    · simp only [packMisaligned_eq, redPair_eq]
      rfl
    · exact fun _ _ _ _ => ⟨rfl, rfl, rfl, rfl, rfl, rfl, got_one rfl⟩
  · refine xferWord_of_checks (early := false) rfl (firstIssue_faultOf _ _ _ _ (firstIssue_srcTile _ _ _ _ _ (firstIssue_nil _)))
      (Bool.or_false _) ?_ ⟨rfl, rfl, rfl, rfl, rfl, rfl, rfl, rfl⟩ ?_ ?_
    · simp only [packMisaligned_eq, fld_zero]
      rfl
    · simp only [XStep.shadow, fld_zero]
      rfl
    · refine fun _ _ _ _ => ⟨rfl, rfl, rfl, rfl, rfl, (got_one rfl).trans ?_⟩
      rw [fld_zero]
      rfl
  · refine xferWord_of_checks (early := false) rfl (firstIssue_faultOf _ _ _ _ (firstIssue_srcTile _ _ _ _ _
      (firstIssue_wait _ _ _ (firstIssue_nil _)))) ?_ rfl ⟨rfl, rfl, rfl, rfl, rfl, rfl, rfl, rfl⟩ rfl ?_
    · simp only [Core.scalesBooked_eq, List.map_cons, List.map_nil, List.cons_append, List.nil_append, checkWaits, Bool.or_false]
    · exact fun _ _ _ _ => ⟨rfl, rfl, got_one rfl⟩
  · exact slotWord_xferWord rfl ha ⟨rfl, rfl, rfl, rfl, rfl, rfl, rfl, rfl⟩ rfl fun _ _ _ => ⟨rfl, rfl⟩
  · exact slotWord_xferWord rfl ha ⟨rfl, rfl, rfl, rfl, rfl, rfl, rfl, rfl⟩ rfl fun _ _ _ => ⟨rfl, rfl, got_one rfl⟩
  · refine xferWord_of_checks (early := false) rfl (firstIssue_faultOf _ _ _ _ (firstIssue_srcTile _ _ _ _ _
      (firstIssue_faultOf _ _ _ _ (firstIssue_nil _)))) (Bool.or_false _) ?_ ⟨rfl, rfl, rfl, rfl, rfl, rfl, rfl, rfl⟩ rfl ?_
    · simp only [ne_zero_check]
      rfl
    · exact fun _ _ _ _ => ⟨rfl, rfl, got_one rfl⟩

end Sys2Proof.Machine
end

section
/-! The issue of multicasts and publishes (R206, R216). -/

namespace Sys2Proof.Machine

open Sys2Proof

/-! ## The cores of a multicast (R216) -/

theorem setBad_eq (w : Nat) :
    setBad w = decide (w / 2 ^ 14 % 4 < w / 2 ^ 12 % 4 ∨ w / 2 ^ 19 % 8 < w / 2 ^ 16 % 8 ∨ 63 < w % 64 + w / 64 % 64) := by
  simp only [setBad, fld_zero, Bool.decide_or, Bool.or_assoc]
  rfl

/-- A well-formed target set names the cores of its rectangle of dies and its range of cores. -/
theorem mem_setCores {w k : Nat} (h : w % 64 + w / 64 % 64 ≤ 63) :
    k ∈ setCores w ↔ k < 2048 ∧ w / 2 ^ 12 % 4 ≤ k / 64 % 4 ∧ k / 64 % 4 ≤ w / 2 ^ 14 % 4 ∧ w / 2 ^ 16 % 8 ≤ k / 256 ∧
      k / 256 ≤ w / 2 ^ 19 % 8 ∧ w % 64 ≤ k % 64 ∧ k % 64 ≤ w % 64 + w / 64 % 64 := by
  have hfld : k ∈ setCores w ↔ ∃ d, (d < 32 ∧ ((w / 2 ^ 12 % 4 ≤ d % 4 ∧ d % 4 ≤ w / 2 ^ 14 % 4) ∧ w / 2 ^ 16 % 8 ≤ d / 4) ∧
      d / 4 ≤ w / 2 ^ 19 % 8) ∧ ∃ i, i < w / 64 % 64 + 1 ∧ d * 64 + w % 64 + i = k := by
    simp only [setCores, fld_zero, List.mem_flatMap, List.mem_filter, List.mem_range, List.mem_map, Bool.and_eq_true, decide_eq_true_eq]
    rfl
  rw [hfld]
  constructor
  · rintro ⟨d, hd, i, hi, rfl⟩
    omega
  · intro hk
    exact ⟨k / 64, by omega, k % 64 - w % 64, by omega⟩

/-- Jobs set one after the other for the cores of a list. -/
theorem foldl_atTick (who : Cur) (due : Nat) (ev : Nat → Ev) (l : List Nat) (t : State) :
    l.foldl (fun s k => s.atTick who due (ev k)) t =
      { t with timers := t.timers ++ l.map (fun k => { clock := some (t.core who.core).part, due := due, who := who, ev := ev k }) } := by
  induction l generalizing t with
  | nil => simp
  | cons a l ih =>
    rw [List.foldl_cons, ih]
    simp only [State.atTick, List.map_cons, List.append_assoc, List.singleton_append]
    rfl

theorem extra_of_fl {s : State} (h : (s.part s.me.part).fl = true) : s.extra s.cur.core = 0 := if_pos h

/-- A multicast that has issued has its landings due (R216). -/
def State.landings (s : State) (cores : List Nat) (due id : Nat) (t : State) : State :=
  if s.issuedIn t then
    (cores.foldl (fun t i => t.atTick (engAt s.cur.core .transfer) due (.multicastLanding s.cur.core id i)) t).bump
  else t

/-- The landings of a multicast are due on its partition's clock, and nothing else follows. -/
theorem landings_of_enters {s t : State} {len : Nat} {h : XHdr} {x : XStep} (ht : StepEnters .transfer s t len h x)
    (cores : List Nat) (due id : Nat) :
    StepEnters .transfer s (s.landings cores due id t) len h x ∧
      ∀ i ∈ cores, { clock := some s.me.part, due := due, who := engAt s.cur.core .transfer,
                     ev := .multicastLanding s.cur.core id i } ∈ (s.landings cores due id t).timers := by
  have hcur : t.cur = s.cur := ht.only.cur
  have hpart : (t.core s.cur.core).part = s.me.part := by
    have := congrArg Core.part ht.within
    rwa [State.me, hcur] at this
  rw [State.landings, if_pos ht.issuedIn, foldl_atTick]
  refine ⟨ht.beside ((ht.only.jobs rfl).bump) rfl, fun i hi => ?_⟩
  rw [← hpart]
  exact List.mem_append_right _ (List.mem_map.mpr ⟨i, hi, rfl⟩)

theorem xmcast_xferWord (s : State) (h : XHdr) (vp : VpReg) (src : SpadAddr) (g : BitVec 10) (set_ : BitVec 22) :
    let p := s.me.placeOf src
    let w := set_.toNat
    let cores := setCores w
    XferWord s (.xmcast h vp src g set_) 4 h false false
      [(!p.fits p.off (256 * g.toNat), 0x0A, 0), (setBad w, 0x0A, 0), (decide (2097152 < 256 * g.toNat * cores.length), 0x0A, 0),
        (cores.any (fun k => !(s.part s.me.part).hasCore k), 0x09, 0)] (256 * g.toNat * cores.length) (fun t x =>
        x.got = Memory.load s.me.scratch (p.byte p.off) (256 * g.toNat) ∧ x.waiting = cores ∧
        ((s.part s.me.part).fl = true → x.landAt = Nat.max (s.vp .transfer vp).toNat (s.tick + 2 + g.toNat + 24 +
          24 * cores.foldl (fun m k => Nat.max m (hops (dieOf s.cur.core) (dieOf k))) 0)) ∧
        ∀ k ∈ cores, { clock := some s.me.part, due := x.landAt, who := engAt s.cur.core .transfer,
                       ev := .multicastLanding s.cur.core x.id k } ∈ t.timers) := by
  intro p w cores
  refine xferWord_beside (early := false) (beside := s.landings cores _ _) rfl (firstIssue_faultOf _ _ _ _ (firstIssue_nil _)) rfl
    (fun _ => rfl) id ⟨rfl, rfl, rfl, rfl, rfl, rfl, rfl, rfl⟩ rfl (fun t ht => if_neg (Bool.eq_false_iff.mp ht)) fun t m d ht _ => ?_
  obtain ⟨henters, hdue⟩ := landings_of_enters ht cores _ _
  refine ⟨henters, got_one rfl, rfl, fun hfl => ?_, hdue⟩
  have hextra := extra_of_fl hfl
  simp only [XStep.inFlight, hextra]
  rfl

/-! ## Publishes (R206) -/

theorem xpub_xferWord (s : State) (h : XHdr) :
    XferWord s (.xpub h) 1 h false false [] 0 (fun _ x => x.isPub = true ∧ x.dfr = false) :=
  xferWord_beside (early := false) (os := []) (cs := [])
    (beside := fun t => if s.issuedIn t then t.now (engAt s.cur.core .transfer) (.shadowFilled s.cur.core s.me.xfr.nextId) else t)
    rfl (firstIssue_nil _) rfl (fun _ => rfl) id ⟨rfl, rfl, rfl, rfl, rfl, rfl, rfl, rfl⟩ rfl
    (fun _ ht => if_neg (Bool.eq_false_iff.mp ht)) fun t m d ht _ => by
      rw [if_pos ht.issuedIn]
      exact ⟨ht.beside (ht.only.now ..) rfl, rfl, rfl⟩

end Sys2Proof.Machine
end

section
/-! The words that are over in their issue tick (R199, R213 to R215). -/

namespace Sys2Proof.Machine

open Sys2Proof

/-! ## Words that are over in their issue tick (R199, R213 to R215) -/

/-- A slot after a step that may name a token has come and gone in one tick. -/
def Slot.passed (t : Slot) (tok : Option Tok) (stamp tick : Nat) : Slot :=
  let u := tok.elim t (fun k => (t.claimToken k).settleToken k stamp tick)
  { u with doneStamp := Nat.max u.doneStamp stamp }

theorem vset_vget {α : Type} {n : Nat} (v : Vector α n) (i : Fin n) : vset v i (vget v i) = v := by
  refine Vector.ext fun j hj => ?_
  by_cases h : (⟨j, hj⟩ : Fin n) = i
  · subst h
    exact vget_vset ..
  · exact vget_vset_ne v i ⟨j, hj⟩ _ h

theorem vset_vset {α : Type} {n : Nat} (v : Vector α n) (i : Fin n) (x y : α) : vset (vset v i x) i y = vset v i y :=
  Vector.set_set ..

theorem Slot.passed_outside (t : Slot) (tok : Option Tok) (stamp tick : Nat) :
    let u := t.passed tok stamp tick
    u = { t with tokens := u.tokens, tokSet := u.tokSet, tokStamp := u.tokStamp, doneStamp := u.doneStamp } := by
  cases tok with
  | none => rfl
  | some k =>
    have hpend : vset (vset t.pend k (vget t.pend k + 1)) k (vget (vset t.pend k (vget t.pend k + 1)) k - 1) = t.pend := by
      rw [vget_vset, BitVec.add_sub_cancel, vset_vset, vset_vget]
    simp only [Slot.passed, Slot.claimToken, Slot.settleToken, Option.elim, hpend]

/-- The token of such a step is set when no other step names it. -/
theorem Slot.passed_tokens (t : Slot) (h : XHdr) (stamp tick : Nat) (k : Tok) :
    (t.passed h.tok stamp tick).tokens.getLsbD k.val =
      if h.kv = true ∧ k = h.k then decide (vget t.pend k = 0) else t.tokens.getLsbD k.val := by
  rw [XHdr.tok]
  cases h.kv with
  | false => simp [Slot.passed]
  | true =>
    simp only [Slot.passed, Slot.claimToken, Slot.settleToken, if_true, Option.elim, true_and, vget_vset, BitVec.add_sub_cancel]
    have hset : (t.tokens &&& ~~~(1#8 <<< h.k.val) ||| 1#8 <<< h.k.val).getLsbD k.val = (t.tokens.getLsbD k.val || decide (k = h.k)) := by
      rw [BitVec.getLsbD_or, BitVec.getLsbD_and, BitVec.getLsbD_not, getLsbD_tokenBit, decide_eq_true k.isLt]
      cases decide (k = h.k) <;> simp
    have hclear : (t.tokens &&& ~~~(1#8 <<< h.k.val)).getLsbD k.val = (t.tokens.getLsbD k.val && !decide (k = h.k)) := by
      rw [BitVec.getLsbD_and, BitVec.getLsbD_not, getLsbD_tokenBit, decide_eq_true k.isLt, Bool.true_and]
    by_cases hp : vget t.pend h.k = 0
    · rw [if_pos hp, hset]
      by_cases hk : k = h.k
      · rw [if_pos hk, hk, decide_eq_true hp, decide_eq_true rfl, Bool.or_true]
      · rw [if_neg hk, decide_eq_false hk, Bool.or_false]
    · rw [if_neg hp, hclear]
      by_cases hk : k = h.k
      · rw [if_pos hk, hk, decide_eq_false hp, decide_eq_true rfl, Bool.not_true, Bool.and_false]
      · rw [if_neg hk, decide_eq_false hk, Bool.not_false, Bool.and_true]

section
variable {s : State} {h : XHdr}

theorem xnow_closed (hopen : tokensOpen s .transfer h.wm = false) (len : Nat) (r : XIssue) (f : Core → Core) : s.xnow len h r f = s := by
  simp only [State.xnow, tokensWere_eq, hopen, Bool.not_false, if_true]

theorem xnow_wait (s : State) (len : Nat) (h : XHdr) (f : Core → Core) : s.xnow len h .wait f = s := by
  unfold State.xnow
  dsimp only
  split <;> rfl

theorem xnow_fault (hopen : tokensOpen s .transfer h.wm = true) (len cause addr : Nat) (f : Core → Core) :
    s.xnow len h (.fault cause addr) f = s.engFault .transfer cause 0 0 addr := by
  simp only [State.xnow, tokensWere_eq, hopen, Bool.not_true, Bool.false_eq_true, if_false]

/-- Such a word that goes on: the run moves on, `f` changes the core, and the token passes. -/
theorem xnow_go (hopen : tokensOpen s .transfer h.wm = true) (hfit : stepFits s .transfer h.kv h.k 0 = true) (len : Nat) (x : XStep)
    (f : Core → Core) :
    let c := f (s.me.stepRun .transfer len (s.tick + 1))
    let i := (s.run .transfer).owner
    s.xnow len h (.go x) f = s.setMe (c.setTask i ((c.task i).passed h.tok x.stamp s.tick)) := by
  intro c i
  have hroom : s.me.stepRoom (s.run .transfer).owner h.tok 0 = true := by rw [stepRoom_eq, hfit]
  simp only [State.xnow, tokensWere_eq, hopen, hroom, Bool.not_true, Bool.false_eq_true, if_false, if_true]
  cases h.tok <;> rfl

theorem OnlyCoreJobs.setMe (s : State) (c : Core) : OnlyCoreJobs s.cur.core s (s.setMe c) := (OnlyCoreJobs.refl _ s).setCore c

/-- The word is over at once as `g` says of the core, when `f` changes neither the run nor the tasks. -/
theorem stepAtOnce_xnow (hopen : tokensOpen s .transfer h.wm = true) (hfit : stepFits s .transfer h.kv h.k 0 = true) (len : Nat) (x : XStep)
    {f g : Core → Core} (hf : f (s.me.stepRun .transfer len (s.tick + 1)) = (g s.me).stepRun .transfer len (s.tick + 1))
    (hg : (g s.me).tasks = s.me.tasks) : StepAtOnce s (s.xnow len h (.go x) f) len h g := by
  let c := (g s.me).stepRun .transfer len (s.tick + 1)
  let i := (s.run .transfer).owner
  have htask : ∀ j, c.task j = s.me.task j := fun j => congrArg (vget · j) hg
  have hgo : s.xnow len h (.go x) f = s.setMe (c.setTask i ((s.me.task i).passed h.tok x.stamp s.tick)) := by
    rw [xnow_go hopen hfit, hf, htask]
  have hi : (s.xnow len h (.go x) f).me.task i = (s.me.task i).passed h.tok x.stamp s.tick := by
    rw [hgo, State.me_setMe, Core.task_setTask]
  refine ⟨hgo ▸ OnlyCoreJobs.setMe .., ?_, ?_, fun k => ?_, fun j hj => ?_⟩
  · rw [hgo, State.me_setMe]
    rfl
  · dsimp only
    rw [hi]
    exact Slot.passed_outside ..
  · rw [hi]
    exact Slot.passed_tokens ..
  · rw [hgo, State.me_setMe, Core.task_setTask_ne _ _ _ _ hj, htask]

end

/-- What follows next leaves a word that is over as it is. -/
theorem StepAtOnce.now {s t : State} {len : Nat} {h : XHdr} {f : Core → Core} (ht : StepAtOnce s t len h f) (w : Cur) (e : Ev) :
    StepAtOnce s (t.now w e) len h f := by
  obtain ⟨only, within, task, tokens, slots⟩ := ht
  exact ⟨only.now w e, within, task, tokens, slots⟩

/-- A tile is open to be defined: empty, with no queued fill and nothing admitted. -/
theorem fillWait_eq (e : TileEnt) (held : Bool) :
    (decide (e.st ≠ .empty) || e.fq != 0 || held) = !decide (e.st = .empty ∧ e.fq = 0 ∧ held = false) := by
  rw [bne, Bool.beq_eq_decide_eq, Bool.decide_and, Bool.decide_and, decide_not, Bool.not_and, Bool.not_and, Bool.or_assoc]
  cases held <;> rfl

/-- The bits of `g` granules. -/
theorem getLsbD_granules {a g j : Nat} (hj : j < 8192) :
    (BitVec.ofNat 8192 (put (2 ^ g - 1) a)).getLsbD j = decide (a ≤ j ∧ j < a + g) := by
  rw [BitVec.getLsbD_ofNat, put, Nat.testBit_mul_two_pow, Nat.testBit_two_pow_sub_one, decide_eq_true hj, Bool.true_and,
    ← Bool.decide_and]
  exact decide_eq_decide.mpr (by omega)

theorem setBusy_bits (c : Core) (a g : Nat) {j : Nat} (hj : j < 8192) :
    ((c.setBusy a g true).inUse.getLsbD j = true ↔ (a / 256 ≤ j ∧ j < a / 256 + g) ∨ c.inUse.getLsbD j = true) ∧
    ((c.setBusy a g false).inUse.getLsbD j = true ↔ ¬ (a / 256 ≤ j ∧ j < a / 256 + g) ∧ c.inUse.getLsbD j = true) := by
  simp only [Core.setBusy, if_true, Bool.false_eq_true, if_false, BitVec.getLsbD_or, BitVec.getLsbD_and, BitVec.getLsbD_not,
    getLsbD_granules hj, decide_eq_true hj, Bool.true_and, Bool.or_eq_true, Bool.and_eq_true, Bool.not_eq_true', decide_eq_true_eq,
    decide_eq_false_iff_not]
  exact ⟨or_comm, and_comm⟩

section
variable {s : State} {h : XHdr}

/-- `xbusy` sets or clears its granules' bits at once (R215). -/
theorem busyWord_go (hopen : tokensOpen s .transfer h.wm = true) (hfit : stepFits s .transfer h.kv h.k 0 = true) (i : Instr)
    (sp : SpadAddr) (g : BitVec 10) (on : Bool) :
    let p := s.me.placeOf sp
    p.off % 256 = 0 → p.fits p.off (256 * g.toNat) = true →
    StepAtOnce s (s.busyWord i h sp g on) 3 h (fun c => { c with inUse := (s.me.setBusy (p.byte p.off) g.toNat on).inUse }) ∧
      (s.busyWord i h sp g on).me.inUse = (s.me.setBusy (p.byte p.off) g.toNat on).inUse := by
  intro p ha hfits
  have hgo : s.busyWord i h sp g on = s.xnow 3 h (.go (s.newStep .transfer i h)) (fun c => c.setBusy (p.byte p.off) g.toNat on) := by
    rw [State.busyWord, firstIssue_faultOf _ _ _ _ (firstIssue_nil _)]
    simp only [List.map_cons, List.map_nil, List.cons_append, List.nil_append, issueOf_fails, issueOf_nil, ne_zero_check]
    rw [if_neg (by simpa using ha), if_neg (by simpa using hfits)]
  have hover := stepAtOnce_xnow hopen hfit 3 (s.newStep .transfer i h) (f := fun c => c.setBusy (p.byte p.off) g.toNat on)
    (g := fun c => { c with inUse := (s.me.setBusy (p.byte p.off) g.toNat on).inUse }) rfl rfl
  rw [hgo]
  refine ⟨hover, ?_⟩
  rw [hover.within]
  rfl

theorem busyWord_fault (hopen : tokensOpen s .transfer h.wm = true) (i : Instr) (sp : SpadAddr) (g : BitVec 10) (on : Bool) :
    let p := s.me.placeOf sp
    (p.off % 256 ≠ 0 → s.busyWord i h sp g on = s.engFault .transfer 0x07 0 0 0) ∧
    (p.off % 256 = 0 → p.fits p.off (256 * g.toNat) = false → s.busyWord i h sp g on = s.engFault .transfer 0x0A 0 0 0) := by
  intro p
  rw [State.busyWord, firstIssue_faultOf _ _ _ _ (firstIssue_nil _)]
  simp only [List.map_cons, List.map_nil, List.cons_append, List.nil_append, issueOf_fails, issueOf_nil, ne_zero_check]
  refine ⟨fun ha => ?_, fun ha hfits => ?_⟩
  · rw [if_pos (decide_eq_true ha), xnow_fault hopen]
  · rw [if_neg (by simpa using ha), if_pos (by rw [hfits]; rfl), xnow_fault hopen]

theorem busyWord_closed (hopen : tokensOpen s .transfer h.wm = false) (i : Instr) (sp : SpadAddr) (g : BitVec 10) (on : Bool) :
    s.busyWord i h sp g on = s := by
  rw [State.busyWord]
  exact xnow_closed hopen ..

/-- The checks of `xfill.def` in order (R214). -/
theorem execXfillDef_eq (s : State) (h : XHdr) (tt : TtReg) (sp : SpadAddr) (len : BitVec 13) :
    let p := s.me.placeOf sp
    let e := vget s.me.tt tt
    let x := s.newStep .transfer (.xfillDef h tt sp len) h
    exec (.xfillDef h tt sp len) s = .next (s.xnow 3 h
      (if p.off % 16 ≠ 0 then .fault 0x07 0
       else if p.fits p.off (16 * (len.toNat + 1)) = false then .fault 0x0A 0
       else if e.st = .empty ∧ e.fq = 0 ∧ s.me.tileHeld tt s.tick = false then .go x else .wait)
      (fun c => { c with tt := vset c.tt tt ⟨.empty, BitVec.ofNat 4 p.bank, BitVec.ofNat 13 (p.off / 16), len, 0⟩ })) := by
  intro p e x
  have hissue : firstIssue x [faultOf [(p.off % 16 != 0, 0x07), (!p.fits p.off ((len.toNat + 1) * 16), 0x0A)] 0,
      if decide (e.st ≠ .empty) || e.fq != 0 || s.me.tileHeld tt s.tick then some .wait else none] = _ :=
    firstIssue_faultOf _ _ _ _ (firstIssue_wait _ _ _ (firstIssue_nil _))
  refine (congrArg (fun r => Host.Outcome.next (s.xnow 3 h r _)) hissue).trans (congrArg (fun r => Host.Outcome.next (s.xnow 3 h r _)) ?_)
  simp only [List.map_cons, List.map_nil, List.cons_append, List.nil_append, issueOf_fails, issueOf_waits, issueOf_nil, ne_zero_check,
    fillWait_eq, Nat.mul_comm (len.toNat + 1) 16, decide_eq_true_eq, Bool.not_eq_true', decide_eq_false_iff_not,
    ite_not]

/-- The core with a tile empty. -/
def Core.emptyTile (c : Core) (tt : TtReg) : Core := { c with tt := vset c.tt tt { vget c.tt tt with st := .empty } }

/-- `xfill.rel` of a ready tile that nothing holds empties it, and its next queued fill is asked for (R214). -/
theorem xfillRel_go (hopen : tokensOpen s .transfer h.wm = true) (hfit : stepFits s .transfer h.kv h.k 0 = true) (tt : TtReg)
    (hready : (vget s.me.tt tt).st = .ready) (hheld : s.me.tileHeld tt s.tick = false) :
    ∃ t, exec (.xfillRel h tt) s = .next t ∧
      StepAtOnce s t 3 h (fun c => c.emptyTile tt) ∧
      t.agenda = .event (engAt s.cur.core .transfer) (.tileClaim s.cur.core tt) :: s.agenda := by
  have hover := stepAtOnce_xnow hopen hfit 3 (s.newStep .transfer (.xfillRel h tt) h) (f := fun c => c.emptyTile tt)
    (g := fun c => c.emptyTile tt) rfl rfl
  have hst : (vget (s.xnow 3 h (.go (s.newStep .transfer (.xfillRel h tt) h)) (fun c => c.emptyTile tt)).me.tt tt).st = .empty := by
    rw [hover.within]
    exact congrArg TileEnt.st (vget_vset ..)
  refine ⟨_, ?_, hover.now (engAt s.cur.core .transfer) (.tileClaim s.cur.core tt), ?_⟩
  · simp only [Core.emptyTile] at hst ⊢
    simp only [exec, execXfillRel, TileEnt.say, hready, hheld, Bool.false_eq_true, if_false, hst, and_self, if_true]
  · rw [xnow_go hopen hfit]
    rfl

theorem xfillRel_fault (hopen : tokensOpen s .transfer h.wm = true) (tt : TtReg)
    (hempty : (vget s.me.tt tt).st = .empty ∧ (vget s.me.tt tt).fq = 0) :
    exec (.xfillRel h tt) s = .next (s.engFault .transfer 0x0B 0 0 0) := by
  obtain ⟨hst, hfq⟩ := hempty
  simp only [exec, execXfillRel, TileEnt.say, hst, hfq, if_true, xnow_fault hopen, reduceCtorEq, and_false, if_false]

/-- `xexit` ends the run where a step has room (R213). -/
theorem xexit_go (hopen : tokensOpen s .transfer h.wm = true) (hlen : s.me.xfr.steps.length < 16) (hshadow : s.me.shadowBytes ≤ 4194304) :
    exec (.xexit h.wm) s = .next (s.setMe (s.me.exitRun .transfer 1 (s.tick + 1))) := by
  have hroom : s.me.stepRoom (s.run .transfer).owner none 0 = true := by
    simp only [Core.stepRoom, decide_eq_true hlen, Nat.add_zero, decide_eq_true hshadow, Bool.and_self]
  simp only [exec, execXexit, tokensWere_eq, hopen, Bool.not_true, Bool.false_eq_true, if_false, hroom, if_true]

end

/-- Settles O51: a multicast and a publish enter flight, and the other words are over in their issue tick. -/
theorem stepsAtOnce : Obligations.StepsAtOnce := by
  unfold Obligations.StepsAtOnce
  refine fun s h => ⟨fun vp src g set_ => ⟨fun hb k => ?_, ?_⟩, xpub_xferWord s h, fun hopen => ?_, fun ⟨hopen, hfit⟩ => ?_,
    fun tt sp len ⟨hopen, hfit⟩ => ?_, fun tt ⟨hopen, hfit⟩ => ?_, fun sp g ⟨hopen, hfit⟩ => ?_, fun hopen hlen hshadow => ?_⟩
  · simp only [find?_check_none, decide_eq_false_iff_not] at hb
    obtain ⟨-, hset, -⟩ := hb
    exact mem_setCores (by omega)
  · have hword := xmcast_xferWord s h vp src g set_
    dsimp only at hword
    rw [setBad_eq] at hword
    exact hword
  · exact ⟨congrArg Host.Outcome.next (xnow_closed hopen ..), fun tt sp len g => ⟨congrArg Host.Outcome.next (xnow_closed hopen ..),
      congrArg Host.Outcome.next (busyWord_closed hopen ..), congrArg Host.Outcome.next (busyWord_closed hopen ..)⟩⟩
  · exact ⟨_, rfl, stepAtOnce_xnow hopen hfit 1 _ rfl rfl⟩
  · rw [execXfillDef_eq]
    refine ⟨fun ha => ?_, fun ha hfits => ?_, fun ha hfits hnot => ?_, fun ha hfits hgo => ?_⟩
    · rw [if_pos ha, xnow_fault hopen]
    · rw [if_neg (not_not.mpr ha), if_pos hfits, xnow_fault hopen]
    · rw [if_neg (not_not.mpr ha), if_neg (by simp [hfits]), if_neg hnot, xnow_wait]
    · rw [if_neg (not_not.mpr ha), if_neg (by simp [hfits]), if_pos hgo]
      exact ⟨_, rfl, stepAtOnce_xnow hopen hfit 3 _ rfl rfl⟩
  · exact ⟨xfillRel_fault hopen tt, xfillRel_go hopen hfit tt⟩
  · have hfault := fun i on => busyWord_fault hopen i sp g on
    refine ⟨fun ha => ⟨congrArg _ ((hfault _ _).1 ha), congrArg _ ((hfault _ _).1 ha)⟩,
      fun ha hfits => ⟨congrArg _ ((hfault _ _).2 ha hfits), congrArg _ ((hfault _ _).2 ha hfits)⟩, fun ha hfits => ?_⟩
    obtain ⟨hover, hbits⟩ := busyWord_go hopen hfit (.xbusySet h sp g) sp g true ha hfits
    obtain ⟨hover', hbits'⟩ := busyWord_go hopen hfit (.xbusyClr h sp g) sp g false ha hfits
    rw [← hbits] at hover
    rw [← hbits'] at hover'
    refine ⟨⟨_, rfl, hover, fun j hj => ?_⟩, _, rfl, hover', fun j hj => ?_⟩
    · rw [hbits]
      exact (setBusy_bits _ _ _ hj).1
    · rw [hbits']
      exact (setBusy_bits _ _ _ hj).2
  · exact ⟨_, xexit_go hopen hlen hshadow, onlyCore_setMe .., State.me_setMe ..⟩

end Sys2Proof.Machine
end

section
/-! What a tile register holds after it was written whole (R210). -/

namespace Sys2Proof.Machine

open Sys2Proof

/-! ## Bytes of joined memories -/

theorem Memory.get_append_left {m n : Memory} {a : Nat} (h : ∀ c ∈ n, c.1 ≠ a) : Memory.get (m ++ n) a = Memory.get m a := by
  rw [Memory.get_append]
  split
  · rfl
  next hm =>
    rw [Memory.get_of_not_mem h, Memory.get_of_not_mem]
    exact fun c hc hca => hm (List.any_eq_true.mpr ⟨c, hc, beq_iff_eq.mpr hca⟩)

/-- The cells laid out from a place read as their bytes, and as 0 past them. -/
theorem Memory.get_cells_getD (a i : Nat) (bs : List Byte) : Memory.get (Memory.cells a bs) (a + i) = bs.getD i 0 := by
  by_cases h : i < bs.length
  · rw [Memory.get_cells a i bs h, List.getD_eq_getElem?_getD, List.getElem?_eq_getElem h, Option.getD_some]
  · rw [List.getD_eq_getElem?_getD, List.getElem?_eq_none (Nat.le_of_not_lt h), Option.getD_none]
    exact Memory.get_of_not_mem fun c hc => by
      have := Memory.mem_cells hc
      omega

/-! ## Rows of 16-bit cells -/

/-- The bytes of a tile's row. -/
def tileRow (row : List Nat) : List Byte := row.flatMap (fun v => leBytes 2 v)

theorem tileRow_length (row : List Nat) : (tileRow row).length = 2 * row.length := by
  induction row with
  | nil => rfl
  | cons v row ih => rw [tileRow, List.flatMap_cons, List.length_append, leBytes_length, ← tileRow, ih, List.length_cons]; omega

theorem tileRow_getD (row : List Nat) (c : Nat) :
    [(tileRow row).getD (2 * c) 0, (tileRow row).getD (2 * c + 1) 0] = leBytes 2 (row[c]?.getD 0) := by
  induction row generalizing c with
  | nil =>
    rw [List.getElem?_nil]
    rfl
  | cons v row ih =>
    cases c with
    | zero => rfl
    | succ c => exact ih c

/-- The cells of rows of a tile from row `j` on, laid out from `b`. -/
def rowCells (b j : Nat) (rows : List (List Nat)) : Memory :=
  (rows.zipIdx j).flatMap (fun r => Memory.cells (b + 256 * r.2) (tileRow r.1))

theorem rowCells_cons (b j : Nat) (row : List Nat) (rows : List (List Nat)) :
    rowCells b j (row :: rows) = Memory.cells (b + 256 * j) (tileRow row) ++ rowCells b (j + 1) rows := rfl

/-- The cells of rows lie in their rows. -/
theorem mem_rowCells {b j : Nat} {rows : List (List Nat)} (hrows : ∀ row ∈ rows, row.length ≤ 128) {c : Nat × Byte}
    (hc : c ∈ rowCells b j rows) : b + 256 * j ≤ c.1 ∧ c.1 < b + 256 * (j + rows.length) := by
  induction rows generalizing j with
  | nil => cases hc
  | cons row rows ih =>
    rw [rowCells_cons, List.mem_append] at hc
    rw [List.length_cons]
    rcases hc with hc | hc
    · have h := Memory.mem_cells hc
      have hlen := hrows row (List.mem_cons_self ..)
      rw [tileRow_length] at h
      omega
    · have h := ih (fun r hr => hrows r (List.mem_cons_of_mem _ hr)) hc
      omega

theorem get_rowCells {b j r o : Nat} {rows : List (List Nat)} (hrows : ∀ row ∈ rows, row.length ≤ 128) (ho : o < 256) :
    Memory.get (rowCells b j rows) (b + 256 * (j + r) + o) = (tileRow (rows[r]?.getD [])).getD o 0 := by
  induction rows generalizing j r with
  | nil => rfl
  | cons row rows ih =>
    have htail : ∀ row ∈ rows, row.length ≤ 128 := fun r hr => hrows r (List.mem_cons_of_mem _ hr)
    rw [rowCells_cons]
    cases r with
    | zero =>
      rw [Memory.get_append_left fun c hc => ?_]
      · exact Memory.get_cells_getD ..
      · have := mem_rowCells htail hc
        omega
    | succ r =>
      rw [Memory.get_append_of_not_mem fun c hc => ?_]
      · rw [show j + (r + 1) = j + 1 + r by omega]
        exact ih htail
      · have h := Memory.mem_cells hc
        have hlen := hrows row (List.mem_cons_self ..)
        rw [tileRow_length] at h
        omega

/-! ## The tile register written (R210) -/

/-- The rows of a tile that have a place in a register. -/
def tileRows (rows : List (List Nat)) : List (List Nat) := (rows.take 128).map (fun r => r.take 128)

theorem tileRows_length (rows : List (List Nat)) : (tileRows rows).length ≤ 128 := by
  rw [tileRows, List.length_map, List.length_take]
  exact Nat.min_le_left ..

theorem tileRows_row {rows : List (List Nat)} {row : List Nat} (h : row ∈ tileRows rows) : row.length ≤ 128 := by
  obtain ⟨r, -, rfl⟩ := List.mem_map.mp h
  rw [List.length_take]
  exact Nat.min_le_left ..

theorem tileRows_cell (rows : List (List Nat)) {r c : Nat} (hr : r < 128) (hc : c < 128) :
    ((tileRows rows)[r]?.getD [])[c]?.getD 0 = ((rows[r]?).bind (fun row => row[c]?)).getD 0 := by
  rw [tileRows, List.getElem?_map, List.getElem?_take_of_lt hr]
  cases rows[r]? with
  | none => rfl
  | some row =>
    simp only [Option.map_some, Option.getD_some, Option.bind_some]
    rw [List.getElem?_take_of_lt hc]

theorem writeTile_tiles (c : Core) (n : Nat) (rows : List (List Nat)) :
    (c.writeTile n rows).tiles = c.tiles.filter (fun x => decide (x.1 < 32768 * n)) ++
      (rowCells (32768 * n) 0 (tileRows rows) ++ c.tiles.filter (fun x => decide (32768 * (n + 1) ≤ x.1))) := rfl

/-- The bytes of the other tile registers stay. -/
theorem get_writeTile_outside (c : Core) (n : Nat) (rows : List (List Nat)) {a : Nat} (ha : a < 32768 * n ∨ 32768 * (n + 1) ≤ a) :
    Memory.get (c.writeTile n rows).tiles a = Memory.get c.tiles a := by
  have hlen := tileRows_length rows
  have hmine : ∀ x ∈ rowCells (32768 * n) 0 (tileRows rows), x.1 ≠ a := fun x hx => by
    have := mem_rowCells (fun row h => tileRows_row h) hx
    omega
  rw [writeTile_tiles]
  rcases ha with ha | ha
  · rw [Memory.get_append_left fun x hx => ?_]
    · exact Memory.get_filter (fun k => decide (k < 32768 * n)) (decide_eq_true ha)
    · rcases List.mem_append.mp hx with hx | hx
      · exact hmine x hx
      · have := of_decide_eq_true (List.mem_filter.mp hx).2
        omega
  · rw [Memory.get_append_of_not_mem fun x hx => ?_, Memory.get_append_of_not_mem hmine]
    · exact Memory.get_filter (fun k => decide (32768 * (n + 1) ≤ k)) (decide_eq_true ha)
    · have := of_decide_eq_true (List.mem_filter.mp hx).2
      omega

theorem get_writeTile_inside (c : Core) (n : Nat) (rows : List (List Nat)) {r o : Nat} (hr : r < 128) (ho : o < 256) :
    Memory.get (c.writeTile n rows).tiles (32768 * n + 256 * r + o) = (tileRow ((tileRows rows)[r]?.getD [])).getD o 0 := by
  rw [writeTile_tiles, Memory.get_append_of_not_mem fun x hx => ?_, Memory.get_append_left fun x hx => ?_]
  · rw [← get_rowCells (b := 32768 * n) (j := 0) (fun row h => tileRows_row h) ho, Nat.zero_add]
  · have := of_decide_eq_true (List.mem_filter.mp hx).2
    omega
  · have := of_decide_eq_true (List.mem_filter.mp hx).2
    omega

/-- Each cell of the register written is the element of its row and column, and 0 where there is none (R210). -/
theorem load_writeTile (c : Core) (n : Nat) (rows : List (List Nat)) {r j : Nat} (hr : r < 128) (hj : j < 128) :
    leNat (Memory.load (c.writeTile n rows).tiles (32768 * n + 256 * r + 2 * j) 2) =
      ((rows[r]?).bind (fun row => row[j]?)).getD 0 % 2 ^ 16 := by
  have hload : Memory.load (c.writeTile n rows).tiles (32768 * n + 256 * r + 2 * j) 2 =
      leBytes 2 (((rows[r]?).bind (fun row => row[j]?)).getD 0) := by
    rw [← tileRows_cell rows hr hj, ← tileRow_getD, ← get_writeTile_inside c n rows hr (by omega),
      ← get_writeTile_inside c n rows hr (by omega)]
    rfl
  rw [hload, leNat_leBytes, show 256 ^ 2 = 2 ^ 16 from rfl]

end Sys2Proof.Machine
end

section
/-! What a step's fill, its publish into scratchpad and its completion change (R199, R204, R206, R210, R211). -/

namespace Sys2Proof.Machine

open Sys2Proof

section
variable {s : State} {k id : Nat} {x : XStep}

theorem execShadowFilled_eq (hx : (s.core k).xstep? id = some x) (hev : s.ev = .shadowFilled k id) :
    exec .shadowFilled s = .next (s.shadowFilled k x) := by
  simp only [exec, execShadowFilled, hev, hx]

theorem execScratchpadPublish_eq (hx : (s.core k).xstep? id = some x) (hev : s.ev = .scratchpadPublish k id) :
    exec .scratchpadPublish s = .next (if x.ready && !x.dfr && (s.core k).landingIn x then
        s.atTick (engAt k .transfer) (s.tickOf k + 1) (.scratchpadPublish k id)
      else if x.ready && !x.dfr then (s.setCore k ((s.core k).publishSpad (s.tickOf k) x)).endStep k id else s) := by
  simp only [exec, execScratchpadPublish, hev, hx]
  split
  · rfl
  · split <;> rfl

theorem execStepComplete_eq (hx : (s.core k).xstep? id = some x) (hev : s.ev = .stepComplete k id) :
    exec .stepComplete s = .next (s.stepComplete k x) := by
  simp only [exec, execStepComplete, hev, hx]

/-! ## The fill (R206, R210, R211) -/

/-- A step whose shadow is filled. -/
def XStep.filled (x : XStep) : XStep := { x with stage := .filled, flags := x.result.2 }

theorem ready_eq_false_of_bad (h : x.bad ≠ []) : x.ready = false := by
  have hbad : x.bad.isEmpty = false := by simpa using h
  rw [XStep.ready, hbad, Bool.and_false, Bool.false_and]

theorem beginPublish_bad (hd : x.dfr = false) (hb : x.bad ≠ []) : s.beginPublish k x = s := by
  simp only [State.beginPublish, hd, ready_eq_false_of_bad hb, Bool.false_eq_true, if_false, Bool.not_false, if_true]

theorem filled_ready (hb : x.bad = []) (hd : x.dest = .global ∨ ∃ b, x.dest = .spad b none) : x.filled.ready = true := by
  rcases hd with hd | ⟨b, hd⟩
  · simp only [XStep.ready, XStep.filled, hb, hd, beq_self_eq_true, List.isEmpty_nil, Bool.and_self]
  · simp only [XStep.ready, XStep.filled, hb, hd, beq_self_eq_true, List.isEmpty_nil, Bool.and_self]

section
variable (hrun : (s.core k).run = .running) (hpub : x.isPub = false)
include hrun hpub

/-- A step toward memory is filled, and its publish begins. -/
theorem shadowFilled_publish (hd : x.dest = .global ∨ ∃ b tile, x.dest = .spad b tile) :
    s.shadowFilled k x = (s.setStep k x.filled).beginPublish k x.filled := by
  rcases hd with hd | ⟨b, tile, hd⟩
  · simp only [State.shadowFilled, hrun, hpub, hd, ne_eq, not_true, if_false, Bool.false_eq_true, XStep.filled]
  · simp only [State.shadowFilled, hrun, hpub, hd, ne_eq, not_true, if_false, Bool.false_eq_true, XStep.filled]

theorem shadowFilled_tileReg {n : TileReg} (hd : x.dest = .tileReg n) :
    s.shadowFilled k x = (s.setCore k (((s.core k).writeTile n.val x.elems.1).setStep { x.filled with stage := .committed })).endStep k x.id := by
  simp only [State.shadowFilled, hrun, hpub, hd, ne_eq, not_true, if_false, Bool.false_eq_true, XStep.filled]

theorem shadowFilled_scaleQueue (hd : x.dest = .scaleQueue) :
    s.shadowFilled k x = (s.setCore k { s.core k with scaleQ := (s.core k).scaleQ ++ x.got }).endStep k x.id := by
  simp only [State.shadowFilled, hrun, hpub, hd, ne_eq, not_true, if_false, Bool.false_eq_true]

theorem shadowFilled_shapeSlot {n : ShReg} (hd : x.dest = .shapeSlot n) (hl : slotLegal (BitVec.ofNat 512 (leNat x.got)) = true) :
    s.shadowFilled k x = (s.setCore k { s.core k with
      sh := vset (s.core k).sh n (BitVec.ofNat 512 (leNat x.got)) }).endStep k x.id := by
  simp only [State.shadowFilled, hrun, hpub, hd, hl, ne_eq, not_true, if_false, Bool.false_eq_true, if_true]

theorem shadowFilled_mailbox {n : Nat} (hd : x.dest = .mailbox n) : s.shadowFilled k x = s.sendPacket k x n := by
  simp only [State.shadowFilled, hrun, hpub, hd, ne_eq, not_true, if_false, Bool.false_eq_true]

end

/-! ## The publish into scratchpad (R204, R265) -/

theorem publishSpad_eq {c : Core} {tick a b : Nat} {tile : Option TtReg} (hdst : x.dst = .spad a) (hdest : x.dest = .spad b tile) :
    let c1 := c.publishSpad tick x
    c1.scratch = c.scratch ∧ c1.spBuf = c.spBuf ++ [(Engine.transfer.rank, a, x.result.1)] ∧
      ∀ u, vget c1.tt u = if tile = some u then { vget c.tt u with st := .ready } else vget c.tt u := by
  cases tile with
  | none =>
    simp only [Core.publishSpad, hdst, hdest]
    exact ⟨rfl, rfl, fun u => (if_neg nofun).symm⟩
  | some v =>
    simp only [Core.publishSpad, hdst, hdest]
    refine ⟨rfl, rfl, fun u => ?_⟩
    by_cases hu : v = u
    · subst hu
      rw [if_pos rfl]
      exact vget_vset ..
    · rw [if_neg (fun h => hu (Option.some.inj h))]
      exact vget_vset_ne _ _ _ _ (Ne.symm hu)

/-- A shadow that may publish into scratchpad waits for what the matrix engine has still to write there, and else is put. -/
theorem scratchpadPublish_clause (hx : (s.core k).xstep? id = some x) (hev : s.ev = .scratchpadPublish k id) (hstage : x.stage = .filled)
    (hdfr : x.dfr = false) (hb : x.bad = []) {a b : Nat} {tile : Option TtReg} (hdst : x.dst = .spad a) (hdest : x.dest = .spad b tile)
    (htile : tile.isSome = true → x.claimed = true) :
    ((s.core k).landingIn x = true → exec .scratchpadPublish s =
      .next (s.atTick (engAt k .transfer) (s.tickOf k + 1) (.scratchpadPublish k id))) ∧
    ((s.core k).landingIn x = false → ∃ t, exec .scratchpadPublish s = .next t ∧ OnlyCoreJobs k s t ∧
      (t.core k).scratch = (s.core k).scratch ∧ (t.core k).spBuf = (s.core k).spBuf ++ [(Engine.transfer.rank, a, x.result.1)] ∧
      (∀ u, vget (t.core k).tt u = (if tile = some u then { vget (s.core k).tt u with st := .ready } else vget (s.core k).tt u)) ∧
      ∃ rest, t.agenda = .event (engAt k .transfer) (.stepComplete k id) :: rest) := by
  have hready : (x.ready && !x.dfr) = true := by
    cases tile with
    | none => simp [XStep.ready, hstage, hdfr, hb, hdest]
    | some u => simp [XStep.ready, hstage, hdfr, hb, hdest, htile rfl]
  rw [execScratchpadPublish_eq hx hev, hready, Bool.true_and]
  refine ⟨fun hl => by rw [if_pos hl], fun hl => ?_⟩
  rw [if_neg (Bool.eq_false_iff.mp hl), if_pos rfl]
  obtain ⟨hscratch, hbuf, htt⟩ := publishSpad_eq (c := s.core k) (tick := s.tickOf k) hdst hdest
  have hcore : ((s.setCore k ((s.core k).publishSpad (s.tickOf k) x)).endStep k id).core k = _ := State.core_setCore ..
  rw [← hcore] at hscratch hbuf htt
  exact ⟨_, rfl, ((OnlyCoreJobs.refl k s).setCore _).now _ _, hscratch, hbuf, htt, _, rfl⟩

end

/-! ## The completion (R199, R53) -/

/-- A slot after the completion of a step of it: its flags merge, and its token settles. -/
def Slot.stepDone (t : Slot) (tick : Nat) (x : XStep) : Slot :=
  let t1 := { t.mergeFlags tick x.flags with doneStamp := Nat.max t.doneStamp x.stamp }
  x.tok.elim t1 (fun n => t1.settleToken n x.stamp tick)

section
variable {s : State} {k : Nat} {x : XStep}

theorem stepComplete_eq (hrun : (s.core k).run = .running) :
    ∃ ag, s.stepComplete k x = ({ s with agenda := ag } : State).setCore k
      (((s.core k).stepOver x).setTask x.slot (((s.core k).task x.slot).stepDone (s.tickOf k) x)) := by
  cases hpub : ((s.core k).stepOver x).pubOver x <;> cases hsrc : x.source <;> cases hdrain : x.drain <;> cases htok : x.tok
  all_goals
    simp only [State.stepComplete, hrun, hpub, hsrc, hdrain, htok, ne_eq, not_true, if_false, Slot.stepDone, Option.elim]
    exact ⟨_, rfl⟩

/-- The core after a step's completion. -/
theorem stepComplete_core (hrun : (s.core k).run = .running) : (s.stepComplete k x).core k =
    ((s.core k).stepOver x).setTask x.slot (((s.core k).task x.slot).stepDone (s.tickOf k) x) := by
  obtain ⟨ag, heq⟩ := stepComplete_eq (x := x) hrun
  rw [heq]
  exact State.core_setCore ..

theorem stepComplete_only (hrun : (s.core k).run = .running) : OnlyCoreJobs k s (s.stepComplete k x) := by
  obtain ⟨ag, heq⟩ := stepComplete_eq (x := x) hrun
  rw [heq]
  exact OnlyCoreJobs.setCore ((OnlyCoreJobs.refl k s).jobs rfl) _

/-- A tile that the step drained goes to its next queued fill. -/
theorem stepComplete_drained (hrun : (s.core k).run = .running) {u : TtReg} (hs : x.source = some u) (hd : x.drain = true) :
    ∃ rest, (s.stepComplete k x).agenda = .event (engAt k .transfer) (.tileClaim k u) :: rest := by
  simp only [State.stepComplete, hrun, hs, hd, ne_eq, not_true, if_false]
  exact ⟨_, rfl⟩

end

theorem Slot.stepDone_kept (t : Slot) (tick : Nat) (x : XStep) :
    let u := t.stepDone tick x
    u.fflags = t.fflags ||| x.flags ∧ u.g = t.g ∧ u.pc = t.pc ∧ x.stamp ≤ u.doneStamp := by
  cases htok : x.tok
  all_goals
    simp only [Slot.stepDone, htok, Option.elim, Slot.settleToken, Slot.mergeFlags]
    exact ⟨trivial, trivial, trivial, Nat.le_max_right ..⟩

/-- The token is set when the last step that names it completes. -/
theorem Slot.settleToken_self (t : Slot) (n : Tok) (stamp tick : Nat) :
    let u := t.settleToken n stamp tick
    vget u.pend n = vget t.pend n - 1 ∧ stamp ≤ vget u.tokStamp n ∧ (vget t.pend n = 1 → u.tokens.getLsbD n.val = true) := by
  simp only [Slot.settleToken, vget_vset]
  refine ⟨trivial, Nat.le_max_right .., fun hp => ?_⟩
  rw [hp, if_pos (by rfl), BitVec.getLsbD_or, getLsbD_tokenBit, decide_eq_true rfl, Bool.or_true]

theorem Slot.settleToken_ne (t : Slot) {n m : Tok} (h : n ≠ m) (stamp tick : Nat) :
    let u := t.settleToken m stamp tick
    vget u.pend n = vget t.pend n ∧ u.tokens.getLsbD n.val = t.tokens.getLsbD n.val := by
  simp only [Slot.settleToken]
  refine ⟨vget_vset_ne _ _ _ _ h, ?_⟩
  split
  · rw [BitVec.getLsbD_or, getLsbD_tokenBit, decide_eq_false h, Bool.or_false]
  · rfl

theorem Slot.stepDone_token {x : XStep} {n : Tok} (h : x.tok = some n) (t : Slot) (tick : Nat) :
    let u := t.stepDone tick x
    vget u.pend n = vget t.pend n - 1 ∧ x.stamp ≤ vget u.tokStamp n ∧ (vget t.pend n = 1 → u.tokens.getLsbD n.val = true) := by
  rw [Slot.stepDone, h]
  exact Slot.settleToken_self ..

theorem Slot.stepDone_others {x : XStep} {n : Tok} (h : x.tok ≠ some n) (t : Slot) (tick : Nat) :
    let u := t.stepDone tick x
    vget u.pend n = vget t.pend n ∧ u.tokens.getLsbD n.val = t.tokens.getLsbD n.val := by
  rw [Slot.stepDone]
  cases htok : x.tok with
  | none => exact ⟨rfl, rfl⟩
  | some m => exact Slot.settleToken_ne _ (fun e => h (htok.trans (congrArg some e.symm))) ..

theorem mem_stepOver (c : Core) (x y : XStep) : y ∈ (c.stepOver x).xfr.steps ↔ y ∈ c.xfr.steps ∧ y.id ≠ x.id := by
  rw [Core.stepOver, List.mem_filter, bne_iff_ne]

theorem stepOver_drained {c : Core} {x : XStep} {u : TtReg} (hs : x.source = some u) (hd : x.drain = true) :
    vget (c.stepOver x).tt u = { vget c.tt u with st := .empty } := by
  simp only [Core.stepOver, hs, hd, vget_vset]

end Sys2Proof.Machine
end

section
/-! The lines of a publish (R280): what their reservation changes. -/

namespace Sys2Proof.Machine

open Sys2Proof

/-! ## Lines beside the one that changes -/

theorem line_congr {s t : State} {l : Nat} (h : Tbl.get? t.lines l = Tbl.get? s.lines l) (hf : t.lineFloor l = s.lineFloor l) :
    t.line l = s.line l := by
  rw [State.line, State.line, h, hf]

theorem lineFloor_congr {s t : State} (h : ∀ k, (t.slice k).mts = (s.slice k).mts) (l : Nat) : t.lineFloor l = s.lineFloor l := by
  rw [State.lineFloor, State.lineFloor, h]

theorem line_setLine_ne (s : State) {l j : Nat} (x : Line) (h : j ≠ l) : (s.setLine l x).line j = s.line j :=
  line_congr (Tbl.get?_set_ne _ _ _ _ h) rfl

/-- A slice that is replaced with its floor kept leaves every line. -/
theorem line_setSlice {s : State} {k : Nat} {x : Slice} (h : x.mts = (s.slice k).mts) (l : Nat) : (s.setSlice k x).line l = s.line l := by
  refine line_congr rfl (lineFloor_congr (fun j => ?_) l)
  by_cases hj : j = k
  · subst hj
    rw [State.slice, State.setSlice, Tbl.getD_set_self, h]
  · rw [State.slice, State.setSlice, Tbl.getD_set_ne _ _ _ _ _ hj]
    rfl

/-- A line that its owner gives back changes in its owner alone, and no other line changes (R274). -/
theorem returnLine_line (s : State) (l : Nat) :
    (s.returnLine l).line l = { s.line l with owner := none } ∧ ∀ j, j ≠ l → (s.returnLine l).line j = s.line j := by
  unfold State.returnLine
  dsimp only
  split
  next h => exact ⟨by rw [← h], fun _ _ => rfl⟩
  · refine ⟨State.line_setLine _ _ _ (line_out s l), fun j hj => ?_⟩
    rw [line_setLine_ne _ _ hj]
    refine line_setSlice ?_ j
    rfl

theorem returnLine_outside (s : State) (l : Nat) : ∃ ls sl, s.returnLine l = { s with lines := ls, slices := sl } := by
  unfold State.returnLine
  dsimp only
  split
  · exact ⟨_, _, rfl⟩
  · exact ⟨_, _, rfl⟩

/-! ## One line held for a step -/

/-- A line taken from its owner and reserved for step `id` of core `k`. -/
def State.holdLine (s : State) (k id l : Nat) : State := (s.disown (dieOf k) [l]).reserveLines k id [l]

theorem disown_one (s : State) (d l : Nat) : s.disown d [l] = s ∨ s.disown d [l] = s.returnLine l := by
  rw [State.disown, List.foldl_cons, List.foldl_nil]
  split
  · exact .inr rfl
  · exact .inl rfl

theorem disown_one_line (s : State) (d l : Nat) :
    (∃ o, (s.disown d [l]).line l = { s.line l with owner := o }) ∧ ∀ j, j ≠ l → (s.disown d [l]).line j = s.line j := by
  rcases disown_one s d l with h | h
  · rw [h]
    exact ⟨⟨_, rfl⟩, fun _ _ => rfl⟩
  · rw [h]
    exact ⟨⟨_, (returnLine_line s l).1⟩, (returnLine_line s l).2⟩

theorem holdLine_line (s : State) (k id l : Nat) :
    ((s.holdLine k id l).line l).resv = some (k, id) ∧ ((s.holdLine k id l).line l).pins = (s.line l).pins ∧
      ∀ j, j ≠ l → (s.holdLine k id l).line j = s.line j := by
  obtain ⟨⟨o, hl⟩, hne⟩ := disown_one_line s (dieOf k) l
  have hline : (s.holdLine k id l).line l = { (s.disown (dieOf k) [l]).line l with resv := some (k, id) } :=
    State.line_setLine _ _ _ (line_out _ l)
  refine ⟨congrArg Line.resv hline, ?_, fun j hj => ?_⟩
  · have hpins : ((s.disown (dieOf k) [l]).line l).pins = (s.line l).pins := by rw [hl]
    rw [hline]
    exact hpins
  · exact (line_setLine_ne _ _ hj).trans (hne j hj)

theorem holdLine_outside (s : State) (k id l : Nat) : ∃ ls sl, s.holdLine k id l = { s with lines := ls, slices := sl } := by
  rcases disown_one s (dieOf k) l with h | h
  · rw [State.holdLine, h]
    exact ⟨_, _, rfl⟩
  · obtain ⟨ls, sl, hr⟩ := returnLine_outside s l
    rw [State.holdLine, h, hr]
    exact ⟨_, _, rfl⟩

/-! ## Lines held one after the other (R280) -/

/-- What the lines of a reservation's first part look like. -/
structure LinesHeld (s t : State) (k id : Nat) (done : List Nat) : Prop where
  outside : ∃ ls sl, t = { s with lines := ls, slices := sl }
  resv    : ∀ l ∈ done, (t.line l).resv = some (k, id)
  pins    : ∀ l, (t.line l).pins = (s.line l).pins
  rest    : ∀ l, l ∉ done → t.line l = s.line l

theorem LinesHeld.refl (s : State) (k id : Nat) : LinesHeld s s k id [] :=
  ⟨⟨_, _, rfl⟩, fun _ => nofun, fun _ => rfl, fun _ _ => rfl⟩

theorem LinesHeld.step {s t : State} {k id : Nat} {done : List Nat} (h : LinesHeld s t k id done) (l : Nat) :
    LinesHeld s (t.holdLine k id l) k id (done ++ [l]) := by
  obtain ⟨⟨ls, sl, outside⟩, resv, pins, rest⟩ := h
  obtain ⟨hresv, hpins, hne⟩ := holdLine_line t k id l
  refine ⟨?_, fun j hj => ?_, fun j => ?_, fun j hj => ?_⟩
  · obtain ⟨ls', sl', h⟩ := holdLine_outside t k id l
    rw [h, outside]
    exact ⟨_, _, rfl⟩
  · by_cases hjl : j = l
    · rw [hjl, hresv]
    · rw [hne j hjl]
      refine resv j ((List.mem_append.mp hj).resolve_right fun h => hjl (List.mem_singleton.mp h))
  · by_cases hjl : j = l
    · rw [hjl, hpins, pins]
    · rw [hne j hjl, pins]
  · rw [List.mem_append, not_or, List.mem_singleton] at hj
    rw [hne j hj.2, rest j hj.1]

/-- The line is open to a step: no task of another core pins it, and no other step holds it. -/
def State.openTo (s : State) (k id l : Nat) : Prop :=
  (s.line l).pinnedAgainst k = false ∧ ((s.line l).resv = none ∨ (s.line l).resv = some (k, id))

theorem linesSay_pinned {s : State} {k l : Nat} (mine : Option Nat) (h : (s.line l).pinnedAgainst k = true) :
    s.linesSay k mine [l] = .refused := by
  simp only [State.linesSay, List.any_cons, h, Bool.true_or, if_true]

theorem linesSay_open {s : State} {k id l : Nat} (h : s.openTo k id l) : s.linesSay k (some id) [l] = .free := by
  obtain ⟨hp, hr | hr⟩ := h
  · simp [State.linesSay, hp, hr]
  · simp [State.linesSay, hp, hr]

theorem linesSay_held {s : State} {k id l : Nat} (hp : (s.line l).pinnedAgainst k = false) (h : ¬ s.openTo k id l) :
    s.linesSay k (some id) [l] = .reserved := by
  cases hr : (s.line l).resv with
  | none => exact absurd ⟨hp, .inl hr⟩ h
  | some r =>
    obtain ⟨k', id'⟩ := r
    have hne : ¬ (k' = k ∧ id = id') := fun e => h ⟨hp, .inr (by rw [hr, e.1, e.2])⟩
    have : (!(k' == k && (some id == some id'))) = true := by simpa [or_iff_not_imp_left] using hne
    simp only [State.linesSay, List.any_cons, hp, hr, this, List.any_nil, Bool.or_false, Bool.false_eq_true, if_false, if_true]

theorem LinesHeld.openTo {s t : State} {k id l : Nat} {done : List Nat} (h : LinesHeld s t k id done) (hl : s.openTo k id l) :
    t.openTo k id l := by
  refine ⟨?_, ?_⟩
  · rw [Line.pinnedAgainst, h.pins]
    exact hl.1
  · by_cases hd : l ∈ done
    · exact .inr (h.resv l hd)
    · rw [h.rest l hd]
      exact hl.2

/-- The lines that are open are held one after the other, up to the first that is not. -/
theorem reserveRising_append {s t : State} {k id : Nat} {done pre : List Nat} (h : LinesHeld s t k id done)
    (hpre : ∀ j ∈ pre, s.openTo k id j) (rest : List Nat) :
    ∃ u, LinesHeld s u k id (done ++ pre) ∧ t.reserveRising k id (pre ++ rest) = u.reserveRising k id rest := by
  induction pre generalizing t done with
  | nil => exact ⟨t, (List.append_nil done).symm ▸ h, rfl⟩
  | cons l pre ih =>
    obtain ⟨u, hu, heq⟩ := ih (h.step l) (fun j hj => hpre j (List.mem_cons_of_mem _ hj))
    rw [List.append_assoc] at hu
    refine ⟨u, hu, ?_⟩
    rw [List.cons_append, State.reserveRising, linesSay_open (h.openTo (hpre l (List.mem_cons_self ..)))]
    exact heq

theorem reserveRising_free {s : State} {k id : Nat} {ls : List Nat} (hls : ∀ l ∈ ls, s.openTo k id l) :
    ∃ u, LinesHeld s u k id ls ∧ s.reserveRising k id ls = (u, .free) := by
  obtain ⟨u, hu, heq⟩ := reserveRising_append (LinesHeld.refl s k id) hls []
  rw [List.append_nil] at heq
  exact ⟨u, hu, heq⟩

theorem reserveRising_refused {s : State} {k id l : Nat} {pre : List Nat} (hpre : ∀ j ∈ pre, s.openTo k id j)
    (hl : (s.line l).pinnedAgainst k = true) (rest : List Nat) :
    ∃ u, LinesHeld s u k id pre ∧ s.reserveRising k id (pre ++ l :: rest) = (u, .refused) := by
  obtain ⟨u, hu, heq⟩ := reserveRising_append (LinesHeld.refl s k id) hpre (l :: rest)
  refine ⟨u, hu, ?_⟩
  have hpin : (u.line l).pinnedAgainst k = true := by rwa [Line.pinnedAgainst, hu.pins]
  rw [heq, State.reserveRising, linesSay_pinned _ hpin]

theorem reserveRising_reserved {s : State} {k id l : Nat} {pre : List Nat} (hpre : ∀ j ∈ pre, s.openTo k id j)
    (hp : (s.line l).pinnedAgainst k = false) (hl : ¬ s.openTo k id l) (rest : List Nat) :
    ∃ u, LinesHeld s u k id pre ∧ s.reserveRising k id (pre ++ l :: rest) = (u, .reserved) := by
  obtain ⟨u, hu, heq⟩ := reserveRising_append (LinesHeld.refl s k id) hpre (l :: rest)
  refine ⟨u, hu, ?_⟩
  have hline : u.line l = s.line l := hu.rest l fun h => hl (hpre l h)
  have hopen : ¬ u.openTo k id l := by rwa [State.openTo, hline]
  rw [heq, State.reserveRising, linesSay_held (by rw [hline, hp]) hopen]

end Sys2Proof.Machine
end

section
/-! What messages leave alone, and PUBLISH_RESERVE (R280). -/

namespace Sys2Proof.Machine

open Sys2Proof

/-! ## Messages (R322, R325, R329) -/

/-- Only rings and routers, streams, timers and links have changed: what messages change. -/
def Sends (s t : State) : Prop := ∃ ds st ts lk, t = { s with dies := ds, streams := st, timers := ts, links := lk }

theorem Sends.refl (s : State) : Sends s s := ⟨_, _, _, _, rfl⟩

theorem Sends.trans {s t u : State} (h : Sends s t) (hu : Sends t u) : Sends s u := by
  obtain ⟨ds, st, ts, lk, rfl⟩ := h
  obtain ⟨ds', st', ts', lk', rfl⟩ := hu
  exact ⟨_, _, _, _, rfl⟩

theorem Sends.foldl {α : Type} (f : State → α → State) (hf : ∀ s a, Sends s (f s a)) (l : List α) (s : State) : Sends s (l.foldl f s) :=
  foldl_keeps (Sends s) f l s (Sends.refl s) fun t a ht => ht.trans (hf t a)

theorem carry_sends (s : State) (a src b dst : Nat) (vc : Fin 4) (p bytes : Nat) (late : Nat → Nat) (back : List RingHop)
    (kind : Nat → FlitKind) (num : Option (Stream × Nat)) (mesh : Bool) :
    Sends s (s.carry a src b dst vc p bytes late back kind num mesh) := by
  obtain ⟨ds, h⟩ := carry_outside s a src b dst vc p bytes late back kind num mesh
  rw [h]
  exact ⟨_, _, _, _, rfl⟩

theorem track_sends (s : State) (sm : Stream) (m : SentMsg) : Sends s (s.track sm m) := ⟨_, _, _, _, rfl⟩

theorem setStream_sends (s : State) (sm : Stream) (y : StreamState) : Sends s (s.setStream sm y) := ⟨_, _, _, _, rfl⟩

theorem send_sends (s : State) (a src b dst : Nat) (vc : Fin 4) (p bytes : Nat) (late : Nat → Nat) (back : List RingHop)
    (kind : Nat → FlitKind) (mesh : Bool) : Sends s (s.send a src b dst vc p bytes late back kind mesh) := by
  unfold State.send
  dsimp only
  split
  · exact carry_sends ..
  · split
    · exact (track_sends ..).trans (carry_sends ..)
    · exact (setStream_sends ..).trans (carry_sends ..)

theorem travel_sends (s : State) (a src b dst : Nat) (vc : Fin 4) (p out back : Nat) : Sends s (s.travel a src b dst vc p out back) :=
  send_sends ..

theorem exchange_sends (s : State) (k pa : Nat) (vc : Fin 4) (out back : Nat) : Sends s (s.exchange k pa vc out back) :=
  travel_sends ..

theorem linesTravel_sends (s : State) (k : Nat) (ls : List Nat) (write : Bool) : Sends s (s.linesTravel k ls write) :=
  Sends.foldl _ (fun _ _ => travel_sends ..) _ _

theorem postWindow_sends (s : State) (c core step : Nat) (cells : List (Nat × Byte)) : Sends s (s.postWindow c core step cells) := by
  have hset : Sends s (s.setLink (s.channelPort c) { s.link (s.channelPort c) with
      posted := (s.link (s.channelPort c)).posted ++ [s.peerWrite c core step cells] }) := ⟨_, _, _, _, rfl⟩
  exact (hset.trans (travel_sends ..)).trans ⟨_, _, _, _, rfl⟩

theorem sendWindows_sends (s : State) (k : Nat) (x : XStep) : Sends s (s.sendWindows k x) :=
  Sends.foldl _ (fun _ _ => postWindow_sends ..) _ _

theorem Sends.mems {s t : State} (h : Sends s t) : SameMems s t := by
  obtain ⟨ds, st, ts, lk, rfl⟩ := h
  exact ⟨rfl, rfl⟩

/-- A line is what the table of lines and the floors of the slices say. -/
theorem line_of_same {s t : State} (hl : t.lines = s.lines) (hs : t.slices = s.slices) (l : Nat) : t.line l = s.line l := by
  rw [State.line, State.line, State.lineFloor, State.lineFloor, State.slice, State.slice, hl, hs]

theorem Sends.line {s t : State} (h : Sends s t) (l : Nat) : t.line l = s.line l := by
  obtain ⟨ds, st, ts, lk, rfl⟩ := h
  exact line_of_same rfl rfl l

/-! ## PUBLISH_RESERVE (R280) -/

section
variable {s : State} {k id : Nat} {x : XStep}

/-- A reserving step keeps the core's partition and its tick. -/
theorem setStep_part (s : State) (k : Nat) (y : XStep) :
    ((s.setStep k y).core k).part = (s.core k).part ∧ (s.setStep k y).tickOf k = s.tickOf k := by
  have hpart : ((s.setStep k y).core k).part = (s.core k).part := by
    rw [State.setStep_core]
    rfl
  exact ⟨hpart, by rw [State.tickOf, State.tickOf, hpart]; rfl⟩

theorem setStep_line (s : State) (k : Nat) (y : XStep) (l : Nat) : (s.setStep k y).line l = s.line l := line_of_same rfl rfl l

theorem execPublishReserve_bad (hx : (s.core k).xstep? id = some x) (hev : s.ev = .publishReserve k id) (hb : x.bad ≠ []) :
    exec .publishReserve s = .next s := by
  have hbad : x.bad.isEmpty = false := by simpa using hb
  simp only [exec, execPublishReserve, hev, hx, hbad, Bool.not_false, or_true, if_true]

section
variable (hx : (s.core k).xstep? id = some x) (hev : s.ev = .publishReserve k id) (hstage : x.stage = .filled ∨ x.stage = .reserving)
  (hb : x.bad = []) (hrun : (s.core k).run = .running) (hland : ∀ y ∈ (s.core k).members x, (s.core k).landingIn y = false)
include hx hev hstage hb hrun hland

omit hx hev in
/-- The step goes on to its reservations. -/
theorem reserve_goes : (¬ ((x.stage ≠ .filled ∧ x.stage ≠ .reserving) ∨ !x.bad.isEmpty)) ∧
    ¬ ((s.core k).run ≠ .running ∨ ((s.core k).members x).any (s.core k).landingIn) := by
  refine ⟨?_, ?_⟩
  · rw [hb]
    rcases hstage with h | h <;> simp [h]
  · rw [hrun, not_or, not_not, List.any_eq_true]
    exact ⟨rfl, fun ⟨y, hy, hyl⟩ => by rw [hland y hy] at hyl; cases hyl⟩

theorem execPublishReserve_free {u : State} (hu : s.reserveRising k id (s.publishLines k x) = (u, .free))
    (hflit : s.flitHome k x = none) :
    exec .publishReserve s = .next (((u.setStep k { x with stage := .reserving, lines := s.publishLines k x }).linesTravel k
      (s.publishLines k x) true).now (engAt k .transfer) (.publishCommit k id)) := by
  obtain ⟨h1, h2⟩ := reserve_goes hstage hb hrun hland
  simp only [exec, execPublishReserve, hev, hx, if_neg h1, if_neg h2, hu, hflit, true_or, if_true]

/-- A step that is kept waiting asks again, with the lines below reserved. -/
theorem execPublishReserve_again {u : State} {say : LinesSay} (hu : s.reserveRising k id (s.publishLines k x) = (u, say))
    (n : Nat) (hn : say = .refused ∧ n = 16 ∨ say = .reserved ∧ n = 1) :
    ∃ v, (v = u ∨ ∃ y, v = u.setStep k y) ∧
      exec .publishReserve s = .next (v.atTick (engAt k .transfer) (v.tickOf k + n) (.publishReserve k id)) := by
  obtain ⟨h1, h2⟩ := reserve_goes hstage hb hrun hland
  refine ⟨if say = .free ∨ (s.publishLines k x).any (fun l => (u.line l).resv == some (k, id)) then
    u.setStep k { x with stage := .reserving, lines := s.publishLines k x } else u, ?_, ?_⟩
  · split
    · exact .inr ⟨_, rfl⟩
    · exact .inl rfl
  · rcases hn with ⟨rfl, rfl⟩ | ⟨rfl, rfl⟩
    · simp only [exec, execPublishReserve, hev, hx, if_neg h1, if_neg h2, hu]
    · simp only [exec, execPublishReserve, hev, hx, if_neg h1, if_neg h2, hu]

end

/-- The state in which a step that is kept waiting asks again. -/
theorem reserve_again_held {u v : State} {done : List Nat} (hu : LinesHeld s u k id done) (hv : v = u ∨ ∃ y, v = u.setStep k y) (n : Nat) :
    let t := v.atTick (engAt k .transfer) (v.tickOf k + n) (.publishReserve k id)
    SameMems s t ∧ (∀ l ∈ done, (t.line l).resv = some (k, id)) ∧ (∀ l, l ∉ done → t.line l = s.line l) ∧
      { clock := some (s.core k).part, due := s.tickOf k + n, who := engAt k .transfer, ev := .publishReserve k id } ∈ t.timers := by
  obtain ⟨⟨ls, sl, outside⟩, resv, -, rest⟩ := hu
  have hline : ∀ l, v.line l = u.line l := by
    rcases hv with rfl | ⟨y, rfl⟩
    · exact fun _ => rfl
    · exact setStep_line u k y
  have hpart : (v.core k).part = (s.core k).part ∧ v.tickOf k = s.tickOf k ∧ SameMems s v := by
    rcases hv with rfl | ⟨y, rfl⟩
    · rw [outside]
      exact ⟨rfl, rfl, rfl, rfl⟩
    · obtain ⟨h1, h2⟩ := setStep_part u k y
      rw [h1, h2, outside]
      exact ⟨rfl, rfl, rfl, rfl⟩
  obtain ⟨hpart, htick, hmem⟩ := hpart
  refine ⟨hmem, fun l hl => ?_, fun l hl => ?_, ?_⟩
  · exact (congrArg Line.resv (hline l)).trans (resv l hl)
  · exact (hline l).trans (rest l hl)
  · rw [← hpart, ← htick]
    exact List.mem_append_right _ (List.mem_singleton_self _)

section
variable (hx : (s.core k).xstep? id = some x) (hev : s.ev = .publishReserve k id) (hstage : x.stage = .filled ∨ x.stage = .reserving)
  (hb : x.bad = []) (hrun : (s.core k).run = .running) (hland : ∀ y ∈ (s.core k).members x, (s.core k).landingIn y = false)
include hx hev hstage hb hrun hland

/-- With every line open the publish is committed next. -/
theorem publishReserve_free (hopen : ∀ l ∈ s.publishLines k x, s.openTo k id l) (hflit : s.flitHome k x = none) :
    ∃ t, exec .publishReserve s = .next t ∧ SameMems s t ∧ (∀ l ∈ s.publishLines k x, (t.line l).resv = some (k, id)) ∧
      ∃ rest, t.agenda = .event (engAt k .transfer) (.publishCommit k id) :: rest := by
  obtain ⟨u, hu, heq⟩ := reserveRising_free hopen
  have hsends := linesTravel_sends (u.setStep k { x with stage := .reserving, lines := s.publishLines k x }) k (s.publishLines k x) true
  refine ⟨_, execPublishReserve_free hx hev hstage hb hrun hland heq hflit, ?_, fun l hl => ?_, _, rfl⟩
  · obtain ⟨⟨ls, sl, rfl⟩, -⟩ := hu
    exact hsends.mems
  · have hline := (hsends.line l).trans (setStep_line u k _ l)
    exact (congrArg Line.resv hline).trans (hu.resv l hl)

/-- A pin refuses the request, which is repeated 16 ticks later. -/
theorem publishReserve_refused (done : List Nat) (l : Nat) (rest : List Nat) (hls : s.publishLines k x = done ++ l :: rest)
    (hdone : ∀ j ∈ done, s.openTo k id j) (hpin : (s.line l).pinnedAgainst k = true) :
    ∃ t, exec .publishReserve s = .next t ∧ SameMems s t ∧ (∀ l ∈ done, (t.line l).resv = some (k, id)) ∧
      (∀ l, l ∉ done → t.line l = s.line l) ∧
      { clock := some (s.core k).part, due := s.tickOf k + 16, who := engAt k .transfer, ev := .publishReserve k id } ∈ t.timers := by
  obtain ⟨u, hu, heq⟩ := reserveRising_refused hdone hpin rest
  obtain ⟨v, hv, hexec⟩ := execPublishReserve_again hx hev hstage hb hrun hland (hls ▸ heq) 16 (.inl ⟨rfl, rfl⟩)
  exact ⟨_, hexec, reserve_again_held hu hv 16⟩

/-- Another step's reservation makes the request wait for the next tick. -/
theorem publishReserve_reserved (done : List Nat) (l : Nat) (rest : List Nat) (hls : s.publishLines k x = done ++ l :: rest)
    (hdone : ∀ j ∈ done, s.openTo k id j) (hp : (s.line l).pinnedAgainst k = false) (hl : ¬ s.openTo k id l) :
    ∃ t, exec .publishReserve s = .next t ∧ SameMems s t ∧ (∀ l ∈ done, (t.line l).resv = some (k, id)) ∧
      (∀ l, l ∉ done → t.line l = s.line l) ∧
      { clock := some (s.core k).part, due := s.tickOf k + 1, who := engAt k .transfer, ev := .publishReserve k id } ∈ t.timers := by
  obtain ⟨u, hu, heq⟩ := reserveRising_reserved hdone hp hl rest
  obtain ⟨v, hv, hexec⟩ := execPublishReserve_again hx hev hstage hb hrun hland (hls ▸ heq) 1 (.inr ⟨rfl, rfl⟩)
  exact ⟨_, hexec, reserve_again_held hu hv 1⟩

end

end

end Sys2Proof.Machine
end

section
/-! What a commit of bytes writes (R272, R280). -/

namespace Sys2Proof.Machine

open Sys2Proof

/-! ## Changes that touch neither memory nor lines -/

/-- Neither the bytes of a memory nor what the home of a line keeps of it has changed. -/
structure Calm (s t : State) : Prop where
  mem      : t.mem = s.mem
  endpoint : t.endpoint = s.endpoint
  lines    : t.lines = s.lines

theorem Calm.refl (s : State) : Calm s s := ⟨rfl, rfl, rfl⟩

theorem Calm.trans {s t u : State} (h : Calm s t) (hu : Calm t u) : Calm s u :=
  ⟨hu.mem.trans h.mem, hu.endpoint.trans h.endpoint, hu.lines.trans h.lines⟩

theorem Sends.calm {s t : State} (h : Sends s t) : Calm s t := by
  obtain ⟨ds, st, ts, lk, rfl⟩ := h
  exact ⟨rfl, rfl, rfl⟩

theorem Calm.foldl {α : Type} (f : State → α → State) (hf : ∀ s a, Calm s (f s a)) (l : List α) (s : State) : Calm s (l.foldl f s) :=
  foldl_keeps (Calm s) f l s (Calm.refl s) fun t a ht => ht.trans (hf t a)

theorem Calm.physLoad {s t : State} (h : Calm s t) (pa n : Nat) : t.physLoad pa n = s.physLoad pa n := by
  rw [State.physLoad, State.physLoad, h.mem, h.endpoint]

/-- A line's reservation is what the table of lines keeps of it. -/
theorem line_resv (s : State) (l : Nat) : (s.line l).resv = (Tbl.get? s.lines l).bind (fun x => x.resv) := by
  unfold State.line
  split
  next h => rw [h]; rfl
  next x h =>
    rw [h]
    split <;> rfl

theorem line_resv_congr {s t : State} {l : Nat} (h : Tbl.get? t.lines l = Tbl.get? s.lines l) : (t.line l).resv = (s.line l).resv := by
  rw [line_resv, line_resv, h]

theorem Calm.resv {s t : State} (h : Calm s t) (l : Nat) : (t.line l).resv = (s.line l).resv := line_resv_congr (by rw [h.lines])

/-! ## Single bytes stored in order -/

/-- Physical memory with single bytes stored in order, and the address tables that they clear (R96). -/
def State.storeCells (s : State) (cells : List (Nat × Byte)) : State :=
  cells.foldl (fun s c => (s.physStore c.1 [c.2]).clearTables c.1 1) s

theorem storeCells_concat (s : State) (cells : List (Nat × Byte)) (c : Nat × Byte) :
    s.storeCells (cells ++ [c]) = ((s.storeCells cells).physStore c.1 [c.2]).clearTables c.1 1 := by
  rw [State.storeCells, List.foldl_append]
  rfl

theorem physStore_mem_ne (s : State) {a pa : Nat} (b : Byte) (h : pa ≠ a) : Memory.get (s.physStore pa [b]).mem a = Memory.get s.mem a := by
  rw [State.physStore]
  split
  · rfl
  · exact Memory.get_store_of_not_mem _ _ _ _ (by simp only [List.length_singleton]; omega)

theorem physLoad_physStore_self (s : State) (a : Nat) (b : Byte) : (s.physStore a [b]).physLoad a 1 = [b] := by
  by_cases h : region a = 1
  · simp only [State.physLoad, State.physStore, h, if_true]
    exact Memory.load_store_self _ _ [b]
  · simp only [State.physLoad, State.physStore, h, if_false]
    exact Memory.load_store_self _ _ [b]

/-- A byte stored elsewhere, and at no other name of the same host byte, leaves a byte as it reads. -/
theorem physLoad_physStore_ne (s : State) {a pa : Nat} (b : Byte) (h : pa ≠ a)
    (hhost : region a ≠ 1 ∨ (region pa = 1 → pa % 2 ^ 40 ≠ a % 2 ^ 40)) : (s.physStore pa [b]).physLoad a 1 = s.physLoad a 1 := by
  by_cases ha : region a = 1
  · by_cases hpa : region pa = 1
    · have hne := hhost.resolve_left (not_not.mpr ha) hpa
      simp only [State.physLoad, State.physStore, ha, hpa, if_true, fld_zero]
      exact Memory.load_store_of_disjoint _ _ _ _ _ (by simp only [List.length_singleton]; omega)
    · simp only [State.physLoad, State.physStore, ha, hpa, if_true, if_false]
  · by_cases hpa : region pa = 1
    · simp only [State.physLoad, State.physStore, ha, hpa, if_true, if_false]
    · simp only [State.physLoad, State.physStore, ha, hpa, if_false]
      exact Memory.load_store_of_disjoint _ _ _ _ _ (by simp only [List.length_singleton]; omega)

theorem clearTables_calm (s : State) (pa n : Nat) : Calm s (s.clearTables pa n) := ⟨rfl, rfl, rfl⟩

/-- Bytes that none of the cells names stay. -/
theorem storeCells_mem_ne (s : State) {cells : List (Nat × Byte)} {a : Nat} (h : ∀ c ∈ cells, c.1 ≠ a) :
    Memory.get (s.storeCells cells).mem a = Memory.get s.mem a := by
  induction cells using List.reverseRecOn with
  | nil => rfl
  | append_singleton cells c ih =>
    rw [storeCells_concat, (clearTables_calm ..).mem, physStore_mem_ne _ _ (h c (by simp)), ih fun d hd => h d (by simp [hd])]

/-- The last of the cells at a place gives its byte. -/
theorem storeCells_physLoad (s : State) {cells : List (Nat × Byte)} {a : Nat} {b : Byte} (h : cells.reverse.lookup a = some b)
    (hhost : region a ≠ 1 ∨ ∀ c ∈ cells, region c.1 = 1 → c.1 % 2 ^ 40 = a % 2 ^ 40 → c.1 = a) :
    (s.storeCells cells).physLoad a 1 = [b] := by
  induction cells using List.reverseRecOn with
  | nil => cases h
  | append_singleton cells c ih =>
    rw [storeCells_concat, (clearTables_calm ..).physLoad]
    rw [List.reverse_append, List.reverse_singleton, List.singleton_append, List.lookup_cons] at h
    by_cases hc : a = c.1
    · rw [beq_iff_eq.mpr hc] at h
      cases h
      rw [hc]
      exact physLoad_physStore_self ..
    · rw [beq_eq_false_iff_ne.mpr hc] at h
      rw [physLoad_physStore_ne _ _ (Ne.symm hc), ih h]
      · exact hhost.imp_right fun hh d hd => hh d (by simp [hd])
      · exact hhost.imp_right fun hh hr he => hc (hh c (by simp) hr he).symm

/-! ## The lines of a commit -/

theorem pushFlit_calm (s : State) (home d p : Nat) (e : Ev) : Calm s (s.pushFlit home d p e) := ⟨rfl, rfl, rfl⟩

theorem atPartTick_calm (s : State) (p n : Nat) (e : Ev) : Calm s (s.atPartTick p n e) := ⟨rfl, rfl, rfl⟩

theorem pushDie_calm (s : State) (l d : Nat) (ks : List Nat) : Calm s (s.pushDie l d ks) := by
  unfold State.pushDie
  dsimp only
  split
  · exact Calm.foldl _ (fun _ _ => atPartTick_calm ..) _ _
  · exact (Calm.foldl _ (fun _ _ => atPartTick_calm ..) _ _).trans (pushFlit_calm ..)

theorem pushLine_calm (s : State) (l : Nat) : Calm s (s.pushLine l) := by
  unfold State.pushLine
  dsimp only
  refine Calm.trans (t := if (s.line l).caches.isEmpty then s else s.pushDie l (homeDie (l * 64)) (s.line l).caches) ?_ ?_
  · split
    · exact Calm.refl s
    · exact pushDie_calm ..
  · refine Calm.foldl _ (fun t d => ?_) _ _
    split
    · exact Calm.refl t
    · exact pushDie_calm ..

/-- A line's reservation after a line is set. -/
theorem resv_setLine (s : State) (l j : Nat) (x : Line) : ((s.setLine l x).line j).resv = if j = l then x.resv else (s.line j).resv := by
  by_cases h : j = l
  · subst h
    rw [if_pos rfl, line_resv, State.setLine, Tbl.get?_set_self, Option.bind_some]
  · rw [if_neg h]
    exact line_resv_congr (Tbl.get?_set_ne _ _ _ _ h)

/-- A line that leaves its way keeps its reservation, and so does every other (R269). -/
theorem resv_evict (s : State) (k v j : Nat) : ((s.evict k v).line j).resv = (s.line j).resv := by
  unfold State.evict
  dsimp only
  split
  · rw [resv_setLine]
    split
    next h => rw [h]
    · exact line_resv_congr rfl
  · split
    · rfl
    · exact line_resv_congr rfl

theorem resv_touchSlice (s : State) (pa j : Nat) : ((s.touchSlice pa).line j).resv = (s.line j).resv := by
  rw [State.touchSlice]
  split
  · rfl
  · unfold State.takeWay
    dsimp only
    split
    · exact line_resv_congr rfl
    · split
      · exact line_resv_congr rfl
      · rw [resv_evict]
        exact line_resv_congr rfl

/-- A line that a commit writes at stamp `st`, in dwords `ds`: its reservation ends, and its holders are told. -/
def State.commitLine (s : State) (l : Nat) (ds : List Nat) (st : Nat) : State :=
  ((s.setLine l (({ s.line l with wts := st, rts := st, resv := none } : Line).wrote ds st)).touchSlice (l * 64)).pushLine l

theorem resv_commitLine (s : State) (l : Nat) (ds : List Nat) (st j : Nat) :
    ((s.commitLine l ds st).line j).resv = if j = l then none else (s.line j).resv := by
  rw [State.commitLine, (pushLine_calm ..).resv, resv_touchSlice, resv_setLine]
  rfl

theorem commitLine_physLoad (s : State) (l : Nat) (ds : List Nat) (st : Nat) :
    (s.commitLine l ds st).mem = s.mem ∧ (s.commitLine l ds st).endpoint = s.endpoint := by
  rw [State.commitLine, (pushLine_calm ..).mem, (pushLine_calm ..).endpoint, touchSlice_endpoint]
  exact ⟨(State.touchSlice_mems ..).1, rfl⟩

/-- The dwords of a line that cells touch. -/
def cellDwords (cells : List (Nat × Byte)) (l : Nat) : List Nat :=
  (cells.filter (fun c => lineOf c.1 == l)).foldl (fun ds c => insertNat (c.1 % 64 / 8) ds) []

theorem commitCells_eq (s : State) (cells : List (Nat × Byte)) (st : Nat) :
    s.commitCells cells st = (linesOf cells).foldl (fun s l => s.commitLine l (cellDwords cells l) st) (s.storeCells cells) := rfl

theorem commitCells_mems (s : State) (cells : List (Nat × Byte)) (st : Nat) :
    (s.commitCells cells st).mem = (s.storeCells cells).mem ∧ (s.commitCells cells st).endpoint = (s.storeCells cells).endpoint := by
  rw [commitCells_eq]
  refine foldl_keeps (fun t : State => t.mem = (s.storeCells cells).mem ∧ t.endpoint = (s.storeCells cells).endpoint) _ _ _ ⟨rfl, rfl⟩ ?_
  intro t l ⟨hm, he⟩
  obtain ⟨hm', he'⟩ := commitLine_physLoad t l (cellDwords cells l) st
  exact ⟨hm'.trans hm, he'.trans he⟩

theorem commitCells_mem_ne (s : State) {cells : List (Nat × Byte)} (st : Nat) {a : Nat} (h : ∀ c ∈ cells, c.1 ≠ a) :
    Memory.get (s.commitCells cells st).mem a = Memory.get s.mem a := by
  rw [(commitCells_mems ..).1, storeCells_mem_ne s h]

theorem commitCells_physLoad (s : State) {cells : List (Nat × Byte)} (st : Nat) {a : Nat} {b : Byte}
    (h : cells.reverse.lookup a = some b)
    (hhost : region a ≠ 1 ∨ ∀ c ∈ cells, region c.1 = 1 → c.1 % 2 ^ 40 = a % 2 ^ 40 → c.1 = a) :
    (s.commitCells cells st).physLoad a 1 = [b] := by
  obtain ⟨hm, he⟩ := commitCells_mems s cells st
  rw [← storeCells_physLoad s h hhost, State.physLoad, State.physLoad, hm, he]

/-- The reservations of the lines that a commit writes end. -/
theorem commitCells_resv (s : State) {cells : List (Nat × Byte)} (st : Nat) {l : Nat} (hl : l ∈ linesOf cells) :
    ((s.commitCells cells st).line l).resv = none := by
  rw [commitCells_eq]
  generalize s.storeCells cells = t
  generalize linesOf cells = ls at hl
  induction ls generalizing t with
  | nil => cases hl
  | cons j ls ih =>
    rw [List.foldl_cons]
    by_cases h : l ∈ ls
    · exact ih _ h
    · have hlj : l = j := (List.mem_cons.mp hl).resolve_right h
      refine foldl_keeps (fun t : State => (t.line l).resv = none) _ ls _ ?_ fun t i ht => ?_
      · rw [resv_commitLine, if_pos hlj]
      · rw [resv_commitLine]
        split
        · rfl
        · exact ht

end Sys2Proof.Machine
end

section
/-! The publishes of steps in flight (R199 to R212, R265, R280). -/

namespace Sys2Proof.Machine

open Sys2Proof

/-! ## PUBLISH_COMMIT (R280) -/

section
variable {s : State} {k id : Nat} {x : XStep}

theorem setCore_calm (s : State) (k : Nat) (c : Core) : Calm s (s.setCore k c) := ⟨rfl, rfl, rfl⟩

theorem setStep_calm (s : State) (k : Nat) (y : XStep) : Calm s (s.setStep k y) := ⟨rfl, rfl, rfl⟩

theorem now_calm (s : State) (w : Cur) (e : Ev) : Calm s (s.now w e) := ⟨rfl, rfl, rfl⟩

theorem soon_calm (s : State) (js : List Job) : Calm s (s.soon js) := ⟨rfl, rfl, rfl⟩

theorem ringWays_calm (s : State) (p : Nat) (hops : List RingHop) : Calm s (s.ringWays p hops) := by
  cases hops with
  | nil => exact Calm.refl s
  | cons h rest => exact ⟨rfl, rfl, rfl⟩

theorem injectAt_calm (s : State) (from_ goal : Nat) (vc : Fin 4) (head p : Nat) (e : FlitKind) (num : Option (Stream × Nat)) :
    Calm s (s.injectAt from_ goal vc head p e num) := ⟨rfl, rfl, rfl⟩

theorem memberDone_calm (s : State) (k st : Nat) (y : XStep) : Calm s (s.memberDone k st y) := by
  unfold State.memberDone
  dsimp only
  split
  · exact setCore_calm ..
  · exact (setStep_calm ..).trans (sendWindows_sends ..).calm
  all_goals exact setStep_calm ..

/-- Beside the bytes of its members and their lines a commit touches neither. -/
theorem publishCommit_calm (s : State) (k : Nat) (x : XStep) :
    ∃ st, Calm (s.commitCells (((s.core k).members x).flatMap XStep.lineCells) st) (s.publishCommit k x) := by
  refine ⟨s.commitStamp x.lines (((s.core k).members x).foldl (fun n y => Nat.max n y.stamp) x.stamp), ?_⟩
  unfold State.publishCommit
  dsimp only
  have hpub : ∀ (b : Bool) (t : State) (y : XStep), Calm t (if b = true then t.setStep k y else t) := fun b t y => by
    cases b
    · exact Calm.refl t
    · exact setStep_calm ..
  have hmembers := fun (t u : State) (st : Nat) (h : Calm t u) =>
    h.trans (Calm.foldl (fun u y => u.memberDone k st y) (fun u y => memberDone_calm u k st y) ((s.core k).members x) u)
  split
  · exact ((hmembers _ _ _ (hpub ..)).trans (ringWays_calm ..)).trans (injectAt_calm ..)
  · split
    · exact (hmembers _ _ _ (hpub ..)).trans (now_calm ..)
    · exact (hmembers _ _ _ (hpub ..)).trans (soon_calm ..)

/-- A commit of a step's own bytes completes the step, when none of them cross a port and none the mesh. -/
theorem publishCommit_due (hpub : x.isPub = false) (hw : x.windowed = false) (hflit : s.flitHome k x = none) :
    ∃ rest, (s.publishCommit k x).agenda = .event (engAt k .transfer) (.stepComplete k x.id) :: rest := by
  have hms : (s.core k).members x = [x] := if_neg (by simp [hpub])
  have hends : [x].filter (fun y => !y.windowed) = [x] := by simp [hw]
  simp only [State.publishCommit, hflit, hpub, hms, Bool.false_eq_true, false_and, if_false, State.endMembers, hends]
  exact ⟨_, rfl⟩

theorem execPublishCommit_eq (hx : (s.core k).xstep? id = some x) (hev : s.ev = .publishCommit k id) (hstage : x.stage = .reserving) :
    exec .publishCommit s = .next (s.publishCommit k x) := by
  simp only [exec, execPublishCommit, hev, hx, hstage, if_true]

theorem lookup_of_find? {cells : List (Nat × Byte)} {a : Nat} {b : Byte} (h : cells.find? (fun c => c.1 == a) = some (a, b)) :
    cells.lookup a = some b := by
  induction cells with
  | nil => cases h
  | cons c cells ih =>
    rw [List.lookup_cons]
    by_cases hc : c.1 = a
    · rw [List.find?_cons_of_pos (by simpa using hc)] at h
      obtain rfl := Option.some.inj h
      rw [beq_self_eq_true]
    · rw [List.find?_cons_of_neg (by simpa using hc)] at h
      rw [beq_eq_false_iff_ne.mpr (Ne.symm hc)]
      exact ih h

/-- A byte of the DRAM or resident region that reads as `b`. -/
theorem get_of_physLoad {t : State} {a : Nat} {b : Byte} (hr : region a ≠ 1) (h : t.physLoad a 1 = [b]) : Memory.get t.mem a = b := by
  rw [physLoad_eq hr] at h
  exact List.head_eq_of_cons_eq h

/-! ## Messages (R212) -/

theorem putPacket_calm (s : State) (num : Nat) (cells : List (Nat × Byte)) (n ts : Nat) :
    ∃ st, Calm ((s.disown 32 (linesOf cells)).commitCells cells st) (s.putPacket num cells n ts).1 :=
  ⟨(s.disown 32 (linesOf cells)).commitStamp (linesOf cells) ts, rfl, rfl, rfl⟩

theorem advance_off (m : Mbox) (n st : Nat) : ((m.advance n st).wo, (m.advance n st).wl) = advanceOff m.wo m.wl m.area.toNat n := rfl

theorem putPacket_mbox (s : State) (num : Nat) (cells : List (Nat × Byte)) (n ts : Nat) :
    let m := s.mbox num
    let t := (s.putPacket num cells n ts).1
    ((t.mbox num).wo, (t.mbox num).wl) =
      (if m.skip n = 0 then advanceOff m.wo m.wl m.area.toNat n
       else advanceOff (advanceOff m.wo m.wl m.area.toNat (m.skip n)).1
         (advanceOff m.wo m.wl m.area.toNat (m.skip n)).2 m.area.toNat n) := by
  intro m t
  obtain ⟨st, hm⟩ : ∃ st, t.mbox num = (if m.skip n = 0 then m else m.advance (m.skip n) st).advance n st :=
    ⟨_, Tbl.getD_set_self ..⟩
  rw [hm, advance_off]
  split
  · rfl
  · rfl

section
variable {n : Nat} (hw : (s.mbox n).writable (s.core k).part = true)
include hw

theorem sendPacket_full (hr : (s.mbox n).room x.bytes = false) :
    s.sendPacket k x n = s.atTick (engAt k .transfer) (s.tickOf k + 1) (.shadowFilled k x.id) := by
  simp only [State.sendPacket, hw, hr, Bool.not_true, Bool.false_eq_true, if_false, Bool.not_false, if_true]

theorem sendPacket_free {cells : List (Nat × Byte)} (hr : (s.mbox n).room x.bytes = true)
    (hc : s.packetCells (s.mbox n) x.got = .ok cells) (hl : s.linesSay k (some x.id) (linesOf cells) = .free) :
    let p := s.putPacket n cells x.bytes x.stamp
    s.sendPacket k x n =
      ((p.1.setStep k { x with stage := .committed, stamp := p.2 }).linesTravel k (linesOf cells) true).endStep k x.id := by
  simp only [State.sendPacket, hw, hr, hc, hl, Bool.not_true, Bool.false_eq_true, if_false]

end

theorem sendPacket_shut {n : Nat} (hw : (s.mbox n).writable (s.core k).part = false) :
    s.sendPacket k x n = s.setStep k { x with
      bad := x.bad ++ [{ at_ := s.tickOf k, walk := 0, sector := 0, cause := 0x09, why := 0, acc := 1, addr := 0 }] } := by
  simp only [State.sendPacket, hw, Bool.not_false, if_true]
  rfl

theorem sends_mbox {s t : State} (h : Sends s t) (n : Nat) : t.mbox n = s.mbox n := by
  obtain ⟨ds, st, ts, lk, rfl⟩ := h
  rfl

/-- A packet that is written: its bytes and no other of memory, and the write offset past it. -/
theorem sendPacket_writes {n : Nat} {cells : List (Nat × Byte)} (hw : (s.mbox n).writable (s.core k).part = true)
    (hr : (s.mbox n).room x.bytes = true) (hc : s.packetCells (s.mbox n) x.got = .ok cells)
    (hl : s.linesSay k (some x.id) (linesOf cells) = .free) :
    let m := s.mbox n
    let t := s.sendPacket k x n
    (∃ rest, t.agenda = .event (engAt k .transfer) (.stepComplete k x.id) :: rest) ∧
    (∀ a, (∀ c ∈ cells, c.1 ≠ a) → Memory.get t.mem a = Memory.get s.mem a) ∧
    (∀ a y, cells.reverse.lookup a = some y →
      (region a ≠ 1 ∨ ∀ c ∈ cells, region c.1 = 1 → c.1 % 2 ^ 40 = a % 2 ^ 40 → c.1 = a) → t.physLoad a 1 = [y]) ∧
    ((t.mbox n).wo, (t.mbox n).wl) =
      (if m.skip x.bytes = 0 then advanceOff m.wo m.wl m.area.toNat x.bytes
       else advanceOff (advanceOff m.wo m.wl m.area.toNat (m.skip x.bytes)).1
         (advanceOff m.wo m.wl m.area.toNat (m.skip x.bytes)).2 m.area.toNat x.bytes) := by
  intro m t
  have ht : t = _ := sendPacket_free hw hr hc hl
  let p := s.putPacket n cells x.bytes x.stamp
  have hsends := linesTravel_sends (p.1.setStep k { x with stage := .committed, stamp := p.2 }) k (linesOf cells) true
  have hcalm : Calm p.1 t := by
    rw [ht]
    exact ((setStep_calm ..).trans hsends.calm).trans (now_calm ..)
  obtain ⟨st, hput⟩ := putPacket_calm s n cells x.bytes x.stamp
  have hall := hput.trans hcalm
  refine ⟨⟨_, by rw [ht]; rfl⟩, fun a ha => ?_, fun a y hy hhost => ?_, ?_⟩
  · rw [hall.mem, commitCells_mem_ne _ _ ha, (State.disown_mems ..).1]
  · rw [hall.physLoad]
    exact commitCells_physLoad _ _ hy hhost
  · have hmbox : t.mbox n = p.1.mbox n := by
      rw [ht]
      exact sends_mbox hsends n
    rw [hmbox]
    exact putPacket_mbox ..

end

/-! ## The clauses of O52 -/

/-- A step toward memory whose shadow may publish has its publish due. -/
theorem beginPublish_due {s : State} {k : Nat} {y : XStep} (hd : y.dfr = false) (hr : y.ready = true) {e : Ev}
    (he : (∃ b tile, y.dest = .spad b tile) ∧ e = .scratchpadPublish k y.id ∨ y.dest = .global ∧ e = .publishReserve k y.id) :
    s.beginPublish k y = s.now (engAt k .transfer) e := by
  rcases he with ⟨⟨b, tile, hdest⟩, rfl⟩ | ⟨hdest, rfl⟩
  · simp only [State.beginPublish, hd, hr, hdest, Bool.false_eq_true, if_false, Bool.not_true]
  · simp only [State.beginPublish, hd, hr, hdest, Bool.false_eq_true, if_false, Bool.not_true]

/-- What the fill of a step of each kind does. -/
theorem fill_clauses {s : State} {k id : Nat} {x : XStep} (hx : (s.core k).xstep? id = some x) (hev : s.ev = .shadowFilled k id)
    (hrun : (s.core k).run = .running) (hpub : x.isPub = false) :
    (x.bad ≠ [] → (∃ b tile, x.dest = .spad b tile) ∨ x.dest = .global → x.dfr = false → ∃ t, exec .shadowFilled s = .next t ∧
      OnlyCoreJobs k s t ∧ t.agenda = s.agenda ∧ (t.core k).spBuf = (s.core k).spBuf) ∧
    (∀ e, ((∃ b, x.dest = .spad b none) ∧ e = .scratchpadPublish k id ∨ x.dest = .global ∧ e = .publishReserve k id) → x.dfr = false →
      x.bad = [] → ∃ t y, exec .shadowFilled s = .next t ∧ OnlyCoreJobs k s t ∧ SameMems s t ∧
      (t.core k).scratch = (s.core k).scratch ∧ (t.core k).spBuf = (s.core k).spBuf ∧ y ∈ (t.core k).xfr.steps ∧ y.id = id ∧
      y.stage = .filled ∧ y.flags = x.result.2 ∧ ∃ rest, t.agenda = .event (engAt k .transfer) e :: rest) := by
  have hid := xstep?_id hx
  have honly : OnlyCoreJobs k s (s.setStep k x.filled) := (OnlyCoreJobs.refl k s).setStep _
  rw [execShadowFilled_eq hx hev]
  refine ⟨fun hb hd hdfr => ?_, fun e he hdfr hb => ?_⟩
  · rw [shadowFilled_publish hrun hpub hd.symm, beginPublish_bad (x := x.filled) hdfr hb]
    refine ⟨_, rfl, honly, rfl, ?_⟩
    rw [State.setStep_core]
    rfl
  · have hd : x.dest = .global ∨ ∃ b, x.dest = .spad b none := (he.imp And.left And.left).symm
    have hdue := beginPublish_due (s := s.setStep k x.filled) (k := k) (y := x.filled) (e := e) hdfr (filled_ready hb hd)
      (by rw [show x.filled.id = id from hid]; exact he.imp (And.imp_left fun ⟨b, h⟩ => ⟨b, none, h⟩) (fun h => h))
    rw [shadowFilled_publish hrun hpub (hd.imp_right fun ⟨b, h⟩ => ⟨b, none, h⟩), hdue]
    refine ⟨_, x.filled, rfl, honly.now _ _, honly.mems, ?_, ?_, ?_, hid, rfl, rfl, _, rfl⟩
    · exact (congrArg Core.scratch (State.setStep_core s k x.filled) :)
    · exact (congrArg Core.spBuf (State.setStep_core s k x.filled) :)
    · exact State.mem_setStep hx rfl

/-- Settles O52: each event from the fill of a step's shadow to its completion does what its clause says. -/
theorem stepsPublish : Obligations.StepsPublish := by
  unfold Obligations.StepsPublish
  intro s k id x hx who due
  have hid := xstep?_id hx
  refine ⟨fun hev hrun hpub => ?_, fun hev hb => ?_, fun hev hstage hdfr hb a b tile hdst hdest htile => ?_, execPublishReserve_bad hx,
    fun hev hstage hb hrun hland => ?_, fun hev hstage => ?_, fun hev hrun => ?_⟩
  · obtain ⟨hbad, hpublish⟩ := fill_clauses hx hev hrun hpub
    have hexec := execShadowFilled_eq hx hev
    refine ⟨hbad, fun b hd hdfr hb => hpublish _ (.inl ⟨⟨b, hd⟩, rfl⟩) hdfr hb, fun hd hdfr hb => ?_, fun n hd => ?_,
      fun n cells hd hw hr hc hl => ?_, fun n hd hw hr => ?_, fun n hd hw => ?_, fun hd => ?_, fun n hd hl => ?_⟩
    · obtain ⟨t, y, hexec, honly, hmems, -, -, hrest⟩ := hpublish _ (.inr ⟨hd, rfl⟩) hdfr hb
      exact ⟨t, y, hexec, honly, hmems, hrest⟩
    · rw [hexec, shadowFilled_tileReg hrun hpub hd, hid]
      refine ⟨_, rfl, ((OnlyCoreJobs.refl k s).setCore _).now _ _, ⟨_, rfl⟩, fun a ha => ?_, fun r c hr hc => ?_⟩
      · exact (congrArg (fun d : Core => Memory.get d.tiles a) (State.core_setCore ..)).trans (get_writeTile_outside _ _ _ ha)
      · exact (congrArg (fun d : Core => leNat (Memory.load d.tiles _ 2)) (State.core_setCore ..)).trans (load_writeTile _ _ _ hr hc)
    · rw [hexec, shadowFilled_mailbox hrun hpub hd]
      obtain ⟨hdue, hrest⟩ := sendPacket_writes hw hr hc hl
      rw [hid] at hdue
      exact ⟨_, rfl, hdue, hrest⟩
    · rw [hexec, shadowFilled_mailbox hrun hpub hd, sendPacket_full hw hr]
    · rw [hexec, shadowFilled_mailbox hrun hpub hd, sendPacket_shut hw]
      exact ⟨_, _, rfl, (OnlyCoreJobs.refl k s).setStep _, State.mem_setStep hx rfl, hid, rfl⟩
    · rw [hexec, shadowFilled_scaleQueue hrun hpub hd, hid]
      refine ⟨_, rfl, ((OnlyCoreJobs.refl k s).setCore _).now _ _, ?_, _, rfl⟩
      exact congrArg Core.scaleQ (State.core_setCore ..)
    · rw [hexec, shadowFilled_shapeSlot hrun hpub hd hl, hid]
      refine ⟨_, rfl, ((OnlyCoreJobs.refl k s).setCore _).now _ _, ⟨_, rfl⟩, fun m => ?_⟩
      refine (congrArg (fun d : Core => vget d.sh m) (State.core_setCore ..)).trans ?_
      by_cases hm : m = n
      · rw [if_pos hm, hm]
        exact vget_vset ..
      · rw [if_neg hm]
        exact vget_vset_ne _ _ _ _ hm
  · rw [execScratchpadPublish_eq hx hev, ready_eq_false_of_bad hb]
    rfl
  · obtain ⟨hwaits, hputs⟩ := scratchpadPublish_clause hx hev hstage hdfr hb hdst hdest htile
    exact ⟨fun hl => ⟨_, hwaits hl, rfl⟩, hputs⟩
  · exact ⟨publishReserve_free hx hev hstage hb hrun hland, publishReserve_refused hx hev hstage hb hrun hland,
      publishReserve_reserved hx hev hstage hb hrun hland⟩
  · obtain ⟨st, hcalm⟩ := publishCommit_calm s k x
    refine ⟨_, execPublishCommit_eq hx hev hstage, fun a ha => ?_, fun a b hab hr => ?_, fun l hl => ?_, fun hpub hw hflit => ?_⟩
    · rw [hcalm.mem]
      exact commitCells_mem_ne s st ha
    · rw [hcalm.mem]
      exact get_of_physLoad hr (commitCells_physLoad s st (lookup_of_find? hab) (.inl hr))
    · rw [hcalm.resv]
      exact commitCells_resv s st hl
    · obtain ⟨rest, hdue⟩ := publishCommit_due (s := s) (k := k) hpub hw hflit
      rw [hid] at hdue
      exact ⟨rest, hdue⟩
  · rw [execStepComplete_eq hx hev]
    have hcore := stepComplete_core (x := x) hrun
    have hjobs := stepComplete_only (x := x) hrun
    have hslot : ((s.stepComplete k x).core k).task x.slot = ((s.core k).task x.slot).stepDone (s.tickOf k) x := by
      rw [hcore, Core.task_setTask]
    have hmem : ∀ y, y ∈ ((s.stepComplete k x).core k).xfr.steps ↔ y ∈ (s.core k).xfr.steps ∧ y.id ≠ id := fun y => by
      rw [hcore, ← hid]
      exact mem_stepOver ..
    obtain ⟨hflags, hg, hpc, hstamp⟩ := Slot.stepDone_kept ((s.core k).task x.slot) (s.tickOf k) x
    refine ⟨_, rfl, hjobs, hjobs.mems, fun y hy => ((hmem y).mp hy).2, fun y hy => (hmem y).trans (and_iff_left hy), ?_⟩
    dsimp only
    rw [hslot]
    refine ⟨hflags, hg, hpc, hstamp, fun n hn => Slot.stepDone_token hn .., fun n hn => Slot.stepDone_others hn .., fun u hu hd => ⟨?_, ?_⟩⟩
    · rw [hcore]
      exact stepOver_drained hu hd
    · exact stepComplete_drained hrun hu hd

end Sys2Proof.Machine
end

section
/-! The reduction of a line (R209). -/

namespace Sys2Proof.Machine

open Sys2Proof

/-! ## Reductions (R209) -/

/-- The cells of bytes laid out from a place. -/
def cellsAt (a : Nat) (bs : List Byte) : List (Nat × Byte) := bs.zipIdx.map (fun b => (a + b.2, b.1))

theorem mem_cellsAt {a : Nat} {bs : List Byte} {c : Nat × Byte} (h : c ∈ cellsAt a bs) : a ≤ c.1 ∧ c.1 < a + bs.length := by
  obtain ⟨⟨b, i⟩, hb, rfl⟩ := List.mem_map.mp h
  have := List.snd_lt_of_mem_zipIdx hb
  simp only at this ⊢
  omega

/-- The cells are written in rising address, each place once. -/
theorem lookup_cellsAt (a i : Nat) (bs : List Byte) (hi : i < bs.length) : (cellsAt a bs).reverse.lookup (a + i) = some bs[i] := by
  induction bs using List.reverseRecOn with
  | nil => cases hi
  | append_singleton bs b ih =>
    have hcells : (cellsAt a (bs ++ [b])).reverse = (a + bs.length, b) :: (cellsAt a bs).reverse := by
      simp [cellsAt, List.zipIdx_append]
    rw [hcells, List.lookup_cons]
    by_cases h : i = bs.length
    · subst h
      rw [beq_self_eq_true]
      simp
    · have hlt : i < bs.length := by
        rw [List.length_append, List.length_singleton] at hi
        omega
      rw [beq_eq_false_iff_ne.mpr (by omega), List.getElem_append_left hlt]
      exact ih hlt

/-- Bytes that a commit lays out in the DRAM or resident region are read back. -/
theorem load_commitCells (s : State) {a : Nat} {bs : List Byte} (st : Nat) (hr : ∀ i, i < bs.length → region (a + i) ≠ 1) :
    Memory.load (s.commitCells (cellsAt a bs) st).mem a bs.length = bs := by
  refine Memory.load_eq fun i hi => ?_
  rw [List.getD_eq_getElem?_getD, List.getElem?_eq_getElem hi, Option.getD_some]
  exact get_of_physLoad (hr i hi) (commitCells_physLoad s st (lookup_cellsAt a i bs hi) (.inl (hr i hi)))

/-- The value of a 32-bit word as its format reads it. -/
def redInt (sg : Bool) (v : Nat) : Int := if sg = true ∧ 2 ^ 31 ≤ v then v - 2 ^ 32 else v

theorem redInt_eq {sg : Bool} {v : Nat} (hv : v < 2 ^ 32) : (if sg = true then signedOf 32 v else (v : Int)) = redInt sg v := by
  cases sg with
  | false => rfl
  | true =>
    simp only [if_true, signedOf, redInt, true_and, Nat.mod_eq_of_lt hv]
    split
    · rw [if_neg (by omega)]
    · rw [if_pos (by omega)]

/-- What a reduction writes to a word (R209). -/
theorem redValue_mod (op : RedOp) (sg : Bool) {old v : Nat} (ho : old < 2 ^ 32) (hv : v < 2 ^ 32) :
    redValue op sg old v % 2 ^ 32 = match op with
      | .add => (old + v) % 2 ^ 32
      | .fadd => fadd32 old v % 2 ^ 32
      | .max => if redInt sg old < redInt sg v then v else old
      | .min => if redInt sg v < redInt sg old then v else old := by
  cases op with
  | add => exact Nat.mod_mod ..
  | fadd => rfl
  | max =>
    simp only [redValue, redInt_eq ho, redInt_eq hv, if_true, decide_eq_true_eq]
    split
    · exact Nat.mod_eq_of_lt hv
    · exact Nat.mod_eq_of_lt ho
  | min =>
    simp only [redValue, redInt_eq ho, redInt_eq hv, Bool.false_eq_true, if_false, decide_eq_true_eq]
    split
    · exact Nat.mod_eq_of_lt hv
    · exact Nat.mod_eq_of_lt ho

/-- One element of a line reduced. -/
def State.redElem (s : State) (op : RedOp) (sg : Bool) (st : Nat) (e : Nat × Nat) : State :=
  s.commitCells (cellsAt e.1 (leBytes 4 (redValue op sg (leNat (s.physLoad e.1 4)) e.2))) st

theorem leNat_lt_load (m : Memory) (a n : Nat) : leNat (Memory.load m a n) < 256 ^ n := by
  induction n generalizing a with
  | zero => exact Nat.zero_lt_one
  | succ n ih =>
    have hb := (Memory.get m a).isLt
    have := ih (a + 1)
    rw [Memory.load, leNat, Nat.pow_succ]
    omega

section
variable {s : State} {k : Nat} {x : XStep} {l : Nat} {op : RedOp} {sg : Bool}

/-- An aligned element of a line lies in the line. -/
theorem redElem_outside {t : State} {e : Nat × Nat} (hl : lineOf e.1 = l) (ha : e.1 % 4 = 0) (st : Nat) {b : Nat}
    (hb : b < 64 * l ∨ 64 * l + 64 ≤ b) : Memory.get (t.redElem op sg st e).mem b = Memory.get t.mem b := by
  refine commitCells_mem_ne t st fun c hc => ?_
  have hc := mem_cellsAt hc
  rw [leBytes_length] at hc
  rw [lineOf] at hl
  omega

/-- A line that is free is reduced, and the rest of the step changes no byte (R209). -/
theorem redLine_mem (hd : x.dest = .reduce op sg) (hl : l ∈ x.lines) (hs : s.linesSay k (some x.id) [l] = .free) :
    ∃ st, (s.redLine k x l).mem =
      ((x.redElems.filter (fun e => lineOf e.1 == l)).foldl (fun t e => t.redElem op sg st e) (s.disown (dieOf k) [l])).mem := by
  refine ⟨(s.disown (dieOf k) [l]).commitStamp [l] x.stamp, ?_⟩
  have hc : (!x.lines.contains l) = false := by simpa using hl
  simp only [State.redLine, hd, hc, hs, Bool.false_eq_true, if_false]
  split
  · exact ((setStep_calm ..).trans (exchange_sends ..).calm).mem
  · exact ((setStep_calm ..).trans (exchange_sends ..).calm).mem

theorem redLine_outside (hd : x.dest = .reduce op sg) (hl : l ∈ x.lines) (hs : s.linesSay k (some x.id) [l] = .free)
    (ha : ∀ e ∈ x.redElems, lineOf e.1 = l → e.1 % 4 = 0) : SameBytesOutside (64 * l) 64 s (s.redLine k x l) := by
  intro b hb
  obtain ⟨st, hmem⟩ := redLine_mem hd hl hs
  rw [hmem, ← (State.disown_mems s (dieOf k) [l]).1]
  have hmine : ∀ e ∈ x.redElems.filter (fun e => lineOf e.1 == l), lineOf e.1 = l ∧ e.1 % 4 = 0 := fun e he => by
    obtain ⟨he, hel⟩ := List.mem_filter.mp he
    exact ⟨beq_iff_eq.mp hel, ha e he (beq_iff_eq.mp hel)⟩
  generalize x.redElems.filter (fun e => lineOf e.1 == l) = es at hmine
  generalize s.disown (dieOf k) [l] = t
  induction es generalizing t with
  | nil => rfl
  | cons e es ih =>
    obtain ⟨hel, hea⟩ := hmine e (List.mem_cons_self ..)
    rw [List.foldl_cons, ih (fun e he => hmine e (List.mem_cons_of_mem _ he)), redElem_outside hel hea st hb]

/-- The one element of a line takes its value. -/
theorem redLine_value (hd : x.dest = .reduce op sg) (hl : l ∈ x.lines) (hs : s.linesSay k (some x.id) [l] = .free)
    (hr : region (64 * l) ≠ 1) {e : Nat × Nat} (he : x.redElems.filter (fun e => lineOf e.1 == l) = [e]) (ha : e.1 % 4 = 0) :
    leNat (Memory.load (s.redLine k x l).mem e.1 4) = redValue op sg (leNat (Memory.load s.mem e.1 4)) e.2 % 2 ^ 32 := by
  obtain ⟨st, hmem⟩ := redLine_mem hd hl hs
  have hel : lineOf e.1 = l := by
    have : e ∈ x.redElems.filter (fun e => lineOf e.1 == l) := he ▸ List.mem_singleton_self e
    exact beq_iff_eq.mp (List.mem_filter.mp this).2
  have hregion : ∀ i, i < 4 → region (e.1 + i) ≠ 1 := fun i hi h => hr (by
    rw [lineOf] at hel
    rw [region, fld] at h ⊢
    rw [← h, show 64 * l / 2 ^ 40 = (e.1 + i) / 2 ^ 40 by omega])
  have hload := load_commitCells (s.disown (dieOf k) [l]) (a := e.1)
    (bs := leBytes 4 (redValue op sg (leNat ((s.disown (dieOf k) [l]).physLoad e.1 4)) e.2)) st
    (fun i hi => hregion i (by rwa [leBytes_length] at hi))
  rw [leBytes_length] at hload
  rw [hmem, he, List.foldl_cons, List.foldl_nil, State.redElem, hload, leNat_leBytes, physLoad_eq (pa := e.1) (hregion 0 (by decide)),
    (State.disown_mems ..).1]
  rfl

end

end Sys2Proof.Machine
end

section
/-! The landings of a multicast (R216, R265). -/

namespace Sys2Proof.Machine

open Sys2Proof

/-! ## Landings (R216, R265) -/

/-- The pieces of a landing with the places they go to. -/
def landPieces (a : Nat) (bs : List Byte) : List (Nat × List Byte) := (pieces 256 bs).zipIdx.map (fun p => (a + 256 * p.2, p.1))

theorem spWrites_spBuf (c : Core) (ps : List (Nat × List Byte)) :
    ∃ buf, ps.foldl (fun c p => c.spWrite .transfer p.1 p.2) c = { c with spBuf := buf } ∧
      ∀ p ∈ ps, (Engine.transfer.rank, p.1, p.2) ∈ buf := by
  induction ps using List.reverseRecOn with
  | nil => exact ⟨_, rfl, fun _ => nofun⟩
  | append_singleton ps p ih =>
    obtain ⟨buf, hbuf, hmem⟩ := ih
    rw [List.foldl_append, hbuf]
    refine ⟨_, rfl, fun q hq => ?_⟩
    rcases List.mem_append.mp hq with hq | hq
    · exact List.mem_append_left _ (hmem q hq)
    · rw [List.mem_singleton.mp hq]
      exact List.mem_append_right _ (List.mem_singleton_self _)

/-- A landing puts the pieces whose granules are not in use, and answers the first that it drops (R216). -/
theorem land_cases (c : Core) (tick a : Nat) (bs : List Byte) :
    (∃ buf busy, (c.land tick a bs).1 = { c with spBuf := buf, spBusy := busy } ∧
      ∀ p ∈ landPieces a bs, c.granuleUsed p.1 = false → (Engine.transfer.rank, p.1, p.2) ∈ buf) ∧
    (c.land tick a bs).2 = ((landPieces a bs).find? (fun p => c.granuleUsed p.1)).map (fun p => p.1) := by
  have hpart : (landPieces a bs).partition (fun p => c.granuleUsed p.1) =
      ((landPieces a bs).filter (fun p => c.granuleUsed p.1), (landPieces a bs).filter (fun p => !c.granuleUsed p.1)) := by
    rw [List.partition_eq_filter_filter]
    rfl
  obtain ⟨buf, hbuf, hmem⟩ := spWrites_spBuf c ((landPieces a bs).filter (fun p => !c.granuleUsed p.1))
  unfold Core.land
  dsimp only
  rw [← landPieces, hpart]
  dsimp only
  rw [hbuf]
  refine ⟨⟨buf, _, rfl, fun p hp hu => hmem p (List.mem_filter.mpr ⟨hp, by rw [hu]; rfl⟩)⟩, ?_⟩
  rw [List.head?_filter]

/-- The first piece dropped is the one at the lowest granule in use. -/
theorem find?_landPieces {c : Core} {a j : Nat} {bs : List Byte} (hj : j < (pieces 256 bs).length)
    (hu : c.granuleUsed (a + 256 * j) = true) (hfirst : ∀ i, i < j → ¬ c.granuleUsed (a + 256 * i) = true) :
    ((landPieces a bs).find? (fun p => c.granuleUsed p.1)).map (fun p => p.1) = some (a + 256 * j) := by
  have hget : ∀ i (hi : i < (pieces 256 bs).length), (landPieces a bs)[i]'(by simpa [landPieces] using hi) = (a + 256 * i, (pieces 256 bs)[i]) := by
    intro i hi
    simp [landPieces]
  have hfind : (landPieces a bs).find? (fun p => c.granuleUsed p.1) = some (a + 256 * j, (pieces 256 bs)[j]) := by
    rw [List.find?_eq_some_iff_getElem]
    refine ⟨hu, j, by simpa [landPieces] using hj, hget j hj, fun i hi => ?_⟩
    rw [hget i (by omega)]
    simpa using hfirst i hi
  rw [hfind]
  rfl

theorem find?_landPieces_none {c : Core} {a : Nat} {bs : List Byte} (h : ∀ j, j < (pieces 256 bs).length → ¬ c.granuleUsed (a + 256 * j) = true) :
    (landPieces a bs).find? (fun p => c.granuleUsed p.1) = none := by
  rw [List.find?_eq_none]
  intro p hp
  obtain ⟨⟨b, i⟩, hb, rfl⟩ := List.mem_map.mp hp
  exact h i (by simpa using List.snd_lt_of_mem_zipIdx hb)

section
variable {s : State} {k id c a : Nat} {x : XStep}

/-- The state after the pieces of a landing are put on core `c`, the step of core `k` as `y`. -/
def State.landedOn (s : State) (k c a : Nat) (bs : List Byte) (y : XStep) : State :=
  (s.setCore c ((s.core c).land (s.tickOf c) a bs).1).setStep k y

/-- A step after its landing on core `c`. -/
def XStep.landed (x : XStep) (c : Nat) (drop : Option Nat) : XStep :=
  { x with waiting := x.waiting.erase c, dropped := firstDrop x.dropped (drop.map (fun b => c * 2 ^ 21 + b)) }

/-- A landing changes what is to be read from the scratchpad of its core, and the step. -/
theorem landedOn_core (s : State) (k c a : Nat) (bs : List Byte) (y : XStep) :
    ∃ b : Core, ((s.landedOn k c a bs y).core k) = { (s.core k).setStep y with spBuf := b.spBuf, spBusy := b.spBusy } := by
  obtain ⟨⟨buf, busy, hland, -⟩, -⟩ := land_cases (s.core c) (s.tickOf c) a bs
  rw [State.landedOn, State.setStep_core, hland]
  by_cases h : k = c
  · subst h
    rw [State.core_setCore]
    exact ⟨{ s.core k with spBuf := buf, spBusy := busy }, rfl⟩
  · rw [State.core_setCore_ne _ _ _ _ h]
    exact ⟨s.core k, rfl⟩

theorem landedOn_step (hx : (s.core k).xstep? id = some x) {y : XStep} (hy : y.id = id) (bs : List Byte) :
    y ∈ ((s.landedOn k c a bs y).core k).xfr.steps := by
  obtain ⟨b, hcore⟩ := landedOn_core s k c a bs y
  rw [hcore]
  exact Core.mem_setStep (xstep?_mem hx) ((xstep?_id hx).trans hy.symm)

theorem landedOn_part (s : State) (k c a : Nat) (bs : List Byte) (y : XStep) :
    ((s.landedOn k c a bs y).core k).part = (s.core k).part ∧ (s.landedOn k c a bs y).tickOf k = s.tickOf k := by
  obtain ⟨b, hcore⟩ := landedOn_core s k c a bs y
  have hpart : ((s.landedOn k c a bs y).core k).part = (s.core k).part := (congrArg Core.part hcore :)
  exact ⟨hpart, by rw [State.tickOf, State.tickOf, hpart]; rfl⟩

/-- A step that fails stands in flight with its failure. -/
theorem mem_stepFails {t : State} {y : XStep} (h : y ∈ (t.core k).xfr.steps) (b : BadSector) :
    { y with bad := y.bad ++ [b] } ∈ ((t.stepFails k y b).core k).xfr.steps := by
  rw [State.stepFails, State.setStep_core]
  exact Core.mem_setStep h rfl

/-- A replaced step leaves what is to be read from a scratchpad. -/
theorem setStep_spBuf (s : State) (k j : Nat) (y : XStep) : ((s.setStep k y).core j).spBuf = (s.core j).spBuf := by
  by_cases h : j = k
  · subst h
    rw [State.setStep_core]
    rfl
  · rw [State.setStep_core_ne _ _ _ _ h]

theorem landedOn_spBuf (s : State) (k c a : Nat) (bs : List Byte) (y : XStep) :
    ∀ p ∈ (pieces 256 bs).zipIdx, (s.core c).granuleUsed (a + 256 * p.2) = false →
      (Engine.transfer.rank, a + 256 * p.2, p.1) ∈ ((s.landedOn k c a bs y).core c).spBuf := by
  obtain ⟨⟨buf, busy, hland, hmem⟩, -⟩ := land_cases (s.core c) (s.tickOf c) a bs
  intro p hp hu
  rw [State.landedOn, setStep_spBuf, State.core_setCore, hland]
  exact hmem (a + 256 * p.2, p.1) (List.mem_map.mpr ⟨p, hp, rfl⟩) hu

section
variable (hx : (s.core k).xstep? id = some x) (hrun : (s.core c).run = .running) (hsrc : x.src = .spad a)
include hx hrun hsrc

theorem landing_writes (hw : (s.core c).writesIn a x.got.length = true) :
    s.landing k id c = s.atTick (engAt k .transfer) (s.tickOf k + 1) (.multicastLanding k id c) := by
  simp only [State.landing, hx, hrun, hsrc, hw, ne_eq, not_true, if_false, if_true]

variable (hw : (s.core c).writesIn a x.got.length = false)
include hw

theorem landing_more (hmore : x.waiting.erase c ≠ []) :
    s.landing k id c = s.landedOn k c a x.got (x.landed c ((s.core c).land (s.tickOf c) a x.got).2) := by
  simp only [State.landing, hx, hrun, hsrc, hw, ne_eq, not_true, if_false, Bool.false_eq_true, hmore, not_false_eq_true, if_true]
  simp only [State.landedOn, XStep.landed, hsrc]

/-- The last landing completes the step, when nothing was dropped. -/
theorem landing_last (hlast : x.waiting.erase c = []) (hdrop : x.dropped = none) (hnone : ((s.core c).land (s.tickOf c) a x.got).2 = none) :
    s.landing k id c = (s.landedOn k c a x.got (x.landed c none)).endStep k id := by
  simp only [State.landing, hx, hrun, hsrc, hw, ne_eq, not_true, if_false, Bool.false_eq_true, hlast, hdrop, hnone, Option.map_none, firstDrop]
  simp only [State.landedOn, XStep.landed, hsrc, hlast, hdrop, Option.map_none, firstDrop]

/-- The last landing fails the step at the first piece dropped (R216). -/
theorem landing_drops (hlast : x.waiting.erase c = []) (hdrop : x.dropped = none) {b : Nat}
    (hb : ((s.core c).land (s.tickOf c) a x.got).2 = some b) :
    s.landing k id c = (s.landedOn k c a x.got (x.landed c (some b))).stepFails k (x.landed c (some b))
      ((s.landedOn k c a x.got (x.landed c (some b))).badNow k 0x0D 0 1 ((c * 2 ^ 21 + b) % 2 ^ 21)) := by
  simp only [State.landing, hx, hrun, hsrc, hw, ne_eq, not_true, if_false, Bool.false_eq_true, hlast, hdrop, hb, Option.map_some, firstDrop]
  simp only [State.landedOn, XStep.landed, hsrc, hlast, hdrop, Option.map_some, firstDrop]

end

/-- The last landing of a step in whose granules nothing was dropped before (R216). -/
theorem landing_last_clause (hx : (s.core k).xstep? id = some x) (hrun : (s.core c).run = .running) (hsrc : x.src = .spad a)
    (hw : (s.core c).writesIn a x.got.length = false) (hlast : x.waiting = [c]) (hdrop : x.dropped = none) :
    let t := s.landing k id c
    let used (j : Nat) : Prop := (s.core c).granuleUsed (a + 256 * j) = true
    let n := (pieces 256 x.got).length
    SameMems s t ∧
    (∀ p ∈ (pieces 256 x.got).zipIdx, (s.core c).granuleUsed (a + 256 * p.2) = false →
      (Engine.transfer.rank, a + 256 * p.2, p.1) ∈ (t.core c).spBuf) ∧
    ((∀ j, j < n → ¬ used j) → t.agenda = .event (engAt k .transfer) (.stepComplete k id) :: s.agenda) ∧
    (∀ j, j < n → used j → (∀ i, i < j → ¬ used i) → t.agenda = s.agenda ∧ ∃ y ∈ (t.core k).xfr.steps, y.id = id ∧
      y.bad = x.bad ++ [{ at_ := s.tickOf k, walk := 0, sector := 0, cause := 0x0D, why := 0, acc := 1,
                          addr := (a + 256 * j) % 2 ^ 21 }]) := by
  intro t used n
  have herase : x.waiting.erase c = [] := by rw [hlast, List.erase_cons_head]
  obtain ⟨-, hland⟩ := land_cases (s.core c) (s.tickOf c) a x.got
  have hid := xstep?_id hx
  have hspad := fun y => landedOn_spBuf s k c a x.got y
  cases hb : ((s.core c).land (s.tickOf c) a x.got).2 with
  | none =>
    have ht : t = _ := landing_last hx hrun hsrc hw herase hdrop hb
    rw [ht]
    refine ⟨⟨rfl, rfl⟩, hspad _, fun _ => rfl, fun j hj hu hfirst => ?_⟩
    rw [hland, find?_landPieces hj hu hfirst] at hb
    cases hb
  | some b =>
    have ht : t = _ := landing_drops hx hrun hsrc hw herase hdrop hb
    rw [ht]
    refine ⟨⟨rfl, rfl⟩, fun p hp hu => ?_, fun hnone => ?_, fun j hj hu hfirst => ⟨rfl, ?_⟩⟩
    · rw [State.stepFails, setStep_spBuf]
      exact hspad _ p hp hu
    · rw [hland, find?_landPieces_none hnone] at hb
      cases hb
    · rw [hland, find?_landPieces hj hu hfirst] at hb
      obtain rfl := Option.some.inj hb
      have hstep := landedOn_step (c := c) (a := a) hx (y := x.landed c (some (a + 256 * j))) hid x.got
      refine ⟨_, mem_stepFails hstep _, hid, ?_⟩
      simp only [State.badNow, (landedOn_part s k c a x.got _).2, XStep.landed, Nat.mul_add_mod_self_right]

end

end Sys2Proof.Machine
end

section
/-! The answers of a window's peer, and page faults (R217, R329). -/

namespace Sys2Proof.Machine

open Sys2Proof

section
variable {s : State} {k id : Nat} {x : XStep}

/-! ## Windows (R329) -/

/-- No write of the step at a peer is on its way any more. -/
theorem peerAnswered_posted (s : State) (k id : Nat) :
    ∀ e ∈ (s.peerAnswered k id).links, ∀ w ∈ e.2.posted, w.core = k → w.step ≠ id := by
  intro e he w hw hcore hstep
  obtain ⟨e', -, rfl⟩ := List.mem_map.mp he
  have := (List.mem_filter.mp hw).2
  simp [hcore, hstep] at this

section
variable (hx : (s.core k).xstep? id = some x) (hstage : x.stage = .committed) (hw : x.windowed = true)
include hx hstage hw

theorem execPortWindowCommit_refused (hev : s.ev = .portWindowCommit k id false) :
    exec .portWindowCommit s = .next ((s.peerAnswered k id).setStep k { x with
      bad := x.bad ++ [{ at_ := s.tickOf k, walk := 0, sector := 0, cause := 0x09, why := 0, acc := 1, addr := 0 }] }) := by
  have hgo : exec .portWindowCommit s = .next ((s.peerAnswered k id).stepFault k x 0x09 0) := by
    simp only [exec, execPortWindowCommit, hev, hx, hstage, hw, ne_eq, not_true, Bool.not_true, Bool.false_eq_true, or_self, if_false,
      Bool.not_false, if_true]
  exact hgo

theorem execPortWindowCommit_taken (hev : s.ev = .portWindowCommit k id true)
    (ht : (s.part (s.core k).part).fl = false ∨ x.done ≤ s.tickOf k) :
    exec .portWindowCommit s = .next ((s.peerAnswered k id).endStep k id) := by
  have hlate : ¬ ((s.part (s.core k).part).fl = true ∧ s.tickOf k < x.done) := fun ⟨hfl, hlt⟩ => by
    rcases ht with h | h
    · rw [h] at hfl
      cases hfl
    · omega
  simp only [exec, execPortWindowCommit, hev, hx, hstage, hw, ne_eq, not_true, Bool.not_true, Bool.false_eq_true, or_self, if_false,
    hlate]

theorem execPortWindowCommit_early (hev : s.ev = .portWindowCommit k id true) (hfl : (s.part (s.core k).part).fl = true)
    (ht : s.tickOf k < x.done) :
    exec .portWindowCommit s = .next ((s.peerAnswered k id).atTick (engAt k .transfer) x.done (.stepComplete k id)) := by
  simp only [exec, execPortWindowCommit, hev, hx, hstage, hw, ne_eq, not_true, Bool.not_true, Bool.false_eq_true, or_self, if_false,
    hfl, ht, and_self, if_true]

end

/-! ## Page faults (R217) -/

/-- A page that is not present parks its step. -/
theorem fateOf_page {unit : Nat} (h : unit ≠ 0) : fateOf false 0x08 unit true = .parks := by
  simp [fateOf, h]

/-- A task's fault at a sector that parks its step is recorded, and nothing else of the core but the task's own place of it changes. -/
theorem takeFault_parks {r : TaskRef} {f : FaultInfo} (hocc : (s.taskOf r).occupied = true) (hend : (s.taskOf r).ended = false)
    (hfate : fateOf (s.taskOf r).trapMode f.cause f.unit true = .parks)
    (hroom : (s.part (s.core r.core).part).hasRoom 0 = true) :
    ∃ u, s.takeFault r f true = (s.appendRecord (s.core r.core).part (s.taskRecord r f true)).setTaskOf r u := by
  simp only [State.takeFault, hocc, hend, hfate, hroom, Bool.not_true, Bool.or_self, Bool.false_eq_true, if_false]
  exact ⟨_, rfl⟩

theorem setStep_taskOf (s : State) (k : Nat) (y : XStep) (i : Fin 4) :
    (s.setStep k y).taskOf { core := k, slot := i } = (s.core k).task i := by
  rw [State.taskOf, State.setStep_core]
  rfl

/-- A step parked at its failure (R217). -/
def XStep.park (x : XStep) (tick : Nat) : XStep := { x with stage := .parked, parkedAt := tick }

theorem execSectorPageFault_eq (hx : (s.core k).xstep? id = some x) (hev : s.ev = .sectorPageFault k id) (hstage : x.stage = .working)
    {b : BadSector} (hb : x.dueBad (s.tickOf k) = some b) :
    exec .sectorPageFault s = .next ((s.setStep k (x.park (s.tickOf k))).takeFault { core := k, slot := x.slot } (x.fault b) true) := by
  simp only [exec, execSectorPageFault, hev, hx, hstage, hb]
  simp only [XStep.park]

theorem sectorPageFault_clause (hx : (s.core k).xstep? id = some x) (hev : s.ev = .sectorPageFault k id) (hstage : x.stage = .working)
    {b : BadSector} (hb : x.dueBad (s.tickOf k) = some b) (hcause : b.cause = 0x08) (hg : x.isGather = false)
    (htrap : ((s.core k).task x.slot).trapMode = false) (hocc : ((s.core k).task x.slot).occupied = true)
    (hend : ((s.core k).task x.slot).ended = false) (hroom : (s.part (s.core k).part).hasRoom 0 = true) :
    ∃ t y q, exec .sectorPageFault s = .next t ∧ SameMems s t ∧ y ∈ (t.core k).xfr.steps ∧ y.id = id ∧ y.stage = .parked ∧
      y.parkedAt = s.tickOf k ∧ (t.part (s.core k).part).records = (s.part (s.core k).part).records ++ [q] ∧ q.cause = 0x08 ∧
      q.unit = 3 ∧ q.res = true ∧ q.addr = BitVec.ofNat 64 b.addr ∧ q.loc = BitVec.ofNat 48 x.upc.toNat := by
  let s1 := s.setStep k (x.park (s.tickOf k))
  let r : TaskRef := { core := k, slot := x.slot }
  have hunit : (x.fault b).unit = 3 := by rw [XStep.fault, XStep.unit, hg]; rfl
  have htask : s1.taskOf r = (s.core k).task x.slot := setStep_taskOf ..
  obtain ⟨hpart, -⟩ := setStep_part s k (x.park (s.tickOf k))
  obtain ⟨u, htake⟩ := takeFault_parks (s := s1) (r := r) (f := x.fault b) (by rw [htask, hocc]) (by rw [htask, hend])
    (by rw [htask, htrap, show (x.fault b).cause = 0x08 from hcause, hunit]; exact fateOf_page (by decide))
    (by rw [show (s1.core r.core).part = (s.core k).part from hpart]; exact hroom)
  rw [show (s1.core r.core).part = (s.core k).part from hpart] at htake
  refine ⟨_, x.park (s.tickOf k), s1.taskRecord r (x.fault b) true, execSectorPageFault_eq hx hev hstage hb, ?_, ?_, (xstep?_id hx : x.id = id), rfl,
    rfl, ?_, ?_, ?_, rfl, rfl, rfl⟩
  · rw [htake]
    exact ⟨rfl, rfl⟩
  · rw [htake, State.setTaskOf, State.core_setCore]
    exact State.mem_setStep hx rfl
  · rw [htake]
    exact congrArg Part.records (Tbl.getD_set_self ..)
  · exact congrArg (BitVec.ofNat 8) hcause
  · exact congrArg (BitVec.ofNat 3) hunit

/-- A parked step goes on where it stood (R217). -/
theorem stepResume_clause (hx : (s.core k).xstep? id = some x) (hev : s.ev = .stepResume k id) (hstage : x.stage = .parked)
    (htargets : x.targets = []) :
    ∃ t y, exec .stepResume s = .next t ∧ OnlyCoreJobs k s t ∧ y ∈ (t.core k).xfr.steps ∧ y.id = id ∧ y.stage = .working ∧ y.bad = [] ∧
      y.waited = x.waited + (s.tickOf k - x.parkedAt) ∧ y.parts = x.parts ∧ y.sector = x.sector := by
  let y : XStep := { x.resume (s.tickOf k) with targets := [], old := false }
  have hy : y.id = id ∧ y.stage = .working ∧ y.bad = [] ∧ y.waited = x.waited + (s.tickOf k - x.parkedAt) ∧ y.parts = x.parts ∧
      y.sector = x.sector ∧ (x.resume (s.tickOf k)).targets = [] := by
    simp only [y, XStep.resume, hstage, if_true]
    exact ⟨xstep?_id hx, trivial, trivial, trivial, trivial, trivial, htargets⟩
  obtain ⟨hid, hworks, hbad, hwaited, hparts, hsector, hnone⟩ := hy
  have hretarget : s.retarget k (x.resume (s.tickOf k)) = .ok [] := by
    rw [State.retarget, hnone]
    rfl
  have honly : OnlyCoreJobs k s (s.setStep k y) := (OnlyCoreJobs.refl k s).setStep y
  have hmem : y ∈ ((s.setStep k y).core k).xfr.steps := State.mem_setStep hx (hid.trans (xstep?_id hx).symm)
  have hexec : exec .stepResume s = .next (if x.stage = .parked ∧ !(x.resume (s.tickOf k)).moves then
      (s.setStep k y).now (engAt k .transfer) (.shadowFilled k id) else s.setStep k y) := by
    simp only [exec, execStepResume, hev, hx, hretarget]
    rfl
  by_cases hm : x.stage = .parked ∧ (!(x.resume (s.tickOf k)).moves) = true
  · rw [if_pos hm] at hexec
    exact ⟨_, y, hexec, honly.now _ _, hmem, hid, hworks, hbad, hwaited, hparts, hsector⟩
  · rw [if_neg hm] at hexec
    exact ⟨_, y, hexec, honly, hmem, hid, hworks, hbad, hwaited, hparts, hsector⟩

end

end Sys2Proof.Machine
end

section
/-! The claim of a tile, the rows of a gather (R214, R318), and the clauses of O53. -/

namespace Sys2Proof.Machine

open Sys2Proof

/-! ## Tiles (R214) -/

/-- Core `k` has a step `n` in flight, and its tile is claimed. -/
def Core.Claims (c : Core) (n : Nat) : Prop := (∃ y ∈ c.xfr.steps, y.id = n) ∧ ∀ y ∈ c.xfr.steps, y.id = n → y.claimed = true

/-- A replaced step that is not step `n`, or whose tile is claimed, leaves the claim of step `n`. -/
theorem Core.Claims.setStep {c : Core} {n : Nat} (h : c.Claims n) {z : XStep} (hz : z.id = n → z.claimed = true) : (c.setStep z).Claims n := by
  obtain ⟨⟨y, hy, hyn⟩, hall⟩ := h
  refine ⟨⟨if y.id = z.id then z else y, List.mem_map.mpr ⟨y, hy, rfl⟩, ?_⟩, fun w hw hwn => ?_⟩
  · split
    next he => exact he.symm.trans hyn
    next => exact hyn
  · obtain ⟨v, hv, rfl⟩ := List.mem_map.mp hw
    by_cases he : v.id = z.id
    · rw [if_pos he] at hwn ⊢
      exact hz hwn
    · rw [if_neg he] at hwn ⊢
      exact hall v hv hwn

/-- A step whose tile has been claimed claims it in its core. -/
theorem claims_claimed {c : Core} {x : XStep} (hx : x ∈ c.xfr.steps) : (c.setStep { x with claimed := true }).Claims x.id := by
  refine ⟨⟨_, Core.mem_setStep hx rfl, rfl⟩, fun w hw hwn => ?_⟩
  obtain ⟨v, hv, rfl⟩ := List.mem_map.mp hw
  by_cases he : v.id = x.id
  · rw [if_pos he]
  · rw [if_neg he] at hwn
    exact absurd hwn he

/-- What the beginning of publishes changes: what acts next, and of steps that publish together their stage. -/
theorem beginPublish_claims {s t : State} {k n : Nat} (hjobs : OnlyCoreJobs k s t) (hclaims : (t.core k).Claims n) (x : XStep) :
    OnlyCoreJobs k s (t.beginPublish k x) ∧ ((t.beginPublish k x).core k).tt = (t.core k).tt ∧ ((t.beginPublish k x).core k).Claims n := by
  have hpubs : ∀ (xs : List XStep) (u : State), (∀ z ∈ xs, z.id = n → z.claimed = true) → OnlyCoreJobs k s u → (u.core k).tt = (t.core k).tt →
      (u.core k).Claims n → let v := xs.foldl (fun s z => s.setStep k { z with stage := .filled }) u
      OnlyCoreJobs k s v ∧ (v.core k).tt = (t.core k).tt ∧ (v.core k).Claims n := by
    intro xs
    induction xs with
    | nil => exact fun u _ hj ht hc => ⟨hj, ht, hc⟩
    | cons z xs ih =>
      intro u hxs hj ht hc
      refine ih _ (fun w hw => hxs w (List.mem_cons_of_mem _ hw)) (hj.setStep _) ?_ ?_
      · rw [State.setStep_core]
        exact ht
      · rw [State.setStep_core]
        exact hc.setStep (hxs z (List.mem_cons_self ..))
  unfold State.beginPublish
  split
  · obtain ⟨hj, ht, hc⟩ := hpubs ((t.core k).xfr.steps.filter (t.core k).pubReady) t
      (fun z hz => hclaims.2 z (List.mem_of_mem_filter hz)) hjobs rfl hclaims
    exact ⟨hj.soon _, ht, hc⟩
  · split
    · exact ⟨hjobs, rfl, hclaims⟩
    · split
      · exact ⟨hjobs.now _ _, rfl, hclaims⟩
      · exact ⟨hjobs.now _ _, rfl, hclaims⟩
      all_goals exact ⟨hjobs, rfl, hclaims⟩

/-- An empty tile goes to its oldest queued fill. -/
theorem tileClaim_clause {s : State} {k : Nat} {u : TtReg} {x : XStep} (hev : s.ev = .tileClaim k u)
    (hempty : (vget (s.core k).tt u).st = .empty) (hx : (s.core k).oldestFill u = some x) :
    ∃ t, exec .tileClaim s = .next t ∧ OnlyCoreJobs k s t ∧
      vget (t.core k).tt u = { vget (s.core k).tt u with st := .filling, fq := (vget (s.core k).tt u).fq - 1 } ∧
      ∃ y ∈ (t.core k).xfr.steps, y.id = x.id ∧ y.claimed = true := by
  let c1 : Core := { (s.core k).setStep { x with claimed := true } with
    tt := vset (s.core k).tt u { vget (s.core k).tt u with st := .filling, fq := (vget (s.core k).tt u).fq - 1 } }
  have hexec : exec .tileClaim s = .next ((s.setCore k c1).beginPublish k { x with claimed := true }) := by
    simp only [exec, execTileClaim, hev, hx, hempty, if_true]
    rfl
  have hcore : (s.setCore k c1).core k = c1 := State.core_setCore ..
  have hclaims : c1.Claims x.id := claims_claimed (List.mem_of_find?_eq_some hx)
  obtain ⟨hjobs, htt, ⟨y, hy, hyn⟩, hall⟩ := beginPublish_claims (n := x.id) ((OnlyCoreJobs.refl k s).setCore c1) (by rwa [hcore])
    { x with claimed := true }
  refine ⟨_, hexec, hjobs, ?_, y, hy, hyn, hall y hy hyn⟩
  rw [htt, hcore]
  exact vget_vset ..

/-! ## Rows of a gather (R318) -/

section
variable {s : State} {k id : Nat} {r : PickRow}

/-- The die of a core with a row's slot free again. -/
def State.freeRow (s : State) (k id : Nat) : State :=
  s.setDie (dieOf k) { s.die (dieOf k) with rows := (s.die (dieOf k)).rows.filter (fun y => y.id != id) }

theorem freeRow_rows (s : State) (k id : Nat) : ∀ y ∈ ((s.freeRow k id).die (dieOf k)).rows, y.id ≠ id := by
  intro y hy
  have hrows : ((s.freeRow k id).die (dieOf k)).rows = (s.die (dieOf k)).rows.filter (fun y => y.id != id) :=
    congrArg Die.rows (Tbl.getD_set_self ..)
  rw [hrows] at hy
  exact bne_iff_ne.mp (List.mem_filter.mp hy).2

section
variable (hev : s.ev = .pickerRowDelivery k id) (hr : (s.die (dieOf k)).rows.find? (fun r => r.id == id) = some r)
include hev hr

theorem rowDelivery_gone (hgone : r.gone = true) : exec .pickerRowDelivery s = .next (s.freeRow k id) := by
  simp only [exec, execPickerRowDelivery, hev, State.rowDelivered, hr, hgone, if_true]
  rfl

theorem rowDelivery_bag (hgone : r.gone = false) (hstep : r.step = none) :
    exec .pickerRowDelivery s = .next ((s.freeRow k id).now (engAt k .matrix) (.bagRowArrival k r.pos r.res)) := by
  simp only [exec, execPickerRowDelivery, hev, State.rowDelivered, hr, hgone, hstep, Bool.false_eq_true, if_false]
  rfl

theorem rowDelivery_step {n : Nat} (hgone : r.gone = false) (hstep : r.step = some n) :
    exec .pickerRowDelivery s = .next ((s.freeRow k id).gatherRow k n r.pos r.res) := by
  simp only [exec, execPickerRowDelivery, hev, State.rowDelivered, hr, hgone, hstep, Bool.false_eq_true, if_false]
  rfl

end

/-- A fill that is scheduled changes the time at which its step is done. -/
theorem scheduleFill_step (t : State) (k : Nat) (x : XStep) :
    ∃ d, (t.scheduleFill k x).core k = (t.core k).setStep { x with done := d } ∧ (t.scheduleFill k x).dies = t.dies ∧
      SameMems t (t.scheduleFill k x) := ⟨_, State.setStep_core .., rfl, rfl, rfl⟩

/-- The row's bytes go to its step, which is filled with its last row (R208). -/
theorem gatherRow_bytes {t : State} {n pos : Nat} {x : XStep} {bs : List Byte} (hx : (t.core k).xstep? n = some x) :
    ∃ y, SameMems t (t.gatherRow k n pos (.bytes bs)) ∧ (t.gatherRow k n pos (.bytes bs)).dies = t.dies ∧
      y ∈ ((t.gatherRow k n pos (.bytes bs)).core k).xfr.steps ∧ y.id = n ∧ Tbl.get? y.parts pos = some bs ∧ y.sector = x.sector + 1 := by
  let x1 : XStep := { x with parts := Tbl.set x.parts pos bs, sector := x.sector + 1 }
  have hid := xstep?_id hx
  have hmem := State.mem_setStep hx (y := x1) rfl
  have hgather : t.gatherRow k n pos (.bytes bs) = if x1.rowsIn then (t.setStep k x1).scheduleFill k x1 else t.setStep k x1 := by
    simp only [State.gatherRow, hx]
    rfl
  rw [hgather]
  split
  · obtain ⟨d, hcore, hdies, hmems⟩ := scheduleFill_step (t.setStep k x1) k x1
    refine ⟨{ x1 with done := d }, hmems, hdies, ?_, hid, Tbl.get?_set_self .., rfl⟩
    rw [hcore]
    exact Core.mem_setStep hmem rfl
  · exact ⟨x1, ⟨rfl, rfl⟩, rfl, hmem, hid, Tbl.get?_set_self .., rfl⟩

end

/-! ## The clauses of O53 -/

/-- The line of a reduction that nothing holds is free to its step. -/
theorem linesSay_unheld {s : State} {k id l : Nat} (hp : (s.line l).pinnedAgainst k = false) (hr : (s.line l).resv = none) :
    s.linesSay k (some id) [l] = .free := linesSay_open ⟨hp, .inl hr⟩

theorem execXredLineApply_eq {s : State} {k id l : Nat} {x : XStep} (hx : (s.core k).xstep? id = some x)
    (hev : s.ev = .xredLineApply k id l) : exec .xredLineApply s = .next (s.redLine k x l) := by
  simp only [exec, execXredLineApply, hev, hx]

theorem execMulticastLanding_eq {s : State} {k id c : Nat} (hev : s.ev = .multicastLanding k id c) :
    exec .multicastLanding s = .next (s.landing k id c) := by
  simp only [exec, execMulticastLanding, hev]

/-- A core among others that wait leaves some of them. -/
theorem erase_ne_nil {ws : List Nat} {c : Nat} (hc : c ∈ ws) (hws : ws ≠ [c]) : ws.erase c ≠ [] := by
  cases ws with
  | nil => cases hc
  | cons w ws =>
    by_cases h : w = c
    · subst h
      rw [List.erase_cons_head]
      exact fun he => hws (by rw [he])
    · rw [List.erase_cons_tail (by simpa using h)]
      exact List.cons_ne_nil _ _

/-- Settles O53: each other event of a step in flight does what its clause says. -/
theorem stepEvents : Obligations.StepEvents := by
  unfold Obligations.StepEvents
  intro s k id who
  refine ⟨fun x hx => ⟨fun l op sg hev hd hl hp hresv hr ha => ?_, fun c a hev hrun hsrc hw => ?_, fun c a hev hrun hsrc hlast hw hdrop => ?_,
    fun c a hev hrun hsrc hmore hw hc _ => ?_, fun ok hev hstage hwin => ?_, fun b hev hstage hb hcause hg htrap hocc hend hroom => ?_,
    stepResume_clause hx⟩, fun u x hev hempty hx => tileClaim_clause hev hempty hx, fun r hev hr => ⟨fun hgone => ?_, fun hgone hstep => ?_,
    fun n x bs hgone hstep hx hres _ => ?_⟩⟩
  · have hs := linesSay_unheld (id := x.id) hp hresv
    refine ⟨_, execXredLineApply_eq hx hev, redLine_outside hd hl hs ha, fun e he hlt => ?_⟩
    have hmem : e ∈ x.redElems.filter (fun e => lineOf e.1 == l) := he ▸ List.mem_singleton_self e
    obtain ⟨hmem, hel⟩ := List.mem_filter.mp hmem
    dsimp only
    rw [redLine_value hd hl hs hr he (ha e hmem (beq_iff_eq.mp hel))]
    exact (redValue_mod op sg (leNat_lt_load s.mem e.1 4) hlt).trans (by cases op <;> rfl)
  · rw [execMulticastLanding_eq hev, landing_writes hx hrun hsrc hw]
  · exact ⟨_, execMulticastLanding_eq hev, landing_last_clause hx hrun hsrc hw hlast hdrop⟩
  · rw [execMulticastLanding_eq hev, landing_more hx hrun hsrc hw (erase_ne_nil hc hmore)]
    have hid : (x.landed c ((s.core c).land (s.tickOf c) a x.got).2).id = id := (xstep?_id hx : x.id = id)
    exact ⟨_, _, rfl, ⟨rfl, rfl⟩, landedOn_step hx hid x.got, hid, rfl, landedOn_spBuf s k c a x.got _⟩
  · have hposted := peerAnswered_posted s k id
    refine ⟨?_, ?_, ?_⟩
    · rintro rfl
      exact ⟨_, _, execPortWindowCommit_refused hx hstage hwin hev, ⟨rfl, rfl⟩, hposted, rfl, State.mem_setStep (s := s.peerAnswered k id) hx rfl,
        (xstep?_id hx : x.id = id), rfl⟩
    · rintro rfl ht
      exact ⟨_, execPortWindowCommit_taken hx hstage hwin hev ht, hposted, rfl⟩
    · rintro rfl hfl ht
      exact ⟨_, execPortWindowCommit_early hx hstage hwin hev hfl ht, hposted, rfl⟩
  · exact sectorPageFault_clause hx hev hstage hb hcause hg htrap hocc hend hroom
  · exact rowDelivery_gone hev hr hgone
  · exact ⟨_, rowDelivery_bag hev hr hgone hstep, freeRow_rows s k id, rfl⟩
  · rw [rowDelivery_step hev hr hgone hstep, hres]
    obtain ⟨y, hmems, hdies, hy, hyn, hparts, hsector⟩ := gatherRow_bytes (t := s.freeRow k id) (pos := r.pos) (bs := bs) hx
    have hdie : ((s.freeRow k id).gatherRow k n r.pos (.bytes bs)).die (dieOf k) = (s.freeRow k id).die (dieOf k) := by
      rw [State.die, State.die, hdies]
    exact ⟨_, y, rfl, hmems, hdie ▸ freeRow_rows s k id, hy, hyn, hparts, hsector⟩

end Sys2Proof.Machine
end
